-- ==== Sys2Proof/Word.lean ====
section
/-! DEFINITION. The words of the machine: 64-bit words, bytes, lines of 64 bytes, vector-register and
mask-register images. Only names; every operation on them stands under `Machine/`. -/

namespace Sys2Proof

/-- A 64-bit word: a g register, a program counter, an address (R57, R64). -/
abbrev Word := BitVec 64

/-- A byte of memory. -/
abbrev Byte := BitVec 8

/-- A 64-byte line; byte k is bits 8k+7 .. 8k (R7, R54). -/
abbrev LineBits := BitVec 512

/-- The image of the largest vector register: 131,072 bits (R122). A register of `VNREG` declared registers
uses the low 1,048,576 / VNREG bits. -/
abbrev VBits := BitVec 131072

/-- A mask register: one bit per element, 21,845 elements (R131). -/
abbrev MaskBits := BitVec 21845

end Sys2Proof
end

