-- ==== Sys2Proof/Syntax.lean ====
section
/-! DEFINITION. Syntax: one constructor of `Instr` per row of spec/opcode_table.json. A constructor of an
instruction row carries the fields of its encoding family (R70 to R81), each as its field map names it,
reserved bits included: which values the checks of R85 refuse is said in `WellFormed.lean`. A constructor of
an event row (a step of a part that fetches no instruction, spec/95) carries what tells which step it is. -/

namespace Sys2Proof

/-- The kinds of sequencer (R82). -/
inductive SeqKind where
  | vc | mx | ce | cc
  deriving DecidableEq, Repr

/-- A worker: its context number, its launch slot and its worker id (R14, R26, R184). -/
structure WKey where
  ctx : Nat
  slot : Nat
  wid : Nat
  deriving DecidableEq, Repr, Inhabited

/-- An engine context (R12): a control core, a worker, or a context a worker forked, by its handle (R39). -/
inductive SeqId where
  | cc (n : Nat)
  | worker (w : WKey)
  | mx (w : WKey) (handle : Nat)
  | ce (w : WKey) (handle : Nat)
  deriving DecidableEq, Repr, Inhabited

/-- The conditions of BCC, WAITM, VWAIT and VCMP, codes 0 to 5 (R149). -/
inductive Cond where
  | eq | ne | lt | ge | ltn | gen
  deriving DecidableEq, Repr

/-- The conditions of VFCMP, codes 0 to 5 (R228). -/
inductive FCond where
  | eq | ne | lt | le | un | or
  deriving DecidableEq, Repr

/-- The operations of AMO and VAMO, codes 0 to 8 (R84). -/
inductive AmoOp where
  | add | and | or | xor | swap | min | max | minn | maxn
  deriving DecidableEq, Repr

/-- The operations of RED and VRED, codes 0 to 2 (R84). -/
inductive RedOp where
  | add | min | max
  deriving DecidableEq, Repr

/-- The operations of VREDS, codes 0 to 6 (R237). -/
inductive RedsOp where
  | osum | fsum | max | min | and | or | xor
  deriving DecidableEq, Repr

/-- What the recompute check of R260 and R261 meets on one vector instruction: whether the checked element
differs at the first comparison and again after the lane re-execution. Hardware faults are inputs. -/
inductive LaneCheck where
  | agree
  | once
  | twice
  | granule (reg block : Nat)
  deriving DecidableEq, Repr

/-- The consumers of module power (R3). -/
inductive Consumer where
  | compute (die : Nat)
  | base (die : Nat)
  | inPlace
  | lpddr
  | other
  deriving DecidableEq, Repr

/-- What brings the module up, or a part of it: the step in progress ends, `ok` when it has met its ends (R444); the
module is switched on again (R454); the management controller writes 1 to the CCRUN bit of a control core (R155). -/
inductive PowerAct where
  | step (ok : Bool)
  | module
  | core (n : Nat)
  deriving DecidableEq, Repr

/-- The moments of a channel's retraining (R449): its device's temperature has moved 10 °C since its last training, the
retraining starts, and it ends. -/
inductive RetrainPhase where
  | drift
  | start
  | finish
  deriving DecidableEq, Repr

/-- What a sender forms when its receiver takes a flit and none is on its way (R410): an idle flit, one of up to n records
that are ready, or a control flit. -/
inductive FlitForm where
  | idle
  | records (n : Nat)
  | control
  deriving DecidableEq, Repr

/-- What a receiver takes from a link: what its sender forms, and the bits that noise turns on the way (R410). -/
structure FlitTurn where
  form : FlitForm
  noise : BitVec 2048
  deriving DecidableEq, Repr

/-- A channel and the phase of its retraining (R449). -/
structure Retraining where
  channel : Nat
  phase : RetrainPhase
  deriving DecidableEq, Repr

/-- What a page-table walk is for: the access a sequencer is about to make, and what the TLB keeps of the walk, the leaf
(0) or a pointer entry of that level (R432, R433). -/
structure WalkUse where
  user : Option SeqId
  keep : Nat
  deriving DecidableEq, Repr

/-- A peer's write to a line of CXL memory: the bytes, and which of them (R343). -/
structure PeerWrite where
  line : Nat
  data : BitVec 512
  mask : BitVec 64
  deriving DecidableEq, Repr

/-- Whether a consumer is throttled, and whether its issue is held by it (R3, R448). -/
structure Throttle where
  on : Bool
  hold : Bool
  deriving DecidableEq, Repr

/-- F-N: the head field alone (R70). -/
structure FN where
  h : BitVec 7
  deriving DecidableEq, Repr

/-- F-RG: gd in H<4:0> (H<6:5> is part of the minor opcode), two sources with their mode bits (R71). -/
structure FRG where
  gd : BitVec 5
  ga : BitVec 5
  ma : Bool
  gb : BitVec 5
  mb : Bool
  deriving DecidableEq, Repr

/-- F-KS: gd in H<4:0>, a 16-bit constant (R72). -/
structure FKS where
  h : BitVec 7
  imm : BitVec 16
  deriving DecidableEq, Repr

/-- F-IM: H, the source ga with its mode bit, a 24-bit immediate (R73). -/
structure FIM where
  h : BitVec 7
  ga : BitVec 5
  ma : Bool
  imm : BitVec 24
  deriving DecidableEq, Repr

/-- The fields LEA reads in an F-IM tail (R73). -/
structure FLEA where
  h : BitVec 7
  ga : BitVec 5
  ma : Bool
  scale : BitVec 2
  gb : BitVec 5
  mb : Bool
  imm : BitVec 18
  deriving DecidableEq, Repr

/-- F-JP: H, SUB and the branch target (R74). In FORK, SUB is the variant and the constructor says it. -/
structure FJP where
  h : BitVec 7
  sub : Bool
  target : BitVec 31
  deriving DecidableEq, Repr

/-- F-TR: H, three sources with their mode bits, a 10-bit immediate (R75). -/
structure FTR where
  h : BitVec 7
  ga : BitVec 5
  ma : Bool
  gb : BitVec 5
  mb : Bool
  gc : BitVec 5
  mc : Bool
  imm : BitVec 10
  deriving DecidableEq, Repr

/-- F-V3: H, two sources, S, mask, element type, rounding, the reserved bits 31:29 (R76). -/
structure FV3 where
  h : BitVec 7
  va : BitVec 6
  ma : Bool
  vb : BitVec 6
  mb : Bool
  s : Bool
  mask : BitVec 3
  et : BitVec 4
  rnd : BitVec 2
  res : BitVec 3
  deriving DecidableEq, Repr

/-- F-V4: the F-V3 fields, the third source, the reserved bits 47:39 (R77). -/
structure FV4 where
  v : FV3
  vc : BitVec 6
  mc : Bool
  res : BitVec 9
  deriving DecidableEq, Repr

/-- F-VM: H, stream, mask, element type, MODE, fields minus one, stride register, index vector, reserved
bits 31:27 (R78). -/
structure FVM where
  h : BitVec 7
  q : BitVec 4
  mask : BitVec 3
  et : BitVec 4
  mode : BitVec 2
  nf1 : BitVec 3
  sreg : BitVec 5
  idx : BitVec 6
  res : BitVec 5
  deriving DecidableEq, Repr

/-- F-VX: the F-VM fields, vb with its mode bit, order, scope (R79). -/
structure FVX where
  m : FVM
  vb : BitVec 6
  mb : Bool
  ord : BitVec 2
  scope : BitVec 3
  deriving DecidableEq, Repr

/-- F-WI: H and a 48-bit immediate (R80). -/
structure FWI where
  h : BitVec 7
  imm : BitVec 48
  deriving DecidableEq, Repr

/-- F-CJ: H, two sources, the branch target, the reserved bits 15 and 47 (R81). -/
structure FCJ where
  h : BitVec 7
  ga : BitVec 5
  ma : Bool
  gb : BitVec 5
  mb : Bool
  r15 : Bool
  target : BitVec 31
  r47 : Bool
  deriving DecidableEq, Repr

/-- The instructions and events of the opcode table, one constructor per row. -/
inductive Instr where
  /-- NOP (R146). Does nothing and continues at the next PC. -/
  | nop (f : FN)
  /-- BR (R147). Jumps unconditionally to a branch target. -/
  | br (f : FJP)
  /-- BCC (R149). Compares two g registers under COND and branches to the target if the condition holds. -/
  | bcc (c : Cond) (f : FCJ)
  /-- JAL (R147). Writes the next PC to gd and jumps to the target. -/
  | jal (f : FJP)
  /-- JR (R148). Jumps to the PC held in ga and writes the link PC to gd. -/
  | jr (f : FRG)
  /-- LOOP (R150). Pushes a hardware loop entry with count gc, or goes to the exit PC when the count is zero. -/
  | loop (f : FIM)
  /-- ENDL (R151). Decrements the innermost loop entry, then branches back to the loop body or pops the entry. -/
  | endl (f : FN)
  /-- LIDX (R152). Reads the IDX of the loop entry k levels below the top into gd. -/
  | lidx (f : FIM)
  /-- TRAP (R153). Raises USER-TRAP with the code in EADDR. -/
  | trap (f : FIM)
  /-- ERET (R256). On a VC, restores the worker from its frame and returns it to U. -/
  | eret (f : FN)
  /-- ERET_K (R426). On a control core, returns to KSTAT.PPRIV at EPC on that privilege's bank. -/
  | eretK (f : FN)
  /-- HALT (R155). At K, stops the control core and clears its CCRUN bit; at U, ends the thread and traps to the kernel. -/
  | halt (f : FN)
  /-- SRD (R168). Reads a special or system register into gd. -/
  | srd (f : FIM)
  /-- SWR (R168). Writes gs into a special or system register that has no behaviour of its own. -/
  | swr (f : FIM)
  /-- XF_WRITE (R135). An SWR of XF that waits for the vector instruction queue to drain, then replaces the sticky flags. -/
  | xfWrite (f : FIM)
  /-- KPOST (R257). An SWR to KPOST, which saves vector state, writes RELEASE := 0, posts a record to the kernel fault queue and parks the worker. -/
  | kpost (f : FIM)
  /-- CCRUN (R427). A write of 1 to a CCRUN bit, which restarts a halted control core at its EPC. -/
  | ccrun (f : FIM)
  /-- CCTL (R429). A write to CCTL.ENABLE, which creates a context or disables it. -/
  | cctl (f : FIM)
  /-- RANGE_REGISTER_WRITE (R322). An SWR to CWBASE, CWLEN, CWSTORE or CWCTL, which is checked and then written on every base die that is not resigned. -/
  | rangeRegisterWrite (f : FIM)
  /-- CDLOSS (R332). An SWR to a codec counter, which sets BD0's count to the value written and zeroes the counts of the other dies. -/
  | cdloss (f : FIM)
  /-- CDREL (R445). A write to the compute-die release register, which brings up each newly released compute die. -/
  | cdrel (f : FIM)
  /-- FENCE (R169). Orders the issuer's accesses as an acquire, a release or both, at a scope. -/
  | fence (f : FIM)
  /-- WAITT (R170). Stalls until TIME is at least ga, then writes TIME to gd. -/
  | waitt (f : FRG)
  /-- WAITT_EXPIRY (R170). Device time reaches the target of a stalled WAITT, which completes. -/
  | waittExpiry (q : SeqId)
  /-- WAITM (R171). Reads a word at its home slice and returns when it meets the condition, otherwise parks. -/
  | waitm (f : FTR)
  /-- WAITM_WAKE (R171). A write to the watched line wakes a parked WAITM, which reads the word again. -/
  | waitmWake (q : SeqId)
  /-- WAITM_DEADLINE (R171). Device time reaches the deadline of a parked WAITM, which returns without acquiring. -/
  | waitmDeadline (q : SeqId)
  /-- ADD (R156). gd := ga + gb modulo 2^64. -/
  | add (f : FRG)
  /-- SUB (R156). gd := ga − gb modulo 2^64. -/
  | sub (f : FRG)
  /-- AND (R156). gd := the bitwise AND of ga and gb. -/
  | and (f : FRG)
  /-- OR (R156). gd := the bitwise OR of ga and gb. -/
  | or (f : FRG)
  /-- XOR (R156). gd := the bitwise XOR of ga and gb. -/
  | xor (f : FRG)
  /-- SHL (R156). gd := ga shifted left by gb<5:0>. -/
  | shl (f : FRG)
  /-- SHR (R156). gd := ga shifted right by gb<5:0>, filling with zeros. -/
  | shr (f : FRG)
  /-- SRA (R156). gd := ga shifted right by gb<5:0>, filling with copies of bit 63. -/
  | sra (f : FRG)
  /-- MUL (R156). gd := the low 64 bits of ga · gb. -/
  | mul (f : FRG)
  /-- MULH (R156). gd := the high 64 bits of the signed product of ga and gb. -/
  | mulh (f : FRG)
  /-- MULHN (R156). gd := the high 64 bits of the unsigned product of ga and gb. -/
  | mulhn (f : FRG)
  /-- DIV (R93). gd := the signed quotient of ga by gb, truncated toward zero; a zero divisor traps. -/
  | div (f : FRG)
  /-- DIVN (R93). gd := the unsigned quotient of ga by gb; a zero divisor traps. -/
  | divn (f : FRG)
  /-- REM (R93). gd := the signed remainder of ga by gb; a zero divisor traps. -/
  | rem (f : FRG)
  /-- REMN (R93). gd := the unsigned remainder of ga by gb; a zero divisor traps. -/
  | remn (f : FRG)
  /-- MIN (R156). gd := the signed minimum of ga and gb. -/
  | min (f : FRG)
  /-- MAX (R156). gd := the signed maximum of ga and gb. -/
  | max (f : FRG)
  /-- MINN (R156). gd := the unsigned minimum of ga and gb. -/
  | minn (f : FRG)
  /-- MAXN (R156). gd := the unsigned maximum of ga and gb. -/
  | maxn (f : FRG)
  /-- SLT (R156). gd := 1 if ga < gb as i64, else 0. -/
  | slt (f : FRG)
  /-- SLTN (R156). gd := 1 if ga < gb as n64, else 0. -/
  | sltn (f : FRG)
  /-- ADDI (R157). gd := ga plus a sign-extended 24-bit immediate. -/
  | addi (f : FIM)
  /-- ANDI (R157). gd := ga AND a sign-extended immediate. -/
  | andi (f : FIM)
  /-- ORI (R157). gd := ga OR a sign-extended immediate. -/
  | ori (f : FIM)
  /-- XORI (R157). gd := ga XOR a sign-extended immediate. -/
  | xori (f : FIM)
  /-- SHLI (R157). gd := ga shifted left by an immediate count. -/
  | shli (f : FIM)
  /-- SHRI (R157). gd := ga shifted right logically by an immediate count. -/
  | shri (f : FIM)
  /-- SRAI (R157). gd := ga shifted right arithmetically by an immediate count. -/
  | srai (f : FIM)
  /-- SLTI (R157). gd := 1 if ga < imm as i64, else 0. -/
  | slti (f : FIM)
  /-- SLTNI (R157). gd := 1 if ga < imm as n64, else 0. -/
  | sltni (f : FIM)
  /-- LI (R158). gd := a 48-bit immediate, sign-extended. -/
  | li (f : FWI)
  /-- LIH (R158). gd<63:48> := a 16-bit constant, with the lower bits kept. -/
  | lih (f : FKS)
  /-- LEA (R159). gd := ga + gb · scale + imm18, without touching memory. -/
  | lea (f : FLEA)
  /-- CLZ (R160). gd := the number of leading zero bits of ga. -/
  | clz (f : FRG)
  /-- CTZ (R160). gd := the number of trailing zero bits of ga. -/
  | ctz (f : FRG)
  /-- POPC (R160). gd := the number of one bits of ga. -/
  | popc (f : FRG)
  /-- SEXT_8 (R160). gd := ga<7:0>, sign-extended. -/
  | sext8 (f : FRG)
  /-- SEXT_16 (R160). gd := ga<15:0>, sign-extended. -/
  | sext16 (f : FRG)
  /-- SEXT_32 (R160). gd := ga<31:0>, sign-extended. -/
  | sext32 (f : FRG)
  /-- ZEXT_8 (R160). gd := ga<7:0>, zero-extended. -/
  | zext8 (f : FRG)
  /-- ZEXT_16 (R160). gd := ga<15:0>, zero-extended. -/
  | zext16 (f : FRG)
  /-- ZEXT_32 (R160). gd := ga<31:0>, zero-extended. -/
  | zext32 (f : FRG)
  /-- SEL (R161). gd := ga if gc is non-zero, else gb. -/
  | sel (f : FTR)
  /-- LD (R162). Checks the address, then loads 1 to 8 bytes into gd, which is a long-latency destination. -/
  | ld (f : FIM)
  /-- ST (R162). Checks the address, then stores the low bytes of gs to memory. -/
  | st (f : FIM)
  /-- AMO (R164). Performs an indivisible fetch-and-op at the home slice, with an optional order at a scope. -/
  | amo (op : AmoOp) (f : FTR)
  /-- CAS (R165). Performs an indivisible compare-and-swap at the home slice. -/
  | cas (f : FTR)
  /-- RED (R166). Sends a reduction of gb into a word in memory and returns nothing. -/
  | red (op : RedOp) (f : FTR)
  /-- PREF (R167). Hints that a line should be brought toward the issuer; it never faults and may be dropped. -/
  | pref (f : FIM)
  /-- SRTS (R173). Test-and-sets a sync register at its home and returns the old value. -/
  | srts (f : FRG)
  /-- SRFA (R173). Fetch-and-adds gb to a sync register at its home. -/
  | srfa (f : FRG)
  /-- SRRD (R173). Reads a sync register from this die's mirror. -/
  | srrd (f : FRG)
  /-- SRRD_HOME (R173). Reads a sync register at its home. -/
  | srrdHome (f : FRG)
  /-- SRWR (R173). Writes gb into a sync register at its home. -/
  | srwr (f : FRG)
  /-- SYNC_REGISTER_UPDATE (R174). The home die applies a sync-register update indivisibly and sends the new value to every mirror. -/
  | syncRegisterUpdate (m : Nat)
  /-- MIRROR_UPDATE (R174). A die's mirror applies a value sent by the home, in the home's order. -/
  | mirrorUpdate (m : Nat)
  /-- FORK_MX (R177). Starts a forked sequencer program in a free MX context and writes its handle. -/
  | forkMx (f : FJP)
  /-- FORK_CE (R177). Starts a forked sequencer program in a free CE context and writes its handle. -/
  | forkCe (f : FJP)
  /-- RDV (R178). Parks until the named forked context, or every one, has ended, then acquires their effects and frees their handles. -/
  | rdv (f : FIM)
  /-- RDV_WAKE (R39). The last awaited forked context ends and the parked RDV completes. -/
  | rdvWake (q : SeqId)
  /-- END (R44). Ends a worker after its forks, its queue and its timelines have drained, or ends an MX or CE sequencer once its commands complete. -/
  | endProg (f : FN)
  /-- QPOP (R30). Releases the previous record and returns the next record or chunk, reassigns the worker, returns 0, or parks. -/
  | qpop (f : FN)
  /-- QPOP_WAKE (R33). A record enters a ring, or an input closes, and the parked QPOPs evaluate again. -/
  | qpopWake (q : SeqId)
  /-- QPUSH (R181). Copies a record into the next stage's ring with a release at device scope, parking while the ring is full. -/
  | qpush (f : FRG)
  /-- QPUSH_WAKE (R31). A slot frees in a full ring and the parked QPUSH continues. -/
  | qpushWake (q : SeqId)
  /-- TWAIT (R182). Parks until a timeline or region counter reaches n, then writes it to gd and acquires. -/
  | twait (f : FTR)
  /-- TWAIT_WAKE (R42). The awaited counter reaches n and the parked TWAIT completes with its acquire, or traps on poison. -/
  | twaitWake (q : SeqId)
  /-- TREAD (R183). Reads a timeline or region counter without waiting. -/
  | tread (f : FTR)
  /-- BAR (R246). Fences, arrives at the group's sync register, then continues if it was the last arrival, or parks. -/
  | bar (f : FIM)
  /-- LAUNCH (R184). Releases at system scope, reads and checks the launch block, and enqueues a copy of it, returning the slot. -/
  | launch (f : FIM)
  /-- PREEMPT (R185). Stops every engine context of a launch at its pre-emption point and saves it. -/
  | preempt (f : FIM)
  /-- RESUME (R185). Makes a pre-empted launch eligible for placement again. -/
  | resume (f : FIM)
  /-- RESTORE (R259). Restores a worker and its forked contexts from its frame before the worker's first instruction. -/
  | restore (w : WKey)
  /-- ABORT (R185). Tears a launch down and writes its completion status 0x03. -/
  | abort (f : FIM)
  /-- TLBINV_PAGE (R434). Drops the translations of a page range of one context, waiting for the walks, queued instructions and pins that use them. -/
  | tlbinvPage (f : FTR)
  /-- TLBINV_CTX (R434). Drops every translation of one context. -/
  | tlbinvCtx (f : FTR)
  /-- TLBINV_ALL (R434). Drops every translation of every context. -/
  | tlbinvAll (f : FTR)
  /-- CTXSV (R435). Writes the control core's U bank, EPC and U context to a thread record. -/
  | ctxsv (f : FIM)
  /-- CTXLD (R435). Loads a thread record into the U bank, EPC and U context. -/
  | ctxld (f : FIM)
  /-- CTXSV_V (R255). In the supervisor routine, writes the worker's vector state to its frame. -/
  | ctxsvV (f : FIM)
  /-- CTXLD_V (R255). In the supervisor routine, restores the worker's vector state from its frame. -/
  | ctxldV (f : FIM)
  /-- CTXSV_V_K (R436). On a control core, spills every granule of a parked standby worker to its frame. -/
  | ctxsvVK (f : FIM)
  /-- CTXLD_V_K (R436). On a control core, frees a parked worker's granules so that they reload from its frame. -/
  | ctxldVK (f : FIM)
  /-- SETTLE (R319). Publishes, waits for the issuer's stores to be acknowledged, numbers the operation on TLV and starts a settle sweep of a region. -/
  | settle (f : FIM)
  /-- SETTLE_POINT (R320). At a line's home slice, the settle sweep checks the holders and writes a dirty line to the arrays. -/
  | settlePoint (sweep line : Nat)
  /-- SETTLE_COMPLETION (R319). Every write of a settle is in the arrays; SCNT is incremented and the TLV operation completes. -/
  | settleCompletion (sweep : Nat)
  /-- RENEW (R319). Publishes, then drops or discards the cached lines of a region, returning the counts of stranded and pinned lines. -/
  | renew (f : FIM)
  /-- RENEW_POINT (R320). At a line's home slice, the renew sweep drops the line or discards it as stranded, or counts it as pinned. -/
  | renewPoint (sweep line : Nat)
  /-- RENEW_COMPLETION (R319). Every line of a renew is done; RCNT is incremented, TLV completes and gd is written. -/
  | renewCompletion (sweep : Nat)
  /-- RGSET (R317). Sets the base and length of a region-table entry, with a release at device scope. -/
  | rgset (f : FTR)
  /-- RGRD (R317). Reads a field of a region-table entry. -/
  | rgrd (f : FTR)
  /-- NBGO (R384). Reads and checks a pawn parameter block, pins its translations, numbers the job on TLN and queues it on the job sequencers. -/
  | nbgo (f : FTR)
  /-- NBGO_SG (R385). As NBGO, with the job gated on the settle count of a region. -/
  | nbgoSg (f : FTR)
  /-- NBPART (R376). Waits for running job parts on a channel, then sets the channel's partition mode. -/
  | nbpart (f : FTR)
  /-- VSETL (R195). Sets VLMAX for a type and sets VL to the lesser of ga and VLMAX. -/
  | vsetl (f : FIM)
  /-- VDECL (R196). Declares a new vector register count and clears the extents, masks, granules and reservations. -/
  | vdecl (f : FIM)
  /-- QSET (R191). Sets a stream register's base and bit offset and starts its walk-ahead. -/
  | qset (f : FIM)
  /-- QADV (R192). Advances a stream register by a signed byte or bit amount. -/
  | qadv (f : FIM)
  /-- WALK_AHEAD (R193). A walk-ahead translation completes and fills a hidden slot of a stream register, or leaves it empty. -/
  | walkAhead (w : WKey) (q : BitVec 4) (slot : Nat)
  /-- VLD (R204). Loads the active elements from a stream address by unit stride, register stride or segments. -/
  | vld (f : FVM)
  /-- VST (R204). Stores the active elements to a stream address by unit stride, register stride or segments. -/
  | vst (f : FVM)
  /-- VGATH (R205). Gathers elements from BASE plus an index vector. -/
  | vgath (f : FVM)
  /-- VSCAT (R205). Scatters elements to BASE plus an index vector. -/
  | vscat (f : FVM)
  /-- VLDL (R206). Gathers elements and records a reservation on the word of each one. -/
  | vldl (f : FVM)
  /-- VSTC (R207). Stores each masked element whose reservation is intact and clears its mask bit. -/
  | vstc (f : FVM)
  /-- VAMO (R240). Performs an indexed fetch-and-op on each active element at its home slice. -/
  | vamo (op : AmoOp) (f : FVX)
  /-- VWAIT (R241). Parks until every active element's word meets its comparison, then writes the values. -/
  | vwait (c : Cond) (f : FVX)
  /-- VWAIT_WAKE (R241). A write to the line of an element not yet done wakes a parked VWAIT, which reads again. -/
  | vwaitWake (w : WKey)
  /-- VFENCE (R243). Orders and completes the worker's vector memory accesses at a scope. -/
  | vfence (f : FIM)
  /-- VRED (R242). Applies a reduction of each active element into its word in memory. -/
  | vred (op : RedOp) (f : FVX)
  /-- VACC (R288). Moves one row of an accumulator window into a vector register once the row is released. -/
  | vacc (f : FTR)
  /-- VGET (R209). Extracts one vector element into gd. -/
  | vget (f : FV3)
  /-- VPUT (R209). Writes gb into one element of vd. -/
  | vput (f : FV3)
  /-- VBCAST (R209). Broadcasts gb into each active element of vd. -/
  | vbcast (f : FV3)
  /-- VADD (R217). Adds integer elements, wrapping. -/
  | vadd (f : FV3)
  /-- VSUB (R217). Subtracts integer elements, wrapping. -/
  | vsub (f : FV3)
  /-- VMUL (R217). Keeps the low w bits of each integer product. -/
  | vmul (f : FV3)
  /-- VMULH (R217). Keeps the high w bits of each integer product. -/
  | vmulh (f : FV3)
  /-- VAND (R217). Bitwise AND of elements. -/
  | vand (f : FV3)
  /-- VOR (R217). Bitwise OR of elements. -/
  | vor (f : FV3)
  /-- VXOR (R217). Bitwise XOR of elements. -/
  | vxor (f : FV3)
  /-- VSHL (R217). Shifts elements left. -/
  | vshl (f : FV3)
  /-- VSHR (R217). Shifts elements right logically. -/
  | vshr (f : FV3)
  /-- VSRA (R217). Shifts elements right arithmetically. -/
  | vsra (f : FV3)
  /-- VMIN (R217). Takes the elementwise integer minimum. -/
  | vmin (f : FV3)
  /-- VMAX (R217). Takes the elementwise integer maximum. -/
  | vmax (f : FV3)
  /-- VABS (R217). Takes the absolute value of signed integer elements. -/
  | vabs (f : FV3)
  /-- VSADD (R218). Adds integer elements with saturation. -/
  | vsadd (f : FV3)
  /-- VSSUB (R218). Subtracts integer elements with saturation. -/
  | vssub (f : FV3)
  /-- VMAC (R219). Computes a · b + c on integer elements, wrapping. -/
  | vmac (f : FV4)
  /-- VPMAC (R219). Performs a packed two-tap i16 multiply–accumulate into saturating i32 accumulators. -/
  | vpmac (f : FV4)
  /-- VSRAR (R220). Performs a rounding, narrowing, saturating right shift. -/
  | vsrar (f : FV3)
  /-- VCMP (R222). Compares integer elements into a mask register. -/
  | vcmp (c : Cond) (f : FV3)
  /-- VMERGE (R223). Selects elements from va or vb by a selector mask. -/
  | vmerge (f : FV3)
  /-- MAND (R224). ANDs two mask registers. -/
  | mand (f : FV3)
  /-- MOR (R224). ORs two mask registers. -/
  | mor (f : FV3)
  /-- MXOR (R224). XORs two mask registers. -/
  | mxor (f : FV3)
  /-- MNOT (R224). Inverts a mask register. -/
  | mnot (f : FV3)
  /-- MPOP (R224). Counts the set bits of a mask into gd after the vector queue drains. -/
  | mpop (f : FV3)
  /-- MFIRST (R224). Writes the lowest set bit of a mask to gd after the vector queue drains. -/
  | mfirst (f : FV3)
  /-- MSET (R224). Sets every bit of a mask from VSTART to VL − 1. -/
  | mset (f : FV3)
  /-- VIOTA (R225). Writes to each element the count of set mask bits below it. -/
  | viota (f : FV3)
  /-- VICVT (R221). Converts between integer element types. -/
  | vicvt (src : BitVec 5) (f : FV3)
  /-- VFADD (R226). Adds floating elements. -/
  | vfadd (f : FV3)
  /-- VFSUB (R226). Subtracts floating elements. -/
  | vfsub (f : FV3)
  /-- VFMUL (R226). Multiplies floating elements. -/
  | vfmul (f : FV3)
  /-- VFDIV (R226). Divides floating elements. -/
  | vfdiv (f : FV3)
  /-- VFSQRT (R226). Takes the square root of floating elements. -/
  | vfsqrt (f : FV3)
  /-- VFMIN (R226). Takes the floating minimum of elements. -/
  | vfmin (f : FV3)
  /-- VFMAX (R226). Takes the floating maximum of elements. -/
  | vfmax (f : FV3)
  /-- VFABS (R226). Clears the sign bit of each element. -/
  | vfabs (f : FV3)
  /-- VFNEG (R226). Inverts the sign bit of each element. -/
  | vfneg (f : FV3)
  /-- VFMA (R227). Computes a·b + c fused, with one rounding. -/
  | vfma (f : FV4)
  /-- VFMS (R227). Computes a·b − c fused, with one rounding. -/
  | vfms (f : FV4)
  /-- VFNMA (R227). Computes −(a·b) − c fused, with one rounding. -/
  | vfnma (f : FV4)
  /-- VFNMS (R227). Computes −(a·b) + c fused, with one rounding. -/
  | vfnms (f : FV4)
  /-- VFCMP (R228). Compares floating elements into a mask register. -/
  | vfcmp (c : FCond) (f : FV3)
  /-- VFCLASS (R229). Writes a one-hot class code for each floating element. -/
  | vfclass (f : FV3)
  /-- VFCVT (R230). Converts elements between floating, 8-bit, integer and lg6 types. -/
  | vfcvt (src : BitVec 5) (f : FV3)
  /-- VLGMUL (R231). Multiplies lg6 codes into lg6 product codes. -/
  | vlgmul (f : FV3)
  /-- VLGDOT (R232). Forms an exact lg6 dot product and writes it to gd as f32. -/
  | vlgdot (f : FV3)
  /-- VSLIDEUP (R233). Slides elements up by an offset, filling from the top of vc. -/
  | vslideup (f : FV4)
  /-- VSLIDEDN (R233). Slides elements down by an offset, filling from the start of vc. -/
  | vslidedn (f : FV4)
  /-- VPERM (R234). Permutes elements by an n16 index vector. -/
  | vperm (f : FV3)
  /-- VTLU (R234). Looks each index up in a 256-entry table. -/
  | vtlu (f : FV3)
  /-- VCOMP (R235). Packs the active elements downward. -/
  | vcomp (f : FV3)
  /-- VEXP (R235). Spreads elements into the active positions. -/
  | vexp (f : FV3)
  /-- VBFX (R236). Unpacks bit fields of va into elements. -/
  | vbfx (f : FV3)
  /-- VREDS (R237). Reduces the active elements into a scalar in gd. -/
  | vreds (op : RedsOp) (f : FV4)
  /-- VDOT (R237). Forms an ordered dot product into a scalar in gd. -/
  | vdot (f : FV4)
  /-- MOPEN_LOAD (R278). Opens an accumulator window and pins its lines with their current values. -/
  | mopenLoad (f : FTR)
  /-- MOPEN_ZERO (R278). Opens an accumulator window and pins its lines zeroed. -/
  | mopenZero (f : FTR)
  /-- WINDOW_PIN (R278). A home slice pins a window line, loading or zeroing it, and releases the accesses waiting on it. -/
  | windowPin (cmd line : Nat)
  /-- MCLOSE (R279). Clears OPEN and numbers the close on TLM. -/
  | mclose (f : FTR)
  /-- MCLOSE_COMPLETION (R279). Every earlier command on the window has been applied; the lines are unpinned and the quota returned. -/
  | mcloseCompletion (cmd : Nat)
  /-- MZERO (R280). Zeroes every line of an open window. -/
  | mzero (f : FTR)
  /-- MPRED (R281). Sets the row and column predicates of the matrix state. -/
  | mpred (f : FTR)
  /-- MFMT (R282). Sets the operand formats, strides and scales of the matrix state. -/
  | mfmt (f : FTR)
  /-- MMAS (R284). Issues a matrix product whose partials are summed in strict order into a window. -/
  | mmas (f : FTR)
  /-- MMAF (R284). Issues a matrix product whose partials are summed as a free tree into a window. -/
  | mmaf (f : FTR)
  /-- MX_COMMAND_START (R273). The MX takes a command round-robin once its first K slice is pinned and runs it on an array. -/
  | mxCommandStart (cluster : Nat)
  /-- PARTIAL_APPLICATION (R285). A home slice applies a partial to a window line once, in window order. -/
  | partialApplication (m : Nat) (ue : Bool)
  /-- CPY (R400). Issues a linear copy on TLC. -/
  | cpy (f : FTR)
  /-- CPY_2D (R400). Issues a 2-D block copy on TLC. -/
  | cpy2d (f : FTR)
  /-- CPY_MIG (R408). Issues a physical migration copy that aborts on poisoned source lines. -/
  | cpyMig (f : FTR)
  /-- CPYM (R404). Issues a linear copy paired with a matrix follow-on. -/
  | cpym (f : FTR)
  /-- CPYM_2D (R404). Issues a 2-D copy paired with a matrix follow-on. -/
  | cpym2d (f : FTR)
  /-- WSIG_NUM (R403). Copies a payload, then stores the command's TLC number into a flag. -/
  | wsigNum (f : FTR)
  /-- WSIG_ADD (R403). Copies a payload, then adds 1 to a flag. -/
  | wsigAdd (f : FTR)
  /-- CFILL (R398). Fills a destination with a repeating 8-byte pattern. -/
  | cfill (f : FTR)
  /-- CHUNK (R397). The CE checks one chunk of a copy command, chosen round-robin, and writes it. -/
  | chunk (cluster : Nat) (ue : Bool)
  /-- SIGNAL (R403). Once the payload is acknowledged, the WSIG signal is made with a release at system scope. -/
  | signal (q : SeqId)
  /-- FOLLOW_ON (R404). The completed copy of a CPYM hands its follow-on matrix command to the MX. -/
  | followOn (q : SeqId)
  /-- LANDING (R118). The value of a long-latency producer lands in its g register and makes it full, or poisoned. -/
  | landing (k : Nat)
  /-- VECTOR_DISPATCH (R140). The oldest queued vector instruction is dispatched to its unit and executes under chaining. -/
  | vectorDispatch (w : WKey) (lane : LaneCheck)
  /-- TRAP_ENTRY (R252). Once the queue drains, a worker trap writes its record and enters the supervisor routine, or is posted to the kernel. -/
  | trapEntry (w : WKey)
  /-- KERNEL_TRAP_ENTRY (R425). A control-core trap sets CAUSE, EPC and KSTAT and enters K at KVEC, or stops the core when KVEC is 0. -/
  | kernelTrapEntry (cc : Nat)
  /-- RELEASE (R257). The kernel's write of RELEASE reaches its home slice and the posted worker resumes as ERET or ends. -/
  | release (w : WKey)
  /-- WORKER_SWITCH (R49). The VC switches from a parked running worker to a ready standby worker. -/
  | workerSwitch (vc : Nat)
  /-- ELIGIBILITY (R24). Device time reaches a queued launch's START and the launch becomes eligible. -/
  | eligibility (ctx slot : Nat)
  /-- ADMISSION_CHECKS (R23). When a launch is next to be admitted, the launch unit makes its admission checks and rejects it if one fails. -/
  | admissionChecks (die : Nat)
  /-- ADMISSION (R25). Writes the completion word as zero, zeroes the group sync registers and creates the initial workers. -/
  | admission (die : Nat)
  /-- WORKER_CREATION (R26). The launch unit creates and places a new worker when a free slot fits and a stage needs one. -/
  | workerCreation (ctx slot : Nat)
  /-- LAUNCH_END (R47). The launch ends normally and its final completion word is written with a release at system scope. -/
  | launchEnd (ctx slot : Nat)
  /-- WATCHDOG (R51). The watchdog count reaches WDOG; the expiry is logged and posted, and the launch is torn down. -/
  | watchdog (ctx slot : Nat)
  /-- HOME_SLICE_ACCESS (R307). An access arrives at its home slice, checks the holders named in the directory, and is performed. -/
  | homeSliceAccess (m : Nat) (ue : Bool)
  /-- STAGE (R303). A store or narrow reduction of a worker enters its cluster's stage buffer and sends a holder record. -/
  | stage (m : Nat) (combine : Bool)
  /-- CHECK (R307). A holder cluster receives a check for a line and publishes it, or replies that it holds nothing. -/
  | check (m : Nat)
  /-- PUBLISH (R305). A stage-buffer entry arrives at its home slice and is applied as one indivisible action. -/
  | publish (m : Nat) (ue : Bool)
  /-- DIRECTORY_MERGE (R306). Two sibling directory entries with equal holder masks, untouched for 65,536 clk, merge. -/
  | directoryMerge (die slice base : Nat)
  /-- REDUCTION_UPDATE (R310). The near-cache adders apply a reduction update to its line once, in arrival order. -/
  | reductionUpdate (m : Nat) (ue : Bool)
  /-- EARLY_CLEAN (R308). The early-clean engine writes back the oldest-dirtied unpinned line while its channel is idle. -/
  | earlyClean (die slice : Nat)
  /-- JOB_DISPATCH (R385). A queued pawn job whose gate is met is dispatched, the oldest first. -/
  | jobDispatch (die : Nat)
  /-- COLUMN_ACCESS (R382). A pawn reads or writes one 32-byte column and advances its part of the job. -/
  | columnAccess (job column : Nat) (ue : Bool)
  /-- JOB_COMPLETION (R386). Every part of a job has written its outputs and unpinned its pages, and TLN counts the job. -/
  | jobCompletion (job : Nat)
  /-- FLIT (R411). A receiver takes an Otermale flit and accepts it, discards it or NAKs, and acts on its ACK and credit fields. -/
  | flit (link : Nat) (turn : FlitTurn)
  /-- RECOVERY_TIMER (R411). The 4 µs recovery timer expires and the receiver sends its NAK again. -/
  | recoveryTimer (link : Nat)
  /-- RETRAIN_COMPLETION (R412). A retraining ends: the module resends its unanswered requests with their tags, or is down. -/
  | retrainCompletion (link : Nat) (trained : Bool)
  /-- WIDTH_RETRY (R412). After 60 s without a replay, a degraded module tries x64 again. -/
  | widthRetry (link : Nat)
  /-- TRANSACTION_REQUEST (R414). A tagged request reaches its destination, which applies it once or answers it from the completed-tag filter. -/
  | transactionRequest (m : Nat)
  /-- TRANSACTION_RESPONSE (R421). A response reaches the origin; the operation is performed and its tag is no longer outstanding. -/
  | transactionResponse (m : Nat)
  /-- TIME_FLIT (R415). Once per µs, the time-source die sends a time flit and each die slews its device time toward it. -/
  | timeFlit (die : Nat)
  /-- RESIGNATION (R418). A die resigns and is fenced; the contexts it touches are torn down and DIE-LOST is posted. -/
  | resignation (die : Nat)
  /-- POWER_ON (R444). The module comes up through controller start, the rails, warm-up, training, BD0 release and boot. -/
  | powerOn (act : PowerAct)
  /-- BRINGUP_TIMEOUT (R444). A bring-up step exceeds its limit and bring-up stops at that step. -/
  | bringupTimeout (step : Nat)
  /-- DROOP_TRIP (R447). A cluster monitor trips and the cluster's clock period is stretched within the same clk. -/
  | droopTrip (die cluster : Nat)
  /-- THERMAL_TRIP (R448). A compute die reaches 110 °C; its clusters stop issuing and THERMAL-TRIP is posted. -/
  | thermalTrip (die : Nat)
  /-- THERMAL_RESUME (R448). The junction temperature falls below 100 °C and issue resumes. -/
  | thermalResume (die : Nat)
  /-- POWER_LIMIT (R443). A share of R3 has throttled for 1 ms without pause and POWER-LIMIT is posted. -/
  | powerLimit (consumer : Consumer)
  /-- CHANNEL_RETRAINING (R449). A channel becomes due by temperature drift or after 30 minutes and retrains, stalling for at most 4 µs. -/
  | channelRetraining (r : Retraining)
  /-- MCTP_CONTROL (R452). The side-band port answers an MCTP control message. -/
  | mctpControl (msg : List (BitVec 8))
  /-- STATUS (R453). Returns the rails, bring-up step, die states, temperatures and power. -/
  | status
  /-- MEASURE (R451). Returns the measurement log with the requester's nonce, signed. -/
  | measure (nonce : BitVec 256)
  /-- NOTICE (R453). Posts PREEMPT-NOTICE for a die with a deadline. -/
  | notice (die : Nat) (deadline : BitVec 64)
  /-- UPDATE (R454). Resigns a die and rejoins it with a verified image, or is refused with BUSY. -/
  | update (die : Nat) (image : List (BitVec 8))
  /-- CAP (R453). Lowers the module power limit and scales every share of R3. -/
  | cap (watts : Nat)
  /-- UNSUPPORTED (R453). A management command with an unknown code is answered UNSUPPORTED. -/
  | unsupported (code : BitVec 8)
  /-- PAGE_WALK (R432). A page-table walk ends, sets A or D at the entry's home slice, and delivers its translation or its fault to the access or TLB that waits on it. -/
  | pageWalk (ctx : Nat) (va : BitVec 64) (use : WalkUse) (holder : Nat)
  /-- HOLDER_RECORD (R344). The holder record sent when a line enters a stage buffer arrives at the home slice and enters its directory, making the staged store performed. -/
  | holderRecord (m : Nat)
  /-- CHECK_REPLY (R307). A holder's reply that it holds nothing arrives at the home slice, clears its holder bit, and the held access is performed once every named holder has answered. -/
  | checkReply (m : Nat)
  /-- ELEMENT_GROUP_LANDING (R143). Data for an element group of a vector load, gather or VACC returns and is written into the destination register, making the group available to chained consumers. -/
  | elementGroupLanding (k : Nat)
  /-- K_SLICE (R272). An array consumes a pinned K slice of its command and unpins it; after the last slice the command's partials are sent to their home slices. -/
  | kSlice (cluster array : Nat) (ue : Bool)
  /-- BACK_INVALIDATION (R343). A CXL 3.x back-invalidation from a peer arrives and drops the home slice's copy of the line before the peer's write completes. -/
  | backInvalidation (w : PeerWrite)
  /-- CXL_ERROR (R443). A CXL 3.x device reports poison or a link error, and CXL-ERROR is posted to the kernel fault queue. -/
  | cxlError (addr : BitVec 64)
  /-- THROTTLING (R3). A consumer's power crosses its share, or the inlet air rises above +20 °C, and its clocks are throttled, or it falls back and the throttling ends. -/
  | throttling (consumer : Consumer) (t : Throttle)
  /-- DYNAMIC_ADDRESS_ASSIGNMENT (R452). The I3C controller assigns the side-band port its dynamic address. -/
  | dynamicAddressAssignment (addr : BitVec 7)
  deriving DecidableEq, Repr

end Sys2Proof
end

