-- ==== Sys2Proof/Config.lean ====
section
/-! DEFINITION. What the spec fixes for no module in particular, and the values it leaves open. Every open value
is a constant without a body: nothing can be proved of it, and a claim about it holds whatever it is. -/

namespace Sys2Proof

/-- What a turn of the module does: a sequencer reaches its PC, or one of the steps of the opcode table that no
sequencer fetches comes about. -/
inductive Act where
  | issue (q : SeqId)
  | event (e : Instr)
  deriving DecidableEq, Repr, Inhabited

/-- One turn: how many nanoseconds pass before it (R2 gives no latency), and what it does. -/
structure Turn where
  dt : Nat
  act : Act
  deriving DecidableEq, Repr, Inhabited

/-- The turn taken when the agenda names none: the spec orders the parties by no clock a program can see
(R2, R341), so which party acts next, and when, is free. -/
opaque Config.freeTurn : Nat → Turn

/-- The choices by which a free sum (R112) or an MMAF partial (R284) is formed. -/
opaque Config.freeChoice : Nat → Nat → Nat

/-- Bytes of the CXL range that the attached devices provide (R11). -/
opaque Config.cxlBytes : Nat

/-- The channels of the LPDDR-6 packages on one stack (R449), which the spec does not count. -/
opaque Config.lpddrChannels : Nat

/-- The channel of its stack's LPDDR-6 packages that holds a line (R296, R449). -/
opaque Config.lpddrChannel : Nat → Nat

/-- The L1 set of a line (R295 gives none). -/
opaque Config.l1Set : Nat → Nat

/-- What a pawn output written in a fault window holds (R390). -/
opaque Config.windowValue : Nat → Nat

/-- Whether a pawn output written in a fault window is poisoned (R390). -/
opaque Config.windowPoison : Nat → Bool

/-- The values of fields of posts and log entries that the spec states none for: EADDR, EPC, EIDX and the operands of
a post that no instruction makes (R438), by the number of the free value and the field. -/
opaque Config.unstated : Nat → Nat → Word

/-- The firmware images in the module at power-on: 0 the management controller's, 1 to 4 the base dies' (R444). -/
opaque Config.bootImage : Nat → List Byte

/-- The temperatures and the power that STATUS returns (R453). -/
opaque Config.sensors : Nat → List Nat

/-- SHA3-512 of a byte string, by the published standard that R450 names. -/
opaque Config.sha3 : List Byte → BitVec 512

/-- Whether an ML-DSA-87 signature over a digest verifies under the public key whose digest is fused (R450). -/
opaque Config.mldsaVerify : BitVec 512 → List Byte → Bool

/-- The ML-DSA-87 signature of a reply under the device key (R451). -/
opaque Config.mldsaSign : List Byte → List Byte

/-- The reply of the side-band port to an MCTP control message, which the MCTP standard gives (R452). -/
opaque Config.mctpReply : List Byte → List Byte

/-- The SVN minimum fused for a target (R450). -/
opaque Config.svnMinimum : Nat → Nat

end Sys2Proof
end

