-- ==== Sys2Proof/Machine/State.lean ====
section
/-! DEFINITION. The state of the module: every piece of state the spec names, as plain data, and the state at
power-on. What each field follows is said beside it by the rule that names it. The numbers of parts, lines,
counts and operations are `Nat`; what a program sees as a word is a bit vector. -/

namespace Sys2Proof.Machine

/-! ## Sequencers -/

/-- The privilege levels (R5). -/
inductive Priv where
  | u | s | k
  deriving DecidableEq, Repr

/-- One entry of a loop stack (R138). -/
structure LoopEntry where
  body : Word
  rem : Word
  idx : Word
  deriving DecidableEq, Repr

/-- A poison mark (R121, R202): the address the trap of its reader reports (R202, R418), and whether it came from a
poisoned window line (R271). -/
structure Mark where
  addr : Word
  accum : Bool
  deriving DecidableEq, Repr

/-- A bank of g registers with XF and the loop stack (R64, R118, R121, R138, R425). Entry 0 of `g` is never read.
The loop stack lists its innermost entry first. -/
structure Bank where
  g : Vector Word 32
  empty : BitVec 32
  marks : Vector (Option Mark) 32
  xf : BitVec 8
  loops : List LoopEntry
  deriving DecidableEq, Repr

/-- A timeline (R40 to R43): the last number taken, the counter, the numbers completed above it, and the lowest
failed number. -/
structure Timeline where
  issued : Nat
  count : Nat
  done : List Nat
  poison : Option Nat
  deriving DecidableEq, Repr

/-- A trap that has been raised: its source and condition (R443), the values it gives EPC, EADDR and EIDX, the PC
the record saves (R252), and the VSTART of an element stop (R201). -/
structure Trap where
  source : Nat
  cond : Nat
  epc : Word
  eaddr : Word
  eidx : Nat
  save : Word
  vstart : Option Nat
  deriving DecidableEq, Repr

/-- The matrix state (R266). -/
structure MatrixState where
  fa : BitVec 4
  fb : BitVec 4
  sa : BitVec 32
  sb : BitVec 32
  sca : BitVec 8
  scb : BitVec 8
  pr : BitVec 8
  pc : BitVec 8
  deriving DecidableEq, Repr

/-- A record of the kernel fault queue (R438), but for its sequence number. -/
structure Post where
  frame : Word
  operand : Word
  cause : BitVec 9
  epc : Word
  eaddr : Word
  eidx : Nat
  ctx : Nat
  slot : Nat
  wid : Nat
  nested : Bool
  direct : Bool
  deriving DecidableEq, Repr

/-- What a parked sequencer waits for; `launchOp` for a PREEMPT (1), RESUME (2) or ABORT (3) behind a PREEMPT of its launch, in
the order of arrival (R44, R49, R170, R171, R178, R180 to R182, R185, R241, R246, R257, R434, R437). The PC stays
at the waiting instruction. -/
inductive Park where
  | qpop (gd : BitVec 5) (since seen : Nat)
  | qpush (src : Word)
  | bar (group gen seq : Nat) (next : Word)
  | barSent (group : Nat)
  | vwait (c : Cond) (f : FVX) (places : List (Nat × Nat))
  | twait (gd : BitVec 5) (sel : BitVec 5) (n owner : Word)
  | waitm (f : FTR) (pa : Nat)
  | waitt (gd : BitVec 5) (till : Word)
  | rdv (all : Bool) (ce : Bool) (handle : Nat)
  | endProg
  | kpost
  | abort (gd : BitVec 5) (ctx slot status : Nat)
  | preempt (gd : BitVec 5) (ctx slot : Nat)
  | launchOp (op : Nat) (gd : BitVec 5) (ctx slot arrival : Nat)
  | tlbinv (gd : BitVec 5) (num : Nat) (ids pages : List Nat) (roots : List (Nat × Word))
  deriving DecidableEq, Repr

/-- What a sequencer does: runs, is parked, stands stopped (R155, R425), has stopped issuing and waits for its
commands (R39), has ended and is not yet joined (R251), is pre-empted and saved (R258), waits for a RENEW (R319),
or waits in a kernel instruction (R185, R434). -/
inductive Run where
  | running
  | parked (p : Park)
  | halted
  | ending
  | ended
  | saved
  | renewing (gd : BitVec 5) (sweep : Nat)
  deriving DecidableEq, Repr

/-- A vector register (R122 to R128, R118, R202): its bits, its valid extent in bytes, whether its last long-latency
producer has written it, its poison mark with the line it came from and the number of the instruction that set it, and
for each of its 2 KiB blocks whether a granule holds it, whether that granule is dirty, and whether its bytes lie in the
save frame. -/
structure VReg where
  bits : VBits
  extent : Nat
  poison : Option Mark
  marker : Nat
  granule : BitVec 8
  dirty : BitVec 8
  framed : BitVec 8
  deriving DecidableEq, Repr

/-- A stream register (R132). A hidden slot holds the virtual address of a page and its bytes (R193). -/
structure Stream where
  set : Bool
  dir : Bool
  boff : BitVec 3
  base : BitVec 58
  slots : List (Word × Nat)
  deriving DecidableEq, Repr

/-- A window register (R267) and the number of the window it holds open. -/
structure WindowReg where
  isOpen : Bool
  cols : BitVec 8
  rows : BitVec 8
  pitchl : BitVec 4
  base : BitVec 58
  window : Nat
  deriving DecidableEq, Repr

/-- The translation of one 4 KiB page: virtual page, physical page, KIND, and the bytes of the page whose part it is
(R430, R431). -/
structure PageMap where
  vpn : Nat
  ppn : Nat
  kind : BitVec 2
  span : Nat
  deriving DecidableEq, Repr

/-- What the checks of a vector memory instruction found: no fault, or the lowest faulting element with its
condition and address (R199 to R201). -/
structure ElemFault where
  elem : Nat
  cond : Nat
  eaddr : Word
  deriving DecidableEq, Repr

/-- One entry of the vector instruction queue with what it captured (R115, R141, R194): the values of up to three
g registers, the stop found at issue, the translations checked, the bytes it touches in memory (R117), and for a command
what was prepared at issue. It executes its elements from `vstart` to `till`, in parts where chaining starts it early
(R143); `first` is VSTART at issue. -/
structure VEntry where
  id : Nat
  pc : Word
  next : Word
  instr : Instr
  ga : Word
  gb : Word
  gc : Word
  vl : Nat
  vstart : Nat
  vmt : BitVec 2
  rm : BitVec 2
  xsel : BitVec 4
  base : BitVec 58
  boff : BitVec 3
  fault : Option ElemFault
  pages : List PageMap
  spans : List (Nat × Nat)
  cmd : Nat
  first : Nat
  till : Nat
  deriving DecidableEq, Repr

/-- The trap a worker takes at its next issue because a vector instruction met an error (R202, R262, R271): its source,
the mark, the lowest element that met it, and the instruction. -/
structure PendingTrap where
  source : Nat
  mark : Mark
  elem : Nat
  entry : Nat
  deriving DecidableEq, Repr

/-- Where a worker is resident (R27, R189). -/
structure Place where
  die : Nat
  cluster : Nat
  core : Nat
  slot : Nat
  deriving DecidableEq, Repr

/-- What a worker holds beside the state of every sequencer (04, 06, 08). -/
structure Worker where
  vl : BitVec 15
  vlmax : BitVec 15
  vstart : BitVec 15
  vncode : BitVec 2
  vmt : BitVec 2
  vrm : BitVec 2
  xsel : BitVec 4
  v : Vector VReg 64
  m : Vector MaskBits 8
  q : Vector Stream 16
  win : Vector WindowReg 8
  queue : List VEntry
  vwaitDone : List (Nat × Word × Option Mark)
  pending : Option PendingTrap
  spad : List Host.Cell
  spadCode : Nat
  svec : Word
  ins : Bool
  vsaved : Bool
  rcount : BitVec 8
  keptLoops : List LoopEntry
  stage : Nat
  frame : Nat
  place : Place
  onCore : Bool
  moves : BitVec 16
  record : Option Nat
  mxHeld : BitVec 2
  ceHeld : BitVec 4
  deriving DecidableEq, Repr

/-- What a control core holds beside it (R425 to R428). -/
structure CoreRegs where
  kvec : Word
  uctx : BitVec 9
  ink : Bool
  ppriv : Bool
  ctxsel : BitVec 9
  deriving DecidableEq, Repr

/-- One sequencer with its architectural state (R12). `bank` is the bank in use; `other` is the bank of a control
core's other privilege (R425). `relDue` is a release that FENCE or VFENCE has asked for and that is not yet
complete: its scope, and the number from which accesses are later ones (R169). `line` is the decoded line kept while executing in it (R61). -/
structure Seq where
  bank : Bank
  other : Bank
  pc : Word
  priv : Priv
  line : Option (Word × LineBits)
  tlv : Timeline
  tlm : Timeline
  tlc : Timeline
  tln : Timeline
  cause : BitVec 9
  epc : Word
  eaddr : Word
  eidx : BitVec 15
  run : Run
  trap : Option Trap
  relDue : Option (Nat × Nat)
  ply : Bool
  mx : MatrixState
  w : Worker
  cc : CoreRegs
  deriving DecidableEq, Repr

/-! ## Memory -/

/-- The page kinds (R299). -/
inductive PageKind where
  | priv | readonly | shared | inplace
  deriving DecidableEq, Repr

/-- What a copy of a line is (R298, R301, R302). -/
inductive CopyKind where
  | home | replica | guest
  deriving DecidableEq, Repr

/-- A line in a slice: its address, the die whose slice holds it, its bytes, and what R308, R313, R271, R269, R333,
R334 and R387 keep with it: when it became dirty, its poison and whether a window line took it, the window that pins it, the dirty bits of its coded
blocks, the lg6 scale tag, and the bytes stored since its fill or last write-back. -/
structure SliceLine where
  addr : Nat
  die : Nat
  kind : CopyKind
  data : LineBits
  dirty : Option Nat
  poison : Bool
  accum : Bool
  window : Option Nat
  blocks : BitVec 2
  tag : BitVec 8
  stored : BitVec 64
  deriving DecidableEq, Repr

/-- A copy in an L1 or a control-core cache (R295, R301, R346): whose it is, and which bytes its core has written. Of a
stale one only those are valid: an acquire has dropped the others (R301, R347). -/
structure CacheLine where
  owner : Nat
  addr : Nat
  data : LineBits
  mask : LineBits
  poison : Option Bool
  readonly : Bool
  tag : BitVec 8
  stale : Bool
  deriving DecidableEq, Repr

/-- A pending reduction on a word of a stage-buffer entry (R304, R311): byte offset, operation, type, operand. -/
structure PendingRed where
  off : Nat
  op : RedOp
  et : Nat
  val : Word
  deriving DecidableEq, Repr

/-- An entry of a cluster's stage buffer (R303, R304). -/
structure StageEntry where
  cluster : Nat
  addr : Nat
  data : LineBits
  mask : LineBits
  reds : List PendingRed
  poison : Bool
  deriving DecidableEq, Repr

/-- An entry of a slice's directory (R306): the slice, the span 2^size bytes from base, its holders, and the moment
it was last touched. -/
structure DirEntry where
  die : Nat
  slice : Nat
  base : Nat
  size : Nat
  holders : BitVec 64
  touched : Nat
  deriving DecidableEq, Repr

/-- A reservation recorded at a slice (R206), the newest first: the worker, the element index, the word. -/
structure Reservation where
  owner : WKey
  idx : Nat
  word : Nat
  deriving DecidableEq, Repr

/-- A TLB entry (R433): the TLB that holds it (a compute die's 0 to 3, a control core's 4 to 35, a VC's from 36), the
context, a virtual page it serves, the entry's value and place, and its level. A pointer entry of a walk leads to a
table of its level. -/
structure TlbEntry where
  holder : Nat
  ctx : Nat
  vpn : Nat
  leaf : Word
  leafAt : Nat
  level : Nat
  pointer : Bool
  deriving DecidableEq, Repr

/-- What an access does at its home slice. A store carries the bits it writes, placed in the line (R204 writes
single bits of an lg6 stream). -/
inductive MemOp where
  | load
  | store (data mask : LineBits)
  | amo (op : AmoOp) (size : Nat) (operand : Word)
  | cas (size : Nat) (old new : Word)
  | red (op : RedOp) (et : Nat) (operand : Word)
  | link (owner : WKey)
  | cond (size : Nat) (data : Word) (owner : WKey) (idx : Nat)
  deriving DecidableEq, Repr

/-- What one element of a vector register takes from an access: the register, its bits there, where they lie in the bytes
the access reads, and the number of the element. -/
structure Part where
  reg : Nat
  lo : Nat
  width : Nat
  shift : Nat
  elem : Nat
  deriving DecidableEq, Repr

/-- Where the result of an access goes: nowhere, to a g register, to elements of a vector register, or to a mask bit of
a VSTC. `entry` is the vector instruction's number; `whole` says that it writes the registers' whole valid extents
unmasked; `sent` is nowhere, for a vector instruction. -/
inductive Dest where
  | none
  | sent (entry : Nat)
  | g (reg : BitVec 5) (size : Nat) (signed : Bool)
  | elems (entry : Nat) (whole : Bool) (parts : List Part)
  | mask (entry reg elem : Nat)
  deriving DecidableEq, Repr

/-- What travels between the parties of the module. An access or staged store has its issuer, its bytes inside one
line, its operation and destination, and whether it acquires (R303). A staged one has the number of its vector
instruction, or 0. An access to another worker's scratchpad (R190) names it, with the bits and mask of a store. A partial has its command and its values from the line's first element; without values it poisons
the line (R287). -/
inductive Body where
  | access (op : MemOp) (kind : PageKind) (dest : Dest) (acq : Option (BitVec 3))
  | staged (op : MemOp) (entry : Nat)
  | record
  | publish (data mask : LineBits) (reds : List PendingRed) (poison : Bool) (forCheck : Bool)
  | check (cluster : Nat) (held : Nat)
  | reply (cluster : Nat)
  | pad (owner : WKey) (store : Option (Nat × Nat)) (dest : Dest)
  | mxPartial (cmd : Nat) (vals : List (BitVec 32))
  | sync (reg : Nat) (op : Nat) (val : Word) (gd : Option (BitVec 5)) (group : Option Nat) (pc : Word)
  | mirror (reg : Nat) (val : Word) (seq : Nat) (die : Nat) (op : Nat) (isBar : Bool)
  | time
  deriving DecidableEq, Repr

/-- A message: its number (the order of sending), its issuer, the path it came by (0 to 63 a cluster, 64 to 95 a
control core, 96 + d the hardware of die d), the context whose translation it was checked through, if any (R434), the release
that it waits for before it leaves, as `Seq.relDue` has it (R164, R169, R341), the physical and virtual byte address and length, what it is,
the directed die pairs it has still to cross (R409), its transaction tag and floor (R413), and whether its request has been
applied and it carries its result back (R414). -/
structure Msg where
  id : Nat
  src : SeqId
  path : Nat
  ctx : Option Nat
  rel : Option (Nat × Nat)
  pa : Nat
  va : Word
  len : Nat
  body : Body
  hops : List Nat
  dest : Nat
  tag : Option Nat
  floor : Nat
  reply : Option (Word × Option Bool)
  deriving DecidableEq, Repr

/-- A value on its way into a g register (R118, R121). -/
structure Landing where
  id : Nat
  src : SeqId
  reg : BitVec 5
  val : Word
  poison : Option Mark
  acq : Option (BitVec 3)
  deriving DecidableEq, Repr

/-- Data on its way into elements of a vector register, or the outcome of a VSTC element (R143, R118, R207), whether its
instruction is a long-latency producer of the register (R118, R240), whether it writes the whole valid extent unmasked
(R202), and the scope of a VAMO that acquires (R240). -/
structure ElemLanding where
  id : Nat
  src : SeqId
  entry : Nat
  reg : Nat
  lo : Nat
  width : Nat
  elem : Nat
  val : Nat
  poison : Option Mark
  toMask : Bool
  long : Bool
  whole : Bool
  acq : Option (BitVec 3)
  deriving DecidableEq, Repr

/-- An access held at its home slice until the named holders have answered (R307). -/
structure Held where
  msg : Msg
  waiting : List Nat
  deriving DecidableEq, Repr

/-- A sync operation whose update has been applied at its home and is on its way to the mirrors (R174). -/
structure SyncOp where
  id : Nat
  src : SeqId
  gd : Option (BitVec 5)
  old : Word
  left : List Nat
  reg : Nat
  pc : Word
  deriving DecidableEq, Repr

/-- A settle or renew in progress (R318 to R321): its issuer, the entry, the lines not yet acted on, its TLV number
and, for a renew, its counts; `failed` once a line of it was lost with its die (R418). -/
structure Sweep where
  id : Nat
  src : SeqId
  ctx : Nat
  region : Nat
  renew : Bool
  left : List Nat
  num : Nat
  stranded : Nat
  pinned : Nat
  failed : Bool
  deriving DecidableEq, Repr

/-! ## Contexts and launches -/

/-- A region table entry (R316). -/
structure Region where
  base : BitVec 58
  len : Word
  scnt : Word
  rcnt : Word
  deriving DecidableEq, Repr

/-- A context with its per-context registers (R14, R427 to R429). `regions` lists the entries that are not zero.
`root` is the root table that walks use, which follows CROOT at the next TLBINV.ctx (R429). `logged` counts the
fault-log entries written (R437); `lost` is set once a resigned die has touched it (R418). -/
structure Context where
  enable : Bool
  croot : Word
  root : Word
  cfbase : Word
  cfn : BitVec 16
  cqgrant : Vector Word 4
  cwquota : Vector (BitVec 20) 4
  csrgrant : Word
  cflbase : Word
  cfllog : BitVec 5
  cfllost : Word
  cdbp : Vector Word 4
  csvec : Word
  regions : List (Nat × Region)
  logged : Nat
  lost : Bool
  deriving DecidableEq, Repr

/-- A stage descriptor (R21). -/
structure Stage where
  entry : Word
  maxw : Nat
  minw : Nat
  mxn : Nat
  cen : Nat
  spad : Nat
  vreg : BitVec 2
  sinq : Word
  recsz : Nat
  depthlog : Nat
  preload : Nat
  deriving DecidableEq, Repr

/-- The input ring of a stage as the launch unit keeps it (R22, R30, R31): the slots given out to QPUSHes, the positions
pushed and popped, and the popped positions still owned by a worker. -/
structure Ring where
  given : Nat
  push : Nat
  pop : Nat
  owned : List Nat
  deriving DecidableEq, Repr

/-- A group table entry (R36). -/
structure Group where
  sreg : Nat
  scope : BitVec 3
  count : Nat
  members : BitVec 4096
  deriving DecidableEq, Repr

/-- Where a launch stands (R16, R23 to R25, R46, R48, R52, R53); `ended` while its final word is on its way, with the message
that carries it. -/
inductive LaunchPhase where
  | queued
  | admitted
  | preempting
  | preempted
  | restoring
  | tearing (status : Nat)
  | ended (word : Nat)
  deriving DecidableEq, Repr

/-- A launch, from LAUNCH until its final completion word (R18 to R53). `checked` says that it has passed the
admission checks. `watch` counts the nanoseconds the watchdog
counts; `resets` lists, as register + 16,384 × worker id, the sync registers updated otherwise than by BAR while a worker
was saved (R247). -/
structure Launch where
  ctx : Nat
  slot : Nat
  block : BitVec 4096
  lead : Nat
  order : Nat
  eligible : Bool
  stages : List Stage
  groups : List Group
  phase : LaunchPhase
  checked : Bool
  issued : Nat
  rings : List Ring
  nextIndex : Nat
  retired : Nat
  faults : Nat
  flags : BitVec 8
  watch : Nat
  resets : List Nat
  deriving DecidableEq, Repr

/-- A QPUSH whose worker has gone on (R31, R181): its number, its worker, the stage whose ring it pushes to, the pages of its
slot, the release it waits for, the pieces of the slot with their bytes, and the messages that carry them once they have
left, first and last. -/
structure Push where
  id : Nat
  owner : WKey
  stage : Nat
  pages : List PageMap
  rel : Nat × Nat
  pieces : List (Nat × Nat)
  bytes : List Byte
  sent : Option (Nat × Nat)
  deriving DecidableEq, Repr

/-! ## Matrix engine, copy engine, pawns -/

/-- An open or closing accumulator window (R267 to R271): its context and launch slot, its geometry, the physical lines with the
quota they use, the lines pinned, the lines poisoned, and whether it opens zeroed. -/
structure Window where
  id : Nat
  ctx : Nat
  slot : Nat
  base : Word
  rows : Nat
  cols : Nat
  pitchl : Nat
  lines : List Nat
  pinned : List Nat
  bad : List Nat
  zero : Bool
  deriving DecidableEq, Repr

/-- The kinds of matrix command (R277). -/
inductive MxKind where
  | openLoad | openZero | zero | mmas | mmaf | close
  deriving DecidableEq, Repr

/-- A matrix command (R272 to R287): its issuer and party, its TLM number or the copy it follows, what it captured,
the translations it checked, how far it has come, the operand elements each consumed K slice has read (an lg6 element
with the scale tag of its line above its code), the lines a pin or zero has still to reach, and the virtual address of
an operand line that failed. -/
structure MxCmd where
  id : Nat
  cluster : Nat
  src : SeqId
  follow : Option Nat
  num : Nat
  kind : MxKind
  window : Nat
  a : Word
  b : Word
  k : Nat
  st : MatrixState
  pages : List PageMap
  accepted : Bool
  started : Bool
  sent : Bool
  slices : List (List Nat × List Nat)
  left : List Nat
  array : Nat
  failed : Option Word
  deriving DecidableEq, Repr

/-- The kinds of copy command (R398). -/
inductive CpKind where
  | copy | fill | wsigNum | wsigAdd | copyM
  deriving DecidableEq, Repr

/-- A copy command (R396 to R408): its context, its number, the operands captured, whether its form is the 2-D one, its
follow-on, the bytes of copy order moved so far, the offset of the chunk moved last, whether it has moved them all, and whether
its signal has left or its follow-on has been handed over. -/
structure CpCmd where
  id : Nat
  src : SeqId
  cluster : Nat
  num : Nat
  kind : CpKind
  dst : Word
  source : Word
  block : Bool
  rows : Nat
  width : Nat
  dpitch : Nat
  spitch : Nat
  ssp : Bool
  dsp : Bool
  mig : Bool
  flag : Word
  follow : Option Nat
  moved : Nat
  chunk : Nat
  copied : Bool
  handed : Bool
  deriving DecidableEq, Repr

/-- The five streams of a pawn job (R377). -/
inductive PawnStream where
  | s0 | s1 | s2 | s3 | iv
  deriving DecidableEq, Repr

/-- A fault of a pawn job (R389 to R391): the bank, the condition, the window, further faults. -/
structure PawnFault where
  bank : Nat
  cond : Nat
  lo : Nat
  hi : Nat
  more : Nat
  deriving DecidableEq, Repr

/-- A pawn job (R377 to R391): the block's words, the pinned pages of each stream, the dies whose sequencer holds
it and on which it is dispatched, the channels whose part was refused, the columns of the input vector each channel has
loaded, the columns read with their bytes (none for a failed read), the output columns written with their index in their bank, the
next index of each bank,
its faults. -/
structure Job where
  id : Nat
  src : SeqId
  ctx : Nat
  num : Nat
  block : List Word
  lo : BitVec 64
  hi : BitVec 64
  gate : Option (Nat × Word)
  pins : List (PawnStream × PageMap)
  dies : List Nat
  started : List Nat
  refused : List Nat
  iv : List ((Nat × Nat) × Option (BitVec 256))
  read : List (Nat × Option (BitVec 256))
  written : List (Nat × Nat)
  indices : List (Nat × Nat)
  faults : List PawnFault
  lost : Bool
  deriving DecidableEq, Repr

/-! ## Die links and management -/

/-- One flit on a die link (R410): its sequence number, its kind (R410's TYPE), the messages it carries, and
the ACK (true) or NAK and the credits it carries back. -/
structure Flit where
  seq : Nat
  type : Nat
  msgs : List Nat
  ack : Option (Bool × Nat)
  credit : Nat
  deriving DecidableEq, Repr

/-- One direction of one UCIe module (R409 to R412): the sender's next number, replay buffer and flits on the wire,
the receiver's expected number, recovery state and timer, the buffer entries its receiver has reported freed (CREDIT),
the moments of the last replays, its width, and whether it retrains or is down. -/
structure Link where
  next : Nat
  buffer : List Flit
  wire : List Flit
  credit : Nat
  expected : Nat
  recovery : Bool
  timer : Nat
  ackDue : Option (Bool × Nat)
  freed : Nat
  replays : List Word
  narrow : Bool
  stuck : Bool
  lastReplay : Word
  training : Bool
  down : Bool
  deriving DecidableEq, Repr

/-- One entry of a completed-tag filter (R414). -/
structure FilterEntry where
  origin : Nat
  dest : Nat
  tag : Nat
  result : Word
  poison : Option Bool
  deriving DecidableEq, Repr

/-- What each die keeps of its own: device time (R415), whether its compute die is released (R445) and up (step 7 of
R444), whether the die has resigned (R417), the hold of its clusters by a thermal trip (R448), what its time has still
to slew and the nanoseconds since it last did, when it last sent time flits, and its share of the codec counters (R332)
for each range register. -/
structure Die where
  time : Word
  released : Bool
  up : Bool
  resigned : Bool
  held : Bool
  slew : Int
  slewLeft : Nat
  timeSent : Word
  loss : Vector Word 32
  clamp : Vector Word 32
  spec : Vector Word 32
  deriving DecidableEq, Repr

/-- A range register (R323). Every die that is not resigned holds the same values (R322). -/
structure RangeReg where
  base : Word
  len : Word
  store : Word
  ctl : Word
  deriving DecidableEq, Repr

/-- The module's system registers (R427, R445). -/
structure ModuleRegs where
  ccrun : BitVec 32
  accpart : Vector (BitVec 20) 4
  kfqbase : Word
  kfqlog : BitVec 5
  mnqbase : Word
  mctbase : Word
  mthresh : BitVec 16
  lqprio : Vector Word 16
  cdrel : BitVec 4
  deriving DecidableEq, Repr

/-- An entry of the measurement log (R451). -/
structure Measurement where
  digest : BitVec 512
  die : Nat
  time : Word
  deriving DecidableEq, Repr

/-- What the side-band port answers (R452, R453). -/
inductive Answer where
  | mctp (bytes : List Byte)
  | status (rails : Bool) (step : Nat) (failed : Bool) (up : List Bool) (sensors : List Nat)
  | measured (log : List Measurement) (nonce : BitVec 256) (signature : List Byte)
  | done
  | busy
  | unsupported
  deriving DecidableEq, Repr

/-- The management controller and the environment (R3, R444 to R454). `rising` lists the compute dies that come up, with
the TIME of their release (step 7 of R444); `due` the channels that a change of temperature made due for retraining, and
`training` those that retrain, with the moment (R449); `throttling` the shares throttled since when, whether the
throttling holds issue, and whether POWER-LIMIT was posted (R448); `updates` the updates that wait (R453, R454). -/
structure Mgmt where
  step : Nat
  failed : Bool
  rails : Bool
  log : List Measurement
  address : Option (BitVec 7)
  answers : List Answer
  notices : List (Nat × Word)
  limit : Nat
  throttling : List (Consumer × Word × Bool × Bool)
  droop : List (Nat × Nat)
  retrained : List (Nat × Word)
  rising : List (Nat × Word)
  due : List (Nat × Word)
  training : List (Nat × Word)
  updates : List (Nat × List Byte)
  images : List (Nat × List Byte)
  deriving DecidableEq, Repr

/-! ## The whole state -/

/-- Memory as the slices, caches, stage buffers and arrays hold it. `arrays` is the settled image (R315) as a list
in canonical form; a byte it does not list is 0 (R444 writes every line as zero at bring-up). `bad` lists the lines
whose poison the arrays' metadata hold (R313, R271). `fills` lists the second-tier fills that R441 has still to count.
`lines` lists the most recently used line first (R298). `ro` lists the READONLY translations used since the last
TLBINV of their page, with their context: what TLBINV drops the replicas of (R302, R434). -/
structure Mem where
  arrays : List Host.Cell
  bad : List (Nat × Bool)
  lines : List SliceLine
  caches : List CacheLine
  stage : List StageEntry
  dir : List DirEntry
  resv : List Reservation
  tlb : List TlbEntry
  dirtied : Nat
  fills : List Nat
  ro : List (Nat × PageMap)
  deriving DecidableEq, Repr

/-- What is on its way: messages, accesses held, landings, sync operations, tags and filters. -/
structure Net where
  msgs : List Msg
  held : List Held
  landings : List Landing
  elems : List ElemLanding
  syncs : List SyncOp
  tags : List (Nat × Nat × Nat)
  nextTag : List (Nat × Nat × Nat)
  filter : List FilterEntry
  deriving DecidableEq, Repr

/-- The module. `cur` and `core` are the sequencer whose turn it is; `seqs` holds every other one. A context, sync
register, mirror or link the lists do not name has its value of power-on. `regUpdates` counts the updates of each
sync register at its home. `kfqPosted` and `mnqPosted` are the ring positions (R437, R441). `agenda`, `turn`,
`fresh` and `nextId` are the model's own: what acts next, how many turns have passed, how many free values have been
taken, and the next number to give. -/
structure State where
  cur : SeqId
  core : Seq
  seqs : List (SeqId × Seq)
  mem : Mem
  net : Net
  ctxs : List (Nat × Context)
  launches : List Launch
  pushes : List Push
  orders : Nat
  syncHome : List (Nat × Word)
  syncMirror : List (Nat × Nat × Word)
  regUpdates : List (Nat × Nat)
  sweeps : List Sweep
  windows : List Window
  mxCmds : List MxCmd
  cpCmds : List CpCmd
  jobs : List Job
  channels : BitVec 256
  ranges : Vector RangeReg 32
  dies : Vector Die 4
  links : List (Nat × Link)
  lost : List Nat
  regs : ModuleRegs
  kfqPosted : Nat
  kfqWaiting : List Post
  mnqPosted : Nat
  mnqOwed : Bool
  mgmt : Mgmt
  entryPc : Word
  agenda : List Turn
  turn : Nat
  fresh : Nat
  nextId : Nat
  deriving DecidableEq, Repr

/-! ## Why a step stops -/

/-- The machine stops with a fault. -/
inductive Fault where
  /-- An access to the device-register range from 2^50 (R11), whose registers the spec does not give. Raised by every
  meaning that reads or writes memory through a translation that leads there. Safe: the machine stops where the
  hardware goes on. -/
  | deviceRegisters
  deriving DecidableEq, Repr

/-- The model gives an instruction no meaning. -/
inductive Refusal where
  /-- The instruction has no meaning in this model. Raised by an arm of `exec` only. Safe: the machine stops where the
  hardware goes on. -/
  | notModelled (mnemonic : String)
  deriving DecidableEq, Repr

/-! ## The state at power-on -/

/-- A bank at power-on: every register 0 and full, no mark, no flag, no loop. The spec gives g1 to g31 no value
there on a control core (log entry 3). -/
def Bank.reset : Bank :=
  { g := Vector.replicate 32 0, empty := 0, marks := Vector.replicate 32 none, xf := 0, loops := [] }

/-- A timeline before its first operation (R41). -/
def Timeline.reset : Timeline := { issued := 0, count := 0, done := [], poison := none }

/-- The matrix state at worker start (R266). -/
def MatrixState.reset : MatrixState :=
  { fa := 12, fb := 12, sa := 0, sb := 0, sca := 0, scb := 0, pr := 128, pc := 128 }

/-- A vector register after VDECL (R124, R196). -/
def VReg.reset : VReg := { bits := 0, extent := 0, poison := none, marker := 0, granule := 0, dirty := 0, framed := 0 }

/-- A stream register that is unset (R132). -/
def Stream.reset : Stream := { set := false, dir := false, boff := 0, base := 0, slots := [] }

/-- A window register that is closed (R267). -/
def WindowReg.reset : WindowReg := { isOpen := false, cols := 0, rows := 0, pitchl := 0, base := 0, window := 0 }

/-- The worker part of a sequencer at its start, before R29 sets what the launch gives. -/
def Worker.reset : Worker :=
  { vl := 0, vlmax := 0, vstart := 0, vncode := 0, vmt := 0, vrm := 0, xsel := 0,
    v := Vector.replicate 64 VReg.reset, m := Vector.replicate 8 0, q := Vector.replicate 16 Stream.reset,
    win := Vector.replicate 8 WindowReg.reset, queue := [], vwaitDone := [], pending := none, spad := [],
    spadCode := 0, svec := 0, ins := false, vsaved := false, rcount := 0, keptLoops := [], stage := 0, frame := 0,
    place := { die := 0, cluster := 0, core := 0, slot := 0 }, onCore := false, moves := 0, record := none,
    mxHeld := 0, ceHeld := 0 }

/-- The registers of a control core at power-on (R428). -/
def CoreRegs.reset : CoreRegs := { kvec := 0, uctx := 0, ink := false, ppriv := false, ctxsel := 0 }

/-- A sequencer at power-on: stopped, at K (R425, R428, R444). The spec gives its PC no value there (log entry 3). -/
def Seq.reset : Seq :=
  { bank := Bank.reset, other := Bank.reset, pc := 0, priv := .k, line := none, tlv := Timeline.reset,
    tlm := Timeline.reset, tlc := Timeline.reset, tln := Timeline.reset, cause := 0, epc := 0, eaddr := 0, eidx := 0,
    run := .halted, trap := none, relDue := none, ply := true, mx := MatrixState.reset, w := Worker.reset, cc := CoreRegs.reset }

/-- A context as it is created (R428, R429). -/
def Context.reset : Context :=
  { enable := false, croot := 0, root := 0, cfbase := 0, cfn := 0, cqgrant := Vector.replicate 4 0,
    cwquota := Vector.replicate 4 0, csrgrant := 0, cflbase := 0, cfllog := 0, cfllost := 0,
    cdbp := Vector.replicate 4 0, csvec := 0, regions := [], logged := 0, lost := false }

/-- A region table entry at context creation (R316). -/
def Region.reset : Region := { base := 0, len := 0, scnt := 0, rcnt := 0 }

/-- One direction of a module after training (R411, R412). -/
def Link.reset : Link :=
  { next := 0, buffer := [], wire := [], credit := 0, expected := 0, recovery := false, timer := 0, ackDue := none, freed := 0,
    replays := [], narrow := false, stuck := false, lastReplay := 0, training := false, down := false }

/-- A die before its release (R332, R415, R445). -/
def Die.reset : Die :=
  { time := 0, released := false, up := false, resigned := false, held := false, slew := 0,
    slewLeft := 0, timeSent := 0,
    loss := Vector.replicate 32 0, clamp := Vector.replicate 32 0, spec := Vector.replicate 32 0 }

/-- The module's registers at power-on (R428, R445). -/
def ModuleRegs.reset : ModuleRegs :=
  { ccrun := 0, accpart := Vector.replicate 4 0, kfqbase := 0, kfqlog := 0, mnqbase := 0, mctbase := 0,
    mthresh := 0, lqprio := Vector.replicate 16 0, cdrel := 0 }

/-- The management controller at power-on, before step 1 of R444. -/
def Mgmt.reset : Mgmt :=
  { step := 0, failed := false, rails := false, log := [], address := none, answers := [], notices := [],
    limit := 1600, throttling := [], droop := [], retrained := [], rising := [], due := [], training := [], updates := [], images := [] }

/-- Memory with nothing cached, staged or stored: every byte reads 0 (R444). -/
def Mem.reset : Mem :=
  { arrays := [], bad := [], lines := [], caches := [], stage := [], dir := [], resv := [], tlb := [], dirtied := 0, fills := [], ro := [] }

/-- Nothing on its way. -/
def Net.reset : Net :=
  { msgs := [], held := [], landings := [], elems := [], syncs := [], tags := [], nextTag := [], filter := [] }

/-- The module at power-on: no core runs, and bring-up has not begun (R444). The boot core's sequencer is the
current one. -/
def State.reset : State :=
  { cur := .cc 0, core := Seq.reset, seqs := [], mem := Mem.reset, net := Net.reset, ctxs := [], launches := [], pushes := [],
    orders := 0, syncHome := [], syncMirror := [], regUpdates := [], sweeps := [], windows := [], mxCmds := [],
    cpCmds := [], jobs := [], channels := 0,
    ranges := Vector.replicate 32 { base := 0, len := 0, store := 0, ctl := 0 },
    dies := Vector.replicate 4 Die.reset, links := [], lost := [], regs := ModuleRegs.reset, kfqPosted := 0,
    kfqWaiting := [], mnqPosted := 0, mnqOwed := false, mgmt := Mgmt.reset, entryPc := 1, agenda := [], turn := 0,
    fresh := 0, nextId := 0 }

end Sys2Proof.Machine
end

