-- ==== Sys2Proof/Machine/Flags.lean ====
section
/-! DEFINITION. The flags of XF (R100), which every computation returns beside its result. -/

namespace Sys2Proof.Machine

/-- No flag. -/
def noFlags : BitVec 8 := 0

/-- Invalid operation (bit 0). -/
def flagNV : BitVec 8 := 0x01

/-- Division by zero (bit 1). -/
def flagDZ : BitVec 8 := 0x02

/-- Overflow (bit 2). -/
def flagOF : BitVec 8 := 0x04

/-- Underflow (bit 3). -/
def flagUF : BitVec 8 := 0x08

/-- Inexact (bit 4). -/
def flagNX : BitVec 8 := 0x10

/-- Saturation (bit 5). -/
def flagSAT : BitVec 8 := 0x20

/-- An lg6 NaR (bit 6). -/
def flagNAR : BitVec 8 := 0x40

/-- A table lookup out of range (bit 7). -/
def flagTRG : BitVec 8 := 0x80

/-- A flag when a condition holds. -/
def flagIf (c : Bool) (f : BitVec 8) : BitVec 8 := if c then f else noFlags

/-- XF gains the flags an instruction raised; a set flag stays set (R100, R137). -/
def Bank.raise (b : Bank) (f : BitVec 8) : Bank := { b with xf := b.xf ||| f }

/-- XSEL = k + 1 selects XF bit k for the capture into m7 (R136, R137). -/
def captured (xsel : BitVec 4) (f : BitVec 8) : Bool :=
  xsel != 0 && f.getLsbD (xsel.toNat - 1)

end Sys2Proof.Machine
end

