-- ==== Sys2Proof/Machine/Float.lean ====
section
/-! DEFINITION. Number formats and arithmetic (R91 to R113): exact values, one rounding, flags. Every function
takes and returns encodings as natural numbers below 2^width. -/

namespace Sys2Proof.Machine

/-! ## Types -/

/-- The width in bits of an element type (R68, R91, R94, R103). -/
def etWidth (t : Nat) : Nat :=
  match t with
  | 0 | 4 | 9 | 10 => 8
  | 1 | 5 | 11 | 12 => 16
  | 2 | 6 | 13 => 32
  | 8 => 6
  | _ => 64

/-- An i type (R91). -/
def etSigned (t : Nat) : Bool := decide (t ≤ 3)

/-- A computing float type: f16, bf16, f32, f64. -/
def etIsFloat (t : Nat) : Bool := decide (11 ≤ t ∧ t ≤ 14)

/-- The value of a two's-complement encoding of width w. -/
def signedOf (w n : Nat) : Int := if n < 2 ^ (w - 1) then (n : Int) else (n : Int) - (2 ^ w : Nat)

/-- An integer modulo 2^w (R92). -/
def wrapTo (w : Nat) (v : Int) : Nat := (v % (2 ^ w : Nat)).toNat

/-- The value of an integer encoding of type t. -/
def intOf (t n : Nat) : Int := if etSigned t then signedOf (etWidth t) n else (n : Int)

/-- The least value of an integer type (R91). -/
def intMin (t : Nat) : Int := if etSigned t then -(2 ^ (etWidth t - 1) : Nat) else 0

/-- The greatest value of an integer type (R91). -/
def intMax (t : Nat) : Int := if etSigned t then (2 ^ (etWidth t - 1) : Nat) - 1 else (2 ^ etWidth t : Nat) - 1

/-- The nearest value in the range of type t, with SAT when it differs (R92). -/
def saturate (t : Nat) (v : Int) : Nat × BitVec 8 :=
  let r := if v < intMin t then intMin t else if intMax t < v then intMax t else v
  (wrapTo (etWidth t) r, flagIf (r != v) flagSAT)

/-! ## Binary floating-point formats -/

/-- A binary format: exponent bits, fraction bits (R94). -/
structure FFmt where
  e : Nat
  m : Nat
  deriving DecidableEq, Repr

/-- The format of a type code (R94). -/
def fmtOf (t : Nat) : FFmt :=
  match t with
  | 9 => ⟨4, 3⟩
  | 10 => ⟨5, 2⟩
  | 11 => ⟨5, 10⟩
  | 12 => ⟨8, 7⟩
  | 13 => ⟨8, 23⟩
  | _ => ⟨11, 52⟩

/-- The bias of a format. -/
def FFmt.bias (f : FFmt) : Nat := 2 ^ (f.e - 1) - 1

/-- The encoding of +∞, all exponent bits ones. -/
def FFmt.inf (f : FFmt) : Nat := (2 ^ f.e - 1) * 2 ^ f.m

/-- The sign bit of a format. -/
def FFmt.sign (f : FFmt) : Nat := 2 ^ (f.e + f.m)

/-- What an encoding stands for: a NaN, an infinity, or the value (−1)^neg · mant · 2^exp. -/
inductive FVal where
  | nan (signalling : Bool)
  | inf (neg : Bool)
  | fin (neg : Bool) (mant : Nat) (exp : Int)
  deriving DecidableEq, Repr

/-- The largest finite encoding (R94); e4m3 has no infinity. -/
def largest (t : Nat) : Nat := if t = 9 then 0x7E else (fmtOf t).inf - 1

/-- The canonical NaN (R94, R96). -/
def canonNaN (t : Nat) : Nat :=
  match t with
  | 9 => 0x7F
  | 10 => 0x7E
  | 11 => 0x7E00
  | 12 => 0x7FC0
  | 13 => 0x7FC00000
  | _ => 0x7FF8000000000000

/-- The value of an encoding of type t (R94, R95). -/
def fdecode (t n : Nat) : FVal :=
  let f := fmtOf t
  let neg := n / f.sign % 2 == 1
  let mag := n % f.sign
  let ex := mag / 2 ^ f.m
  let fr := mag % 2 ^ f.m
  if t = 9 then
    if mag = 0x7F then .nan false
    else if ex = 0 then .fin neg fr (1 - (f.bias : Int) - f.m)
    else .fin neg (2 ^ f.m + fr) ((ex : Int) - f.bias - f.m)
  else if ex = 2 ^ f.e - 1 then
    if fr = 0 then .inf neg else .nan (t != 10 && fr < 2 ^ (f.m - 1))
  else if ex = 0 then .fin neg fr (1 - (f.bias : Int) - f.m)
  else .fin neg (2 ^ f.m + fr) ((ex : Int) - f.bias - f.m)

/-- Whether a magnitude is rounded up: `lsb` is the last bit kept, `rem` the discarded part of `2 * half` (R98).
The modes are those of VRM: 0 RNE, 1 RTZ, 2 RDN, 3 RUP. -/
def roundsUp (rm : Nat) (neg lsb : Bool) (rem half : Nat) : Bool :=
  match rm with
  | 0 => decide (half < rem) || (decide (half = rem) && lsb)
  | 1 => false
  | 2 => neg && decide (rem ≠ 0)
  | _ => !neg && decide (rem ≠ 0)

/-- A magnitude mant · 2^exp rounded to a multiple of 2^q: the multiple, and whether it is inexact. -/
def roundAt (rm : Nat) (neg : Bool) (mant : Nat) (exp q : Int) : Nat × Bool :=
  if q ≤ exp then (mant * 2 ^ (exp - q).toNat, false)
  else
    let d := (q - exp).toNat
    let n := mant / 2 ^ d
    let rem := mant % 2 ^ d
    (if roundsUp rm neg (n % 2 == 1) rem (2 ^ (d - 1)) then n + 1 else n, rem != 0)

/-- The result of an overflow (R99); into an 8-bit format it is the largest finite value (R101). -/
def overflow (t rm : Nat) (neg : Bool) : Nat :=
  if t = 9 ∨ t = 10 then largest t
  else
    match rm with
    | 0 => (fmtOf t).inf
    | 1 => largest t
    | 2 => if neg then (fmtOf t).inf else largest t
    | _ => if neg then largest t else (fmtOf t).inf

/-- A non-zero exact value (−1)^neg · mant · 2^exp rounded once to type t: the encoding and OF, UF, NX (R98 to R101).
Tininess is detected after rounding. A zero keeps its sign. -/
def fround (t rm : Nat) (neg : Bool) (mant : Nat) (exp : Int) : Nat × BitVec 8 :=
  let f := fmtOf t
  let s := if neg then f.sign else 0
  if mant = 0 then (s, noFlags)
  else
    let top : Int := exp + Nat.log2 mant
    let emin : Int := 1 - (f.bias : Int)
    let q : Int := (if top < emin then emin else top) - f.m
    let (n, nx) := roundAt rm neg mant exp q
    let mag := (q + f.m + f.bias - 1).toNat * 2 ^ f.m + n
    if largest t < mag then (s + overflow t rm neg, flagOF ||| flagNX)
    else
      let tiny := decide (top < emin) &&
        !(decide (top = emin - 1) && (roundAt rm neg mant exp (top - f.m)).1 == 2 ^ (f.m + 1))
      (s + mag, flagIf nx flagNX ||| flagIf (nx && tiny) flagUF)

/-- NV when an operand is a signalling NaN (R96). -/
def FVal.snan (a : FVal) : Bool := a == .nan true

/-- A NaN of either kind. -/
def FVal.isNaN (a : FVal) : Bool :=
  match a with
  | .nan _ => true
  | _ => false

/-- The sign of a value that is no NaN. -/
def FVal.neg (a : FVal) : Bool :=
  match a with
  | .nan _ => false
  | .inf n => n
  | .fin n _ _ => n

/-- A zero of either sign. -/
def FVal.isZero (a : FVal) : Bool :=
  match a with
  | .fin _ m _ => m == 0
  | _ => false

/-- The value with the opposite sign. -/
def FVal.negate (a : FVal) : FVal :=
  match a with
  | .nan s => .nan s
  | .inf n => .inf !n
  | .fin n m e => .fin (!n) m e

/-- The infinity of a format with a sign. -/
def infOf (t : Nat) (neg : Bool) : Nat := (if neg then (fmtOf t).sign else 0) + (fmtOf t).inf

/-- The canonical NaN with the flags that R96 gives the operands. -/
def nanResult (t : Nat) (invalid : Bool) : Nat × BitVec 8 := (canonNaN t, flagIf invalid flagNV)

/-- The exact sum of two finite values: its sign, its magnitude and exponent; the sign of an exact zero (R97). -/
def exactAdd (rm : Nat) (an : Bool) (am : Nat) (ae : Int) (bn : Bool) (bm : Nat) (be : Int) : Bool × Nat × Int :=
  let e := min ae be
  let x : Int := (am : Int) * (2 ^ (ae - e).toNat : Nat)
  let y : Int := (bm : Int) * (2 ^ (be - e).toNat : Nat)
  let v := (if an then -x else x) + (if bn then -y else y)
  if v = 0 then
    ((if am = 0 ∧ bm = 0 ∧ an = bn then an else rm == 2), 0, e)
  else (decide (v < 0), v.natAbs, e)

/-- a + b, rounded once to type t (R96 to R99). -/
def faddV (t rm : Nat) (a b : FVal) : Nat × BitVec 8 :=
  match a, b with
  | .nan s, y => nanResult t (s || y.snan)
  | x, .nan s => nanResult t (s || x.snan)
  | .inf n, .inf m => if n = m then (infOf t n, noFlags) else nanResult t true
  | .inf n, _ => (infOf t n, noFlags)
  | _, .inf n => (infOf t n, noFlags)
  | .fin an am ae, .fin bn bm be =>
    let (n, m, e) := exactAdd rm an am ae bn bm be
    fround t rm n m e

/-- a · b, rounded once (R96 to R99). -/
def fmulV (t rm : Nat) (a b : FVal) : Nat × BitVec 8 :=
  match a, b with
  | .nan s, y => nanResult t (s || y.snan)
  | x, .nan s => nanResult t (s || x.snan)
  | .inf n, y => if y.isZero then nanResult t true else (infOf t (n ^^ y.neg), noFlags)
  | x, .inf n => if x.isZero then nanResult t true else (infOf t (n ^^ x.neg), noFlags)
  | .fin an am ae, .fin bn bm be => fround t rm (an ^^ bn) (am * bm) (ae + be)

/-- a / b, rounded once; DZ for a finite non-zero value divided by zero (R96, R100). -/
def fdivV (t rm : Nat) (a b : FVal) : Nat × BitVec 8 :=
  match a, b with
  | .nan s, y => nanResult t (s || y.snan)
  | x, .nan s => nanResult t (s || x.snan)
  | .inf _, .inf _ => nanResult t true
  | .inf n, .fin bn _ _ => (infOf t (n ^^ bn), noFlags)
  | .fin an _ _, .inf n => (if an ^^ n then (fmtOf t).sign else 0, noFlags)
  | .fin an am ae, .fin bn bm be =>
    if bm = 0 then
      if am = 0 then nanResult t true else (infOf t (an ^^ bn), flagDZ)
    else
      let sh := (fmtOf t).m + 4 + Nat.log2 bm
      let q := am * 2 ^ sh / bm
      let r := am * 2 ^ sh % bm
      fround t rm (an ^^ bn) (2 * q + (if r = 0 then 0 else 1)) (ae - be - sh - 1)

/-- The square root, rounded once; NV below −0 and √−0 = −0 (R96, R97). -/
def fsqrtV (t rm : Nat) (a : FVal) : Nat × BitVec 8 :=
  match a with
  | .nan s => nanResult t s
  | .inf n => if n then nanResult t true else (infOf t false, noFlags)
  | .fin n m e =>
    if m = 0 then (if n then (fmtOf t).sign else 0, noFlags)
    else if n then nanResult t true
    else
      let k := 2 * ((fmtOf t).m + 4) + (if e % 2 = 0 then 0 else 1)
      let v := m * 2 ^ k
      let r := Nat.sqrt v
      fround t rm false (2 * r + (if r * r = v then 0 else 1)) ((e - k) / 2 - 1)

/-- a · b + c, one rounding after the exact product and sum (R96, R98). -/
def ffmaV (t rm : Nat) (a b c : FVal) : Nat × BitVec 8 :=
  let badMul := match a, b with
    | .inf _, y => y.isZero
    | x, .inf _ => x.isZero
    | _, _ => false
  if badMul || a.snan || b.snan || c.snan then nanResult t true
  else if a.isNaN || b.isNaN || c.isNaN then nanResult t false
  else
    match a, b, c with
    | .fin an am ae, .fin bn bm be, .fin cn cm ce =>
      let (n, m, e) := exactAdd rm (an ^^ bn) (am * bm) (ae + be) cn cm ce
      fround t rm n m e
    | .fin _ _ _, .fin _ _ _, z => (infOf t z.neg, noFlags)
    | x, y, .inf n => if (x.neg ^^ y.neg) = n then (infOf t n, noFlags) else nanResult t true
    | x, y, _ => (infOf t (x.neg ^^ y.neg), noFlags)

/-- The order of two finite or infinite values: negative, zero or positive as a < b, a = b or a > b. Zeros are
equal. -/
def fcompare (a b : FVal) : Int :=
  match a, b with
  | .fin an am ae, .fin bn bm be =>
    let e := min ae be
    let x : Int := (am : Int) * (2 ^ (ae - e).toNat : Nat)
    let y : Int := (bm : Int) * (2 ^ (be - e).toNat : Nat)
    let v := (if an then -x else x) - (if bn then -y else y)
    if v < 0 then -1 else if v = 0 then 0 else 1
  | .inf an, .inf bn => if an = bn then 0 else if an then -1 else 1
  | .inf an, _ => if an then -1 else 1
  | _, .inf bn => if bn then 1 else -1
  | _, _ => 0

/-- a is below b in the order of R113, where −0 is less than +0. -/
def fbelow (a b : FVal) : Bool :=
  let c := fcompare a b
  decide (c < 0) || (decide (c = 0) && a.isZero && b.isZero && a.neg && !b.neg)

/-- The minimum or maximum of R113 on encodings: a NaN yields to a number, two NaNs give the canonical NaN, NV for
a signalling NaN. -/
def fminmax (t : Nat) (wantMax : Bool) (x y : Nat) : Nat × BitVec 8 :=
  let a := fdecode t x
  let b := fdecode t y
  let nv := flagIf (a.snan || b.snan) flagNV
  if a.isNaN && b.isNaN then (canonNaN t, nv)
  else if a.isNaN then (y, nv)
  else if b.isNaN then (x, nv)
  else if wantMax then (if fbelow a b then y else x, nv)
  else (if fbelow b a then y else x, nv)

/-- Conversion of a float value into type t (R101, R102). -/
def ftofV (t rm : Nat) (a : FVal) : Nat × BitVec 8 :=
  match a with
  | .nan s => nanResult t s
  | .inf n =>
    if t = 9 then ((if n then 0x80 else 0) + 0x7E, flagOF ||| flagNX) else (infOf t n, noFlags)
  | .fin n m e => fround t rm n m e

/-- Conversion of an integer into float type t (R102). -/
def itofV (t rm : Nat) (v : Int) : Nat × BitVec 8 := fround t rm (decide (v < 0)) v.natAbs 0

/-- Conversion of a float value into integer type t (R102). -/
def ftoiV (t rm : Nat) (a : FVal) : Nat × BitVec 8 :=
  match a with
  | .nan _ => (0, flagNV)
  | .inf n => (wrapTo (etWidth t) (if n then intMin t else intMax t), flagNV)
  | .fin n m e =>
    let (k, nx) := roundAt rm n m e 0
    let v : Int := if n then -(k : Int) else k
    if v < intMin t then (wrapTo (etWidth t) (intMin t), flagNV)
    else if intMax t < v then (wrapTo (etWidth t) (intMax t), flagNV)
    else (wrapTo (etWidth t) v, flagIf nx flagNX)

/-! ## lg6 -/

/-- The constants of R104. -/
def lgTable (k : Nat) : Nat :=
  match k with
  | 0 => 32768
  | 1 => 38968
  | 2 => 46341
  | _ => 55109

/-- A log t in quarter octaves as a mantissa and exponent: T[t mod 4] · 2^(floor(t/4) − 15) (R104, R106). -/
def lgValue (t : Int) : Nat × Int := (lgTable (t % 4).toNat, t / 4 - 15)

/-- NaR (R103). -/
def lgNaR : Nat := 0x20

/-- An lg6 scale: bits 7:0 of a register as a signed value (R105). -/
def lgScale (g : Word) : Int := signedOf 8 (g.toNat % 256)

/-- The value of an lg6 code at a scale (R103, R104); none for NaR. -/
def lgDecode (n : Nat) (sc : Int) : Option FVal :=
  if n = lgNaR then none
  else if n = 0 then some (.fin false 0 0)
  else
    let (m, e) := lgValue (((n % 32 : Nat) : Int) - 16)
    some (.fin (n / 32 % 2 == 1) m (e + sc))

/-- Conversion from lg6 to float type t (R108). -/
def lgToF (t rm n : Nat) (sc : Int) : Nat × BitVec 8 :=
  match lgDecode n sc with
  | none => (canonNaN t, flagNAR)
  | some v => ftofV t rm v

/-- The magnitude 2·|y − defined(c)| compared for two candidates at scale 0: c1 is at least as near as c2. -/
def lgNearer (m : Nat) (e : Int) (c1 c2 : Nat × Int) : Int :=
  let q := min e (min c1.2 c2.2)
  let y : Int := (m : Int) * (2 ^ (e - q).toNat : Nat)
  let a : Int := (c1.1 : Int) * (2 ^ (c1.2 - q).toNat : Nat)
  let b : Int := (c2.1 : Int) * (2 ^ (c2.2 - q).toNat : Nat)
  ((y - a).natAbs : Int) - (y - b).natAbs

/-- The defined magnitude of code m at scale 0, zero for m = 0. -/
def lgMag (m : Nat) : Nat × Int := if m = 0 then (0, 0) else lgValue ((m : Int) - 16)

/-- The nearest magnitude code from 0 to `k`, ties to the even code (R108). -/
def lgNearest (m : Nat) (e : Int) : Nat → Nat
  | 0 => 0
  | k + 1 =>
    let best := lgNearest m e k
    let d := lgNearer m e (lgMag (k + 1)) (lgMag best)
    if d < 0 ∨ (d = 0 ∧ (k + 1) % 2 = 0) then k + 1 else best

/-- Conversion of a float value to lg6 at a scale (R108). -/
def fToLg (a : FVal) (sc : Int) : Nat × BitVec 8 :=
  match a with
  | .nan s => (lgNaR, flagNAR ||| flagIf s flagNV)
  | .inf _ => (lgNaR, flagNAR)
  | .fin n m e =>
    if m = 0 then (0, noFlags)
    else
      let y : FVal := .fin false m (e - sc)
      let big : FVal := .fin false (lgMag 31).1 (lgMag 31).2
      let s := if n then 32 else 0
      if 0 < fcompare y big then (s + 31, flagOF ||| flagNX)
      else
        let c := lgNearest m (e - sc) 31
        if c = 0 then (0, flagUF ||| flagNX)
        else (s + c, flagIf (fcompare y (.fin false (lgMag c).1 (lgMag c).2) != 0) flagNX)

/-- The product of two lg6 codes as an lg6 code (R106). -/
def lgMul (a b : Nat) : Nat × BitVec 8 :=
  if a = lgNaR ∨ b = lgNaR then (lgNaR, flagNAR)
  else if a = 0 ∨ b = 0 then (0, noFlags)
  else
    let m := a % 32 + b % 32
    let s := if (a / 32 % 2 == 1) ^^ (b / 32 % 2 == 1) then 32 else 0
    if 47 < m then (s + 31, flagOF ||| flagNX)
    else if m < 17 then (0, flagUF ||| flagNX)
    else (s + (m - 16), noFlags)

/-- One term of an lg6 sum (R107): none for NaR. -/
def lgTerm (a b : Nat) : Option Int :=
  if a = lgNaR ∨ b = lgNaR then none
  else if a % 32 = 0 ∨ b % 32 = 0 then some 0
  else
    let t : Int := ((a % 32 : Nat) : Int) + (b % 32 : Nat) - 32
    let c : Int := (lgTable (t % 4).toNat : Int) * (2 ^ (t / 4 + 8).toNat : Nat)
    some (if (a / 32 % 2 == 1) ^^ (b / 32 % 2 == 1) then -c else c)

/-- The sum of lg6 products as f32 (R107). -/
def lgSum (rm : Nat) (sc : Int) (l : List (Nat × Nat)) : Nat × BitVec 8 :=
  let acc := l.foldl (fun (s : Option Int) p =>
    match s, lgTerm p.1 p.2 with
    | some x, some y => some (x + y)
    | _, _ => none) (some 0)
  match acc with
  | none => (canonNaN 13, flagNAR)
  | some v => fround 13 rm (decide (v < 0)) v.natAbs (sc - 23)

/-! ## Sums -/

/-- Removes the element at an index. -/
def dropAt (l : List Nat) (i : Nat) : List Nat := l.take i ++ l.drop (i + 1)

/-- The value of some full binary tree over the leaves (R112): each round takes two of the values left, by a free
choice, and puts their rounded sum back. `fuel` is the number of additions. -/
def freeSum (add : Nat → Nat → Nat × BitVec 8) (choice : Nat → Nat) : Nat → List Nat → BitVec 8 → Nat × BitVec 8
  | 0, l, f => (l.headD 0, f)
  | k + 1, l, f =>
    match l with
    | [] => (0, f)
    | [x] => (x, f)
    | _ =>
      let i := choice (2 * k) % l.length
      let x := l.getD i 0
      let l1 := dropAt l i
      let j := choice (2 * k + 1) % l1.length
      let y := l1.getD j 0
      let r := add x y
      freeSum add choice k (r.1 :: dropAt l1 j) (f ||| r.2)

/-- The arithmetic of AMO and VAMO at width w (R164, R240). -/
def amoApply (op : AmoOp) (w : Nat) (old x : Nat) : Nat :=
  match op with
  | .add => (old + x) % 2 ^ w
  | .and => old &&& x
  | .or => old ||| x
  | .xor => old ^^^ x
  | .swap => x
  | .min => if signedOf w x < signedOf w old then x else old
  | .max => if signedOf w old < signedOf w x then x else old
  | .minn => if x < old then x else old
  | .maxn => if old < x then x else old

/-- The arithmetic of RED and VRED on type t (R166, R310): a reduction raises no flag. -/
def redApply (op : RedOp) (t : Nat) (old x : Nat) : Nat :=
  if etIsFloat t then
    match op with
    | .add => (faddV t 0 (fdecode t old) (fdecode t x)).1
    | .min => (fminmax t false old x).1
    | .max => (fminmax t true old x).1
  else
    match op with
    | .add => (old + x) % 2 ^ etWidth t
    | .min => if intOf t x < intOf t old then x else old
    | .max => if intOf t old < intOf t x then x else old

end Sys2Proof.Machine
end

