-- ==== Sys2Proof/Machine/Codec.lean ====
section
/-! DEFINITION. The FP64 block codec (R329 to R331): four f64 values to 4b bits and back. Values are encodings as
natural numbers; every intermediate quantity is an exact integer. -/

namespace Sys2Proof.Machine

/-- The widths of a budget b in bytes per line: ws and wd (R329). -/
def codecWs (b : Nat) : Nat :=
  match b with
  | 8 => 8
  | 12 => 12
  | 16 => 16
  | 24 => 24
  | _ => 32

/-- The width of a detail coefficient (R329). -/
def codecWd (b : Nat) : Nat := codecWs b - 4

/-- Bytes per decoded line of a BUD code (R326). -/
def budBytes (bud : Nat) : Nat :=
  match bud with
  | 0 => 8
  | 1 => 12
  | 2 => 16
  | 3 => 24
  | _ => 32

/-- Decoded lines that one storage line holds (R326). -/
def budLines (bud : Nat) : Nat :=
  match bud with
  | 0 => 8
  | 1 => 5
  | 2 => 4
  | _ => 2

/-- v / 2^d to the nearest integer, ties to even (R330). -/
def roundNeShift (v : Int) (d : Nat) : Int :=
  let (n, _) := roundAt 0 (decide (v < 0)) v.natAbs 0 d
  if v < 0 then -(n : Int) else n

/-- clamp(v, w) of R330, and whether it changed v. -/
def clampTo (w : Nat) (v : Int) : Int × Bool :=
  if v < -(2 ^ (w - 1) : Nat) then (-(2 ^ (w - 1) : Nat), true)
  else if (2 ^ (w - 1) : Nat) - 1 < v then ((2 ^ (w - 1) : Nat) - 1, true)
  else (v, false)

/-- The biased exponent field of an f64 encoding. -/
def expField (x : Nat) : Nat := x / 2 ^ 52 % 2048

/-- The class of a value in a non-finite block (R330). -/
def codecClass (x : Nat) : Nat :=
  match fdecode 14 x with
  | .inf n => if n then 2 else 1
  | .nan _ => 3
  | .fin _ _ _ => 0

/-- q = round_ne(x · 2^(60−e)) (R330). -/
def codecQ (e : Int) (x : Nat) : Int :=
  match fdecode 14 x with
  | .fin n m ex =>
    let (k, _) := roundAt 0 n m ex (e - 60)
    if n then -(k : Int) else k
  | _ => 0

/-- decode(block, b) of R331. -/
def decodeBlock (b blk : Nat) : List Nat :=
  let ws := codecWs b
  let wd := codecWd b
  if blk / 2 ^ 11 % 2 = 1 then
    (List.range 4).map fun i =>
      match blk / 2 ^ (12 + 2 * i) % 4 with
      | 0 => 0
      | 1 => 0x7FF0000000000000
      | 2 => 0xFFF0000000000000
      | _ => 0x7FF8000000000000
  else
    let e : Int := (Nat.max (blk % 2048) 1 : Nat) - 1023
    let ss := signedOf ws (blk / 2 ^ 12 % 2 ^ ws) * (2 ^ (62 - ws) : Nat)
    let dd := signedOf wd (blk / 2 ^ (12 + ws) % 2 ^ wd) * (2 ^ (63 - wd) : Nat)
    let d0 := signedOf wd (blk / 2 ^ (12 + ws + wd) % 2 ^ wd) * (2 ^ (63 - wd) : Nat)
    let d1 := signedOf wd (blk / 2 ^ (12 + ws + 2 * wd) % 2 ^ wd) * (2 ^ (63 - wd) : Nat)
    let s1 := ss - dd / 2
    let s0 := s1 + dd
    let q3 := s1 - d1 / 2
    let q2 := q3 + d1
    let q1 := s0 - d0 / 2
    let q0 := q1 + d0
    [q0, q1, q2, q3].map fun q =>
      if q = 0 then 0 else (fround 14 0 (decide (q < 0)) q.natAbs (e - 60)).1

/-- What an encode counts (R330, R332): lossy, clamped, special. -/
structure EncodeCounts where
  lossy : Bool
  clamped : Bool
  special : Bool
  deriving DecidableEq, Repr

/-- encode(x, b) of R330: the block's bits and its counting outcomes. -/
def encodeBlock (b : Nat) (x : List Nat) : Nat × EncodeCounts :=
  let ws := codecWs b
  let wd := codecWd b
  let x0 := x.getD 0 0
  let x1 := x.getD 1 0
  let x2 := x.getD 2 0
  let x3 := x.getD 3 0
  let r : Nat × Bool × Bool :=
    if x.any (fun v => codecClass v != 0) then
      (2 ^ 11 + 2 ^ 12 * codecClass x0 + 2 ^ 14 * codecClass x1 + 2 ^ 16 * codecClass x2 + 2 ^ 18 * codecClass x3,
        false, true)
    else
      let emax := x.foldl (fun m v => Nat.max m (expField v)) 1
      let e : Int := (emax : Int) - 1023
      let q0 := codecQ e x0
      let q1 := codecQ e x1
      let q2 := codecQ e x2
      let q3 := codecQ e x3
      let d0 := q0 - q1
      let s0 := q1 + d0 / 2
      let d1 := q2 - q3
      let s1 := q3 + d1 / 2
      let dd := s0 - s1
      let ss := s1 + dd / 2
      let cs := clampTo ws (roundNeShift ss (62 - ws))
      let cd := clampTo wd (roundNeShift dd (63 - wd))
      let c0 := clampTo wd (roundNeShift d0 (63 - wd))
      let c1 := clampTo wd (roundNeShift d1 (63 - wd))
      (emax + wrapTo ws cs.1 * 2 ^ 12 + wrapTo wd cd.1 * 2 ^ (12 + ws) + wrapTo wd c0.1 * 2 ^ (12 + ws + wd) +
        wrapTo wd c1.1 * 2 ^ (12 + ws + 2 * wd), cs.2 || cd.2 || c0.2 || c1.2, false)
  (r.1, { lossy := decodeBlock b r.1 != x, clamped := r.2.1, special := r.2.2 })

/-- The four values of block k of a decoded line. -/
def blockValues (l : LineBits) (k : Nat) : List Nat :=
  (List.range 4).map fun i => (l.extractLsb' (256 * k + 64 * i) 64).toNat

/-- A line with the four values of a block put in place. -/
def putBlock (l : LineBits) (k : Nat) (x : List Nat) : LineBits :=
  (List.range 4).foldl (fun acc i =>
    (acc &&& ~~~((BitVec.allOnes 64).setWidth 512 <<< (256 * k + 64 * i))) |||
      ((BitVec.ofNat 512 (x.getD i 0)) <<< (256 * k + 64 * i))) l

/-- A decoded line from its stored bytes, the lower block first (R329, R335). -/
def decodeLine (b : Nat) (stored : Nat) : LineBits :=
  putBlock (putBlock 0 0 (decodeBlock b (stored % 2 ^ (4 * b)))) 1 (decodeBlock b (stored / 2 ^ (4 * b) % 2 ^ (4 * b)))

end Sys2Proof.Machine
end

