-- ==== Sys2Proof/Decode.lean ====
section
/-! DEFINITION. Decoding: the instruction line (R54 to R58), the encoding families (R62 to R81), the opcode map
and the minor opcodes (R82, R84); and, after the decoder, the encoder written from the same maps. The decoder
is total. It refuses a line that is not legal, and a head that names no instruction (row 4 of R85). -/

namespace Sys2Proof

/-! ## The instruction line -/

/-- `w` bits of a line from bit `lo`. -/
def LineBits.bits (b : LineBits) (lo w : Nat) : BitVec w := b.extractLsb' lo w

/-- N of the line descriptor, bits 15:11 of bytes 0 and 1 (R54). -/
def LineBits.heads (b : LineBits) : Nat := (LineBits.bits b 11 5).toNat

/-- Head k is the little-endian value in bytes 2k and 2k+1 (R55). -/
def LineBits.head (b : LineBits) (k : Nat) : BitVec 16 := LineBits.bits b (16 * k) 16

/-- The tail length in bytes of a head, from its TL field (R55, R62). -/
def tailBytes (h : BitVec 16) : Nat := 2 * (h.extractLsb' 7 2).toNat

/-- The sum of the tail lengths of heads 1 to k (R55). -/
def LineBits.tailSum (b : LineBits) : Nat → Nat
  | 0 => 0
  | k + 1 => LineBits.tailSum b k + tailBytes (LineBits.head b (k + 1))

/-- A line is legal: N is not 0, descriptor bits 10:0 are zero, heads and tails do not overlap (R55). -/
def LineBits.legal (b : LineBits) : Bool :=
  LineBits.heads b != 0 && LineBits.bits b 0 11 == 0#11 &&
    decide (2 * (LineBits.heads b + 1) + LineBits.tailSum b (LineBits.heads b) ≤ 64)

/-- The tail of head k: the bytes that end below the tails of the heads before it (R55), zero above its length. -/
def LineBits.tail (b : LineBits) (k : Nat) : BitVec 48 :=
  (b.extractLsb' (8 * (64 - LineBits.tailSum b k)) (8 * tailBytes (LineBits.head b k))).setWidth 48

/-- The line that holds one head with its tail of `len` bytes, and ignored bytes of zero (R55, R89). -/
def oneInstrLine (head : BitVec 16) (tail : BitVec 48) : LineBits :=
  0x0800#512 ||| (head.setWidth 512 <<< 16) ||| (tail.setWidth 512 <<< (8 * (64 - tailBytes head)))

/-! ## The encoding families -/

/-- The encoding families of R70; LEA's reading of the F-IM tail (R73) has a name of its own. -/
inductive Family where
  | n | rg | ks | im | lea | jp | tr | v3 | vm | wi | cj | v4 | vx
  deriving DecidableEq, Repr

/-- The tail length code of a family (R63, R70). -/
def Family.tl : Family → BitVec 2
  | .n => 0
  | .rg | .ks => 1
  | .im | .lea | .jp | .tr | .v3 | .vm => 2
  | .wi | .cj | .v4 | .vx => 3

/-- A head and tail read by their family: the minor code, where the family has one, and the fields. -/
inductive Fields where
  | none
  | fn (f : FN)
  | frg (minor : BitVec 6) (f : FRG)
  | fks (f : FKS)
  | fim (minor : BitVec 2) (f : FIM)
  | flea (f : FLEA)
  | fjp (f : FJP)
  | ftr (minor : BitVec 4) (f : FTR)
  | fv3 (minor : BitVec 5) (f : FV3)
  | fvm (f : FVM)
  | fwi (f : FWI)
  | fcj (cond : BitVec 3) (f : FCJ)
  | fv4 (minor : BitVec 5) (f : FV4)
  | fvx (minor : BitVec 4) (f : FVX)
  deriving DecidableEq, Repr

/-- The F-V3 fields of a 32-bit tail and the head field (R76). -/
def parseV3 (h : BitVec 7) (t : BitVec 48) : FV3 :=
  { h := h, va := t.extractLsb' 0 6, ma := t.getLsbD 6, vb := t.extractLsb' 7 6, mb := t.getLsbD 13,
    s := t.getLsbD 14, mask := t.extractLsb' 15 3, et := t.extractLsb' 18 4, rnd := t.extractLsb' 27 2,
    res := t.extractLsb' 29 3 }

/-- The F-VM fields of a 32-bit tail and the head field (R78). -/
def parseVM (h : BitVec 7) (t : BitVec 48) : FVM :=
  { h := h, q := t.extractLsb' 0 4, mask := t.extractLsb' 4 3, et := t.extractLsb' 7 4,
    mode := t.extractLsb' 11 2, nf1 := t.extractLsb' 13 3, sreg := t.extractLsb' 16 5,
    idx := t.extractLsb' 21 6, res := t.extractLsb' 27 5 }

/-- The fields of a head field and tail in a family, by the maps of R71 to R81. -/
def parse (fam : Family) (h : BitVec 7) (t : BitVec 48) : Fields :=
  match fam with
  | .n => .fn { h := h }
  | .rg => .frg (h.extractLsb' 5 2 ++ t.extractLsb' 12 4)
      { gd := h.extractLsb' 0 5, ga := t.extractLsb' 0 5, ma := t.getLsbD 5, gb := t.extractLsb' 6 5, mb := t.getLsbD 11 }
  | .ks => .fks { h := h, imm := t.extractLsb' 0 16 }
  | .im => .fim (t.extractLsb' 6 2) { h := h, ga := t.extractLsb' 0 5, ma := t.getLsbD 5, imm := t.extractLsb' 8 24 }
  | .lea => .flea { h := h, ga := t.extractLsb' 0 5, ma := t.getLsbD 5, scale := t.extractLsb' 6 2, gb := t.extractLsb' 8 5, mb := t.getLsbD 13, imm := t.extractLsb' 14 18 }
  | .jp => .fjp { h := h, sub := t.getLsbD 31, target := t.extractLsb' 0 31 }
  | .tr => .ftr (t.extractLsb' 18 4) { h := h, ga := t.extractLsb' 0 5, ma := t.getLsbD 5, gb := t.extractLsb' 6 5, mb := t.getLsbD 11, gc := t.extractLsb' 12 5, mc := t.getLsbD 17, imm := t.extractLsb' 22 10 }
  | .v3 => .fv3 (t.extractLsb' 22 5) (parseV3 h t)
  | .vm => .fvm (parseVM h t)
  | .wi => .fwi { h := h, imm := t }
  | .cj => .fcj (t.extractLsb' 12 3) { h := h, ga := t.extractLsb' 0 5, ma := t.getLsbD 5, gb := t.extractLsb' 6 5, mb := t.getLsbD 11, r15 := t.getLsbD 15, target := t.extractLsb' 16 31, r47 := t.getLsbD 47 }
  | .v4 => .fv4 (t.extractLsb' 22 5) { v := parseV3 h t, vc := t.extractLsb' 32 6, mc := t.getLsbD 38, res := t.extractLsb' 39 9 }
  | .vx => .fvx (t.extractLsb' 39 4) { m := parseVM h t, vb := t.extractLsb' 32 6, mb := t.getLsbD 38, ord := t.extractLsb' 43 2, scope := t.extractLsb' 45 3 }

/-! ## The opcode map -/

/-- The family of a major opcode; none for a reserved one (R63, R82). -/
def familyOf (op : BitVec 7) : Option Family :=
  match op with
  | 0x00#7 | 0x06#7 | 0x09#7 | 0x0a#7 | 0x32#7 | 0x33#7 => some .n
  | 0x01#7 | 0x03#7 | 0x30#7 => some .jp
  | 0x02#7 => some .cj
  | 0x04#7 | 0x0e#7 | 0x10#7 | 0x1a#7 | 0x24#7 | 0x25#7 | 0x26#7 | 0x27#7 | 0x34#7 => some .rg
  | 0x05#7 | 0x07#7 | 0x08#7 | 0x0b#7 | 0x0c#7 | 0x0d#7 | 0x11#7 | 0x12#7 | 0x13#7 | 0x14#7 | 0x15#7 | 0x16#7 | 0x20#7 | 0x21#7 | 0x29#7 | 0x31#7 | 0x37#7 | 0x38#7 | 0x3a#7 | 0x3b#7 | 0x3c#7 | 0x40#7 | 0x41#7 | 0x42#7 | 0x43#7 | 0x4c#7 => some .im
  | 0x0f#7 | 0x1b#7 | 0x22#7 | 0x23#7 | 0x28#7 | 0x35#7 | 0x36#7 | 0x39#7 | 0x3d#7 | 0x3e#7 | 0x3f#7 | 0x4e#7 | 0x70#7 | 0x71#7 | 0x72#7 | 0x73#7 | 0x74#7 | 0x75#7 | 0x76#7 | 0x78#7 | 0x79#7 | 0x7a#7 | 0x7b#7 => some .tr
  | 0x17#7 => some .wi
  | 0x18#7 => some .ks
  | 0x19#7 => some .lea
  | 0x44#7 | 0x45#7 | 0x46#7 | 0x47#7 | 0x48#7 | 0x49#7 => some .vm
  | 0x4a#7 | 0x4b#7 | 0x4d#7 => some .vx
  | 0x4f#7 | 0x50#7 | 0x51#7 | 0x53#7 | 0x54#7 | 0x55#7 | 0x56#7 | 0x57#7 | 0x58#7 | 0x60#7 | 0x62#7 | 0x63#7 | 0x64#7 | 0x66#7 | 0x67#7 | 0x68#7 | 0x6a#7 => some .v3
  | 0x52#7 | 0x61#7 | 0x65#7 | 0x69#7 => some .v4
  | _ => none

/-- The conditions of COND and of the MINOR of VWAIT and VCMP (R149, R84). -/
def Cond.code {w : Nat} (c : Cond) : BitVec w :=
  match c with
  | .eq => 0 | .ne => 1 | .lt => 2 | .ge => 3 | .ltn => 4 | .gen => 5

/-- The condition a code names, if any. -/
def Cond.ofCode {w : Nat} (m : BitVec w) : Option Cond :=
  match m.toNat with
  | 0 => some .eq | 1 => some .ne | 2 => some .lt | 3 => some .ge | 4 => some .ltn | 5 => some .gen | _ => none

/-- The MINOR of VFCMP (R228). -/
def FCond.code {w : Nat} (c : FCond) : BitVec w :=
  match c with
  | .eq => 0 | .ne => 1 | .lt => 2 | .le => 3 | .un => 4 | .or => 5

/-- The floating condition a code names, if any. -/
def FCond.ofCode {w : Nat} (m : BitVec w) : Option FCond :=
  match m.toNat with
  | 0 => some .eq | 1 => some .ne | 2 => some .lt | 3 => some .le | 4 => some .un | 5 => some .or | _ => none

/-- The MINOR of AMO and VAMO (R84). -/
def AmoOp.code {w : Nat} (c : AmoOp) : BitVec w :=
  match c with
  | .add => 0 | .and => 1 | .or => 2 | .xor => 3 | .swap => 4 | .min => 5 | .max => 6 | .minn => 7 | .maxn => 8

/-- The atomic operation a code names, if any. -/
def AmoOp.ofCode {w : Nat} (m : BitVec w) : Option AmoOp :=
  match m.toNat with
  | 0 => some .add | 1 => some .and | 2 => some .or | 3 => some .xor | 4 => some .swap | 5 => some .min
  | 6 => some .max | 7 => some .minn | 8 => some .maxn | _ => none

/-- The MINOR of RED and VRED (R84). -/
def RedOp.code {w : Nat} (c : RedOp) : BitVec w :=
  match c with
  | .add => 0 | .min => 1 | .max => 2

/-- The reduction a code names, if any. -/
def RedOp.ofCode {w : Nat} (m : BitVec w) : Option RedOp :=
  match m.toNat with
  | 0 => some .add | 1 => some .min | 2 => some .max | _ => none

/-- The MINOR of VREDS (R237). -/
def RedsOp.code {w : Nat} (c : RedsOp) : BitVec w :=
  match c with
  | .osum => 0 | .fsum => 1 | .max => 2 | .min => 3 | .and => 4 | .or => 5 | .xor => 6

/-- The vector reduction a code names, if any. -/
def RedsOp.ofCode {w : Nat} (m : BitVec w) : Option RedsOp :=
  match m.toNat with
  | 0 => some .osum | 1 => some .fsum | 2 => some .max | 3 => some .min | 4 => some .and | 5 => some .or
  | 6 => some .xor | _ => none

/-- The special register number of SRD and SWR, IMM24<11:0> (R168). -/
def FIM.srNum (f : FIM) : BitVec 12 := f.imm.extractLsb' 0 12

/-- The row of an SWR word, which its register number picks: XF (R135), KPOST (R257), CCRUN and CCTL (R427),
the range registers (R322), the codec counters (R332), CDREL (R445), or any other register. -/
def swrForm (f : FIM) : Instr :=
  let n := f.srNum.toNat
  if n = 0x007 then .xfWrite f
  else if n = 0x042 then .kpost f
  else if 0x100 ≤ n ∧ n < 0x160 then .cdloss f
  else if 0x800 ≤ n ∧ n < 0x880 then .rangeRegisterWrite f
  else if n = 0x882 then .ccrun f
  else if n = 0x891 then .cctl f
  else if n = 0x8D0 then .cdrel f
  else .swr f

/-- The row of a TLBINV word: IMM10<1:0> selects .page, .ctx or .all; the value 3 is a reserved field of the
last (R434). -/
def tlbinvForm (f : FTR) : Instr :=
  match (f.imm.extractLsb' 0 2).toNat with
  | 0 => .tlbinvPage f
  | 1 => .tlbinvCtx f
  | _ => .tlbinvAll f

/-- The instruction of a major opcode with its fields on a sequencer of kind `k`: R82, R84. Two words name
different rows on a control core: ERET, and the .v forms of CTXSV and CTXLD (R255, R436, R426). -/
def instrOf (k : SeqKind) (op : BitVec 7) (f : Fields) : Option Instr :=
  match op, f with
  | 0x00#7, .fn f => some (.nop f)
  | 0x01#7, .fjp f => some (.br f)
  | 0x02#7, .fcj m f => (Cond.ofCode m).map (fun c => .bcc c f)
  | 0x03#7, .fjp f => some (.jal f)
  | 0x04#7, .frg 0#6 f => some (.jr f)
  | 0x05#7, .fim 0#2 f => some (.loop f)
  | 0x06#7, .fn f => some (.endl f)
  | 0x07#7, .fim 0#2 f => some (.lidx f)
  | 0x08#7, .fim 0#2 f => some (.trap f)
  | 0x09#7, .fn f => some (if k = .cc then .eretK f else .eret f)
  | 0x0a#7, .fn f => some (.halt f)
  | 0x0b#7, .fim 0#2 f => some (.srd f)
  | 0x0c#7, .fim 0#2 f => some (swrForm f)
  | 0x0d#7, .fim 0#2 f => some (.fence f)
  | 0x0e#7, .frg 0#6 f => some (.waitt f)
  | 0x0f#7, .ftr 0#4 f => some (.waitm f)
  | 0x10#7, .frg 0#6 f => some (.add f)
  | 0x10#7, .frg 1#6 f => some (.sub f)
  | 0x10#7, .frg 2#6 f => some (.and f)
  | 0x10#7, .frg 3#6 f => some (.or f)
  | 0x10#7, .frg 4#6 f => some (.xor f)
  | 0x10#7, .frg 5#6 f => some (.shl f)
  | 0x10#7, .frg 6#6 f => some (.shr f)
  | 0x10#7, .frg 7#6 f => some (.sra f)
  | 0x10#7, .frg 8#6 f => some (.mul f)
  | 0x10#7, .frg 9#6 f => some (.mulh f)
  | 0x10#7, .frg 10#6 f => some (.mulhn f)
  | 0x10#7, .frg 11#6 f => some (.div f)
  | 0x10#7, .frg 12#6 f => some (.divn f)
  | 0x10#7, .frg 13#6 f => some (.rem f)
  | 0x10#7, .frg 14#6 f => some (.remn f)
  | 0x10#7, .frg 15#6 f => some (.min f)
  | 0x10#7, .frg 16#6 f => some (.max f)
  | 0x10#7, .frg 17#6 f => some (.minn f)
  | 0x10#7, .frg 18#6 f => some (.maxn f)
  | 0x10#7, .frg 19#6 f => some (.slt f)
  | 0x10#7, .frg 20#6 f => some (.sltn f)
  | 0x11#7, .fim 0#2 f => some (.addi f)
  | 0x12#7, .fim 0#2 f => some (.andi f)
  | 0x13#7, .fim 0#2 f => some (.ori f)
  | 0x14#7, .fim 0#2 f => some (.xori f)
  | 0x15#7, .fim 0#2 f => some (.shli f)
  | 0x15#7, .fim 1#2 f => some (.shri f)
  | 0x15#7, .fim 2#2 f => some (.srai f)
  | 0x16#7, .fim 0#2 f => some (.slti f)
  | 0x16#7, .fim 1#2 f => some (.sltni f)
  | 0x17#7, .fwi f => some (.li f)
  | 0x18#7, .fks f => some (.lih f)
  | 0x19#7, .flea f => some (.lea f)
  | 0x1a#7, .frg 0#6 f => some (.clz f)
  | 0x1a#7, .frg 1#6 f => some (.ctz f)
  | 0x1a#7, .frg 2#6 f => some (.popc f)
  | 0x1a#7, .frg 3#6 f => some (.sext8 f)
  | 0x1a#7, .frg 4#6 f => some (.sext16 f)
  | 0x1a#7, .frg 5#6 f => some (.sext32 f)
  | 0x1a#7, .frg 6#6 f => some (.zext8 f)
  | 0x1a#7, .frg 7#6 f => some (.zext16 f)
  | 0x1a#7, .frg 8#6 f => some (.zext32 f)
  | 0x1b#7, .ftr 0#4 f => some (.sel f)
  | 0x20#7, .fim 0#2 f => some (.ld f)
  | 0x21#7, .fim 0#2 f => some (.st f)
  | 0x22#7, .ftr m f => (AmoOp.ofCode m).map (fun c => .amo c f)
  | 0x23#7, .ftr 0#4 f => some (.cas f)
  | 0x24#7, .frg 0#6 f => some (.srts f)
  | 0x25#7, .frg 0#6 f => some (.srfa f)
  | 0x26#7, .frg 0#6 f => some (if f.gb.getLsbD 0 then .srrdHome f else .srrd f)
  | 0x27#7, .frg 0#6 f => some (.srwr f)
  | 0x28#7, .ftr m f => (RedOp.ofCode m).map (fun c => .red c f)
  | 0x29#7, .fim 0#2 f => some (.pref f)
  | 0x30#7, .fjp f => some (if f.sub then .forkCe f else .forkMx f)
  | 0x31#7, .fim 0#2 f => some (.rdv f)
  | 0x32#7, .fn f => some (.endProg f)
  | 0x33#7, .fn f => some (.qpop f)
  | 0x34#7, .frg 0#6 f => some (.qpush f)
  | 0x35#7, .ftr 0#4 f => some (.twait f)
  | 0x36#7, .ftr 0#4 f => some (.tread f)
  | 0x37#7, .fim 0#2 f => some (.bar f)
  | 0x38#7, .fim 0#2 f => some (.launch f)
  | 0x38#7, .fim 1#2 f => some (.preempt f)
  | 0x38#7, .fim 2#2 f => some (.resume f)
  | 0x38#7, .fim 3#2 f => some (.abort f)
  | 0x39#7, .ftr 0#4 f => some (tlbinvForm f)
  | 0x3a#7, .fim 0#2 f => some (.ctxsv f)
  | 0x3a#7, .fim 1#2 f => some (.ctxld f)
  | 0x3a#7, .fim 2#2 f => some (if k = .cc then .ctxsvVK f else .ctxsvV f)
  | 0x3a#7, .fim 3#2 f => some (if k = .cc then .ctxldVK f else .ctxldV f)
  | 0x3b#7, .fim 0#2 f => some (.settle f)
  | 0x3c#7, .fim 0#2 f => some (.renew f)
  | 0x3d#7, .ftr 0#4 f => some (.rgset f)
  | 0x3d#7, .ftr 1#4 f => some (.rgrd f)
  | 0x3e#7, .ftr 0#4 f => some (if f.imm.getLsbD 0 then .nbgoSg f else .nbgo f)
  | 0x3f#7, .ftr 0#4 f => some (.nbpart f)
  | 0x40#7, .fim 0#2 f => some (.vsetl f)
  | 0x41#7, .fim 0#2 f => some (.vdecl f)
  | 0x42#7, .fim 0#2 f => some (.qset f)
  | 0x43#7, .fim 0#2 f => some (.qadv f)
  | 0x44#7, .fvm f => some (.vld f)
  | 0x45#7, .fvm f => some (.vst f)
  | 0x46#7, .fvm f => some (.vgath f)
  | 0x47#7, .fvm f => some (.vscat f)
  | 0x48#7, .fvm f => some (.vldl f)
  | 0x49#7, .fvm f => some (.vstc f)
  | 0x4a#7, .fvx m f => (AmoOp.ofCode m).map (fun c => .vamo c f)
  | 0x4b#7, .fvx m f => (Cond.ofCode m).map (fun c => .vwait c f)
  | 0x4c#7, .fim 0#2 f => some (.vfence f)
  | 0x4d#7, .fvx m f => (RedOp.ofCode m).map (fun c => .vred c f)
  | 0x4e#7, .ftr 0#4 f => some (.vacc f)
  | 0x4f#7, .fv3 0#5 f => some (.vget f)
  | 0x4f#7, .fv3 1#5 f => some (.vput f)
  | 0x4f#7, .fv3 2#5 f => some (.vbcast f)
  | 0x50#7, .fv3 0#5 f => some (.vadd f)
  | 0x50#7, .fv3 1#5 f => some (.vsub f)
  | 0x50#7, .fv3 2#5 f => some (.vmul f)
  | 0x50#7, .fv3 3#5 f => some (.vmulh f)
  | 0x50#7, .fv3 4#5 f => some (.vand f)
  | 0x50#7, .fv3 5#5 f => some (.vor f)
  | 0x50#7, .fv3 6#5 f => some (.vxor f)
  | 0x50#7, .fv3 7#5 f => some (.vshl f)
  | 0x50#7, .fv3 8#5 f => some (.vshr f)
  | 0x50#7, .fv3 9#5 f => some (.vsra f)
  | 0x50#7, .fv3 10#5 f => some (.vmin f)
  | 0x50#7, .fv3 11#5 f => some (.vmax f)
  | 0x50#7, .fv3 12#5 f => some (.vabs f)
  | 0x51#7, .fv3 0#5 f => some (.vsadd f)
  | 0x51#7, .fv3 1#5 f => some (.vssub f)
  | 0x52#7, .fv4 0#5 f => some (.vmac f)
  | 0x52#7, .fv4 1#5 f => some (.vpmac f)
  | 0x53#7, .fv3 0#5 f => some (.vsrar f)
  | 0x54#7, .fv3 m f => (Cond.ofCode m).map (fun c => .vcmp c f)
  | 0x55#7, .fv3 0#5 f => some (.vmerge f)
  | 0x56#7, .fv3 0#5 f => some (.mand f)
  | 0x56#7, .fv3 1#5 f => some (.mor f)
  | 0x56#7, .fv3 2#5 f => some (.mxor f)
  | 0x56#7, .fv3 3#5 f => some (.mnot f)
  | 0x56#7, .fv3 4#5 f => some (.mpop f)
  | 0x56#7, .fv3 5#5 f => some (.mfirst f)
  | 0x56#7, .fv3 6#5 f => some (.mset f)
  | 0x57#7, .fv3 0#5 f => some (.viota f)
  | 0x58#7, .fv3 m f => some (.vicvt m f)
  | 0x60#7, .fv3 0#5 f => some (.vfadd f)
  | 0x60#7, .fv3 1#5 f => some (.vfsub f)
  | 0x60#7, .fv3 2#5 f => some (.vfmul f)
  | 0x60#7, .fv3 3#5 f => some (.vfdiv f)
  | 0x60#7, .fv3 4#5 f => some (.vfsqrt f)
  | 0x60#7, .fv3 5#5 f => some (.vfmin f)
  | 0x60#7, .fv3 6#5 f => some (.vfmax f)
  | 0x60#7, .fv3 7#5 f => some (.vfabs f)
  | 0x60#7, .fv3 8#5 f => some (.vfneg f)
  | 0x61#7, .fv4 0#5 f => some (.vfma f)
  | 0x61#7, .fv4 1#5 f => some (.vfms f)
  | 0x61#7, .fv4 2#5 f => some (.vfnma f)
  | 0x61#7, .fv4 3#5 f => some (.vfnms f)
  | 0x62#7, .fv3 m f => (FCond.ofCode m).map (fun c => .vfcmp c f)
  | 0x63#7, .fv3 m f => some (.vfcvt m f)
  | 0x64#7, .fv3 0#5 f => some (.vlgmul f)
  | 0x64#7, .fv3 1#5 f => some (.vlgdot f)
  | 0x65#7, .fv4 0#5 f => some (.vslideup f)
  | 0x65#7, .fv4 1#5 f => some (.vslidedn f)
  | 0x66#7, .fv3 0#5 f => some (.vperm f)
  | 0x66#7, .fv3 1#5 f => some (.vtlu f)
  | 0x67#7, .fv3 0#5 f => some (.vcomp f)
  | 0x67#7, .fv3 1#5 f => some (.vexp f)
  | 0x68#7, .fv3 0#5 f => some (.vbfx f)
  | 0x69#7, .fv4 7#5 f => some (.vdot f)
  | 0x69#7, .fv4 m f => (RedsOp.ofCode m).map (fun c => .vreds c f)
  | 0x6a#7, .fv3 0#5 f => some (.vfclass f)
  | 0x70#7, .ftr 0#4 f => some (.mopenLoad f)
  | 0x70#7, .ftr 1#4 f => some (.mopenZero f)
  | 0x71#7, .ftr 0#4 f => some (.mclose f)
  | 0x72#7, .ftr 0#4 f => some (.mzero f)
  | 0x73#7, .ftr 0#4 f => some (.mpred f)
  | 0x74#7, .ftr 0#4 f => some (.mmas f)
  | 0x75#7, .ftr 0#4 f => some (.mmaf f)
  | 0x76#7, .ftr 0#4 f => some (.mfmt f)
  | 0x78#7, .ftr 1#4 f => some (.cpy2d f)
  | 0x78#7, .ftr 0#4 f => some (if f.imm.getLsbD 8 then .cpyMig f else .cpy f)
  | 0x79#7, .ftr 0#4 f => some (.cpym f)
  | 0x79#7, .ftr 1#4 f => some (.cpym2d f)
  | 0x7a#7, .ftr 0#4 f => some (.wsigNum f)
  | 0x7a#7, .ftr 1#4 f => some (.wsigAdd f)
  | 0x7b#7, .ftr 0#4 f => some (.cfill f)
  | _, _ => none

/-- The instruction a head with its tail names on a sequencer of kind `k`; none for an encoding that is not an
instruction (row 4 of R85 but for the sequencer). -/
def decode (k : SeqKind) (head : BitVec 16) (tail : BitVec 48) : Option Instr :=
  match familyOf (head.extractLsb' 9 7) with
  | none => none
  | some fam =>
    if head.extractLsb' 7 2 = fam.tl then instrOf k (head.extractLsb' 9 7) (parse fam (head.extractLsb' 0 7) tail)
    else none

/-- The instruction in slot `k` of a line (R55). -/
def decodeSlot (k : SeqKind) (b : LineBits) (slot : Nat) : Option Instr :=
  decode k (LineBits.head b slot) (LineBits.tail b slot)

/-! ## The decode checks of R85, rows 6 to 8

A constructor carries its fields as they stand in the word. These tables say which values the checks refuse:
reserved bits and unused fields (R69), scopes, orders and roundings (R67), element types (R68), segments (R78). -/

/-- A scope field holds one of the five scopes (R67). -/
def scopeOk {w : Nat} (sc : BitVec w) : Bool := decide (sc.toNat ≤ 4)

/-- H<6:5> is zero: the head field names one g register (R70). -/
def hG (h : BitVec 7) : Bool := h.extractLsb' 5 2 == 0#2

/-- H<6> is zero: a vector register, or a g source with its mode bit, stands in the head field (R70). -/
def hV (h : BitVec 7) : Bool := h.extractLsb' 6 1 == 0#1

/-- H<6:3> is zero: a mask or a window stands in the head field (R70). -/
def hM (h : BitVec 7) : Bool := h.extractLsb' 3 4 == 0#4

/-- GA and MA are zero (an F-IM instruction without a ga). -/
def FIM.noGa (f : FIM) : Bool := f.ga == 0#5 && !f.ma

/-- GA and MA are zero. -/
def FTR.noGa (f : FTR) : Bool := f.ga == 0#5 && !f.ma

/-- GB and MB are zero. -/
def FTR.noGb (f : FTR) : Bool := f.gb == 0#5 && !f.mb

/-- GC and MC are zero. -/
def FTR.noGc (f : FTR) : Bool := f.gc == 0#5 && !f.mc

/-- GB and MB are zero. -/
def FRG.noGb (f : FRG) : Bool := f.gb == 0#5 && !f.mb

/-- ORD of an F-TR immediate (R75). -/
def FTR.ord (f : FTR) : BitVec 2 := f.imm.extractLsb' 0 2

/-- SCOPE of an F-TR immediate (R75). -/
def FTR.scope (f : FTR) : BitVec 3 := f.imm.extractLsb' 2 3

/-- The immediate of AMO and CAS: bits 9:6 zero, a scope, and no scope without an order (R164). -/
def amoImmOk (f : FTR) : Bool :=
  f.imm.extractLsb' 6 4 == 0#4 && scopeOk f.scope && (f.ord != 0#2 || f.scope == 0#3)

/-- The immediate of FENCE and VFENCE: bits 23:5 zero, an order, a scope (R169, R243). -/
def fenceImmOk (f : FIM) : Bool :=
  f.imm.extractLsb' 5 19 == 0#19 && f.imm.extractLsb' 0 2 != 0#2 && scopeOk (f.imm.extractLsb' 2 3)

/-- The owner and timeline selector of TWAIT and TREAD (R182). -/
def timelineImmOk (f : FTR) : Bool :=
  f.imm.extractLsb' 5 5 == 0#5 && f.imm.extractLsb' 3 2 != 3#2 && decide ((f.imm.extractLsb' 0 3).toNat ≤ 5) &&
    (f.imm.extractLsb' 3 2 != 0#2 || decide ((f.imm.extractLsb' 0 3).toNat > 3) || f.noGb)

/-- Source b of F-V3: with S = 1 it names a g register, so VB<5> is zero (R76). -/
def FV3.bOk (f : FV3) : Bool := !f.s || f.vb.extractLsb' 5 1 == 0#1

/-- Source b of F-V3 must be a g register. -/
def FV3.bG (f : FV3) : Bool := f.s && f.vb.extractLsb' 5 1 == 0#1

/-- Source b of F-V3 is unused: VB, MB and S are zero. -/
def FV3.noB (f : FV3) : Bool := f.vb == 0#6 && !f.mb && !f.s

/-- No rounding, and the reserved bits zero (R67, R76). -/
def FV3.flat (f : FV3) : Bool := f.rnd == 0#2 && f.res == 0#3

/-- Source a of F-V3 is a mask register in VA<2:0>, which has no mode (R64, R224). -/
def FV3.aMask (f : FV3) : Bool := f.va.extractLsb' 3 3 == 0#3 && !f.ma

/-- Source b of F-V3 is a mask register in VB<2:0>. -/
def FV3.bMask (f : FV3) : Bool := f.vb.extractLsb' 3 3 == 0#3 && !f.mb && !f.s

/-- The mask group: MASK, ET and RND are zero (R224). -/
def FV3.maskGroup (f : FV3) : Bool := f.flat && f.mask == 0#3 && f.et == 0#4

/-- The reserved bits of F-V4 are zero (R77). -/
def FV4.resOk (f : FV4) : Bool := f.v.res == 0#3 && f.res == 0#9

/-- The F-VM fields of a unit, stride or segment form (R78, R197). -/
def FVM.computedOk (f : FVM) : Bool :=
  f.res == 0#5 && f.idx == 0#6 &&
    (match f.mode.toNat with
     | 0 => f.sreg == 0#5 && f.nf1 == 0#3
     | 1 => f.nf1 == 0#3
     | 2 => f.sreg == 0#5
     | _ => false)

/-- The F-VM fields of an indexed form (R197, R239). -/
def FVM.indexedOk (f : FVM) : Bool := f.res == 0#5 && f.mode == 0#2 && f.nf1 == 0#3 && f.sreg == 0#5

/-- An element type code of an integer (R68). -/
def etInt {w : Nat} (t : BitVec w) : Bool := decide (t.toNat ≤ 7)

/-- An element type code of f16, bf16, f32 or f64 (R68). -/
def etFloat {w : Nat} (t : BitVec w) : Bool := decide (11 ≤ t.toNat ∧ t.toNat ≤ 14)

/-- An assigned element type code (R68). -/
def etAny {w : Nat} (t : BitVec w) : Bool := decide (t.toNat ≤ 14)

/-- i32, i64, n32, n64 (R239). -/
def etWord {w : Nat} (t : BitVec w) : Bool := decide (t.toNat = 2 ∨ t.toNat = 3 ∨ t.toNat = 6 ∨ t.toNat = 7)

/-- The types of RED and VRED (R166, R239). -/
def etRed {w : Nat} (t : BitVec w) : Bool := etWord t || decide (12 ≤ t.toNat ∧ t.toNat ≤ 14)

/-- The conversions VFCVT accepts, source and destination (R230). -/
def fcvtPairOk (src : BitVec 5) (dst : BitVec 4) : Bool :=
  let s := src.toNat
  let d := dst.toNat
  if etFloat src then d != s && etAny dst
  else if s = 9 ∨ s = 10 then etFloat dst || ((d = 9 ∨ d = 10) && d != s)
  else if etInt src then etFloat dst
  else if s = 8 then d = 13 ∨ d = 14
  else false

/-- VFCVT names a scale register exactly when lg6 is either type (R230). -/
def fcvtScaleOk (src : BitVec 5) (f : FV3) : Bool :=
  (if src == 8#5 || f.et == 8#4 then f.bG else f.noB) && (f.et != 8#4 || f.rnd == 0#2)

/-- VREDS and VDOT: RND only for the floating sums (R237). -/
def redsRndOk (sum : Bool) (f : FV4) : Bool := (sum && etFloat f.v.et) || f.v.rnd == 0#2

/-- Row 6 of R85: no reserved bit and no unused field is set, and every scope, order, rounding and MODE has a
value the instruction takes. -/
def Instr.reservedOk : Instr → Bool
  | .nop f | .endl f | .eret f | .eretK f | .halt f | .endProg f => f.h == 0#7
  | .qpop f => hG f.h
  | .br f => f.h == 0#7 && !f.sub
  | .jal f => hG f.h && !f.sub
  | .forkMx f | .forkCe f => hG f.h
  | .bcc _ f => f.h == 0#7 && !f.r15 && !f.r47
  | .jr f | .waitt f | .clz f | .ctz f | .popc f | .sext8 f | .sext16 f | .sext32 f | .zext8 f | .zext16 f
  | .zext32 f | .srts f => f.noGb
  | .add _ | .sub _ | .and _ | .or _ | .xor _ | .shl _ | .shr _ | .sra _ | .mul _ | .mulh _ | .mulhn _ | .div _
  | .divn _ | .rem _ | .remn _ | .min _ | .max _ | .minn _ | .maxn _ | .slt _ | .sltn _ | .srfa _ => true
  | .srrd f | .srrdHome f => f.gb.extractLsb' 1 4 == 0#4 && !f.mb
  | .srwr f => f.gd == 0#5
  | .qpush f => f.gd == 0#5 && f.noGb
  | .lih f => hG f.h
  | .loop f => hV f.h && f.noGa
  | .lidx f => hG f.h && f.noGa && decide (f.imm.toNat ≤ 5)
  | .trap f => f.h == 0#7 && f.noGa
  | .srd f => hG f.h && f.noGa && f.imm.extractLsb' 12 12 == 0#12
  | .swr f | .xfWrite f | .kpost f | .ccrun f | .cctl f | .rangeRegisterWrite f | .cdloss f | .cdrel f =>
    hV f.h && f.noGa && f.imm.extractLsb' 12 12 == 0#12
  | .fence f | .vfence f => f.h == 0#7 && f.noGa && fenceImmOk f
  | .addi f | .andi f | .ori f | .xori f | .slti f | .sltni f => hG f.h
  | .shli f | .shri f | .srai f => hG f.h && f.imm.extractLsb' 6 18 == 0#18
  | .li f => hG f.h
  | .lea f => hG f.h
  | .sel f => hG f.h && f.imm == 0#10
  | .ld f => hG f.h && !f.imm.getLsbD 0 && !(f.imm.getLsbD 1 && f.imm.extractLsb' 2 2 == 3#2)
  | .st f => hV f.h && !f.imm.getLsbD 0 && !f.imm.getLsbD 1
  | .pref f => f.h == 0#7
  | .amo _ f => hG f.h && f.noGc && amoImmOk f
  | .cas f => hG f.h && amoImmOk f
  | .red _ f => f.h == 0#7 && f.noGc && f.ord == 0#2 && scopeOk f.scope && !f.imm.getLsbD 9
  | .waitm f => hG f.h && decide (f.ord.toNat ≤ 1) && scopeOk f.scope && (f.ord != 0#2 || f.scope == 0#3) &&
      decide ((f.imm.extractLsb' 5 3).toNat ≤ 5) && f.imm.extractLsb' 8 2 == 0#2
  | .rdv f => hV f.h && f.noGa && f.imm.extractLsb' 2 22 == 0#22 &&
      (!f.imm.getLsbD 1 || (f.h == 0#7 && !f.imm.getLsbD 0))
  | .twait f => hG f.h && f.noGc && timelineImmOk f
  | .tread f => hG f.h && f.noGa && f.noGc && timelineImmOk f
  | .bar f => f.h == 0#7 && f.noGa && f.imm.extractLsb' 8 16 == 0#16
  | .launch f | .preempt f | .resume f | .abort f | .ctxsv f | .ctxld f | .ctxsvVK f | .ctxldVK f | .settle f
  | .renew f => hG f.h && f.imm == 0#24
  | .ctxsvV f | .ctxldV f => f.h == 0#7 && f.noGa && f.imm == 0#24
  | .tlbinvPage f => hG f.h && f.imm.extractLsb' 2 8 == 0#8
  | .tlbinvCtx f => hG f.h && f.imm.extractLsb' 2 8 == 0#8 && f.noGb && f.noGc
  | .tlbinvAll f => hG f.h && f.imm == 2#10 && f.noGa && f.noGb && f.noGc
  | .rgset f => f.h == 0#7 && f.imm == 0#10
  | .rgrd f => hG f.h && f.noGb && f.noGc && f.imm.extractLsb' 2 8 == 0#8
  | .nbgo f => hG f.h && f.noGb && f.noGc && f.imm == 0#10
  | .nbgoSg f => hG f.h && f.imm.extractLsb' 1 9 == 0#9
  | .nbpart f => hG f.h && f.noGc && f.imm == 0#10
  | .vsetl f => hG f.h && f.imm.extractLsb' 4 20 == 0#20
  | .vdecl f => f.h == 0#7 && f.noGa && f.imm.extractLsb' 2 22 == 0#22
  | .qset f => f.h == 0#7 && !f.imm.getLsbD 7
  | .qadv f => f.h == 0#7 && f.imm.extractLsb' 5 19 == 0#19
  | .vld f => hV f.h && f.computedOk
  | .vst f => f.computedOk
  | .vgath f | .vldl f => hV f.h && f.indexedOk
  | .vscat f => f.indexedOk
  | .vstc f => f.indexedOk && f.mask != 0#3
  | .vamo _ f => hV f.m.h && f.m.indexedOk && scopeOk f.scope && (f.ord != 0#2 || f.scope == 0#3)
  | .vwait _ f => hV f.m.h && f.m.indexedOk && scopeOk f.scope && decide (f.ord.toNat ≤ 1) &&
      (f.ord != 0#2 || f.scope == 0#3)
  | .vred _ f => f.m.h == 0#7 && f.m.indexedOk && scopeOk f.scope && f.ord == 0#2
  | .vacc f => hV f.h && f.noGb && f.noGc && f.imm.extractLsb' 3 7 == 0#7
  | .vget f => hG f.h && f.bG && f.mask == 0#3 && f.flat
  | .vput f => hV f.h && f.bG && f.va.extractLsb' 5 1 == 0#1 && f.mask == 0#3 && f.flat
  | .vbcast f => hV f.h && f.bG && f.va == 0#6 && !f.ma && f.flat
  | .vadd f | .vsub f | .vmul f | .vmulh f | .vand f | .vor f | .vxor f | .vshl f | .vshr f | .vsra f | .vmin f
  | .vmax f | .vsadd f | .vssub f | .vsrar f | .vfmin f | .vfmax f | .vlgmul f => hV f.h && f.bOk && f.flat
  | .vmerge f => hV f.h && f.bOk && f.flat && f.mask != 0#3
  | .vabs f | .vicvt _ f | .vfabs f | .vfneg f | .vfclass f | .vcomp f | .vexp f => hV f.h && f.noB && f.flat
  | .vcmp _ f | .vfcmp _ f => hM f.h && f.bOk && f.flat
  | .vmac f => hV f.v.h && f.v.bOk && f.v.flat && f.resOk
  | .vpmac f | .vslideup f | .vslidedn f => hV f.v.h && f.v.bG && f.v.flat && f.resOk
  | .mand f | .mor f | .mxor f => hM f.h && f.aMask && f.bMask && f.maskGroup
  | .mnot f => hM f.h && f.aMask && f.noB && f.maskGroup
  | .mpop f | .mfirst f => hG f.h && f.aMask && f.noB && f.maskGroup
  | .mset f => hM f.h && f.va == 0#6 && !f.ma && f.noB && f.maskGroup
  | .viota f => hV f.h && f.aMask && f.noB && f.flat
  | .vfadd f | .vfsub f | .vfmul f | .vfdiv f => hV f.h && f.bOk && f.res == 0#3
  | .vfsqrt f => hV f.h && f.noB && f.res == 0#3
  | .vfma f | .vfms f | .vfnma f | .vfnms f => hV f.v.h && f.v.bOk && f.resOk
  | .vfcvt src f => hV f.h && fcvtScaleOk src f && f.res == 0#3
  | .vlgdot f => hG f.h && !f.s && f.res == 0#3
  | .vperm f | .vtlu f => hV f.h && !f.s && f.flat
  | .vbfx f => hV f.h && f.bG && f.flat
  | .vreds op f => hG f.v.h && f.v.bG && f.vc == 0#6 && !f.mc && f.resOk && redsRndOk (op == .osum || op == .fsum) f
  | .vdot f => hG f.v.h && !f.v.s && f.vc.extractLsb' 5 1 == 0#1 && f.resOk && redsRndOk true f
  | .mopenLoad f | .mopenZero f | .mmas f | .mmaf f => hM f.h && f.imm == 0#10
  | .mclose f | .mzero f => hM f.h && f.noGa && f.noGb && f.noGc && f.imm == 0#10
  | .mpred f => f.h == 0#7 && f.noGc && f.imm == 0#10
  | .mfmt f => f.h == 0#7 && f.imm.extractLsb' 8 2 == 0#2
  | .cpy f | .cpy2d f | .cpyMig f | .cpym f | .cpym2d f | .wsigNum f | .wsigAdd f => hG f.h && !f.imm.getLsbD 9
  | .cfill f => hG f.h && !f.imm.getLsbD 9 && !f.imm.getLsbD 7
  | .waittExpiry .. | .waitmWake .. | .waitmDeadline .. | .syncRegisterUpdate .. | .mirrorUpdate .. | .rdvWake ..
  | .qpopWake .. | .qpushWake .. | .twaitWake .. | .restore .. | .settlePoint .. | .settleCompletion ..
  | .renewPoint .. | .renewCompletion .. | .walkAhead .. | .vwaitWake .. | .windowPin .. | .mcloseCompletion ..
  | .mxCommandStart .. | .partialApplication .. | .chunk .. | .signal .. | .followOn .. | .landing ..
  | .vectorDispatch .. | .trapEntry .. | .kernelTrapEntry .. | .release .. | .workerSwitch .. | .eligibility ..
  | .admissionChecks .. | .admission .. | .workerCreation .. | .launchEnd .. | .watchdog .. | .homeSliceAccess ..
  | .stage .. | .check .. | .publish .. | .directoryMerge .. | .reductionUpdate .. | .earlyClean ..
  | .jobDispatch .. | .columnAccess .. | .jobCompletion .. | .flit .. | .recoveryTimer .. | .retrainCompletion ..
  | .widthRetry .. | .transactionRequest .. | .transactionResponse .. | .timeFlit .. | .resignation .. | .powerOn ..
  | .bringupTimeout .. | .droopTrip .. | .thermalTrip .. | .thermalResume .. | .powerLimit .. | .channelRetraining ..
  | .mctpControl .. | .status .. | .measure .. | .notice .. | .update .. | .cap ..
  | .unsupported .. | .pageWalk .. | .holderRecord .. | .checkReply .. | .elementGroupLanding .. | .kSlice ..
  | .backInvalidation .. | .cxlError .. | .throttling .. | .dynamicAddressAssignment .. => true

/-- Row 7 of R85: the element type is one the instruction takes. MFMT's format check belongs to its entry. -/
def Instr.typeOk : Instr → Bool
  | .red _ f => etRed (f.imm.extractLsb' 5 4)
  | .vsetl f => etAny (f.imm.extractLsb' 0 4)
  | .vld f | .vst f => etAny f.et && (f.et != 8#4 || f.mode == 0#2)
  | .vgath f | .vscat f => etAny f.et && f.et != 8#4
  | .vldl f | .vstc f => etWord f.et || f.et == 13#4 || f.et == 14#4
  | .vamo _ f | .vwait _ f => etWord f.m.et
  | .vred _ f => etRed f.m.et
  | .vget f | .vput f | .vbcast f | .vmerge f | .vperm f | .vtlu f | .vcomp f | .vexp f => etAny f.et
  | .vadd f | .vsub f | .vmul f | .vmulh f | .vand f | .vor f | .vxor f | .vshl f | .vshr f | .vsra f | .vmin f
  | .vmax f | .vsadd f | .vssub f | .vcmp _ f | .viota f | .vbfx f => etInt f.et
  | .vabs f => decide (f.et.toNat ≤ 3)
  | .vmac f => etInt f.v.et
  | .vpmac f => f.v.et == 1#4
  | .vsrar f => etInt f.et && f.et != 0#4 && f.et != 4#4
  | .vicvt src f => etInt src && etInt f.et && decide (src.toNat ≠ f.et.toNat)
  | .vfadd f | .vfsub f | .vfmul f | .vfdiv f | .vfsqrt f | .vfmin f | .vfmax f | .vfabs f | .vfneg f
  | .vfcmp _ f | .vfclass f => etFloat f.et
  | .vfma f | .vfms f | .vfnma f | .vfnms f => etFloat f.v.et
  | .vfcvt src f => fcvtPairOk src f.et
  | .vlgmul f | .vlgdot f => f.et == 8#4
  | .vslideup f | .vslidedn f => etAny f.v.et
  | .vreds op f => etInt f.v.et || (etFloat f.v.et && (op == .osum || op == .fsum || op == .max || op == .min))
  | .vdot f => etInt f.v.et || etFloat f.v.et
  | _ => true

/-- Row 8 of R85: a segment form has at least two fields (R78). -/
def Instr.segmentOk : Instr → Bool
  | .vld f | .vst f => f.mode != 2#2 || f.nf1 != 0#3
  | _ => true

/-- The row an instruction's fields pick among the rows that share its opcode and minor code: the register
number of SWR, HOME of SRRD, the form of TLBINV, GATE of NBGO, MIG of CPY, SUB of FORK. -/
def Instr.formOk : Instr → Bool
  | .forkMx f => !f.sub
  | .forkCe f => f.sub
  | .srrd f => !f.gb.getLsbD 0
  | .srrdHome f => f.gb.getLsbD 0
  | .tlbinvPage f => f.imm.extractLsb' 0 2 == 0#2
  | .tlbinvCtx f => f.imm.extractLsb' 0 2 == 1#2
  | .tlbinvAll f => decide (2 ≤ (f.imm.extractLsb' 0 2).toNat)
  | .nbgo f => !f.imm.getLsbD 0
  | .nbgoSg f => f.imm.getLsbD 0
  | .cpy f => !f.imm.getLsbD 8
  | .cpyMig f => f.imm.getLsbD 8
  | .swr f => swrForm f == .swr f
  | .xfWrite f => swrForm f == .xfWrite f
  | .kpost f => swrForm f == .kpost f
  | .ccrun f => swrForm f == .ccrun f
  | .cctl f => swrForm f == .cctl f
  | .rangeRegisterWrite f => swrForm f == .rangeRegisterWrite f
  | .cdloss f => swrForm f == .cdloss f
  | .cdrel f => swrForm f == .cdrel f
  | _ => true

/-- An event: a step of a part that fetches no instruction (spec/95). -/
def Instr.isEvent : Instr → Bool
  | .waittExpiry .. | .waitmWake .. | .waitmDeadline .. | .syncRegisterUpdate .. | .mirrorUpdate .. | .rdvWake ..
  | .qpopWake .. | .qpushWake .. | .twaitWake .. | .restore .. | .settlePoint .. | .settleCompletion ..
  | .renewPoint .. | .renewCompletion .. | .walkAhead .. | .vwaitWake .. | .windowPin .. | .mcloseCompletion ..
  | .mxCommandStart .. | .partialApplication .. | .chunk .. | .signal .. | .followOn .. | .landing ..
  | .vectorDispatch .. | .trapEntry .. | .kernelTrapEntry .. | .release .. | .workerSwitch .. | .eligibility ..
  | .admissionChecks .. | .admission .. | .workerCreation .. | .launchEnd .. | .watchdog .. | .homeSliceAccess ..
  | .stage .. | .check .. | .publish .. | .directoryMerge .. | .reductionUpdate .. | .earlyClean ..
  | .jobDispatch .. | .columnAccess .. | .jobCompletion .. | .flit .. | .recoveryTimer .. | .retrainCompletion ..
  | .widthRetry .. | .transactionRequest .. | .transactionResponse .. | .timeFlit .. | .resignation .. | .powerOn ..
  | .bringupTimeout .. | .droopTrip .. | .thermalTrip .. | .thermalResume .. | .powerLimit .. | .channelRetraining ..
  | .mctpControl .. | .status .. | .measure .. | .notice .. | .update .. | .cap ..
  | .unsupported .. | .pageWalk .. | .holderRecord .. | .checkReply .. | .elementGroupLanding .. | .kSlice ..
  | .backInvalidation .. | .cxlError .. | .throttling .. | .dynamicAddressAssignment .. => true
  | _ => false

/-! ## The encoder -/

/-- The major opcode of an instruction and its fields. An event has no encoding. -/
def Instr.form : Instr → BitVec 7 × Fields
  | .nop f => (0x00#7, .fn f)
  | .br f => (0x01#7, .fjp f)
  | .bcc c f => (0x02#7, .fcj c.code f)
  | .jal f => (0x03#7, .fjp f)
  | .jr f => (0x04#7, .frg 0 f)
  | .loop f => (0x05#7, .fim 0 f)
  | .endl f => (0x06#7, .fn f)
  | .lidx f => (0x07#7, .fim 0 f)
  | .trap f => (0x08#7, .fim 0 f)
  | .eret f => (0x09#7, .fn f)
  | .eretK f => (0x09#7, .fn f)
  | .halt f => (0x0a#7, .fn f)
  | .srd f => (0x0b#7, .fim 0 f)
  | .swr f => (0x0c#7, .fim 0 f)
  | .xfWrite f => (0x0c#7, .fim 0 f)
  | .kpost f => (0x0c#7, .fim 0 f)
  | .ccrun f => (0x0c#7, .fim 0 f)
  | .cctl f => (0x0c#7, .fim 0 f)
  | .rangeRegisterWrite f => (0x0c#7, .fim 0 f)
  | .cdloss f => (0x0c#7, .fim 0 f)
  | .cdrel f => (0x0c#7, .fim 0 f)
  | .fence f => (0x0d#7, .fim 0 f)
  | .waitt f => (0x0e#7, .frg 0 f)
  | .waitm f => (0x0f#7, .ftr 0 f)
  | .add f => (0x10#7, .frg 0 f)
  | .sub f => (0x10#7, .frg 1 f)
  | .and f => (0x10#7, .frg 2 f)
  | .or f => (0x10#7, .frg 3 f)
  | .xor f => (0x10#7, .frg 4 f)
  | .shl f => (0x10#7, .frg 5 f)
  | .shr f => (0x10#7, .frg 6 f)
  | .sra f => (0x10#7, .frg 7 f)
  | .mul f => (0x10#7, .frg 8 f)
  | .mulh f => (0x10#7, .frg 9 f)
  | .mulhn f => (0x10#7, .frg 10 f)
  | .div f => (0x10#7, .frg 11 f)
  | .divn f => (0x10#7, .frg 12 f)
  | .rem f => (0x10#7, .frg 13 f)
  | .remn f => (0x10#7, .frg 14 f)
  | .min f => (0x10#7, .frg 15 f)
  | .max f => (0x10#7, .frg 16 f)
  | .minn f => (0x10#7, .frg 17 f)
  | .maxn f => (0x10#7, .frg 18 f)
  | .slt f => (0x10#7, .frg 19 f)
  | .sltn f => (0x10#7, .frg 20 f)
  | .addi f => (0x11#7, .fim 0 f)
  | .andi f => (0x12#7, .fim 0 f)
  | .ori f => (0x13#7, .fim 0 f)
  | .xori f => (0x14#7, .fim 0 f)
  | .shli f => (0x15#7, .fim 0 f)
  | .shri f => (0x15#7, .fim 1 f)
  | .srai f => (0x15#7, .fim 2 f)
  | .slti f => (0x16#7, .fim 0 f)
  | .sltni f => (0x16#7, .fim 1 f)
  | .li f => (0x17#7, .fwi f)
  | .lih f => (0x18#7, .fks f)
  | .lea f => (0x19#7, .flea f)
  | .clz f => (0x1a#7, .frg 0 f)
  | .ctz f => (0x1a#7, .frg 1 f)
  | .popc f => (0x1a#7, .frg 2 f)
  | .sext8 f => (0x1a#7, .frg 3 f)
  | .sext16 f => (0x1a#7, .frg 4 f)
  | .sext32 f => (0x1a#7, .frg 5 f)
  | .zext8 f => (0x1a#7, .frg 6 f)
  | .zext16 f => (0x1a#7, .frg 7 f)
  | .zext32 f => (0x1a#7, .frg 8 f)
  | .sel f => (0x1b#7, .ftr 0 f)
  | .ld f => (0x20#7, .fim 0 f)
  | .st f => (0x21#7, .fim 0 f)
  | .amo op f => (0x22#7, .ftr op.code f)
  | .cas f => (0x23#7, .ftr 0 f)
  | .red op f => (0x28#7, .ftr op.code f)
  | .pref f => (0x29#7, .fim 0 f)
  | .srts f => (0x24#7, .frg 0 f)
  | .srfa f => (0x25#7, .frg 0 f)
  | .srrd f => (0x26#7, .frg 0 f)
  | .srrdHome f => (0x26#7, .frg 0 f)
  | .srwr f => (0x27#7, .frg 0 f)
  | .forkMx f => (0x30#7, .fjp { f with sub := false })
  | .forkCe f => (0x30#7, .fjp { f with sub := true })
  | .rdv f => (0x31#7, .fim 0 f)
  | .endProg f => (0x32#7, .fn f)
  | .qpop f => (0x33#7, .fn f)
  | .qpush f => (0x34#7, .frg 0 f)
  | .twait f => (0x35#7, .ftr 0 f)
  | .tread f => (0x36#7, .ftr 0 f)
  | .bar f => (0x37#7, .fim 0 f)
  | .launch f => (0x38#7, .fim 0 f)
  | .preempt f => (0x38#7, .fim 1 f)
  | .resume f => (0x38#7, .fim 2 f)
  | .abort f => (0x38#7, .fim 3 f)
  | .tlbinvPage f => (0x39#7, .ftr 0 f)
  | .tlbinvCtx f => (0x39#7, .ftr 0 f)
  | .tlbinvAll f => (0x39#7, .ftr 0 f)
  | .ctxsv f => (0x3a#7, .fim 0 f)
  | .ctxld f => (0x3a#7, .fim 1 f)
  | .ctxsvV f => (0x3a#7, .fim 2 f)
  | .ctxldV f => (0x3a#7, .fim 3 f)
  | .ctxsvVK f => (0x3a#7, .fim 2 f)
  | .ctxldVK f => (0x3a#7, .fim 3 f)
  | .settle f => (0x3b#7, .fim 0 f)
  | .renew f => (0x3c#7, .fim 0 f)
  | .rgset f => (0x3d#7, .ftr 0 f)
  | .rgrd f => (0x3d#7, .ftr 1 f)
  | .nbgo f => (0x3e#7, .ftr 0 f)
  | .nbgoSg f => (0x3e#7, .ftr 0 f)
  | .nbpart f => (0x3f#7, .ftr 0 f)
  | .vsetl f => (0x40#7, .fim 0 f)
  | .vdecl f => (0x41#7, .fim 0 f)
  | .qset f => (0x42#7, .fim 0 f)
  | .qadv f => (0x43#7, .fim 0 f)
  | .vld f => (0x44#7, .fvm f)
  | .vst f => (0x45#7, .fvm f)
  | .vgath f => (0x46#7, .fvm f)
  | .vscat f => (0x47#7, .fvm f)
  | .vldl f => (0x48#7, .fvm f)
  | .vstc f => (0x49#7, .fvm f)
  | .vamo op f => (0x4a#7, .fvx op.code f)
  | .vwait c f => (0x4b#7, .fvx c.code f)
  | .vfence f => (0x4c#7, .fim 0 f)
  | .vred op f => (0x4d#7, .fvx op.code f)
  | .vacc f => (0x4e#7, .ftr 0 f)
  | .vget f => (0x4f#7, .fv3 0 f)
  | .vput f => (0x4f#7, .fv3 1 f)
  | .vbcast f => (0x4f#7, .fv3 2 f)
  | .vadd f => (0x50#7, .fv3 0 f)
  | .vsub f => (0x50#7, .fv3 1 f)
  | .vmul f => (0x50#7, .fv3 2 f)
  | .vmulh f => (0x50#7, .fv3 3 f)
  | .vand f => (0x50#7, .fv3 4 f)
  | .vor f => (0x50#7, .fv3 5 f)
  | .vxor f => (0x50#7, .fv3 6 f)
  | .vshl f => (0x50#7, .fv3 7 f)
  | .vshr f => (0x50#7, .fv3 8 f)
  | .vsra f => (0x50#7, .fv3 9 f)
  | .vmin f => (0x50#7, .fv3 10 f)
  | .vmax f => (0x50#7, .fv3 11 f)
  | .vabs f => (0x50#7, .fv3 12 f)
  | .vsadd f => (0x51#7, .fv3 0 f)
  | .vssub f => (0x51#7, .fv3 1 f)
  | .vmac f => (0x52#7, .fv4 0 f)
  | .vpmac f => (0x52#7, .fv4 1 f)
  | .vsrar f => (0x53#7, .fv3 0 f)
  | .vcmp c f => (0x54#7, .fv3 c.code f)
  | .vmerge f => (0x55#7, .fv3 0 f)
  | .mand f => (0x56#7, .fv3 0 f)
  | .mor f => (0x56#7, .fv3 1 f)
  | .mxor f => (0x56#7, .fv3 2 f)
  | .mnot f => (0x56#7, .fv3 3 f)
  | .mpop f => (0x56#7, .fv3 4 f)
  | .mfirst f => (0x56#7, .fv3 5 f)
  | .mset f => (0x56#7, .fv3 6 f)
  | .viota f => (0x57#7, .fv3 0 f)
  | .vicvt src f => (0x58#7, .fv3 src f)
  | .vfadd f => (0x60#7, .fv3 0 f)
  | .vfsub f => (0x60#7, .fv3 1 f)
  | .vfmul f => (0x60#7, .fv3 2 f)
  | .vfdiv f => (0x60#7, .fv3 3 f)
  | .vfsqrt f => (0x60#7, .fv3 4 f)
  | .vfmin f => (0x60#7, .fv3 5 f)
  | .vfmax f => (0x60#7, .fv3 6 f)
  | .vfabs f => (0x60#7, .fv3 7 f)
  | .vfneg f => (0x60#7, .fv3 8 f)
  | .vfma f => (0x61#7, .fv4 0 f)
  | .vfms f => (0x61#7, .fv4 1 f)
  | .vfnma f => (0x61#7, .fv4 2 f)
  | .vfnms f => (0x61#7, .fv4 3 f)
  | .vfcmp c f => (0x62#7, .fv3 c.code f)
  | .vfclass f => (0x6a#7, .fv3 0 f)
  | .vfcvt src f => (0x63#7, .fv3 src f)
  | .vlgmul f => (0x64#7, .fv3 0 f)
  | .vlgdot f => (0x64#7, .fv3 1 f)
  | .vslideup f => (0x65#7, .fv4 0 f)
  | .vslidedn f => (0x65#7, .fv4 1 f)
  | .vperm f => (0x66#7, .fv3 0 f)
  | .vtlu f => (0x66#7, .fv3 1 f)
  | .vcomp f => (0x67#7, .fv3 0 f)
  | .vexp f => (0x67#7, .fv3 1 f)
  | .vbfx f => (0x68#7, .fv3 0 f)
  | .vreds op f => (0x69#7, .fv4 op.code f)
  | .vdot f => (0x69#7, .fv4 7 f)
  | .mopenLoad f => (0x70#7, .ftr 0 f)
  | .mopenZero f => (0x70#7, .ftr 1 f)
  | .mclose f => (0x71#7, .ftr 0 f)
  | .mzero f => (0x72#7, .ftr 0 f)
  | .mpred f => (0x73#7, .ftr 0 f)
  | .mfmt f => (0x76#7, .ftr 0 f)
  | .mmas f => (0x74#7, .ftr 0 f)
  | .mmaf f => (0x75#7, .ftr 0 f)
  | .cpy f => (0x78#7, .ftr 0 f)
  | .cpy2d f => (0x78#7, .ftr 1 f)
  | .cpyMig f => (0x78#7, .ftr 0 f)
  | .cpym f => (0x79#7, .ftr 0 f)
  | .cpym2d f => (0x79#7, .ftr 1 f)
  | .wsigNum f => (0x7a#7, .ftr 0 f)
  | .wsigAdd f => (0x7a#7, .ftr 1 f)
  | .cfill f => (0x7b#7, .ftr 0 f)
  | .waittExpiry .. => (0#7, .none)
  | .waitmWake .. => (0#7, .none)
  | .waitmDeadline .. => (0#7, .none)
  | .syncRegisterUpdate .. => (0#7, .none)
  | .mirrorUpdate .. => (0#7, .none)
  | .rdvWake .. => (0#7, .none)
  | .qpopWake .. => (0#7, .none)
  | .qpushWake .. => (0#7, .none)
  | .twaitWake .. => (0#7, .none)
  | .restore .. => (0#7, .none)
  | .settlePoint .. => (0#7, .none)
  | .settleCompletion .. => (0#7, .none)
  | .renewPoint .. => (0#7, .none)
  | .renewCompletion .. => (0#7, .none)
  | .walkAhead .. => (0#7, .none)
  | .vwaitWake .. => (0#7, .none)
  | .windowPin .. => (0#7, .none)
  | .mcloseCompletion .. => (0#7, .none)
  | .mxCommandStart .. => (0#7, .none)
  | .partialApplication .. => (0#7, .none)
  | .chunk .. => (0#7, .none)
  | .signal .. => (0#7, .none)
  | .followOn .. => (0#7, .none)
  | .landing .. => (0#7, .none)
  | .vectorDispatch .. => (0#7, .none)
  | .trapEntry .. => (0#7, .none)
  | .kernelTrapEntry .. => (0#7, .none)
  | .release .. => (0#7, .none)
  | .workerSwitch .. => (0#7, .none)
  | .eligibility .. => (0#7, .none)
  | .admissionChecks .. => (0#7, .none)
  | .admission .. => (0#7, .none)
  | .workerCreation .. => (0#7, .none)
  | .launchEnd .. => (0#7, .none)
  | .watchdog .. => (0#7, .none)
  | .homeSliceAccess .. => (0#7, .none)
  | .stage .. => (0#7, .none)
  | .check .. => (0#7, .none)
  | .publish .. => (0#7, .none)
  | .directoryMerge .. => (0#7, .none)
  | .reductionUpdate .. => (0#7, .none)
  | .earlyClean .. => (0#7, .none)
  | .jobDispatch .. => (0#7, .none)
  | .columnAccess .. => (0#7, .none)
  | .jobCompletion .. => (0#7, .none)
  | .flit .. => (0#7, .none)
  | .recoveryTimer .. => (0#7, .none)
  | .retrainCompletion .. => (0#7, .none)
  | .widthRetry .. => (0#7, .none)
  | .transactionRequest .. => (0#7, .none)
  | .transactionResponse .. => (0#7, .none)
  | .timeFlit .. => (0#7, .none)
  | .resignation .. => (0#7, .none)
  | .powerOn .. => (0#7, .none)
  | .bringupTimeout .. => (0#7, .none)
  | .droopTrip .. => (0#7, .none)
  | .thermalTrip .. => (0#7, .none)
  | .thermalResume .. => (0#7, .none)
  | .powerLimit .. => (0#7, .none)
  | .channelRetraining .. => (0#7, .none)
  | .mctpControl .. => (0#7, .none)
  | .status .. => (0#7, .none)
  | .measure .. => (0#7, .none)
  | .notice .. => (0#7, .none)
  | .update .. => (0#7, .none)
  | .cap .. => (0#7, .none)
  | .unsupported .. => (0#7, .none)
  | .pageWalk .. => (0#7, .none)
  | .holderRecord .. => (0#7, .none)
  | .checkReply .. => (0#7, .none)
  | .elementGroupLanding .. => (0#7, .none)
  | .kSlice .. => (0#7, .none)
  | .backInvalidation .. => (0#7, .none)
  | .cxlError .. => (0#7, .none)
  | .throttling .. => (0#7, .none)
  | .dynamicAddressAssignment .. => (0#7, .none)

/-- A Bool as one bit of a word. -/
abbrev bit1 (b : Bool) : BitVec 1 := BitVec.ofBool b

/-- The 32-bit F-V3 tail, highest bits first (R76). -/
def tailV3 (minor : BitVec 5) (f : FV3) : BitVec 32 :=
  f.res ++ f.rnd ++ minor ++ f.et ++ f.mask ++ bit1 f.s ++ bit1 f.mb ++ f.vb ++ bit1 f.ma ++ f.va

/-- The 32-bit F-VM tail (R78). -/
def tailVM (f : FVM) : BitVec 32 :=
  f.res ++ f.idx ++ f.sreg ++ f.nf1 ++ f.mode ++ f.et ++ f.mask ++ f.q

/-- The head field and the tail of fields, highest bits first (R71 to R81); the tail is zero above its length. -/
def Fields.assemble : Fields → BitVec 2 × BitVec 7 × BitVec 48
  | .none => (0, 0, 0)
  | .fn f => (0, f.h, 0)
  | .frg m f => (1, m.extractLsb' 4 2 ++ f.gd,
      (m.extractLsb' 0 4 ++ bit1 f.mb ++ f.gb ++ bit1 f.ma ++ f.ga : BitVec 16).setWidth 48)
  | .fks f => (1, f.h, f.imm.setWidth 48)
  | .fim m f => (2, f.h, (f.imm ++ m ++ bit1 f.ma ++ f.ga : BitVec 32).setWidth 48)
  | .flea f => (2, f.h, (f.imm ++ bit1 f.mb ++ f.gb ++ f.scale ++ bit1 f.ma ++ f.ga : BitVec 32).setWidth 48)
  | .fjp f => (2, f.h, (bit1 f.sub ++ f.target : BitVec 32).setWidth 48)
  | .ftr m f => (2, f.h,
      (f.imm ++ m ++ bit1 f.mc ++ f.gc ++ bit1 f.mb ++ f.gb ++ bit1 f.ma ++ f.ga : BitVec 32).setWidth 48)
  | .fv3 m f => (2, f.h, (tailV3 m f).setWidth 48)
  | .fvm f => (2, f.h, (tailVM f).setWidth 48)
  | .fwi f => (3, f.h, f.imm)
  | .fcj c f => (3, f.h,
      bit1 f.r47 ++ f.target ++ bit1 f.r15 ++ c ++ bit1 f.mb ++ f.gb ++ bit1 f.ma ++ f.ga)
  | .fv4 m f => (3, f.v.h, f.res ++ bit1 f.mc ++ f.vc ++ tailV3 m f.v)
  | .fvx m f => (3, f.m.h, f.scope ++ f.ord ++ m ++ bit1 f.mb ++ f.vb ++ tailVM f.m)

/-- The head and the tail of an instruction (R62). -/
def encode (i : Instr) : BitVec 16 × BitVec 48 :=
  let (op, f) := i.form
  let (tl, h, t) := f.assemble
  (op ++ tl ++ h, t)

/-! ## The table's numbers -/

/-- The head and tail of a number of the opcode table: the head stands above its tail (spec/opcode_table.json
gives JR, head 0x0880 with a 16-bit tail, as 0x08800000). -/
def tableHeadTail (nbits w : Nat) : BitVec 16 × BitVec 48 :=
  let tb := nbits - 16
  (BitVec.ofNat 16 (w >>> tb), BitVec.ofNat 48 (w % 2 ^ tb))

/-- The instruction the decoder reads from the table number `w` of `nbits` bits: the head and tail are laid in
a line as R55 lays them, and the line is decoded as a control core decodes it. -/
def decodeTableWord (nbits w : Nat) : Option Instr :=
  let ht := tableHeadTail nbits w
  let line := oneInstrLine ht.1 ht.2
  if LineBits.legal line then decodeSlot .cc line 1 else none

end Sys2Proof
end

