-- ==== Sys2Proof/Machine/Parts.lean ====
section
/-! DEFINITION. The parts of the state and the accessors through which every meaning reads and writes them:
association lists, sequencers, registers, timelines, contexts, launches, dies and time. -/

namespace Sys2Proof.Machine

/-- A quotient rounded up. -/
def ceilDiv (n k : Nat) : Nat := if n % k = 0 then n / k else n / k + 1

/-! ## Lists by key -/

/-- The value under a key, or a default. -/
def assocGet {α β : Type} [DecidableEq α] (l : List (α × β)) (k : α) (d : β) : β :=
  match l with
  | [] => d
  | (k', v) :: r => if k' = k then v else assocGet r k d

/-- The value under a key, if any. -/
def assocFind {α β : Type} [DecidableEq α] (l : List (α × β)) (k : α) : Option β :=
  match l with
  | [] => none
  | (k', v) :: r => if k' = k then some v else assocFind r k

/-- A list with the value under a key replaced, or added at its end. -/
def assocPut {α β : Type} [DecidableEq α] (l : List (α × β)) (k : α) (v : β) : List (α × β) :=
  match l with
  | [] => [(k, v)]
  | (k', v') :: r => if k' = k then (k, v) :: r else (k', v') :: assocPut r k v

/-- A list without the entry under a key. -/
def assocDrop {α β : Type} [DecidableEq α] (l : List (α × β)) (k : α) : List (α × β) :=
  l.filter fun p => p.1 != k

/-- Replaces the elements that satisfy a test. -/
def mapIf {α : Type} (l : List α) (c : α → Bool) (f : α → α) : List α :=
  l.map fun x => if c x then f x else x

/-! ## Registers -/

/-- Reads a g register: g0 reads 0 (R64, R118). -/
def Bank.read (b : Bank) (r : BitVec 5) : Word := if r = 0 then 0 else b.g.getD r.toNat 0

/-- Writes a g register: it becomes full and its poison mark is cleared (R120, R121); g0 ignores the write. -/
def Bank.write (b : Bank) (r : BitVec 5) (v : Word) : Bank :=
  if r = 0 then b
  else
    { b with
      g := b.g.setIfInBounds r.toNat v
      empty := b.empty &&& ~~~(BitVec.twoPow 32 r.toNat)
      marks := b.marks.setIfInBounds r.toNat none }

/-- Marks a destination empty when a long-latency producer issues (R118); g0 is always full. -/
def Bank.markEmpty (b : Bank) (r : BitVec 5) : Bank :=
  if r = 0 then b else { b with empty := b.empty ||| BitVec.twoPow 32 r.toNat }

/-- A register is empty (R118). -/
def Bank.isEmpty (b : Bank) (r : BitVec 5) : Bool := r != 0 && b.empty.getLsbD r.toNat

/-- The poison mark of a register, if it carries one (R121). -/
def Bank.mark (b : Bank) (r : BitVec 5) : Option Mark := if r = 0 then none else b.marks.getD r.toNat none

/-- A landing that carries an uncorrectable error fills its register with a poison mark (R121). -/
def Bank.writeMark (b : Bank) (r : BitVec 5) (m : Mark) : Bank :=
  if r = 0 then b
  else
    { b with
      g := b.g.setIfInBounds r.toNat 0
      empty := b.empty &&& ~~~(BitVec.twoPow 32 r.toNat)
      marks := b.marks.setIfInBounds r.toNat (some m) }

/-! ## Sequencers -/

/-- The kind of a sequencer (R82). -/
def kindOf (q : SeqId) : SeqKind :=
  match q with
  | .cc _ => .cc
  | .worker _ => .vc
  | .mx _ _ => .mx
  | .ce _ _ => .ce

/-- The fault source of a sequencer: SEQ, MX or CE (R145). -/
def sourceOf (q : SeqId) : Nat :=
  match q with
  | .mx _ _ => 2
  | .ce _ _ => 3
  | _ => 0

/-- The worker a sequencer is or was forked by (R39). -/
def ownerOf (q : SeqId) : Option WKey :=
  match q with
  | .cc _ => none
  | .worker w => some w
  | .mx w _ => some w
  | .ce w _ => some w

/-- The sequencer with its state, if it exists. -/
def State.getSeq (s : State) (q : SeqId) : Option Seq := if q = s.cur then some s.core else assocFind s.seqs q

/-- The state of a sequencer; one that does not exist reads as at power-on. -/
def State.seqD (s : State) (q : SeqId) : Seq := (s.getSeq q).getD Seq.reset

/-- Puts a sequencer's state in place. -/
def State.setSeq (s : State) (q : SeqId) (x : Seq) : State :=
  if q = s.cur then { s with core := x } else { s with seqs := assocPut s.seqs q x }

/-- Changes a sequencer, if it exists. -/
def State.modSeq (s : State) (q : SeqId) (f : Seq → Seq) : State :=
  match s.getSeq q with
  | none => s
  | some x => s.setSeq q (f x)

/-- A sequencer ceases to exist. The place of the current one stays, as ended. -/
def State.dropSeq (s : State) (q : SeqId) : State :=
  if q = s.cur then { s with core := { Seq.reset with run := .ended } } else { s with seqs := assocDrop s.seqs q }

/-- Makes a sequencer the current one. A control core not named yet has its state of power-on (R428). -/
def State.select (s : State) (q : SeqId) : State :=
  if q = s.cur then s
  else
    let s1 := { s with seqs := assocPut s.seqs s.cur s.core }
    { s1 with cur := q, core := (assocFind s1.seqs q).getD Seq.reset, seqs := assocDrop s1.seqs q }

/-- Every sequencer with its state. -/
def State.allSeqs (s : State) : List (SeqId × Seq) := (s.cur, s.core) :: s.seqs

/-- The worker that owns a sequencer, with its state. -/
def State.ownerSeq (s : State) (q : SeqId) : Seq :=
  match ownerOf q with
  | none => s.seqD q
  | some w => s.seqD (.worker w)

/-- The die a sequencer stands on: its VC's, its forking worker's, or its base die (R4). -/
def State.dieOf (s : State) (q : SeqId) : Nat :=
  match q with
  | .cc n => n / 8
  | _ => (s.ownerSeq q).w.place.die

/-- The cluster a sequencer stands in, die × 16 + cluster (R306); none for a control core. -/
def State.clusterOf (s : State) (q : SeqId) : Option Nat :=
  match q with
  | .cc _ => none
  | _ => some ((s.ownerSeq q).w.place.die * 16 + (s.ownerSeq q).w.place.cluster)

/-- The path by which a sequencer's accesses reach the slices: 0 to 63 a cluster, 64 to 95 a control core. -/
def State.pathOf (s : State) (q : SeqId) : Nat :=
  match q with
  | .cc n => 64 + n
  | _ => (s.clusterOf q).getD 0

/-- The number of a worker's VC in the module (R4). -/
def Place.vc (p : Place) : Nat := 512 * p.die + p.cluster * 32 + p.core

/-- The context a sequencer runs in: context 0 at K on a control core, its U context at U (R425). -/
def Seq.ctxOn (x : Seq) (q : SeqId) : Nat :=
  match q with
  | .cc _ => if x.priv = .k then 0 else x.cc.uctx.toNat
  | .worker w => w.ctx
  | .mx w _ => w.ctx
  | .ce w _ => w.ctx

/-- The context the current sequencer runs in. -/
def State.curCtx (s : State) : Nat := s.core.ctxOn s.cur

/-- Changes the current sequencer. -/
def State.modCore (s : State) (f : Seq → Seq) : State := { s with core := f s.core }

/-- Writes a g register of the current sequencer. -/
def State.setG (s : State) (r : BitVec 5) (v : Word) : State :=
  { s with core := { s.core with bank := s.core.bank.write r v } }

/-- Marks a g register of the current sequencer empty. -/
def State.emptyG (s : State) (r : BitVec 5) : State :=
  { s with core := { s.core with bank := s.core.bank.markEmpty r } }

/-- Sets the PC of the current sequencer. -/
def State.setPc (s : State) (pc : Word) : State := { s with core := { s.core with pc := pc } }

/-! ## The program counter -/

/-- The line address of a PC (R57). -/
def pcLine (pc : Word) : Word := pc &&& ~~~63#64

/-- The slot of a PC (R57). -/
def pcSlot (pc : Word) : Nat := (pc.extractLsb' 0 6).toNat

/-- The PC after an instruction that does not transfer control, in a line of n heads (R58). -/
def nextPc (n : Nat) (pc : Word) : Word :=
  if pcSlot pc < n then pc + 1 else pcLine pc + 64 + 1

/-- N of the line the current sequencer executes in; a sequencer that keeps no line is taken to stand at the last
slot of its line. -/
def Seq.heads (x : Seq) : Nat :=
  match x.line with
  | some (a, l) => if a = pcLine x.pc then LineBits.heads l else 0
  | none => 0

/-- The PC that R58 gives after the current instruction. -/
def State.nextPc (s : State) : Word := Machine.nextPc s.core.heads s.core.pc

/-- The current sequencer goes on by R58. A boundary is a ply boundary while the loop stack is empty (R13). -/
def State.advance (s : State) : State :=
  { s with core := { s.core with pc := s.nextPc, ply := s.core.bank.loops.isEmpty } }

/-- The target of a branch target field (R59). -/
def branchTarget (pc : Word) (t : BitVec 31) : Word :=
  pcLine pc + ((t.extractLsb' 5 26).signExtend 64 <<< 6) + (t.extractLsb' 0 5).setWidth 64

/-- The current sequencer goes on at a PC. -/
def State.jump (s : State) (pc : Word) : State :=
  { s with core := { s.core with pc := pc, ply := s.core.bank.loops.isEmpty } }

/-! ## Timelines -/

/-- The counter advances over a contiguous run of completed numbers (R41). -/
def advanceCount (done : List Nat) : Nat → Nat → Nat
  | 0, c => c
  | fuel + 1, c => if done.contains (c + 1) then advanceCount done fuel (c + 1) else c

/-- Operation n completes (R41, R43). -/
def Timeline.complete (t : Timeline) (n : Nat) (failed : Bool) : Timeline :=
  let done := n :: t.done
  let c := advanceCount done done.length t.count
  { t with
    count := c
    done := done.filter (fun k => decide (c < k))
    poison := if failed then some (match t.poison with
      | none => n
      | some p => Nat.min p n) else t.poison }

/-- Takes the next number (R41). -/
def Timeline.take (t : Timeline) : Timeline := { t with issued := t.issued + 1 }

/-- Every operation of a timeline has completed. -/
def Timeline.idle (t : Timeline) : Bool := t.count == t.issued

/-- A TWAIT for n meets a poison (R43). -/
def Timeline.poisonedAt (t : Timeline) (n : Nat) : Bool :=
  match t.poison with
  | none => false
  | some p => decide (p ≤ n)

/-- The timelines of a sequencer by TLK (R182): 0 TLV, 1 TLM, 2 TLC, 3 TLN. -/
def Seq.timeline (x : Seq) (k : Nat) : Timeline :=
  match k with
  | 0 => x.tlv
  | 1 => x.tlm
  | 2 => x.tlc
  | _ => x.tln

/-- Puts a timeline in place. -/
def Seq.setTimeline (x : Seq) (k : Nat) (t : Timeline) : Seq :=
  match k with
  | 0 => { x with tlv := t }
  | 1 => { x with tlm := t }
  | 2 => { x with tlc := t }
  | _ => { x with tln := t }

/-- Operation n of a sequencer's timeline k completes. -/
def State.completeOp (s : State) (q : SeqId) (k n : Nat) (failed : Bool) : State :=
  s.modSeq q fun x => x.setTimeline k ((x.timeline k).complete n failed)

/-- Some timeline of a sequencer is poisoned. -/
def Seq.poisoned (x : Seq) : Bool :=
  x.tlv.poison.isSome || x.tlm.poison.isSome || x.tlc.poison.isSome || x.tln.poison.isSome

/-! ## Contexts and launches -/

/-- A context. Context 0 is always enabled (R429). -/
def State.ctx (s : State) (c : Nat) : Context := assocGet s.ctxs c Context.reset

/-- Changes a context. -/
def State.modCtx (s : State) (c : Nat) (f : Context → Context) : State :=
  { s with ctxs := assocPut s.ctxs c (f (s.ctx c)) }

/-- A context is enabled (R429). -/
def State.enabled (s : State) (c : Nat) : Bool := c == 0 || (s.ctx c).enable

/-- A region table entry (R316). -/
def State.region (s : State) (c k : Nat) : Region := assocGet (s.ctx c).regions k Region.reset

/-- Changes a region table entry. -/
def State.modRegion (s : State) (c k : Nat) (f : Region → Region) : State :=
  s.modCtx c fun x => { x with regions := assocPut x.regions k (f (assocGet x.regions k Region.reset)) }

/-- The launch of a context in a slot. -/
def State.launch? (s : State) (c slot : Nat) : Option Launch :=
  s.launches.find? fun l => l.ctx == c && l.slot == slot

/-- Changes a launch. -/
def State.modLaunch (s : State) (c slot : Nat) (f : Launch → Launch) : State :=
  { s with launches := mapIf s.launches (fun l => l.ctx == c && l.slot == slot) f }

/-- A launch is being torn down (R48). -/
def Launch.torn (l : Launch) : Bool :=
  match l.phase with
  | .tearing _ => true
  | _ => false

/-- FAULTS of a launch gains one (R43), saturating (R45); it counts only what happens before a teardown (R48). -/
def State.countFault (s : State) (c slot : Nat) : State :=
  s.modLaunch c slot fun l => if l.torn then l else { l with faults := Nat.min 65535 (l.faults + 1) }

/-- The stage a worker executes. -/
def State.stageOf (s : State) (w : WKey) : Option Stage :=
  (s.launch? w.ctx w.slot).bind fun l => l.stages[(s.seqD (.worker w)).w.stage]?

/-- The workers that exist, with their state. -/
def State.workers (s : State) : List (WKey × Seq) :=
  s.allSeqs.filterMap fun p =>
    match p.1 with
    | .worker w => if p.2.run = .ended then none else some (w, p.2)
    | _ => none

/-- The workers of a launch. -/
def State.launchWorkers (s : State) (c slot : Nat) : List (WKey × Seq) :=
  s.workers.filter fun p => p.1.ctx == c && p.1.slot == slot

/-! ## Dies and time -/

/-- A die. -/
def State.die (s : State) (d : Nat) : Die := s.dies.getD d Die.reset

/-- Changes a die. -/
def State.modDie (s : State) (d : Nat) (f : Die → Die) : State :=
  { s with dies := s.dies.setIfInBounds d (f (s.die d)) }

/-- TIME as a sequencer reads it: its die's copy (R415, R416). -/
def State.timeOf (s : State) (q : SeqId) : Word := (s.die (s.dieOf q)).time

/-- Every worker of a launch stands at a DEBUG-BREAK (R51). -/
def State.allHalted (s : State) (l : Launch) : Bool :=
  let ws := s.launchWorkers l.ctx l.slot
  !ws.isEmpty && ws.all fun p => p.2.run == .parked .kpost && p.2.cause.toNat % 64 == 31

/-- The watchdog of a launch counts: from admission, but not while it is pre-empted or every worker is halted by a
debugger (R51). -/
def State.watched (s : State) (l : Launch) : Bool :=
  match l.phase with
  | .admitted => !s.allHalted l
  | .preempting => !s.allHalted l
  | .restoring => !s.allHalted l
  | _ => false

/-- What a die slews while time passes: at most 1 ns in every 100 ns (R415). -/
def Die.slewNow (d : Die) (ns : Nat) : Int :=
  let most : Int := ((d.slewLeft + ns) / 100 : Nat)
  max (-most) (min most d.slew)

/-- What a die's copy advances while time passes (R415). -/
def Die.advance (d : Die) (ns : Nat) : Nat := Int.toNat (ns + d.slewNow ns)

/-- Time passes on a die's copy, which slews and never runs backward (R415). -/
def Die.pass (d : Die) (ns : Nat) : Die :=
  { d with
    time := d.time + BitVec.ofNat 64 (d.advance ns)
    slew := d.slew - d.slewNow ns
    slewLeft := (d.slewLeft + ns) % 100 }

/-- The stack a channel lies on: 64 channels of the in-place devices on each, and from 256 those of the LPDDR-6 packages in
turn (R296, R449). -/
def channelStack (c : Nat) : Nat := if c < 256 then c / 64 else c % 4

/-- The channels of a stack (R449). -/
def stackChannels (d : Nat) : List Nat :=
  ((List.range 64).map fun k => 64 * d + k) ++ (List.range Config.lpddrChannels).map fun k => 256 + 4 * k + d

/-- 30 minutes, in nanoseconds (R449). -/
def halfHour : Nat := 1800000000000

/-- When a channel became due for retraining, if it is: by temperature, or 30 minutes after its last training (R449). The
training of step 4 of R444 ends before device time starts. -/
def State.dueAt (s : State) (c : Nat) : Option Nat :=
  let elapsed := (assocGet s.mgmt.retrained c 0).toNat + halfHour
  let old := decide (elapsed ≤ (s.die 0).time.toNat)
  match assocFind s.mgmt.due c with
  | some t => some (if old then Nat.min t.toNat elapsed else t.toNat)
  | none => if old then some elapsed else none

/-- A channel retrains (R449). -/
def State.trains (s : State) (c : Nat) : Bool := s.mgmt.training.any fun t => t.1 == c

/-- Some channel of a stack retrains (R449). -/
def State.stackTrains (s : State) (d : Nat) : Bool := s.mgmt.training.any fun t => channelStack t.1 == d

/-- No other channel of the stack became due before a moment (R449). -/
def State.noneDueBefore (s : State) (d t : Nat) : Bool :=
  let later (c : Nat) : Bool := match s.dueAt c with
    | some u => decide (t ≤ u)
    | none => true
  (s.mgmt.due.all fun p => channelStack p.1 != d || later p.1) &&
    (decide ((s.die 0).time.toNat < halfHour) || (stackChannels d).all later)

/-- A notice for a die whose deadline has not come (R453). -/
def State.noticeRuns (s : State) (d : Nat) : Bool :=
  s.mgmt.notices.any fun n => n.1 == d && decide ((s.die d).time < n.2)

/-- An update of a die waits for nothing but the end of a retraining (R454). -/
def State.updateReady (s : State) (d : Nat) : Bool := s.mgmt.updates.any fun u => u.1 == d && !s.noticeRuns d

/-- A channel may start to retrain: it is due, no channel of its stack retrains, none was due earlier (R449), and its die has not
been asked to resign (R454). -/
def State.mayTrain (s : State) (c : Nat) : Bool :=
  match s.dueAt c with
  | some t => !s.stackTrains (channelStack c) && s.noneDueBefore (channelStack c) t && !s.updateReady (channelStack c)
  | none => false

/-- A retraining that has lasted 4 µs (R449). -/
def State.trained (s : State) (t : Nat × Word) : Bool := decide (t.2.toNat + 4000 ≤ (s.die 0).time.toNat)

/-- The retraining of a channel ends (R449). -/
def Mgmt.endTraining (m : Mgmt) (t : Nat × Word) (now : Word) : Mgmt :=
  { m with training := m.training.filter fun x => x.1 != t.1, retrained := assocPut m.retrained t.1 now }

/-- A retraining lasts at most 4 µs (R449). -/
def State.settleTraining (s : State) : State :=
  { s with mgmt := (s.mgmt.training.filter s.trained).foldl (fun m t => m.endTraining t (t.2 + 4000)) s.mgmt }

/-- Time passes on every die once BD0 has been released (R415, R444), and the watchdogs count what the copies of the lead dies
advance (R416). -/
def State.passTime (s : State) (ns : Nat) : State :=
  if s.mgmt.step < 5 then s
  else
    State.settleTraining { s with
      dies := s.dies.map fun d => d.pass ns
      launches := mapIf s.launches s.watched fun l =>
        { l with watch := l.watch + ((s.die l.lead).advance ns) } }

/-- The next number to give. -/
def State.takeId (s : State) : Nat × State := (s.nextId, { s with nextId := s.nextId + 1 })

/-- The next free value's index. -/
def State.takeFree (s : State) : Nat × State := (s.fresh, { s with fresh := s.fresh + 1 })

/-- The die masks and dies in service. -/
def State.inService (s : State) (d : Nat) : Bool := decide (d < 4) && !(s.die d).resigned

end Sys2Proof.Machine
end

