-- ==== Sys2Proof/Machine/Memory.lean ====
section
/-! DEFINITION. Memory as the slices see it: the arrays, the populated ranges, the range registers, the lines of
the slices, the stage buffers with the directory, and the L1 and control-core caches (R11, R296 to R315, R322 to
R339). What a function does to memory is one indivisible action of a step. -/

namespace Sys2Proof.Machine

/-! ## Byte memories in canonical form -/

/-- What an address that is not listed reads as (R444: every line is written as zero at bring-up). -/
def unlisted : Byte := 0

/-- Reads a byte. -/
def cellsGet (l : List Host.Cell) (a : Nat) : Byte :=
  match l with
  | [] => unlisted
  | (x, v) :: r => if x = a then v else cellsGet r a

/-- Writes a byte, keeping the addresses rising and listing no byte equal to what an unlisted address reads as. -/
def cellsPut (l : List Host.Cell) (a : Nat) (b : Byte) : List Host.Cell :=
  match l with
  | [] => if b = unlisted then [] else [(a, b)]
  | (x, v) :: r =>
    if a < x then if b = unlisted then (x, v) :: r else (a, b) :: (x, v) :: r
    else if a = x then if b = unlisted then r else (a, b) :: r
    else (x, v) :: cellsPut r a b

/-- The canonical form: addresses strictly rising, and no byte equal to what an unlisted address reads as. -/
def cellsWf (l : List Host.Cell) : Bool :=
  match l with
  | [] => true
  | (a, b) :: r => b != unlisted && r.all (fun c => decide (a < c.1)) && cellsWf r

/-- The memory of a state is in canonical form. -/
def Memory.wf (m : Mem) : Bool := cellsWf m.arrays

/-- The bytes from an address, as a number with the byte at the lowest address lowest (R7). -/
def cellsNum (l : List Host.Cell) (a n : Nat) : Nat :=
  l.foldl (fun acc c => if a ≤ c.1 ∧ c.1 < a + n then acc ||| (c.2.toNat <<< (8 * (c.1 - a))) else acc) 0

/-- Writes the bytes of a number at an address. -/
def cellsPutNum (l : List Host.Cell) (a : Nat) : Nat → Nat → List Host.Cell
  | 0, _ => l
  | n + 1, v => cellsPutNum (cellsPut l a (BitVec.ofNat 8 v)) (a + 1) n (v / 256)

/-- Writes the bytes of a line that a byte mask selects. -/
def cellsPutLine (l : List Host.Cell) (a : Nat) (d : LineBits) (m : BitVec 64) : List Host.Cell :=
  (List.range 64).foldl (fun acc k => if m.getLsbD k then cellsPut acc (a + k) (d.extractLsb' (8 * k) 8) else acc) l

/-! ## Masks and merges of a line -/

/-- The bits of a line that `n` bits from bit `lo` cover. -/
def bitMask (lo n : Nat) : LineBits := ((BitVec.allOnes 512) >>> (512 - n)) <<< lo

/-- The bytes of a line in which a bit mask selects a bit. -/
def byteMask (m : LineBits) : BitVec 64 :=
  (List.range 64).foldl (fun acc k => if m.extractLsb' (8 * k) 8 != 0#8 then acc ||| BitVec.twoPow 64 k else acc) 0

/-- A line with the selected bits replaced. -/
def mergeLine (old d m : LineBits) : LineBits := (old &&& ~~~m) ||| (d &&& m)

/-- A value placed in a line at a byte offset. -/
def placeAt (off n v : Nat) : LineBits × LineBits :=
  ((BitVec.ofNat 512 (v % 2 ^ (8 * n))) <<< (8 * off), bitMask (8 * off) (8 * n))

/-- `n` bytes of a line from a byte offset, as a number. -/
def lineNum (l : LineBits) (off n : Nat) : Nat := (l.extractLsb' (8 * off) (8 * n)).toNat

/-- The line that holds a byte address. -/
def lineOf (a : Nat) : Nat := 64 * (a / 64)

/-! ## Where an address lies -/

/-- The bytes of the CXL range that are populated: at most 10,752 GB (R1, R11). -/
def cxlSize : Nat := Nat.min Config.cxlBytes 10752000000000

/-- The range of R11 that holds an address: 1 in-place memory, 2 LPDDR-6, 3 CXL, 4 the coded aperture, 5 the device
registers, 0 nothing. -/
def rangeOf (a : Nat) : Nat :=
  if a < 2 ^ 38 then 1
  else if 2 ^ 50 ≤ a then 5
  else if 2 ^ 49 ≤ a then 4
  else if 2 ^ 40 ≤ a ∧ a < 2 ^ 40 + 1536000000000 then 2
  else if 2 ^ 42 ≤ a ∧ a < 2 ^ 42 + cxlSize then 3
  else 0

/-- `n` bytes lie wholly inside one range of R11. -/
def insideOne (a n : Nat) : Bool := n == 0 || (rangeOf a != 0 && rangeOf a == rangeOf (a + n - 1))

/-- The sum of R297 and R298. -/
def sliceSum (a : Nat) : Nat := a / 2 ^ 6 % 2 ^ 15 + 7 * (a / 2 ^ 23 % 2 ^ 15) + 13 * (a / 2 ^ 38 % 2 ^ 12)

/-- The slice of a line on a die (R297). -/
def sliceOf (a : Nat) : Nat := sliceSum a % 48

/-- The set of a line in its slice (R298). -/
def setOf (a : Nat) : Nat := sliceSum a / 48 % 2048

/-! ## Range registers -/

/-- FMT of a range register (R323). -/
def RangeReg.fmt (r : RangeReg) : Nat := (r.ctl.extractLsb' 0 2).toNat

/-- The window of a range register with a format holds an address (R323). -/
def RangeReg.covers (r : RangeReg) (a : Nat) : Bool :=
  r.fmt != 0 && decide (r.base.toNat ≤ a) && decide (a < r.base.toNat + r.len.toNat)

/-- The range register that governs an address, the lowest-numbered (R325). -/
def State.governing (s : State) (a : Nat) : Option Nat :=
  (List.range 32).find? fun n =>
    match s.ranges[n]? with
    | some r => r.covers a
    | none => false

/-- A range register. -/
def State.range (s : State) (n : Nat) : RangeReg := s.ranges.getD n { base := 0, len := 0, store := 0, ctl := 0 }

/-- The format that governs an address: 0 plain, 1 FP64-coded, 2 lg6-tagged. -/
def State.fmtAt (s : State) (a : Nat) : Nat :=
  match s.governing a with
  | none => 0
  | some n => (s.range n).fmt

/-- Where the decoded line of an FMT-1 window is stored, and in how many bytes (R326). -/
def RangeReg.storage (r : RangeReg) (la : Nat) : Nat × Nat :=
  let k := (la - r.base.toNat) / 64
  let bud := (r.ctl.extractLsb' 4 3).toNat
  (r.store.toNat + k / budLines bud * 64 + k % budLines bud * budBytes bud, budBytes bud)

/-- The home die of a line (R297, R327). -/
def State.homeDie (s : State) (a : Nat) : Nat :=
  if rangeOf a = 4 then
    match s.governing a with
    | some n => ((s.range n).storage (lineOf a)).1 / 2 ^ 21 % 4
    | none => a / 2 ^ 21 % 4
  else a / 2 ^ 21 % 4

/-- The channel whose device holds a physical address (R296, R449): of the in-place devices 0 to 255, of the LPDDR-6
packages from 256; none for the other ranges. -/
def channelAt (a : Nat) : Option Nat :=
  match rangeOf a with
  | 1 => some (a / 2 ^ 15 % 256)
  | 2 => some (256 + 4 * Config.lpddrChannel (a / 64) + a / 2 ^ 21 % 4)
  | _ => none

/-- The channel behind a line's home slice (R326, R449). -/
def State.channelFor (s : State) (la : Nat) : Option Nat :=
  if rangeOf la = 4 then (s.governing la).bind fun n => channelAt ((s.range n).storage la).1 else channelAt la

/-- The channel behind a line retrains: what needs it waits (R449). -/
def State.retraining (s : State) (la : Nat) : Bool :=
  !s.mgmt.training.isEmpty && match s.channelFor la with
    | some c => s.trains c
    | none => false

/-- The number of a home slice in the module, die × 64 + slice. -/
def State.homeOf (s : State) (a : Nat) : Nat := s.homeDie a * 64 + sliceOf a

/-- A line lies in banks in which pawns may work while its channel's mode is 1: below 2^38 with PA<14> = 0 (R374, R375). -/
def pawnBank (a : Nat) : Bool := decide (a < 2 ^ 38) && decide (a / 2 ^ 14 % 2 = 0)

/-- A line of an in-place page as R375 and R374 place it: in a pawn's bank, in a channel of mode 1. -/
def State.inPlaceLine (s : State) (a : Nat) : Bool := pawnBank a && s.channels.getLsbD (a / 2 ^ 15 % 256)

/-! ## Posts -/

/-- A post with no worker (R438). -/
def Post.hardware (cond ctx slot : Nat) (eaddr : Word) : Post :=
  { frame := 0, operand := 0, cause := BitVec.ofNat 9 (5 * 64 + cond), epc := 0, eaddr := eaddr, eidx := 0, ctx := ctx,
    slot := slot, wid := 0, nested := false, direct := true }

/-- A post waits for the kernel fault queue (R437). -/
def State.post (s : State) (p : Post) : State := { s with kfqWaiting := s.kfqWaiting ++ [p] }

/-- A post of the hardware (R438). The fields the spec states no value for are free; `eaddr` is EADDR where it states
one. -/
def State.postHardware (s : State) (cond ctx slot : Nat) (eaddr : Option Word) : State :=
  let (n, s1) := s.takeFree
  s1.post { Post.hardware cond ctx slot (eaddr.getD (Config.unstated n 0)) with
    operand := Config.unstated n 1, epc := Config.unstated n 2, eidx := (Config.unstated n 3).toNat % 2 ^ 15,
    wid := (Config.unstated n 4).toNat % 4096 }

/-! ## Routes and messages (R409, R417) -/

/-- The directed pairs crossed clockwise from a die: pair p joins dies p and p + 1. -/
def routeUp (a n : Nat) : List Nat := (List.range n).map fun i => (a + i) % 4 * 2

/-- The directed pairs crossed the other way. -/
def routeDown (a n : Nat) : List Nat := (List.range n).map fun i => (a + 3 - i) % 4 * 2 + 1

/-- The die a directed pair leads to. -/
def hopEnd (h : Nat) : Nat := if h % 2 = 0 then (h / 2 + 1) % 4 else h / 2

/-- A route works: none of its pairs is lost, and no die on the way is resigned (R417, R418). -/
def State.routeWorks (s : State) (r : List Nat) : Bool :=
  r.all fun h => !s.lost.contains (h / 2) && s.inService (hopEnd h)

/-- The route between two dies: the direct pair, or for dies that are not adjacent the lower-numbered die between
them, while it works; else the other way round the ring (R409, R417). -/
def State.route (s : State) (a b : Nat) : List Nat :=
  let up := (b + 4 - a) % 4
  if up = 0 then []
  else
    let u := routeUp a up
    let d := routeDown a (4 - up)
    let first := if up = 1 then u else if up = 3 then d else if (a + 1) % 4 < (a + 3) % 4 then u else d
    let other := if first = u then d else u
    if s.routeWorks first then first else other

/-- Puts a message on its way from one die to another, with the context it was checked through and the release it waits for. -/
def State.sendFor (s : State) (ctx : Option Nat) (rel : Option (Nat × Nat)) (src : SeqId) (path : Nat) (pa : Nat) (va : Word) (len : Nat)
    (body : Body) (fromDie toDie dest : Nat) : State :=
  let m : Msg := { id := s.nextId, src := src, path := path, ctx := ctx, rel := rel, pa := pa, va := va, len := len,
                   body := body, hops := s.route fromDie toDie, dest := dest, tag := none, floor := 0, reply := none }
  { s with net := { s.net with msgs := s.net.msgs ++ [m] }, nextId := s.nextId + 1 }

/-- Puts a message on its way that waits for no release and was checked through no context. -/
def State.send (s : State) (src : SeqId) (path : Nat) (pa : Nat) (va : Word) (len : Nat) (body : Body)
    (fromDie toDie dest : Nat) : State := s.sendFor none none src path pa va len body fromDie toDie dest

/-! ## The arrays -/

/-- Changes memory. -/
def State.modMem (s : State) (f : Mem → Mem) : State := { s with mem := f s.mem }

/-- The poison the arrays' metadata hold for a line (R313): none, or whether it came from a window line. -/
def State.badAt (s : State) (la : Nat) : Option Bool := assocFind s.mem.bad la

/-- The bytes that a fill of a line brings, with its poison and its scale tag (R334, R335). -/
def State.fetchLine (s : State) (la : Nat) : LineBits × Option Bool × BitVec 8 :=
  match s.governing la with
  | none => (BitVec.ofNat 512 (cellsNum s.mem.arrays la 64), s.badAt la, 0)
  | some n =>
    let r := s.range n
    if r.fmt = 1 then
      let (a, b) := r.storage la
      (decodeLine b (cellsNum s.mem.arrays a b), s.badAt la, 0)
    else
      (BitVec.ofNat 512 (cellsNum s.mem.arrays la 64), s.badAt la,
        if r.fmt = 2 then r.ctl.extractLsb' 8 8 else 0)

/-- A count gains one, saturating (R332). -/
def satInc (w : Word) (c : Bool) : Word := if c && w != BitVec.allOnes 64 then w + 1 else w

/-- The bytes of a storage line beyond its decoded lines are written as zero (R326). -/
def State.clearTail (s : State) (n : Nat) (la : Nat) : State :=
  let r := s.range n
  let bud := (r.ctl.extractLsb' 4 3).toNat
  let used := budLines bud * budBytes bud
  if used < 64 then
    let a := r.store.toNat + (la - r.base.toNat) / 64 / budLines bud * 64 + used
    s.modMem fun m => { m with arrays := cellsPutNum m.arrays a (64 - used) 0 }
  else s

/-- The encode of one block and its counts (R330, R332). -/
def State.encodeTo (s : State) (n d : Nat) (r : RangeReg) (l : SliceLine) (k : Nat) : State :=
  let (a, b) := r.storage l.addr
  let (bits, c) := encodeBlock b (blockValues l.data k)
  let s0 := s.modMem fun m => { m with arrays := cellsPutNum m.arrays (a + k * (b / 2)) (b / 2) bits }
  let s1 := s0.clearTail n l.addr
  s1.modDie d fun x =>
    { x with
      loss := x.loss.setIfInBounds n (satInc (x.loss.getD n 0) c.lossy)
      clamp := x.clamp.setIfInBounds n (satInc (x.clamp.getD n 0) c.clamped)
      spec := x.spec.setIfInBounds n (satInc (x.spec.getD n 0) c.special) }

/-- The bytes a write-back of a line writes: those stored since its fill or last write-back where a pawn may have written the
others, whatever the channel's mode is now (R387); all otherwise. -/
def SliceLine.writeMask (l : SliceLine) : BitVec 64 := if pawnBank l.addr then l.stored else BitVec.allOnes 64

/-- The poison of a line goes into the arrays' metadata; a write-back of every byte of a line without poison clears it
there, and one of some bytes leaves it (R313, R314). -/
def State.noteBad (s : State) (l : SliceLine) : State :=
  s.modMem fun m =>
    { m with bad := if l.poison then assocPut m.bad l.addr l.accum
                    else if l.writeMask = BitVec.allOnes 64 then assocDrop m.bad l.addr else m.bad }

/-- A line is written to the arrays: encoded where it is FP64-coded (R325, R330, R333), by its byte mask for a
line of an in-place page (R387), whole otherwise. -/
def State.writeBack (s : State) (l : SliceLine) : State :=
  match s.governing l.addr with
  | some n =>
    let r := s.range n
    if r.fmt = 1 then
      let s0 := if l.blocks.getLsbD 0 then s.encodeTo n l.die r l 0 else s
      let s1 := if l.blocks.getLsbD 1 then s0.encodeTo n l.die r l 1 else s0
      s1.noteBad l
    else
      (s.modMem fun m => { m with arrays := cellsPutLine m.arrays l.addr l.data l.writeMask }).noteBad l
  | none =>
    if rangeOf l.addr = 4 then s.postHardware 17 0 0 (some (BitVec.ofNat 64 l.addr))
    else (s.modMem fun m => { m with arrays := cellsPutLine m.arrays l.addr l.data l.writeMask }).noteBad l

/-! ## The lines of the slices -/

/-- The home copy of a line, if its slice holds one. -/
def State.homeCopy (s : State) (la : Nat) : Option SliceLine :=
  s.mem.lines.find? fun l => l.kind == .home && l.addr == la

/-- The copy of a line that one KIND has on a die other than its home: a guest of PRIVATE pages, a replica of READONLY ones
(R300 to R302). -/
def State.dieCopy (s : State) (k : CopyKind) (d la : Nat) : Option SliceLine :=
  s.mem.lines.find? fun l => l.kind == k && l.addr == la && l.die == d

/-- A line has to be read over a channel that retrains: who needs it waits (R449). -/
def State.lineWaits (s : State) (la : Nat) : Bool := s.retraining la && (s.homeCopy la).isNone

/-- The same copy of the same line. -/
def SliceLine.same (a b : SliceLine) : Bool := a.addr == b.addr && a.die == b.die && a.kind == b.kind

/-- A line takes the place of its older copy and becomes the most recently used (R298). -/
def State.putLine (s : State) (l : SliceLine) : State :=
  s.modMem fun m => { m with lines := l :: m.lines.filter fun x => !x.same l }

/-- A line leaves its slice. -/
def State.dropLine (s : State) (l : SliceLine) : State :=
  s.modMem fun m => { m with lines := m.lines.filter fun x => !x.same l }

/-- The 8-byte words of a line that a bit mask touches. -/
def maskWords (la : Nat) (m : LineBits) : List Nat :=
  ((List.range 8).filter fun k => m.extractLsb' (64 * k) 64 != 0#64).map fun k => la + 8 * k

/-- A write to words breaks the reservations on them (R208). -/
def State.breakWords (s : State) (ws : List Nat) : State :=
  s.modMem fun m => { m with resv := m.resv.filter fun r => !ws.contains r.word }

/-- The codec write of a line that leaves its home slice: the values the arrays give take the place of the live
ones, and break the reservations on the words they change (R337). -/
def State.codecWrite (s : State) (l : SliceLine) : State :=
  if s.fmtAt l.addr = 1 then s.breakWords (maskWords l.addr (l.data ^^^ (s.fetchLine l.addr).1)) else s

/-- A home line that is dirty: written, found poisoned or filled poisoned since it was last clean (R308, R313). A copy of
another kind is never dirty (R301). -/
def SliceLine.isDirty (l : SliceLine) : Bool := l.kind == .home && l.dirty.isSome

/-- A line chosen for replacement is written back if it is dirty, and dropped (R309). -/
def State.evict (s : State) (l : SliceLine) : State :=
  let s1 := if l.isDirty then s.writeBack l else s
  (if l.kind = .home then s1.codecWrite l else s1).dropLine l

/-- A line enters its set, where the least recently used unpinned line makes room for it (R298). -/
def State.install (s : State) (l : SliceLine) : State :=
  let set := s.mem.lines.filter fun x =>
    x.die == l.die && sliceOf x.addr == sliceOf l.addr && setOf x.addr == setOf l.addr
  let s1 := if set.length < 16 then s
    else
      match set.reverse.find? (fun x => x.window.isNone) with
      | some v => s.evict v
      | none => s
  s1.putLine l

/-- A line becomes clean when it has been written to the arrays (R308, R319, R387). -/
def SliceLine.cleaned (l : SliceLine) : SliceLine := { l with dirty := none, blocks := 0, stored := 0 }

/-- A line of the aperture that no window covers: its write-back discards it (R325). -/
def State.uncovered (s : State) (la : Nat) : Bool := rangeOf la == 4 && (s.governing la).isNone

/-- A line is written to the arrays and stays in its slice, clean (R308, R319); one that no window covers is discarded
(R325). -/
def State.cleanLine (s : State) (l : SliceLine) : State :=
  if s.uncovered l.addr then (s.writeBack l).dropLine l
  else (s.writeBack l).modMem fun m => { m with lines := mapIf m.lines l.same SliceLine.cleaned }

/-- The oldest-dirtied unpinned dirty line of a slice (R308). -/
def State.oldestDirty (s : State) (d sl : Nat) : Option SliceLine :=
  (s.mem.lines.filter fun l => l.die == d && sliceOf l.addr == sl && l.kind == .home && l.dirty.isSome &&
      l.window.isNone).foldl
    (fun acc l =>
      match acc with
      | none => some l
      | some a => if l.dirty.getD 0 < a.dirty.getD 0 then some l else acc) none

/-- Early clean of one line of a slice: it is written back and stays, clean (R308). -/
def State.cleanOldest (s : State) (d sl : Nat) : State :=
  match s.oldestDirty d sl with
  | none => s
  | some l => s.cleanLine l

/-- Early clean of a number of lines of a slice. -/
def State.cleanSome (s : State) (d sl : Nat) : Nat → State
  | 0 => s
  | n + 1 => (s.cleanOldest d sl).cleanSome d sl n

/-- The dirty lines of a slice are kept below 8,192 (R308). -/
def State.capDirty (s : State) (d sl : Nat) : State :=
  s.cleanSome d sl ((s.mem.lines.filter fun l => l.die == d && sliceOf l.addr == sl && l.isDirty).length - 8191)

/-- A line that has become dirty takes its place in its slice, which is kept below its limit of dirty lines (R308). -/
def State.putDirty (s : State) (l : SliceLine) : State :=
  ((s.putLine l).modMem fun x => { x with dirtied := x.dirtied + 1 }).capDirty l.die (sliceOf l.addr)

/-- The home copy of a line, filled if its slice does not hold it (R335). A line that comes poisoned is dirty (R308, R313). A
second-tier fill is noted for R441. -/
def State.ensure (s : State) (la : Nat) : State × SliceLine :=
  match s.homeCopy la with
  | some l => (s.putLine l, l)
  | none =>
    let (d, p, t) := s.fetchLine la
    let l : SliceLine :=
      { addr := la, die := s.homeDie la, kind := .home, data := d, dirty := if p.isSome then some s.mem.dirtied else none,
        poison := p.isSome, accum := p == some true, window := none, blocks := 0, tag := t, stored := 0 }
    let s1 := if p.isSome then (s.install l).putDirty l else s.install l
    (if rangeOf la = 2 ∨ rangeOf la = 3 then s1.modMem fun m => { m with fills := m.fills ++ [la] } else s1, l)

/-- Changes a window. -/
def State.modWindow (s : State) (i : Nat) (f : Window → Window) : State :=
  { s with windows := mapIf s.windows (fun w => w.id == i) f }

/-- A poisoned line that a window pins counts once among the window's (R271). -/
def State.noteWindowBad (s : State) (l : SliceLine) : State :=
  match l.window with
  | some i => s.modWindow i fun w => if w.bad.contains l.addr then w else { w with bad := l.addr :: w.bad }
  | none => s

/-- An uncorrectable error is found in a line: it is poisoned and dirty (R313), and a window that pins it counts it once
(R271). -/
def State.poisonLine (s : State) (la : Nat) : State :=
  let (s1, l) := s.ensure la
  (s1.putDirty { l with poison := true, accum := l.window.isSome, dirty := some (l.dirty.getD s1.mem.dirtied) }).noteWindowBad l

/-- An uncorrectable error is found in the copy of a line that a die keeps for one KIND: that copy is poisoned (R313). -/
def State.poisonCopy (s : State) (l : SliceLine) : State := s.putLine { l with poison := true, accum := false }

/-- A line whose 64 bytes are about to be written enters its slice without a read. -/
def State.enterWhole (s : State) (la : Nat) : State × SliceLine :=
  let l : SliceLine :=
    { addr := la, die := s.homeDie la, kind := .home, data := 0, dirty := none, poison := false, accum := false,
      window := none, blocks := 0, tag := (s.fetchLine la).2.2, stored := 0 }
  (s.install l, l)

/-- A write to a line at its home slice, one indivisible action: the selected bits are merged, the line is dirty,
the bytes' bits of R387 and the blocks' bits of R333 are set, and the reservations on the words are broken. One
action that writes all 64 bytes clears the poison of a line outside open windows (R314). `poison` poisons it. -/
def State.homeWrite (s : State) (la : Nat) (d m : LineBits) (poison : Bool) : State :=
  if m = 0 ∧ poison = false then s
  else
    let whole := m == BitVec.allOnes 512
    let (s1, l) := if whole && (s.homeCopy la).isNone then s.enterWhole la else s.ensure la
    let cleared := whole && l.window.isNone
    let l1 : SliceLine :=
      { l with
        data := mergeLine l.data d m
        dirty := some (l.dirty.getD s1.mem.dirtied)
        poison := (l.poison && !cleared) || poison
        accum := (l.accum && !cleared) || (poison && l.window.isSome)
        blocks := l.blocks ||| (if m.extractLsb' 0 256 != 0#256 then 1#2 else 0#2) |||
          (if m.extractLsb' 256 256 != 0#256 then 2#2 else 0#2)
        stored := l.stored ||| byteMask m }
    let s2 := (s1.breakWords (maskWords la m)).putDirty l1
    if poison then s2.noteWindowBad l else s2

/-! ## Reductions and publishes -/

/-- A reduction applied to a word of a line: the line and the bits it writes (R310). -/
def applyRed (l : LineBits) (r : PendingRed) : LineBits × LineBits :=
  let n := etWidth r.et / 8
  let v := redApply r.op r.et (lineNum l r.off n) (r.val.toNat % 2 ^ (8 * n))
  let (d, m) := placeAt r.off n v
  (mergeLine l d m, m)

/-- All of an entry's bytes and pending reductions applied as one action (R305). -/
def State.applyEntry (s : State) (la : Nat) (d m : LineBits) (reds : List PendingRed) (poison : Bool) : State :=
  let whole := m == BitVec.allOnes 512
  if whole && reds.isEmpty then s.homeWrite la d m poison
  else
    let (s1, l) := s.ensure la
    let r := reds.foldl (fun (acc : LineBits × LineBits) x =>
      let (v, k) := applyRed acc.1 x
      (v, acc.2 ||| k)) (mergeLine l.data d m, m)
    s1.homeWrite la r.1 r.2 poison

/-! ## Pinned window lines (R269, R278) -/

/-- The window that has still to pin a line; its MOPEN has been accepted. -/
def State.pinPending (s : State) (la : Nat) : Option Window :=
  s.windows.find? fun w => w.lines.contains la && !w.pinned.contains la && s.mxCmds.any fun c =>
    c.window == w.id && c.accepted && (c.kind == .openLoad || c.kind == .openZero)

/-- The home slice pins a window line: with its value, or zeroed without a read (R278, R314). A line found poisoned
is poisoned in the window (R271). -/
def State.pinLine (s : State) (la : Nat) : State :=
  match s.pinPending la with
  | none => s
  | some w =>
    if w.zero then
      let s2 := s.homeWrite la 0 (BitVec.allOnes 512) false
      match s2.homeCopy la with
      | some x => (s2.putLine { x with window := some w.id }).modWindow w.id fun y => { y with pinned := la :: y.pinned }
      | none => s2
    else
      let (s1, x) := s.ensure la
      (s1.putLine { x with window := some w.id, accum := x.poison }).modWindow w.id fun y =>
        { y with pinned := la :: y.pinned, bad := if x.poison && !y.bad.contains la then la :: y.bad else y.bad }

/-- A window gives its lines up: each becomes an ordinary dirty line, and its quota returns with it (R279). -/
def State.unpinWindow (s : State) (i : Nat) : State :=
  let freed := s.mem.lines.filter fun l => l.window == some i
  let s1 := s.modMem fun m =>
    { m with lines := mapIf m.lines (fun l => l.window == some i) fun l =>
        { l with window := none, dirty := some (l.dirty.getD m.dirtied) } }
  freed.foldl (fun (acc : State) l => acc.capDirty l.die (sliceOf l.addr))
    { s1 with windows := s1.windows.filter fun w => w.id != i }

/-! ## The directory -/

/-- The directory entry of a slice that covers a line (R306). -/
def State.dirEntry (s : State) (la : Nat) : Option DirEntry :=
  s.mem.dir.find? fun e =>
    e.die == s.homeDie la && e.slice == sliceOf la && decide (e.base ≤ la) && decide (la < e.base + 2 ^ e.size)

/-- The clusters the directory names as holders of a line. -/
def State.holders (s : State) (la : Nat) : BitVec 64 :=
  match s.dirEntry la with
  | some e => e.holders
  | none => 0

/-- A cluster's stage-buffer entry for a line (R303). -/
def State.staged (s : State) (c la : Nat) : Option StageEntry :=
  s.mem.stage.find? fun e => e.cluster == c && e.addr == la

/-- A cluster holds staged data homed at a slice in a span (R306). -/
def State.holdsIn (s : State) (c : Nat) (e : DirEntry) : Bool :=
  s.mem.stage.any fun x => x.cluster == c && decide (e.base ≤ x.addr) && decide (x.addr < e.base + 2 ^ e.size) &&
    s.homeDie x.addr == e.die && sliceOf x.addr == e.slice

/-- An address lies in the span of a directory entry. -/
def DirEntry.spans (e : DirEntry) (a : Nat) : Bool := decide (e.base ≤ a) && decide (a < e.base + 2 ^ e.size)

/-- A publish, a holder record or a staged operation of a cluster for a line of an entry's span is on its way. -/
def State.onWayTo (s : State) (c : Nat) (e : DirEntry) : Bool :=
  s.net.msgs.any fun m => m.path == c && m.reply.isNone && e.spans m.pa && s.homeDie m.pa == e.die &&
    sliceOf m.pa == e.slice && match m.body with
      | .publish .. => true
      | .record => true
      | _ => false

/-- A publish or a reply says whether the cluster still holds staged data in the entry's span, in its buffer or on its
way; if not, its bit clears, and an entry with no holders is freed (R306). -/
def State.dirAnswer (s : State) (la c : Nat) : State :=
  match s.dirEntry la with
  | none => s
  | some e =>
    if s.holdsIn c e || s.onWayTo c e then s
    else
      let h := e.holders &&& ~~~(BitVec.twoPow 64 c)
      s.modMem fun m =>
        { m with dir := if h = 0 then m.dir.filter (fun x => x != e) else mapIf m.dir (fun x => x == e) fun x =>
            { x with holders := h } }

/-- A publish of a line is on its way from one of some clusters. -/
def Msg.publishes (m : Msg) (la : Nat) (cs : Nat → Bool) : Bool :=
  m.pa == la && m.reply.isNone && cs m.path && match m.body with
    | .publish .. => true
    | _ => false

/-- A publish that has been applied before it arrives: nothing is left to apply. -/
def Msg.emptied (m : Msg) : Msg :=
  match m.body with
  | .publish _ _ _ _ chk => { m with body := .publish 0 0 [] false chk }
  | _ => m

/-- What a publish leaves on its way when it is applied before it arrives: its transaction with another die (R413), or its
answer to a check (R307). -/
def Msg.applied (m : Msg) : Option Msg :=
  match m.body with
  | .publish _ _ _ _ chk =>
    if !m.hops.isEmpty || m.tag.isSome then some m.emptied
    else if chk then some { m with body := .reply m.path }
    else none
  | _ => some m

/-- A staged entry is applied at its home without waiting for its publish, which is sent where it has to cross to another
die (R413). -/
def State.applyStaged (s : State) (e : StageEntry) : State :=
  let s1 := s.applyEntry e.addr e.data e.mask e.reds e.poison
  if e.cluster / 16 = s1.homeDie e.addr then s1
  else
    s1.send s1.cur e.cluster e.addr 0 64 (.publish 0 0 [] false false) (e.cluster / 16) (s1.homeDie e.addr) (s1.homeOf e.addr)

/-- What some clusters have staged of a line is applied at once, what is on its way first: a check of R307 with its answers,
in one step (R305). -/
def State.gather (s : State) (la : Nat) (cs : Nat → Bool) : State :=
  let s1 := s.net.msgs.foldl (fun (acc : State) m =>
    match m.body with
    | .publish d k reds p _ => if m.publishes la cs then acc.applyEntry la d k reds p else acc
    | _ => acc) s
  let left := s1.net.msgs.filterMap fun m => if m.publishes la cs then m.applied else some m
  let s2 := { s1 with net := { s1.net with msgs := left } }
  let mine (e : StageEntry) : Bool := e.addr == la && cs e.cluster
  let held := s2.mem.stage.filter mine
  let s3 := held.foldl State.applyStaged (s2.modMem fun m => { m with stage := m.stage.filter fun e => !mine e })
  held.foldl (fun (acc : State) e => acc.dirAnswer la e.cluster) s3

/-- The same span of the same slice. -/
def DirEntry.same (a b : DirEntry) : Bool := a.die == b.die && a.slice == b.slice && a.base == b.base && a.size == b.size

/-- An entry's span holds a line of its slice. -/
def State.inSpan (s : State) (e : DirEntry) (la : Nat) : Bool := e.spans la && s.homeDie la == e.die && sliceOf la == e.slice

/-- The holders of an entry. -/
def DirEntry.holds (e : DirEntry) (c : Nat) : Bool := decide (c < 64) && e.holders.getLsbD c

/-- The lines of an entry's span that its holders have staged or are publishing. -/
def State.heldLines (s : State) (e : DirEntry) : List Nat :=
  ((s.mem.stage.filter fun x => e.holds x.cluster && s.inSpan e x.addr).map (fun x => x.addr) ++
    (s.net.msgs.filter fun m => m.publishes m.pa e.holds && s.inSpan e m.pa).map fun m => m.pa).eraseDups

/-- The forced publish on directory overflow: every holder of the entry is checked over the entry's span, and the entry is
freed (R306). A line that a window has still to pin is pinned with what was staged in it (R278). -/
def State.forceEntry (s : State) (e : DirEntry) : State :=
  let s1 := (s.heldLines e).foldl (fun (acc : State) la => (acc.gather la e.holds).pinLine la) s
  s1.modMem fun m => { m with dir := m.dir.filter fun x => !x.same e }

/-- The least recently touched entry of a slice's directory. -/
def State.oldestEntry (s : State) (d sl : Nat) : Option DirEntry :=
  (s.mem.dir.filter fun e => e.die == d && e.slice == sl).foldl
    (fun acc e =>
      match acc with
      | none => some e
      | some a => if e.touched < a.touched then some e else acc) none

/-- A new entry of a slice's directory; with none free, the slice forces the publish of its oldest (R306). -/
def State.dirNew (s : State) (e : DirEntry) : State :=
  let full := decide (4096 ≤ (s.mem.dir.filter fun x => x.die == e.die && x.slice == e.slice).length)
  let s1 := if full then
      match s.oldestEntry e.die e.slice with
      | some o => s.forceEntry o
      | none => s
    else s
  s1.modMem fun m => { m with dir := e :: m.dir }

/-- The span of 2^n bytes around a line meets no entry of its slice's directory. -/
def State.untracked (s : State) (la n : Nat) : Bool :=
  let base := 2 ^ n * (la / 2 ^ n)
  !s.mem.dir.any fun e => e.die == s.homeDie la && e.slice == sliceOf la && decide (e.base < base + 2 ^ n) &&
    decide (base < e.base + 2 ^ e.size)

/-- The span a new entry for a line covers: 64 KiB, or what of it no other entry tracks (R306). -/
def State.newSpan (s : State) (la : Nat) : Nat := ([16, 15, 14, 13, 12, 11, 10, 9, 8, 7].find? (s.untracked la)).getD 6

/-- A holder record reaches the directory (R306, R344). -/
def State.dirRecord (s : State) (la c : Nat) : State :=
  match s.dirEntry la with
  | some e =>
    s.modMem fun m => { m with dir := mapIf m.dir (fun x => x == e) fun x =>
      { x with holders := x.holders ||| BitVec.twoPow 64 c, touched := (s.die (s.homeDie la)).time.toNat } }
  | none =>
    let n := s.newSpan la
    s.dirNew { die := s.homeDie la, slice := sliceOf la, base := 2 ^ n * (la / 2 ^ n), size := n,
               holders := BitVec.twoPow 64 c, touched := (s.die (s.homeDie la)).time.toNat }

/-- On a check the entry is split into halves until the half that holds the line is one line; every piece keeps the
mask (R306). -/
def State.dirSplit (s : State) (la : Nat) : Nat → State
  | 0 => s
  | fuel + 1 =>
    match s.dirEntry la with
    | none => s
    | some e =>
      if e.size ≤ 6 then
        s.modMem fun m => { m with dir := mapIf m.dir (fun x => x == e) fun x => { x with touched := (s.die (s.homeDie la)).time.toNat } }
      else
        let k := e.size - 1
        let s1 := s.modMem fun m => { m with dir := m.dir.filter fun x => x != e }
        let s2 := s1.dirNew { e with size := k, touched := (s.die (s.homeDie la)).time.toNat }
        let s3 := s2.dirNew { e with base := e.base + 2 ^ k, size := k, touched := (s.die (s.homeDie la)).time.toNat }
        s3.dirSplit la fuel

/-- The check of R307 on a line with its answers, in one step: where the directory names holders but one left out, the entry
is split (R306), and what they have staged is applied. -/
def State.bringHome (s : State) (la : Nat) (but : Option Nat) : State :=
  match s.dirEntry la with
  | none => s
  | some e =>
    let cs := fun (c : Nat) => e.holds c && some c != but
    if (List.range 64).any cs then (s.dirSplit la 12).gather la cs else s

/-- The check of a line against every holder. A line that a window has still to pin is pinned with what was staged in it
(R278). -/
def State.forceLine (s : State) (la : Nat) : State := (s.bringHome la none).pinLine la

/-! ## Coherent access in one step -/

/-- The live bytes of a line as an access with the checks of R307 finds them, every staged byte brought home first. -/
def State.coherent (s : State) (la : Nat) : State × SliceLine := (s.forceLine la).ensure la

/-- The live bytes of a line as a party of a cluster finds them that does not see the cluster's buffer: what the cluster has
staged is published first (R305). -/
def State.coherentFor (s : State) (c : Option Nat) (la : Nat) : State × SliceLine :=
  (s.gather la fun k => some k == c).coherent la

/-- `n` bytes from a physical address inside one line, read at the home slice (R307). -/
def State.readHome (s : State) (pa n : Nat) : State × Nat × Option Bool :=
  let (s1, l) := s.coherent (lineOf pa)
  (s1, lineNum l.data (pa % 64) n, if l.poison then some l.accum else none)

/-- Writes `n` bytes inside one line at the home slice. -/
def State.writeHome (s : State) (pa n v : Nat) : State :=
  let (d, m) := placeAt (pa % 64) n v
  (s.forceLine (lineOf pa)).homeWrite (lineOf pa) d m false

/-! ## L1 and control-core caches -/

/-- The number of an L1: its VC's, or 2048 + n for control core n's cache (R295). -/
def State.cacheOf (s : State) (q : SeqId) : Option Nat :=
  match q with
  | .cc n => some (2048 + n)
  | .worker _ => some (s.ownerSeq q).w.place.vc
  | _ => none

/-- Scratchpad bytes of a SPAD code (R21). -/
def spadBytes (code : Nat) : Nat := 65536 * code

/-- The lines an L1 holds: 256 KiB minus the scratchpads of the VC's resident workers (R295). -/
def State.cacheLines (s : State) (owner : Nat) : Nat :=
  if 2048 ≤ owner then 4096
  else
    (262144 - (s.workers.foldl (fun n p => if p.2.run != .saved && p.2.w.place.vc == owner then
      n + spadBytes p.2.w.spadCode else n) 0)) / 64

/-- The copy an L1 holds of a line of a PRIVATE page, or of a READONLY one (R300). -/
def State.cacheCopy (s : State) (owner la : Nat) (ro : Bool) : Option CacheLine :=
  s.mem.caches.find? fun c => c.owner == owner && c.addr == la && c.readonly == ro

/-- The same copy of the same line. -/
def CacheLine.same (a b : CacheLine) : Bool := a.owner == b.owner && a.addr == b.addr && a.readonly == b.readonly

/-- Changes the copy a cache holds and makes it the most recently used. -/
def State.putCache (s : State) (c : CacheLine) : State :=
  s.modMem fun m => { m with caches := c :: m.caches.filter fun x => !x.same c }

/-- The copy that a die keeps of a line of another die for a KIND. -/
def PageKind.copy (k : PageKind) : CopyKind := if k = .readonly then .replica else .guest

/-- A PRIVATE or READONLY line as a die's L2 gives it: the home line on its own die, else a copy (R299, R301). -/
def State.readL2 (s : State) (d : Nat) (kind : PageKind) (la : Nat) : State × SliceLine :=
  if s.homeDie la = d then s.coherent la
  else
    match s.dieCopy kind.copy d la with
    | some l => (s.putLine l, l)
    | none =>
      let (s1, l) := s.coherent la
      let c : SliceLine := { l with die := d, kind := kind.copy, dirty := none, window := none, blocks := 0, stored := 0 }
      (s1.install c, c)

/-- The die whose L2 an L1 stands before. -/
def cacheDie (owner : Nat) : Nat := if 2048 ≤ owner then (owner - 2048) / 8 else owner / 512

/-- The path by which an L1's write-backs reach the slices: its cluster's, or its control core's. -/
def cachePath (owner : Nat) : Nat := if 2048 ≤ owner then owner - 1984 else owner / 32

/-- A write of a PRIVATE line into L2 of a die: at the home slice where that is its home; else through a guest line, whose
write leaves for the home slice at once, by a path (R301). -/
def State.writeL2 (s : State) (path d la : Nat) (data m : LineBits) : State :=
  if s.homeDie la = d then (s.forceLine la).homeWrite la data m false
  else
    let s1 := s.send s.cur path la 0 64 (.publish data m [] false false) d (s.homeDie la) (s.homeOf la)
    match s1.dieCopy .guest d la with
    | some l => s1.putLine { l with data := mergeLine l.data data m }
    | none => s1

/-- A line leaves its L1, its written bytes going to L2 (R295, R346). -/
def State.leaveCache (s : State) (c : CacheLine) : State :=
  let s1 := if c.mask = 0 then s else s.writeL2 (cachePath c.owner) (cacheDie c.owner) c.addr c.data c.mask
  s1.modMem fun m => { m with caches := m.caches.filter fun x => !x.same c }

/-- Room for a line in an L1: the least recently used line of a full four-way set leaves (R295). -/
def State.cacheRoom (s : State) (owner la : Nat) : State :=
  let sets := s.cacheLines owner / 4
  let set := s.mem.caches.filter fun c => c.owner == owner && Config.l1Set c.addr % sets == Config.l1Set la % sets
  (set.drop 3).foldl State.leaveCache s

/-- A PRIVATE or READONLY line read by a party: through its cache, where it has one with room, else from L2. -/
def State.readCached (s : State) (owner : Option Nat) (d : Nat) (kind : PageKind) (la : Nat) :
    State × LineBits × Option Bool × BitVec 8 :=
  match owner with
  | none =>
    let (s1, l) := s.readL2 d kind la
    (s1, l.data, if l.poison then some l.accum else none, l.tag)
  | some o =>
    match s.cacheCopy o la (kind == .readonly) with
    | some c =>
      if c.stale then
        let (s1, l) := s.readL2 d kind la
        let x := { c with data := mergeLine l.data c.data c.mask, poison := if l.poison then some l.accum else none,
                          tag := l.tag, stale := false }
        (s1.putCache x, x.data, x.poison, x.tag)
      else (s.putCache c, c.data, c.poison, c.tag)
    | none =>
      let (s1, l) := s.readL2 d kind la
      let p := if l.poison then some l.accum else none
      if s1.cacheLines o = 0 then (s1, l.data, p, l.tag)
      else
        ((s1.cacheRoom o la).putCache
          { owner := o, addr := la, data := l.data, mask := 0, poison := p, readonly := kind == .readonly, tag := l.tag,
            stale := false },
          l.data, p, l.tag)

/-- A PRIVATE line written by a party: in its cache, where it has one with room, else in L2, by a path (R295, R301, R344). -/
def State.writeCached (s : State) (owner : Option Nat) (path d : Nat) (la : Nat) (data m : LineBits) : State :=
  match owner with
  | none => s.writeL2 path d la data m
  | some o =>
    if s.cacheLines o = 0 then s.writeL2 (cachePath o) d la data m
    else
      let s1 := (s.readCached owner d .priv la).1
      match s1.cacheCopy o la false with
      | some c => s1.putCache { c with data := mergeLine c.data data m, mask := c.mask ||| m }
      | none => s1.writeL2 (cachePath o) d la data m

/-- A release at cluster scope or wider writes the core's dirty L1 lines of PRIVATE pages into L2 (R301, R343). -/
def State.flushCache (s : State) (o : Nat) : State :=
  let s1 := s.mem.caches.foldl (fun (acc : State) c =>
    if c.owner = o ∧ c.mask ≠ 0 then acc.writeL2 (cachePath o) (cacheDie o) c.addr c.data c.mask else acc) s
  s1.modMem fun m => { m with caches := mapIf m.caches (fun c => c.owner == o) fun c => { c with mask := 0 } }

/-- An acquire at cluster scope or wider drops the core's clean L1 copies of PRIVATE pages (R301, R343); of a dirty one it
keeps the bytes the core has written (R347). -/
def State.dropClean (s : State) (o : Nat) : State :=
  s.modMem fun m =>
    let kept := m.caches.filter fun c => c.owner != o || c.readonly || c.mask != 0
    { m with caches := mapIf kept (fun c => c.owner == o && !c.readonly) fun c => { c with stale := true } }

/-- An acquire at device or system scope drops the guest lines of the die (R301, R343). -/
def State.dropGuests (s : State) (d : Nat) : State :=
  s.modMem fun m => { m with lines := m.lines.filter fun l => !(l.kind == .guest && l.die == d) }

/-- An L1 shrinks from a number of lines: those of the sets it loses leave it, their written bytes going to L2 (R295). -/
def State.shrinkCache (s : State) (o old : Nat) : State :=
  let sets := s.cacheLines o / 4
  (s.mem.caches.filter fun c => c.owner == o && decide (sets ≤ Config.l1Set c.addr % (old / 4))).foldl State.leaveCache s

/-! ## Reservations -/

/-- A reservation on the word that holds an element (R206). The slice records 16,384; the oldest gives way. -/
def State.reserve (s : State) (w : WKey) (i word : Nat) : State :=
  s.modMem fun m =>
    let rest := m.resv.filter fun r => !(r.owner == w && r.idx == i)
    let here := rest.filter fun r => s.homeOf r.word == s.homeOf word
    let kept := if here.length < 16384 then rest
      else
        match here.reverse.head? with
        | some o => rest.filter fun r => r != o
        | none => rest
    { m with resv := { owner := w, idx := i, word := word } :: kept }

/-- A reservation is intact: it has not been broken or lost (R208). -/
def State.intact (s : State) (w : WKey) (i word : Nat) : Bool :=
  s.mem.resv.any fun r => r.owner == w && r.idx == i && r.word == word

/-- All of a worker's reservations are cleared (R208). -/
def State.clearResv (s : State) (w : WKey) : State :=
  s.modMem fun m => { m with resv := m.resv.filter fun r => r.owner != w }

end Sys2Proof.Machine
end

