-- ==== Sys2Proof/Machine/Translate.lean ====
section
/-! DEFINITION. Translation and the checks of an access: page-table walks (R430 to R433), the checks of R163, and
after them CODED-REGION (R328), NB-PARTITION (R375) and DIE-LOST (R418), page by page (R462). -/

namespace Sys2Proof.Machine

/-! ## Page-table entries -/

/-- A bit of an entry. -/
def pteBit (e : Word) (k : Nat) : Bool := e.getLsbD k

/-- The frame or next table of an entry, PA<51:12> (R431). -/
def ptePfn (e : Word) : Nat := 4096 * (e.extractLsb' 12 40).toNat

/-- KIND of a leaf (R431). -/
def pteKind (e : Word) : PageKind :=
  match (e.extractLsb' 5 2).toNat with
  | 0 => .priv
  | 1 => .readonly
  | 2 => .shared
  | _ => .inplace

/-- V is set and no RES bit is (R431). -/
def pteValid (e : Word) : Bool := pteBit e 0 && e.extractLsb' 52 8 == 0#8

/-- A valid entry with R = W = X = 0 points to the next table (R431). -/
def ptePointer (e : Word) : Bool := e.extractLsb' 1 3 == 0#3

/-- The page size of a leaf at a level (R430). -/
def pageBytes (level : Nat) : Nat :=
  match level with
  | 2 => 2 ^ 30
  | 3 => 2 ^ 21
  | _ => 4096

/-- The bytes that the page of a leaf covers: 64 KiB for a P64 leaf (R430, R431). -/
def leafBytes (e : Word) (level : Nat) : Nat := if level = 4 ∧ pteBit e 10 = true then 65536 else pageBytes level

/-- The bytes of virtual addresses that a table of a level serves (R430). -/
def tableBytes (level : Nat) : Nat := 2 ^ (12 + 9 * (5 - level))

/-- The index of a virtual address at a level (R430). -/
def tableIndex (va : Word) (level : Nat) : Nat := va.toNat / 2 ^ (12 + 9 * (4 - level)) % 512

/-- A leaf an access uses: its context, its value, its place, its level, the die of the accessor, and the places of the table
entries that a walk has read for it. -/
structure Leaf where
  ctx : Nat
  val : Word
  place : Nat
  level : Nat
  die : Nat := 0
  walked : List Nat := []
  deriving DecidableEq, Repr

/-- The live value of an aligned word of physical memory, as a walker reads it (R432). -/
def State.peekWord (s : State) (pa : Nat) : Word := BitVec.ofNat 64 (s.readHome pa 8).2.1

/-- The 16 entries of a 64 KiB page agree (R431): equal PFN<51:16>, equal bits 10:0 but for A and D, PFN<15:12> = i. -/
def State.groupOk (s : State) (place : Nat) (e : Word) : Bool :=
  (List.range 16).all fun i =>
    let f := s.peekWord (128 * (place / 128) + 8 * i)
    pteValid f && f.extractLsb' 16 36 == e.extractLsb' 16 36 &&
      (f &&& 0x67F#64) == (e &&& 0x67F#64) && (f.extractLsb' 12 4).toNat == i

/-- A leaf obeys the rules of R431. -/
def State.leafOk (s : State) (e : Word) (place level : Nat) : Bool :=
  if level = 1 then false
  else if pteBit e 10 then level == 4 && s.groupOk place e && insideOne (65536 * (ptePfn e / 65536)) 65536
  else ptePfn e % pageBytes level == 0 && insideOne (ptePfn e) (pageBytes level)

/-- A line whose home die has resigned is lost (R418). -/
def State.lineLost (s : State) (pa : Nat) : Bool := !s.inService (s.homeDie pa)

/-- A walk from a table at a level (R430, R431). `fuel` is the number of levels left. A table in the device-register range, or in
an aperture line that no window covers, reads as zeros (DESIGN CHOICE, log entry 94). -/
def State.walkFrom (s : State) (c : Nat) (va : Word) : Nat → Nat → Nat → Option Leaf
  | 0, _, _ => none
  | fuel + 1, table, level =>
    let place := table + 8 * tableIndex va level
    let e := s.peekWord place
    if s.lineLost place || !pteValid e then none
    else if ptePointer e then
      if level = 4 || pteBit e 10 || !insideOne (ptePfn e) 4096 then none
      else (s.walkFrom c va fuel (ptePfn e) (level + 1)).map fun l => { l with walked := place :: l.walked }
    else if s.leafOk e place level then some { ctx := c, val := e, place := place, level := level, walked := [place] }
    else none

/-- A walk meets a table whose line is lost with its die (R418). -/
def State.walkLost (s : State) (va : Word) : Nat → Nat → Nat → Bool
  | 0, _, _ => false
  | fuel + 1, table, level =>
    let place := table + 8 * tableIndex va level
    let e := s.peekWord place
    s.lineLost place || (pteValid e && ptePointer e && level != 4 && !pteBit e 10 && insideOne (ptePfn e) 4096 &&
      s.walkLost va fuel (ptePfn e) (level + 1))

/-- The walk of a virtual address of a context: 48 bits, four levels, from its root (R427, R429, R430). -/
def State.walk (s : State) (c : Nat) (va : Word) : Option Leaf :=
  if va.extractLsb' 48 16 != 0#16 then none
  else s.walkFrom c va 4 (ptePfn (s.ctx c).root) 1

/-- The TLB a sequencer looks in first: its VC's, its compute die's, or its control core's (R433). -/
def State.tlbOf (s : State) (q : SeqId) : Nat :=
  match q with
  | .cc n => 4 + n
  | .worker _ => 36 + (s.ownerSeq q).w.place.vc
  | _ => s.dieOf q

/-- The TLBs that serve an access: behind a VC's TLB stands its die's (R433). -/
def tlbChain (holder : Nat) : List Nat := if holder < 36 then [holder] else [holder, (holder - 36) / 512]

/-- The die of a TLB (R433). -/
def holderDie (h : Nat) : Nat := if h < 4 then h else if h < 36 then (h - 4) / 8 else (h - 36) / 512

/-- The bytes of virtual addresses that a TLB entry serves. A part of a 64 KiB page has an entry of its own, whose A and
D are its own (R432). -/
def TlbEntry.bytes (t : TlbEntry) : Nat := if t.pointer then tableBytes t.level else pageBytes t.level

/-- A TLB entry of a context serves a virtual address. -/
def TlbEntry.serves (t : TlbEntry) (c : Nat) (va : Word) : Bool :=
  t.ctx == c && 4096 * t.vpn / t.bytes == va.toNat / t.bytes

/-- The entry of the nearest of some TLBs that serves an address and has a property. -/
def State.tlbFind (s : State) (holders : List Nat) (c : Nat) (va : Word) (p : TlbEntry → Bool) : Option TlbEntry :=
  holders.findSome? fun h => s.mem.tlb.find? fun t => t.holder == h && t.serves c va && p t

/-- The leaf an access uses: a translation a TLB holds, or that of a walk, which a pointer entry held there may begin
(R433, R434). -/
def State.leafFor (s : State) (holder c : Nat) (va : Word) : Option Leaf :=
  let at_ (p : TlbEntry → Bool) : Option TlbEntry := s.tlbFind (tlbChain holder) c va p
  match at_ fun t => !t.pointer with
  | some t => some { ctx := c, val := t.leaf, place := t.leafAt, level := t.level, die := holderDie holder }
  | none =>
    let found := match [4, 3, 2].findSome? fun n => at_ fun t => t.pointer && t.level == n with
      | some t => if va.extractLsb' 48 16 != 0#16 then none else s.walkFrom c va (5 - t.level) (ptePfn t.leaf) t.level
      | none => s.walk c va
    found.map fun l => { l with die := holderDie holder }

/-- The physical address a leaf gives a virtual one. -/
def Leaf.pa (l : Leaf) (va : Word) : Nat := ptePfn l.val + va.toNat % pageBytes l.level

/-- The page of 4 KiB that a leaf maps a virtual address into. -/
def Leaf.page (l : Leaf) (va : Word) : PageMap :=
  { vpn := va.toNat / 4096, ppn := l.pa va / 4096, kind := l.val.extractLsb' 5 2, span := leafBytes l.val l.level }

/-- A word of a table is read at its home slice by a walker: its line enters the slice (R432, R441). -/
def State.walkRead (s : State) (pa : Nat) : State := (s.readHome pa 8).1

/-- What the hardware of a die has written at a home slice of another die leaves as a transaction of its own: it has been
applied, and carries no bytes (R413). -/
def State.noteWrite (s : State) (d pa : Nat) : State :=
  if s.homeDie pa = d then s
  else
    s.send (.cc (8 * d)) (96 + d) (lineOf pa) 0 64 (.publish 0 0 [] false false) d (s.homeDie (lineOf pa))
      (s.homeOf (lineOf pa))

/-- The walker has read the tables on its way, and sets A, and D for a write, in the leaf at its home slice, and in the TLBs that
hold it (R432). -/
def State.markUsed (s : State) (l : Leaf) (write : Bool) : State :=
  let s1 := l.walked.foldl State.walkRead s
  let old := s1.peekWord l.place
  let used := 0x80#64 ||| (if write then 0x100#64 else 0#64)
  if old ||| used = old || s1.lineLost l.place then s1
  else
    ((s1.writeHome l.place 8 (old ||| used).toNat).noteWrite l.die l.place).modMem fun m =>
      { m with tlb := mapIf m.tlb (fun t => !t.pointer && t.leafAt == l.place) fun t => { t with leaf := t.leaf ||| used } }

/-! ## Checks of an access -/

/-- What an access does to a page: reads, writes, executes; and which kinds check 5 of R163 allows: 0 any, 1 no store
to READONLY, 2 SHARED or INPLACE only. `late` leaves the checks after those to the caller's own table (R462). -/
structure Want where
  rd : Bool
  wr : Bool
  ex : Bool
  kinds : Nat
  late : Bool
  deriving DecidableEq, Repr

/-- A failed check: the condition, the address it reports, and whether its source is MEM (R418). -/
structure AccFault where
  cond : Nat
  eaddr : Word
  mem : Bool
  deriving DecidableEq, Repr

/-- Who makes an access: the TLB it uses, its context, and whether it runs at K (R163). -/
structure Accessor where
  holder : Nat
  ctx : Nat
  k : Bool
  deriving DecidableEq, Repr

/-- A sequencer as an accessor. -/
def State.accessor (s : State) (q : SeqId) : Accessor :=
  let x := s.seqD q
  { holder := s.tlbOf q, ctx := x.ctxOn q, k := decide (x.priv = .k) }

/-- A physical line may be served: a line of the aperture lies in an FMT-1 window, and no INPLACE mapping reaches one
(R328). -/
def State.codedOk (s : State) (pa : Nat) (kind : PageKind) : Bool :=
  let coded := s.fmtAt pa == 1
  if rangeOf pa = 4 then coded && kind != .inplace else !(coded && kind == .inplace)

/-- An INPLACE access is to an in-place page: a 4 KiB page that R375 places. -/
def State.inplaceOk (s : State) (l : Leaf) (pa : Nat) : Bool :=
  pteKind l.val != .inplace || (l.level == 4 && !pteBit l.val 10 && s.inPlaceLine pa)

/-- A walker has to set A, or D, in a leaf whose line is lost with its die (R418, R432). -/
def State.markLost (s : State) (l : Leaf) (write : Bool) : Bool :=
  s.lineLost l.place && (!pteBit l.val 7 || (write && !pteBit l.val 8))

/-- Checks 2 to 5 of R163 on one page, then CODED-REGION on each line from `va` to the page's end or `stop`, then
NB-PARTITION, then DIE-LOST (R462, R418). -/
def State.checkPage (s : State) (a : Accessor) (va : Word) (len : Nat) (w : Want) : Except AccFault Leaf :=
  match s.leafFor a.holder a.ctx va with
  | none =>
    if va.extractLsb' 48 16 = 0#16 ∧ s.walkLost va 4 (ptePfn (s.ctx a.ctx).root) 1 = true then .error ⟨28, va, true⟩
    else .error ⟨10, va, false⟩
  | some l =>
    let e := l.val
    let kind := pteKind e
    let pa := l.pa va
    if (!a.k && !pteBit e 4) || (w.rd && !pteBit e 1) || (w.ex && !pteBit e 3) then .error ⟨13, va, false⟩
    else if w.wr && (!pteBit e 2 || pteBit e 9) then .error ⟨11, va, false⟩
    else if (w.kinds == 1 && kind == .readonly) || (w.kinds == 2 && kind != .shared && kind != .inplace) then .error ⟨12, va, false⟩
    else if !w.late && !(s.codedOk pa kind && s.codedOk (pa + len - 1) kind) then .error ⟨18, va, false⟩
    else if !w.late && !s.inplaceOk l pa then .error ⟨32, va, false⟩
    else if (s.ctx a.ctx).lost && !a.k then .error ⟨28, va, true⟩
    else if s.lineLost pa || s.markLost l w.wr then .error ⟨28, va, true⟩
    else .ok l

/-- The pages an access was checked against, each with the address and the bytes in it. -/
abbrev Leaves := List (Leaf × Word × Nat)

/-- The checks of an access that may cover several pages, lowest first (R462). Alignment is the caller's. -/
def State.checkSpan (s : State) (a : Accessor) (w : Want) : Nat → Word → Nat → Except AccFault (List (Leaf × Word × Nat))
  | 0, _, _ => .ok []
  | fuel + 1, va, len =>
    if len = 0 then .ok []
    else
      let n := Nat.min len (4096 - va.toNat % 4096)
      match s.checkPage a va n w with
      | .error f => .error f
      | .ok l =>
        match s.checkSpan a w fuel (va + BitVec.ofNat 64 n) (len - n) with
        | .error f => .error f
        | .ok r => .ok ((l, va, n) :: r)

/-- How many pages `len` bytes from `va` may meet. -/
def pagesOf (va : Word) (len : Nat) : Nat := ceilDiv (va.toNat % 4096 + len) 4096

/-- The checks of an access of `len` bytes. -/
def State.checkAccess (s : State) (a : Accessor) (w : Want) (va : Word) (len : Nat) :
    Except AccFault (List (Leaf × Word × Nat)) := s.checkSpan a w (pagesOf va len) va len

/-- A READONLY translation that is used is noted for TLBINV (R302, R434). -/
def State.noteReadonly (s : State) (l : Leaf) (va : Word) : State :=
  let e := (l.ctx, l.page va)
  if pteKind l.val = .readonly ∧ !s.mem.ro.contains e then s.modMem fun m => { m with ro := e :: m.ro } else s

/-- A and D are set for every page an access uses (R432). -/
def State.markAll (s : State) (l : List (Leaf × Word × Nat)) (write : Bool) : State :=
  l.foldl (fun acc p => (acc.markUsed p.1 write).noteReadonly p.1 p.2.1) s

/-- An address reaches the device-register range, whose registers the spec does not give (R11). -/
def reachesDevice (l : List (Leaf × Word × Nat)) : Bool := l.any fun p => decide (2 ^ 50 ≤ p.1.pa p.2.1)

/-- The wants of the access kinds of R163. -/
def wantLoad : Want := ⟨true, false, false, 0, false⟩

/-- A store (R163). -/
def wantStore : Want := ⟨false, true, false, 1, false⟩

/-- AMO, CAS and RED (R163, check 5). -/
def wantAtomic : Want := ⟨true, true, false, 2, false⟩

/-- WAITM (R171). -/
def wantWaitm : Want := ⟨true, false, false, 2, false⟩

/-- An instruction fetch (R60). -/
def wantFetch : Want := ⟨false, false, true, 0, false⟩

/-! ## Direct access by the hardware and by waiting instructions -/

/-- A number from bytes, the first lowest (R7). -/
def bytesNum (l : List Byte) : Nat :=
  match l with
  | [] => 0
  | b :: r => b.toNat + 256 * bytesNum r

/-- The bytes of a number, `n` of them, lowest first (R7). -/
def numBytes : Nat → Nat → List Byte
  | 0, _ => []
  | n + 1, v => BitVec.ofNat 8 v :: numBytes n (v / 256)

/-- A stretch of bytes cut at the lines it meets. -/
def lineChunks : Nat → Nat → Nat → List (Nat × Nat)
  | 0, _, _ => []
  | fuel + 1, pa, n =>
    if n = 0 then []
    else
      let k := Nat.min n (64 - pa % 64)
      (pa, k) :: lineChunks fuel (pa + k) (n - k)

/-- The line chunks of `n` bytes from an address. -/
def chunksOf (pa n : Nat) : List (Nat × Nat) := lineChunks (ceilDiv (pa % 64 + n) 64) pa n

/-- Bytes inside one line read by a party in one step: through its cache for PRIVATE and READONLY pages, at the home
slice otherwise (R299). -/
def State.readChunk (s : State) (owner : Option Nat) (d : Nat) (kind : PageKind) (pa n : Nat) :
    State × Nat × Option Bool :=
  if kind = .priv ∨ kind = .readonly then
    let (s1, l, p, _) := s.readCached owner d kind (lineOf pa)
    (s1, lineNum l (pa % 64) n, p)
  else s.readHome pa n

/-- Bytes inside one line written by a party in one step: in its cache for a PRIVATE page, at the home slice
otherwise, which for another die is a transaction (R413). -/
def State.writeChunk (s : State) (owner : Option Nat) (d : Nat) (kind : PageKind) (pa n v : Nat) : State :=
  let (data, m) := placeAt (pa % 64) n v
  if kind = .priv then s.writeCached owner (96 + d) d (lineOf pa) data m
  else ((s.forceLine (lineOf pa)).homeWrite (lineOf pa) data m false).noteWrite d pa

/-- A mark found further on. -/
def Mark.later (n : Nat) (m : Option Mark) : Option Mark := m.map fun x => { x with addr := x.addr + BitVec.ofNat 64 n }

/-- The bytes of several chunks, with the first error met: its mark holds the offset from the start. -/
def State.readChunks (s : State) (owner : Option Nat) (d : Nat) (kind : PageKind) :
    List (Nat × Nat) → State × List Byte × Option Mark
  | [] => (s, [], none)
  | (pa, n) :: r =>
    let (s1, v, p) := s.readChunk owner d kind pa n
    let (s2, bs, m) := s1.readChunks owner d kind r
    (s2, numBytes n v ++ bs, match p with
      | some f => some ⟨0, f⟩
      | none => Mark.later n m)

/-- Bytes written to several chunks, one line an action. -/
def State.writeChunks (s : State) (owner : Option Nat) (d : Nat) (kind : PageKind) :
    List (Nat × Nat) → List Byte → State
  | [], _ => s
  | (pa, n) :: r, bs =>
    (s.writeChunk owner d kind pa n (bytesNum (bs.take n))).writeChunks owner d kind r (bs.drop n)

/-- The bytes of a checked access, piece by piece, with the first error met, as an offset. -/
def State.readPieces (s : State) (owner : Option Nat) (d : Nat) :
    List (Nat × PageKind × Nat) → State × List Byte × Option Mark
  | [] => (s, [], none)
  | (pa, kind, n) :: r =>
    let (s1, bs, m) := s.readChunks owner d kind (chunksOf pa n)
    let (s2, more, m2) := s1.readPieces owner d r
    (s2, bs ++ more, match m with
      | some x => some x
      | none => Mark.later n m2)

/-- The bytes of a checked access written piece by piece. -/
def State.writePieces (s : State) (owner : Option Nat) (d : Nat) : List (Nat × PageKind × Nat) → List Byte → State
  | [], _ => s
  | (pa, kind, n) :: r, bs =>
    (s.writeChunks owner d kind (chunksOf pa n) (bs.take n)).writePieces owner d r (bs.drop n)

/-- The mark of an access: the virtual line in which its first error lies (R121), or the address itself for a line a
window poisoned (R271). -/
def Mark.at_ (va : Word) (m : Mark) : Mark :=
  { m with addr := if m.accum then va + m.addr else (va + m.addr) &&& ~~~63#64 }

/-- The pieces of a checked access. -/
def piecesOf (l : List (Leaf × Word × Nat)) : List (Nat × PageKind × Nat) :=
  l.map fun p => (p.1.pa p.2.1, pteKind p.1.val, p.2.2)

end Sys2Proof.Machine
end

