-- ==== Sys2Proof/Machine/Ops.lean ====
section
/-! DEFINITION. The operations the meanings share: messages and their routes, releases and acquires, posts and the
fault log, the save frame, and taking an exception and returning from one. -/

namespace Sys2Proof.Machine

/-- The outcome of one step. -/
abbrev Out := Host.Outcome State Fault Refusal

/-! ## Messages (R303, R344) -/

/-- The context of a sequencer as it runs. -/
def State.ctxOf (s : State) (q : SeqId) : Nat := (s.seqD q).ctxOn q

/-- A sequencer sends an access to the home slice of its line; `rel` is the release that it waits for. -/
def State.sendOrdered (s : State) (rel : Option (Nat × Nat)) (q : SeqId) (pa : Nat) (va : Word) (len : Nat) (body : Body) : State :=
  s.sendFor (some (s.ctxOf q)) rel q (s.pathOf q) pa va len body (s.dieOf q) (s.homeDie pa) (s.homeOf pa)

/-- A sequencer sends an access to the home slice of its line. -/
def State.sendAccess (s : State) (q : SeqId) (pa : Nat) (va : Word) (len : Nat) (body : Body) : State :=
  s.sendOrdered none q pa va len body

/-- A message with a number. -/
def State.msg? (s : State) (i : Nat) : Option Msg := s.net.msgs.find? fun m => m.id == i

/-- A message leaves. -/
def State.dropMsg (s : State) (i : Nat) : State :=
  { s with net := { s.net with msgs := s.net.msgs.filter fun m => m.id != i } }

/-- A value is on its way into a g register (R118). -/
def State.land (s : State) (q : SeqId) (r : BitVec 5) (v : Word) (p : Option Mark) (acq : Option (BitVec 3)) :
    State :=
  { s with
    net := { s.net with landings := s.net.landings ++
      [{ id := s.nextId, src := q, reg := r, val := v, poison := p, acq := acq }] }
    nextId := s.nextId + 1 }

/-- A message carries an access, a staged store or a holder record of a sequencer: an access not yet performed
(R344). -/
def Msg.isOf (m : Msg) (q : SeqId) : Bool :=
  m.src == q && match m.body with
    | .access .. | .staged .. | .record | .sync .. | .pad .. => true
    | _ => false

/-- A sequencer has an access numbered below n that is not yet performed, a sync operation that has not completed, or a QPUSH
that has not taken its position (R344, R175, R181). -/
def State.unperformedBelow (s : State) (q : SeqId) (n : Nat) : Bool :=
  s.net.msgs.any (fun m => m.isOf q && decide (m.id < n)) ||
    s.net.held.any (fun h => h.msg.src == q && decide (h.msg.id < n)) ||
    s.net.syncs.any (fun o => o.src == q && decide (o.id < n)) ||
    s.pushes.any (fun p => .worker p.owner == q && decide (p.id < n))

/-- A sequencer has an access that is not yet performed, or a sync operation that has not completed (R344, R175). -/
def State.unperformed (s : State) (q : SeqId) : Bool := s.unperformedBelow q s.nextId

/-- An acquiring access or a sync operation of a sequencer is outstanding: its later accesses wait (R164, R175). -/
def State.ordering (s : State) (q : SeqId) : Bool :=
  s.net.msgs.any (fun m => m.src == q && match m.body with
    | .access _ _ _ (some _) => true
    | .sync .. => true
    | _ => false) ||
  s.net.held.any (fun h => h.msg.src == q && match h.msg.body with
    | .access _ _ _ (some _) => true
    | _ => false) ||
  s.net.landings.any (fun l => l.src == q && l.acq.isSome) || s.net.elems.any (fun l => l.src == q && l.acq.isSome) ||
  s.net.syncs.any (fun o => o.src == q)

/-- A landing, or an access that will make one, is pending for a sequencer's g registers (R121). -/
def State.gPending (s : State) (q : SeqId) : Bool :=
  s.net.landings.any (fun l => l.src == q) ||
  s.net.syncs.any (fun o => o.src == q && o.gd.isSome) ||
  (s.net.msgs ++ s.net.held.map fun h => h.msg).any fun m => m.src == q && match m.body with
    | .access _ _ (.g _ _ _) _ => true
    | .sync _ _ _ gd _ _ => gd.isSome
    | _ => false

/-- A load, of those that return data: its instruction is a long-latency producer (R118). -/
def MemOp.isLoad (o : MemOp) : Bool :=
  match o with
  | .load => true
  | .link _ => true
  | _ => false

/-- A dispatched vector instruction of a worker has not completed: element data or VSTC outcomes are pending, or a
reduction has not been accepted (R242). -/
def State.vPending (s : State) (q : SeqId) : Bool :=
  s.net.elems.any (fun l => l.src == q) ||
  (s.net.msgs ++ s.net.held.map fun h => h.msg).any fun m => m.src == q && match m.body with
    | .access _ _ (.elems ..) _ => true
    | .access _ _ (.mask _ _ _) _ => true
    | .access _ _ (.sent _) _ => true
    | .staged (.red ..) e => e != 0
    | .pad _ _ (.elems ..) => true
    | _ => false

/-! ## Stage buffers (R303 to R305) -/

/-- One entry is sent to its home slice (R305). `chk` marks the answer to a check. -/
def State.publishEntry (s : State) (e : StageEntry) (chk : Bool) : State :=
  let s1 := s.modMem fun m => { m with stage := m.stage.filter fun x => !(x.cluster == e.cluster && x.addr == e.addr) }
  s1.send s.cur e.cluster e.addr 0 64 (.publish e.data e.mask e.reds e.poison chk) (e.cluster / 16)
    (s1.homeDie e.addr) (s1.homeOf e.addr)

/-- Every entry of a cluster's buffer is published, oldest first (R305). -/
def State.publishAll (s : State) (c : Nat) : State :=
  (s.mem.stage.filter fun e => e.cluster == c).foldl (fun acc e => acc.publishEntry e false) s

/-- A cluster's entry for one line is published, if it holds one (R305). -/
def State.publishLine (s : State) (c la : Nat) : State :=
  match s.staged c la with
  | some e => s.publishEntry e false
  | none => s

/-- A publish or a write-through by a path is on its way to its home slice. -/
def State.writesOnWay (s : State) (path : Nat) : Bool :=
  s.net.msgs.any fun m => m.path == path && match m.body with
    | .publish .. => true
    | _ => false

/-- A publish of a cluster is on its way, or staged data is still in its buffer. -/
def State.unpublished (s : State) (c : Nat) : Bool := s.mem.stage.any (fun e => e.cluster == c) || s.writesOnWay c

/-! ## Release and acquire (R343) -/

/-- Every write to a CXL line that its device has not has reached it (R343). -/
def State.flushCxl (s : State) : State :=
  (s.mem.lines.filter fun l => rangeOf l.addr == 3 && l.isDirty && l.window.isNone).foldl State.cleanLine s

/-- What a release at a scope of the accesses numbered below n does now, and whether it is complete (R343). -/
def State.releaseBelow (s : State) (q : SeqId) (scope n : Nat) : State × Bool :=
  if s.unperformedBelow q n then (s, false)
  else
    let s1 := if 1 ≤ scope then
        match s.cacheOf q with
        | some o => s.flushCache o
        | none => s
      else s
    let (s2, done) := if 2 ≤ scope then
        match s1.clusterOf q with
        | none => (s1, scope = 2 || !s1.writesOnWay (s1.pathOf q))
        | some c =>
          let s2 := s1.publishAll c
          (s2, !s2.unpublished c)
      else (s1, true)
    if done && decide (4 ≤ scope) then (s2.flushCxl, true) else (s2, done)

/-- What a release at a scope of every earlier access does now, and whether it is complete. -/
def State.release (s : State) (q : SeqId) (scope : Nat) : State × Bool := s.releaseBelow q scope s.nextId

/-- A release that a fence has asked for is made; whether it is complete (R169). Later stores wait for it. -/
def State.releaseDue (s : State) (q : SeqId) : State × Bool :=
  match (s.seqD q).relDue with
  | none => (s, true)
  | some (scope, n) =>
    let (s1, done) := s.releaseBelow q scope n
    (if done then s1.modSeq q fun x => { x with relDue := none } else s1, done)

/-- The release that a store of a sequencer waits for: one that fences have asked for, if any (R169), and one of its own of a
scope, of everything before it (R164). -/
def State.relOf (s : State) (q : SeqId) (own : Option Nat) : Option (Nat × Nat) :=
  match (s.seqD q).relDue, own with
  | some (k, _), some scope => some (Nat.max k scope, s.nextId)
  | none, some scope => some (scope, s.nextId)
  | r, none => r

/-- A fence asks for a release of everything before it, which later stores wait for (R169). -/
def State.oweRelease (s : State) (q : SeqId) (scope : Nat) : State :=
  s.modSeq q fun x =>
    { x with relDue := some (match x.relDue with
      | some (k, _) => (Nat.max k scope, s.nextId)
      | none => (scope, s.nextId)) }

/-- What an acquire at a scope does. -/
def State.acquire (s : State) (q : SeqId) (scope : Nat) : State :=
  let s1 := if 1 ≤ scope then
      match s.cacheOf q with
      | some o => s.dropClean o
      | none => s
    else s
  if 3 ≤ scope then s1.dropGuests (s.dieOf q) else s1

/-! ## Posts and fault logs (R437 to R439) -/

/-- The word of R438 bytes 48 to 55. -/
def idWord (c slot wid : Nat) (nested direct : Bool) : Nat :=
  c % 512 + 2 ^ 9 * (slot % 64) + 2 ^ 15 * (wid % 4096) + (if nested then 2 ^ 27 else 0) + (if direct then 2 ^ 28 else 0)

/-- The eight words of a kernel fault queue record (R438). -/
def Post.words (p : Post) (seq : Nat) : List Nat :=
  [p.frame.toNat, p.operand.toNat, p.cause.toNat, p.epc.toNat, p.eaddr.toNat, p.eidx,
    idWord p.ctx p.slot p.wid p.nested p.direct, 2 ^ 63 + seq % 2 ^ 32]

/-- Words written at a physical address, eight bytes each. -/
def State.writeWords (s : State) (pa : Nat) (l : List Nat) : State :=
  l.zipIdx.foldl (fun (acc : State) p => acc.writeHome (pa + 8 * p.2) 8 p.1) s

/-- A record that the hardware writes into a ring carries a release at system scope (R437): every write to a CXL line has
reached its device. -/
def State.writeRecord (s : State) (pa : Nat) (l : List Nat) : State := (s.writeWords pa l).flushCxl

/-- The hardware writes the posts that wait, in order, while the next slot is free (R437). -/
def State.drainPosts (s : State) : Nat → State
  | 0 => s
  | fuel + 1 =>
    match s.kfqWaiting with
    | [] => s
    | p :: r =>
      let log := s.regs.kfqlog.toNat
      if log = 0 then s
      else
        let pa := s.regs.kfqbase.toNat + 64 * (s.kfqPosted % 2 ^ log)
        if s.lineLost pa then s
        else if (s.peekWord (pa + 56)).getLsbD 63 then s
        else ({ s.writeRecord pa (p.words s.kfqPosted) with kfqPosted := s.kfqPosted + 1, kfqWaiting := r }).drainPosts fuel

/-- A fault-log entry: four words of the source's body, lowest first, then the framing (R439). A dropped entry is
counted in CFLLOST, and LOG-OVERFLOW is posted when that rises from 0 (R437, R438). -/
def State.logFault (s : State) (c slot wid cause : Nat) (body : List Nat) (time : Word) : State :=
  let x := s.ctx c
  let log := x.cfllog.toNat
  let pa := x.cflbase.toNat + 64 * (x.logged % 2 ^ log)
  if log = 0 || s.lineLost pa || (s.peekWord (pa + 56)).getLsbD 63 then
    let s1 := s.modCtx c fun y => { y with cfllost := satInc y.cfllost true }
    if x.cfllost = 0 then s1.postHardware 52 c 0 none else s1
  else
    (s.writeRecord pa (body ++ [cause, idWord c slot wid false false, time.toNat, 2 ^ 63 + x.logged % 2 ^ 32])).modCtx c
      fun y => { y with logged := y.logged + 1 }

/-- The body of an entry of every source but NB and CE (R439). -/
def plainBody (eaddr operand : Word) (num : Nat) : List Nat := [num, 0, operand.toNat, eaddr.toNat]

/-- The 32 bytes of a CE fault-log entry, lowest word first (R407). -/
def ceBody (num wid handle cause off : Nat) (mig : Bool) (eaddr : Word) : List Nat :=
  [num, 2 ^ 32 * (wid % 4096 + 2 ^ 12 * (handle % 4) + (if mig then 2 ^ 14 else 0)),
    cause % 512 + 2 ^ 24 * (off % 2 ^ 40), eaddr.toNat]

/-- The handle of a CE context, and the id of the worker that forked it. -/
def ceNames (q : SeqId) : Nat × Nat :=
  match q with
  | .ce w h => (w.wid, h)
  | _ => (0, 0)

/-- A log entry of the hardware for a launch: no worker, and a body the spec states no value for. -/
def State.logUnstated (s : State) (c slot cause : Nat) (time : Word) : State :=
  let (n, s1) := s.takeFree
  s1.logFault c slot (Config.unstated n 0).toNat cause
    (plainBody (Config.unstated n 1) (Config.unstated n 2) (Config.unstated n 3).toNat) time

/-- An operation of a launch failed after its issuer had moved on: it is logged and counted (R43). -/
def State.reportFault (s : State) (q : SeqId) (c cause : Nat) (body : List Nat) : State :=
  match ownerOf q with
  | some w => (s.logFault c w.slot w.wid cause body (s.timeOf q)).countFault w.ctx w.slot
  | none => s.logFault c 0 0 cause body (s.timeOf q)

/-! ## The save frame (R248 to R251) -/

/-- The virtual address of a worker's frame (R248). -/
def State.frameVa (s : State) (w : WKey) : Word :=
  (s.ctx w.ctx).cfbase + BitVec.ofNat 64 (0x68000 * (s.seqD (.worker w)).w.frame)

/-- The accessor of the save engine: the worker's context, through its die's translations (R248). -/
def State.frameAccessor (s : State) (w : WKey) : Accessor :=
  { holder := s.dieOf (.worker w), ctx := w.ctx, k := false }

/-- A save or restore access failed: FRAME-FAULT is logged and posted, and the launch is torn down as by ABORT
(R248). -/
def State.frameFault (s : State) (w : WKey) : State :=
  let s1 := s.logFault w.ctx w.slot w.wid 371 (plainBody (s.frameVa w) 0 0) (s.timeOf (.worker w))
  let s2 := s1.post { Post.hardware 51 w.ctx w.slot (s.frameVa w) with wid := w.wid }
  s2.modLaunch w.ctx w.slot fun l => { l with phase := .tearing 3 }

/-- Bytes written into a worker's frame; none when the access fails. One that leads to the device-register range fails
(DESIGN CHOICE, log entry 15). -/
def State.frameWrite (s : State) (w : WKey) (off : Nat) (bs : List Byte) : Option State :=
  match s.checkAccess (s.frameAccessor w) wantStore (s.frameVa w + BitVec.ofNat 64 off) bs.length with
  | .error _ => none
  | .ok l =>
    if reachesDevice l then none
    else some ((s.markAll l true).writePieces none (s.dieOf (.worker w)) (piecesOf l) bs)

/-- Bytes read from a worker's frame; none when the access fails, as `State.frameWrite`. -/
def State.frameRead (s : State) (w : WKey) (off n : Nat) : Option (State × List Byte) :=
  match s.checkAccess (s.frameAccessor w) wantLoad (s.frameVa w + BitVec.ofNat 64 off) n with
  | .error _ => none
  | .ok l =>
    if reachesDevice l then none
    else
      let (s1, bs, _) := (s.markAll l false).readPieces none (s.dieOf (.worker w)) (piecesOf l)
      some (s1, bs)

/-- The bytes of a list of words, eight each. -/
def wordsBytes (l : List Nat) : List Byte := l.flatMap (numBytes 8)

/-- The word at index k of a list of bytes. -/
def wordAt (bs : List Byte) (k : Nat) : Nat := bytesNum ((bs.drop (8 * k)).take 8)

/-- The words of a loop stack, entry 0 outermost, six entries (R250). -/
def loopWords (l : List LoopEntry) : List Nat :=
  let out := l.reverse.flatMap fun e => [e.body.toNat, e.rem.toNat, e.idx.toNat]
  out ++ List.replicate (18 - out.length) 0

/-- A loop stack of `depth` entries from its words. -/
def loopsFrom (ws : List Nat) (depth : Nat) : List LoopEntry :=
  ((List.range depth).map fun k =>
    { body := BitVec.ofNat 64 (ws.getD (3 * k) 0), rem := BitVec.ofNat 64 (ws.getD (3 * k + 1) 0),
      idx := BitVec.ofNat 64 (ws.getD (3 * k + 2) 0) : LoopEntry }).reverse

/-- The words g0 to g31, g0 as zero (R250). -/
def gregWords (b : Bank) : List Nat := (List.range 32).map fun k => (b.read (BitVec.ofNat 5 k)).toNat

/-- Bit k set: register k carries a poison mark. -/
def gpoisonWord (b : Bank) : Nat :=
  (List.range 32).foldl (fun n k => if (b.mark (BitVec.ofNat 5 k)).isSome then n + 2 ^ k else n) 0

/-- g registers and poison marks from their words. A mark that was saved has no line left to report. -/
def Bank.fromWords (b : Bank) (gs : List Nat) (gp : Nat) : Bank :=
  { b with
    g := Vector.ofFn fun k : Fin 32 => if k.val = 0 then 0 else BitVec.ofNat 64 (gs.getD k.val 0)
    empty := 0
    marks := Vector.ofFn fun k : Fin 32 =>
      if k.val ≠ 0 ∧ gp / 2 ^ k.val % 2 = 1 then some ⟨0, false⟩ else none }

/-- Bit k set: vk carries a poison mark. -/
def vpoisonWord (x : Worker) : Nat :=
  (List.range 64).foldl (fun n k => if ((x.v.getD k VReg.reset).poison).isSome then n + 2 ^ k else n) 0

/-- The STATE word of a worker record (R250). -/
def stateWord (x : Seq) (loops : List LoopEntry) (kposted intrap : Bool) : Nat :=
  2 ^ 32 * x.bank.xf.toNat + 2 ^ 28 * x.w.xsel.toNat + 2 ^ 26 * x.w.vrm.toNat + 2 ^ 24 * x.w.vmt.toNat +
    2 ^ 22 * x.w.vncode.toNat + 2 ^ 19 * (loops.length % 8) + (if kposted then 2 ^ 18 else 0) +
    (if intrap then 2 ^ 17 else 0)

/-- Bytes 0x000 to 0x1EF of a worker record (R250). -/
def recordWords (x : Seq) (pc : Word) (loops : List LoopEntry) (kposted intrap : Bool) (barwait : Nat) : List Nat :=
  [pc.toNat, stateWord x loops kposted intrap, x.w.vl.toNat, x.w.vstart.toNat, x.w.vlmax.toNat, x.cause.toNat,
    x.epc.toNat, x.eaddr.toNat, x.eidx.toNat, gpoisonWord x.bank, vpoisonWord x.w, barwait] ++
  gregWords x.bank ++ loopWords loops

/-- The registers a worker declares (R122, R250). -/
def vnregOf (code : BitVec 2) : Nat := 8 * 2 ^ code.toNat

/-- Bits per vector register (R122). -/
def regBits (code : BitVec 2) : Nat := 1048576 / vnregOf code

/-- Where block b of vector register k lies in the frame (R249). -/
def blockOffset (code : BitVec 2) (k b : Nat) : Nat := 0x8000 + k * (131072 / vnregOf code) + 2048 * b

/-- The blocks within an extent (R127). -/
def blocksIn (extent : Nat) : Nat := ceilDiv extent 2048

/-- The bytes of block b of a register. -/
def blockBytes (v : VBits) (b : Nat) : List Byte := numBytes 2048 (v.extractLsb' (16384 * b) 16384).toNat

/-- A register with the bits of block b replaced. -/
def putBlockBits (v : VBits) (b : Nat) (x : BitVec 16384) : VBits :=
  (v &&& ~~~(((BitVec.allOnes 16384).setWidth 131072) <<< (16384 * b))) ||| ((x.setWidth 131072) <<< (16384 * b))

/-- A stream register's image in its 16 bytes (R132, R250). -/
def streamWords (q : Stream) : List Nat :=
  let n := (if q.set then 2 ^ 66 else 0) + (if q.dir then 2 ^ 65 else 0) + 2 ^ 58 * q.boff.toNat + q.base.toNat
  [n % 2 ^ 64, n / 2 ^ 64]

/-- A stream register from its image. -/
def streamFrom (lo hi : Nat) : Stream :=
  { set := hi / 4 % 2 == 1, dir := hi / 2 % 2 == 1, boff := BitVec.ofNat 3 (lo / 2 ^ 58),
    base := BitVec.ofNat 58 lo, slots := [] }

/-- A window register's image (R267). -/
def windowWords (x : WindowReg) : List Nat :=
  [x.base.toNat, 2 ^ 12 * x.pitchl.toNat + 2 ^ 16 * x.rows.toNat + 2 ^ 24 * x.cols.toNat + (if x.isOpen then 2 ^ 32 else 0)]

/-- A window register from its image; `window` gives the number of the window that it holds open. The image of one that names
no window of the launch comes back closed (DESIGN CHOICE, log entry 95). -/
def windowFrom (window : WindowReg → Option Nat) (lo hi : Nat) : WindowReg :=
  let r : WindowReg := { isOpen := hi / 2 ^ 32 % 2 == 1, cols := BitVec.ofNat 8 (hi / 2 ^ 24), rows := BitVec.ofNat 8 (hi / 2 ^ 16),
                         pitchl := BitVec.ofNat 4 (hi / 2 ^ 12), base := BitVec.ofNat 58 lo, window := 0 }
  match window r with
  | some i => if r.isOpen then { r with window := i } else r
  | none => { r with isOpen := false }

/-- Folds a partial operation over a list. -/
def foldOpt {α β : Type} (f : β → α → Option β) : List α → β → Option β
  | [], b => some b
  | x :: r, b =>
    match f b x with
    | none => none
    | some c => foldOpt f r c

/-- Every dirty block within the extents goes to the frame, and its dirty bit is cleared (R128, R255). -/
def State.saveBlocks (s : State) (w : WKey) : Option State :=
  foldOpt (fun (acc : State) (k : Nat) =>
    let r := (acc.seqD (.worker w)).w.v.getD k VReg.reset
    let code := (acc.seqD (.worker w)).w.vncode
    match foldOpt (fun (a : State) (b : Nat) =>
        if r.dirty.getLsbD b then a.frameWrite w (blockOffset code k b) (blockBytes r.bits b) else some a)
        (List.range (blocksIn r.extent)) acc with
    | none => none
    | some a =>
      some (a.modSeq (.worker w) fun x =>
        { x with w := { x.w with v := x.w.v.setIfInBounds k { r with dirty := 0 } } }))
    (List.range (vnregOf (s.seqD (.worker w)).w.vncode)) s

/-- The mask registers go to the frame (R249). -/
def State.saveMasks (s : State) (w : WKey) : Option State :=
  foldOpt (fun (acc : State) (k : Nat) =>
    acc.frameWrite w (0x1000 + 0xAC0 * k) (numBytes 2731 ((s.seqD (.worker w)).w.m.getD k 0).toNat))
    (List.range 8) s

/-- Extents and stream registers go to the frame (R250). -/
def State.saveExtents (s : State) (w : WKey) : Option State :=
  let x := (s.seqD (.worker w)).w
  match s.frameWrite w 0x380 ((List.range 64).flatMap fun k => numBytes 2 (x.v.getD k VReg.reset).extent) with
  | none => none
  | some s1 => s1.frameWrite w 0x200 (wordsBytes ((List.range 16).flatMap fun k => streamWords (x.q.getD k Stream.reset)))

/-- A word of the frame changed in the bits of a mask. -/
def State.frameModify (s : State) (w : WKey) (off : Nat) (mask val : Nat) : Option State :=
  match s.frameRead w off 8 with
  | none => none
  | some (s1, bs) =>
    let old := BitVec.ofNat 64 (bytesNum bs)
    let m := BitVec.ofNat 64 mask
    s1.frameWrite w off (numBytes 8 ((old &&& ~~~m) ||| (BitVec.ofNat 64 val &&& m)).toNat)

/-- CTXSV.v: the vector state goes to the frame, VSAVED := 1 (R255). -/
def State.saveVector (s : State) (w : WKey) : Option State :=
  if (s.seqD (.worker w)).w.vsaved then some s
  else
    match s.saveBlocks w with
    | none => none
    | some s1 =>
      match s1.saveMasks w with
      | none => none
      | some s2 =>
        match s2.saveExtents w with
        | none => none
        | some s3 =>
          let x := (s.seqD (.worker w)).w
          match s3.frameWrite w 0x50 (numBytes 8 (vpoisonWord x)) with
          | none => none
          | some s4 =>
            match s4.frameModify w 8 (3 * 2 ^ 22) (2 ^ 22 * x.vncode.toNat) with
            | none => none
            | some s5 => some (s5.modSeq (.worker w) fun y => { y with w := { y.w with vsaved := true } })

/-- The bits of the first n blocks of a register. -/
def firstBlocks (n : Nat) : BitVec 8 := BitVec.ofNat 8 (2 ^ n - 1)

/-- CTXLD.v: VNREG, extents, masks, stream registers and poison marks come back, every block within the extents to be
reloaded on first use; VSAVED := 0 (R255). An extent above what a register holds is taken as all of it (DESIGN CHOICE, log entry
106). -/
def State.loadVector (s : State) (w : WKey) : Option State :=
  match s.frameRead w 0 0x400 with
  | none => none
  | some (s1, r) =>
    match s1.frameRead w 0x1000 (8 * 0xAC0) with
    | none => none
    | some (s2, ms) =>
      let code := BitVec.ofNat 2 (wordAt r 1 / 2 ^ 22)
      let vp := wordAt r 10
      some (s2.modSeq (.worker w) fun y =>
        { y with w := { y.w with
            vncode := code
            vsaved := false
            v := Vector.ofFn fun k : Fin 64 =>
              let e := Nat.min (bytesNum ((r.drop (0x380 + 2 * k.val)).take 2)) (regBits code / 8)
              { bits := 0, extent := if k.val < vnregOf code then e else 0,
                poison := if vp / 2 ^ k.val % 2 = 1 then some ⟨0, false⟩ else none, marker := 0, granule := 0, dirty := 0,
                framed := if k.val < vnregOf code then firstBlocks (blocksIn e) else 0 }
            m := Vector.ofFn fun k : Fin 8 => BitVec.ofNat 21845 (bytesNum ((ms.drop (0xAC0 * k.val)).take 2731))
            q := Vector.ofFn fun k : Fin 16 => streamFrom (wordAt r (64 + 2 * k.val)) (wordAt r (65 + 2 * k.val)) } })

/-! ## Taking an exception -/

/-- A worker's queue is empty and every dispatched vector instruction has completed (R142). -/
def State.vecIdle (s : State) (q : SeqId) : Bool := (s.seqD q).w.queue.isEmpty && !s.vPending q

/-- A store of a worker to its own frame is on its way: what the hardware writes or reads there comes after it
(R117, R256). -/
def State.framePending (s : State) (q : SeqId) : Bool :=
  match q with
  | .worker w =>
    let lo := s.frameVa w
    s.net.msgs.any fun m => m.isOf q && decide ((m.va - lo).toNat < 0x68000)
  | _ => false

/-- An access of a worker to another one's scratchpad, or of another one to its own, is on its way: what is saved of the
scratchpads comes after it (R190, R341). -/
def State.padPending (s : State) (q : SeqId) : Bool :=
  s.net.msgs.any fun m => match m.body with
    | .pad o _ _ => m.src == q || q == .worker o
    | _ => false

/-- A worker's queue has drained and every landing for its registers has completed (R86, R121, R252). -/
def State.drained (s : State) (q : SeqId) : Bool :=
  s.vecIdle q && !s.gPending q && !s.framePending q && !s.padPending q

/-- A control core's earlier stores and landings are complete (R425). -/
def State.coreDrained (s : State) (q : SeqId) : Bool := !s.unperformed q && !s.gPending q

/-- The values a trap puts into CAUSE, EPC, EADDR, EIDX, and VSTART for an element stop (R201, R252, R425). -/
def Seq.noteTrap (x : Seq) (t : Trap) : Seq :=
  { x with
    cause := BitVec.ofNat 9 (64 * t.source + t.cond)
    epc := t.epc
    eaddr := t.eaddr
    eidx := BitVec.ofNat 15 t.eidx
    trap := none
    line := none
    w := { x.w with vstart := match t.vstart with
      | some k => BitVec.ofNat 15 k
      | none => x.w.vstart } }

/-- The worker's fault is forwarded to the kernel fault queue and the worker parks (R257). For a nested trap too this performs
CTXSV.v where VSAVED = 0, so that EXTENT, QREGS, VPOISON and VNCODE of the record are written, which R252 leaves open (DESIGN
CHOICE, log entry 105). -/
def State.postWorker (s : State) (w : WKey) (operand : Word) (nested direct : Bool) : Option State :=
  match s.saveVector w with
  | none => none
  | some s1 =>
    match s1.frameWrite w 0x1F8 (numBytes 8 0) with
    | none => none
    | some s2 =>
      match s2.frameModify w 8 (2 ^ 18) (2 ^ 18) with
      | none => none
      | some s3 =>
        let x := s3.seqD (.worker w)
        some ((s3.post { frame := s3.frameVa w, operand := operand, cause := x.cause, epc := x.epc, eaddr := x.eaddr,
                         eidx := x.eidx.toNat, ctx := w.ctx, slot := w.slot, wid := w.wid, nested := nested,
                         direct := direct }).modSeq (.worker w) fun y => { y with run := .parked .kpost })

/-- The trap of an instruction that met an error, at the PC about to issue (R202, R262). -/
def PendingTrap.trap (p : PendingTrap) (pc : Word) : Trap :=
  { source := p.source, cond := if p.mark.accum then 16 else 17, epc := pc, eaddr := p.mark.addr, eidx := p.elem,
    save := pc, vstart := none }

/-- A worker takes a trap (R252): the registers of the trap are set, its reservations cleared, its record written, and
it enters S at SVEC; a recompute mismatch, a debug break, a nested trap and every trap with SVEC = 0 go straight to
the kernel fault queue. A frame access that fails ends the launch (R248). -/
def State.takeWorkerTrap (s : State) (w : WKey) (t : Trap) : State :=
  let q := SeqId.worker w
  let nested := (s.seqD q).w.ins
  let s1 := (s.modSeq q fun x => x.noteTrap t).clearResv w
  let x := s1.seqD q
  let written := if nested then some s1
    else s1.frameWrite w 0 (wordsBytes (recordWords x t.save x.bank.loops false true 0))
  match written with
  | none => s1.frameFault w
  | some s2 =>
    if nested || x.w.svec == 0 || (t.source == 1 && t.cond == 30) || t.cond == 31 then
      match s2.postWorker w 0 nested true with
      | none => s2.frameFault w
      | some s3 => s3
    else
      s2.modSeq q fun y =>
        { y with
          priv := .s
          run := .running
          pc := y.w.svec
          w := { y.w with ins := true, keptLoops := y.bank.loops }
          bank := ({ Bank.reset with xf := y.bank.xf }.write 1 (s2.frameVa w)).write 2 (y.cause.setWidth 64) }

/-- A control core takes a trap (R425): the registers are set, KSTAT records the privilege, and the core enters K at
KVEC on the K bank; with KVEC = 0 it stops, its CCRUN bit clear. -/
def State.takeCoreTrap (s : State) (n : Nat) (t : Trap) : State :=
  let q := SeqId.cc n
  let x := (s.seqD q).noteTrap t
  let fromK := decide (x.priv = .k)
  let stop := x.cc.kvec == 0
  let y : Seq :=
    { x with
      bank := if fromK then x.bank else x.other
      other := if fromK then x.other else x.bank
      priv := .k
      pc := if stop then x.pc else x.cc.kvec
      run := if stop then .halted else .running
      cc := { x.cc with ppriv := fromK, ink := x.cc.ink || !fromK } }
  let s1 := s.setSeq q y
  if stop then { s1 with regs := { s1.regs with ccrun := s1.regs.ccrun &&& ~~~(BitVec.twoPow 32 n) } } else s1

/-- The body of the log entry of a forked sequencer's trap: R407's map for a source of CE, with no command of TLC named,
else R439's. -/
def forkBody (q : SeqId) (t : Trap) : List Nat :=
  if t.source = 3 then ceBody 0 (ceNames q).1 (ceNames q).2 (64 * t.source + t.cond) 0 false t.eaddr
  else plainBody t.eaddr 0 0

/-- A forked sequencer that traps stops as though it had executed END; its fault is logged and counted (R39). -/
def State.stopFork (s : State) (q : SeqId) (t : Trap) : State :=
  let c := match ownerOf q with
    | some w => w.ctx
    | none => 0
  (s.reportFault q c (64 * t.source + t.cond) (forkBody q t)).modSeq q fun x =>
    { x.noteTrap t with run := .ending }

/-- A worker whose vector unit met an error during the drain takes that trap instead (R86, R202). -/
def State.takeDrained (s : State) (w : WKey) (t : Trap) : State :=
  match (s.seqD (.worker w)).w.pending with
  | none => s.takeWorkerTrap w t
  | some p =>
    (s.modSeq (.worker w) fun y => { y with w := { y.w with pending := none } }).takeWorkerTrap w
      { p.trap t.save with vstart := t.vstart }

/-- The state in which a pending trap is entered, if it can be entered now. -/
def State.enterTrap (s : State) (q : SeqId) : Option State :=
  match (s.seqD q).trap with
  | none => none
  | some t =>
    match q with
    | .worker w => if s.drained q then some (s.takeDrained w t) else none
    | .cc n => if s.coreDrained q then some (s.takeCoreTrap n t) else none
    | _ => some (s.stopFork q t)

/-- A sequencer raises a trap: it is entered at once when everything before it is complete, and otherwise by
TRAP_ENTRY or KERNEL_TRAP_ENTRY once it is. A fault of a queued instruction takes the place of a later one (R86). -/
def State.raiseOn (s : State) (q : SeqId) (t : Trap) : State :=
  let s1 := s.modSeq q fun x => { x with trap := some t }
  match s1.enterTrap q with
  | some s2 => s2
  | none => s1

/-- The trap of the current instruction: EPC at it, the record's PC too. -/
def State.trapAt (s : State) (source cond : Nat) (eaddr : Word) : Trap :=
  { source := source, cond := cond, epc := s.core.pc, eaddr := eaddr, eidx := 0, save := s.core.pc, vstart := none }

/-- The current instruction raises a condition with its sequencer's source (R145). Where no rule names an address, callers
give an EADDR of 0 (DESIGN CHOICE, log entry 82). -/
def State.raise (s : State) (cond : Nat) (eaddr : Word) : State :=
  s.raiseOn s.cur (s.trapAt (sourceOf s.cur) cond eaddr)

/-- The current instruction raises a condition with a given source. -/
def State.raiseFrom (s : State) (source cond : Nat) (eaddr : Word) : State :=
  s.raiseOn s.cur (s.trapAt source cond eaddr)

/-- The current instruction raises what a check of an access found. -/
def State.raiseAcc (s : State) (source : Nat) (f : AccFault) : State :=
  s.raiseFrom (if f.mem then 5 else source) f.cond f.eaddr

/-! ## Returning from one -/

/-- A worker record breaks a limit of R136 or R250 in STATE or LOOPS, or a reserved bit of it is not zero: of STATE, of the
word at 0x1F0, or of VL and VSTART (R136, R256, log entry 75). -/
def recordBad (r : List Byte) : Bool :=
  let st := BitVec.ofNat 64 (wordAt r 1)
  st.extractLsb' 40 24 != 0#24 || st.extractLsb' 0 17 != 0#17 || decide (6 < (st.extractLsb' 19 3).toNat) ||
    decide (8 < (st.extractLsb' 28 4).toNat) || decide (st.extractLsb' 24 2 = 3#2) || wordAt r 62 != 0 ||
    decide (32767 < wordAt r 2) || decide (32767 < wordAt r 3)

/-- A worker returns to what its frame describes (R256): the vector state first where it was saved, then the record. A
record that breaks a limit is posted with NESTED = 1. -/
def State.returnWorker (s : State) (w : WKey) : State :=
  let q := SeqId.worker w
  let loaded := if (s.seqD q).w.vsaved then s.loadVector w else some s
  match loaded with
  | none => s.frameFault w
  | some s1 =>
    match s1.frameRead w 0 0x1F8 with
    | none => s1.frameFault w
    | some (s2, r) =>
      if recordBad r then
        let s3 := s2.modSeq q fun x => x.noteTrap
          { source := 0, cond := 3, epc := x.pc, eaddr := 0, eidx := 0, save := x.pc, vstart := none }
        match s3.postWorker w 0 true true with
        | none => s3.frameFault w
        | some s4 => s4
      else
        match s2.frameModify w 8 (2 ^ 17 + 2 ^ 18) 0 with
        | none => s2.frameFault w
        | some s3 =>
          let st := BitVec.ofNat 64 (wordAt r 1)
          let loopsAt := (List.range 18).map fun k => wordAt r (44 + k)
          s3.modSeq q fun x =>
            { x with
              run := .running
              priv := .u
              pc := BitVec.ofNat 64 (wordAt r 0)
              line := none
              bank := { (Bank.reset.fromWords ((List.range 32).map fun k => wordAt r (12 + k)) (wordAt r 9)) with
                xf := st.extractLsb' 32 8
                loops := loopsFrom loopsAt (st.extractLsb' 19 3).toNat }
              w := { x.w with
                ins := false
                keptLoops := []
                vl := BitVec.ofNat 15 (wordAt r 2)
                vstart := BitVec.ofNat 15 (wordAt r 3)
                vlmax := BitVec.ofNat 15 (wordAt r 4)
                xsel := st.extractLsb' 28 4
                vrm := st.extractLsb' 26 2
                vmt := st.extractLsb' 24 2
                vncode := st.extractLsb' 22 2 } }

/-- A control core at K returns to KSTAT.PPRIV at EPC, on that privilege's bank (R426). -/
def Seq.returnCore (x : Seq) : Seq :=
  { x with
    bank := if x.cc.ppriv then x.bank else x.other
    other := if x.cc.ppriv then x.other else x.bank
    priv := if x.cc.ppriv then .k else .u
    pc := x.epc
    line := none
    cc := { x.cc with ink := false } }

end Sys2Proof.Machine
end

