-- ==== Sys2Proof/WellFormed.lean ====
section
/-! DEFINITION. When an instruction is well formed: its fields pass rows 6 to 8 of R85 that its encoding alone
decides (R69, R73 to R81 and the instruction entries), and they pick the row of the opcode table that the
constructor stands for. -/

namespace Sys2Proof

/-- An instruction is well formed. The checks are those of rows 6, 7 and 8 of R85 and the choice among rows that
share an opcode. -/
def WellFormed (i : Instr) : Bool := i.reservedOk && i.typeOk && i.segmentOk && i.formOk

/-- A well-formed instruction passes the reserved-field row (R85, row 6). -/
theorem WellFormed.reserved {i : Instr} (h : WellFormed i = true) : i.reservedOk = true := by
  simp only [WellFormed, Bool.and_eq_true] at h; exact h.1.1.1

/-- A well-formed instruction passes the element-type row (R85, row 7). -/
theorem WellFormed.type {i : Instr} (h : WellFormed i = true) : i.typeOk = true := by
  simp only [WellFormed, Bool.and_eq_true] at h; exact h.1.1.2

/-- A well-formed instruction passes the segment row (R85, row 8). -/
theorem WellFormed.segment {i : Instr} (h : WellFormed i = true) : i.segmentOk = true := by
  simp only [WellFormed, Bool.and_eq_true] at h; exact h.1.2

end Sys2Proof
end

