-- ==== Sys2Proof/Machine/Operands.lean ====
section
/-! DEFINITION. The operands of every instruction (R64 to R66, R70 to R81), the sequencers and privileges that may
run it (R82, R134, R427), and the checks and waits every instruction passes before it has its effect (R85, R114,
R118 to R121, R202, R254). -/

namespace Sys2Proof

/-- The registers an instruction names. `gs` and `vs` list the g and v sources, each with true for trap mode (:x);
`gd` is a g destination; `vregs` lists every vector register named, for row 9 of R85. -/
structure Operands where
  gs : List (BitVec 5 × Bool)
  vs : List (BitVec 6 × Bool)
  gd : Option (BitVec 5)
  vregs : List Nat
  deriving DecidableEq, Repr

/-- The g register in H (R70). -/
def hReg (h : BitVec 7) : BitVec 5 := h.extractLsb' 0 5

/-- The mode bit in H of a g source (R70). -/
def hMode (h : BitVec 7) : Bool := h.getLsbD 5

/-- The v register in H (R70). -/
def hVec (h : BitVec 7) : BitVec 6 := h.extractLsb' 0 6

/-- The mode bit in H of a vector store's data source (R70). -/
def hVecMode (h : BitVec 7) : Bool := h.getLsbD 6

/-- The mask register in H (R70). -/
def hMask (h : BitVec 7) : BitVec 3 := h.extractLsb' 0 3

/-- No register. -/
def noOperands : Operands := ⟨[], [], none, []⟩

/-- F-RG operands. -/
def FRG.operands (f : FRG) : Operands := ⟨[(f.ga, f.ma), (f.gb, f.mb)], [], some f.gd, []⟩

/-- F-IM operands with a destination in H. -/
def FIM.toReg (f : FIM) : Operands := ⟨[(f.ga, f.ma)], [], some (hReg f.h), []⟩

/-- F-IM operands with a source in H. -/
def FIM.fromReg (f : FIM) : Operands := ⟨[(hReg f.h, hMode f.h), (f.ga, f.ma)], [], none, []⟩

/-- The three sources of F-TR. -/
def FTR.sources (f : FTR) : List (BitVec 5 × Bool) := [(f.ga, f.ma), (f.gb, f.mb), (f.gc, f.mc)]

/-- F-TR operands with a destination in H. -/
def FTR.toReg (f : FTR) : Operands := ⟨f.sources, [], some (hReg f.h), []⟩

/-- F-TR operands without one. -/
def FTR.noReg (f : FTR) : Operands := ⟨f.sources, [], none, []⟩

/-- Source b of a vector instruction: a g register when S = 1, else a v register (R210). -/
def FV3.bG? (f : FV3) : List (BitVec 5 × Bool) := if f.s then [(f.vb.extractLsb' 0 5, f.mb)] else []

/-- Source b when it is a v register. -/
def FV3.bV? (f : FV3) : List (BitVec 6 × Bool) := if f.s then [] else [(f.vb, f.mb)]

/-- The numbers of v registers. -/
def vnums (l : List (BitVec 6 × Bool)) : List Nat := l.map fun p => p.1.toNat

/-- Sources a and b, destination vd. -/
def FV3.binary (f : FV3) : Operands :=
  ⟨f.bG?, (f.va, f.ma) :: f.bV?, none, vnums ((f.va, f.ma) :: f.bV?) ++ [(hVec f.h).toNat]⟩

/-- Sources a and b, no vector destination. -/
def FV3.compare (f : FV3) : Operands := ⟨f.bG?, (f.va, f.ma) :: f.bV?, none, vnums ((f.va, f.ma) :: f.bV?)⟩

/-- Source a, destination vd. -/
def FV3.unary (f : FV3) : Operands := ⟨[], [(f.va, f.ma)], none, [f.va.toNat, (hVec f.h).toNat]⟩

/-- Sources a, b and c, destination vd. -/
def FV4.ternary (f : FV4) : Operands :=
  let vs := (f.v.va, f.v.ma) :: f.v.bV? ++ [(f.vc, f.mc)]
  ⟨f.v.bG?, vs, none, vnums vs ++ [(hVec f.v.h).toNat]⟩

/-- The v registers of a segment group from one in H. -/
def FVM.group (f : FVM) : List Nat := (List.range (f.nf1.toNat + 1)).map fun k => (hVec f.h).toNat + k

/-- The registers an instruction names. -/
def Instr.operands : Instr → Operands
  | .jal f => { noOperands with gd := some (hReg f.h) }
  | .forkMx f | .forkCe f =>
    ⟨(List.range 7).map fun k => (BitVec.ofNat 5 (k + 1), false), [], some (hReg f.h), []⟩
  | .qpop f => { noOperands with gd := some (hReg f.h) }
  | .bcc _ f => { noOperands with gs := [(f.ga, f.ma), (f.gb, f.mb)] }
  | .jr f | .waitt f | .add f | .sub f | .and f | .or f | .xor f | .shl f | .shr f | .sra f | .mul f | .mulh f
  | .mulhn f | .div f | .divn f | .rem f | .remn f | .min f | .max f | .minn f | .maxn f | .slt f | .sltn f | .clz f
  | .ctz f | .popc f | .sext8 f | .sext16 f | .sext32 f | .zext8 f | .zext16 f | .zext32 f | .srts f | .srfa f =>
    f.operands
  | .srrd f | .srrdHome f => ⟨[(f.ga, f.ma)], [], some f.gd, []⟩
  | .srwr f | .qpush f => ⟨[(f.ga, f.ma), (f.gb, f.mb)], [], none, []⟩
  | .loop f | .swr f | .xfWrite f | .kpost f | .ccrun f | .cctl f | .rangeRegisterWrite f | .cdloss f | .cdrel f
  | .st f | .rdv f => f.fromReg
  | .lidx f | .srd f | .addi f | .andi f | .ori f | .xori f | .shli f | .shri f | .srai f | .slti f | .sltni f | .ld f
  | .launch f | .preempt f | .resume f | .abort f | .ctxsv f | .ctxld f | .ctxsvVK f | .ctxldVK f | .settle f
  | .renew f | .vsetl f => f.toReg
  | .li f => { noOperands with gd := some (hReg f.h) }
  | .lih f => ⟨[(hReg f.h, false)], [], some (hReg f.h), []⟩
  | .lea f => ⟨[(f.ga, f.ma), (f.gb, f.mb)], [], some (hReg f.h), []⟩
  | .waitm f | .sel f | .amo _ f | .cas f | .twait f | .tread f | .tlbinvPage f | .tlbinvCtx f | .tlbinvAll f
  | .rgrd f | .nbgo f | .nbgoSg f | .nbpart f | .cpy f | .cpyMig f | .cpym f | .cfill f => f.toReg
  | .cpy2d f | .cpym2d f | .wsigNum f | .wsigAdd f =>
    { f.toReg with gs := f.sources ++ [(f.imm.extractLsb' 0 5, f.imm.getLsbD 5)] }
  | .red _ f | .rgset f | .mopenLoad f | .mopenZero f | .mclose f | .mzero f | .mpred f | .mfmt f | .mmas f
  | .mmaf f => f.noReg
  | .vacc f => ⟨f.sources, [], none, [(hVec f.h).toNat]⟩
  | .qset f | .qadv f => ⟨[(f.ga, f.ma)], [], none, []⟩
  | .vld f => ⟨[(f.sreg, false)], [], none, f.group⟩
  | .vst f =>
    ⟨[(f.sreg, false)], f.group.map fun k => (BitVec.ofNat 6 k, hVecMode f.h), none, f.group⟩
  | .vgath f | .vldl f => ⟨[], [(f.idx, false)], none, [(hVec f.h).toNat, f.idx.toNat]⟩
  | .vscat f | .vstc f =>
    ⟨[], [(hVec f.h, hVecMode f.h), (f.idx, false)], none, [(hVec f.h).toNat, f.idx.toNat]⟩
  | .vamo _ f | .vwait _ f =>
    ⟨[], [(f.m.idx, false), (f.vb, f.mb)], none, [(hVec f.m.h).toNat, f.m.idx.toNat, f.vb.toNat]⟩
  | .vred _ f => ⟨[], [(f.m.idx, false), (f.vb, f.mb)], none, [f.m.idx.toNat, f.vb.toNat]⟩
  | .vget f => ⟨f.bG?, [(f.va, f.ma)], some (hReg f.h), [f.va.toNat]⟩
  | .vput f => ⟨(f.va.extractLsb' 0 5, f.ma) :: f.bG?, [], none, [(hVec f.h).toNat]⟩
  | .vbcast f => ⟨f.bG?, [], none, [(hVec f.h).toNat]⟩
  | .vadd f | .vsub f | .vmul f | .vmulh f | .vand f | .vor f | .vxor f | .vshl f | .vshr f | .vsra f | .vmin f
  | .vmax f | .vsadd f | .vssub f | .vsrar f | .vmerge f | .vfadd f | .vfsub f | .vfmul f | .vfdiv f | .vfmin f
  | .vfmax f | .vlgmul f | .vperm f | .vtlu f | .vbfx f => f.binary
  | .vfcvt _ f => ⟨f.bG?, [(f.va, f.ma)], none, [f.va.toNat, (hVec f.h).toNat]⟩
  | .vabs f | .vicvt _ f | .vfsqrt f | .vfabs f | .vfneg f | .vfclass f | .vcomp f | .vexp f => f.unary
  | .vcmp _ f | .vfcmp _ f => f.compare
  | .vmac f | .vfma f | .vfms f | .vfnma f | .vfnms f | .vslideup f | .vslidedn f => f.ternary
  | .vpmac f => { f.ternary with vs := f.ternary.vs ++ [(hVec f.v.h, false)] }
  | .mpop f | .mfirst f => { noOperands with gd := some (hReg f.h) }
  | .viota f => { noOperands with vregs := [(hVec f.h).toNat] }
  | .vlgdot f => { f.compare with gs := [(hReg f.h, false)], gd := some (hReg f.h) }
  | .vreds _ f => ⟨f.v.bG?, [(f.v.va, f.v.ma)], some (hReg f.v.h), [f.v.va.toNat]⟩
  | .vdot f => ⟨[(f.vc.extractLsb' 0 5, f.mc)], (f.v.va, f.v.ma) :: f.v.bV?, some (hReg f.v.h),
      vnums ((f.v.va, f.v.ma) :: f.v.bV?)⟩
  | _ => noOperands

/-! ## Who may run it -/

/-- The sequencers that execute a major opcode (R82). A matrix instruction on a CE is no instruction of its own
(R83). -/
def runsOnOp (op : Nat) (k : SeqKind) : Bool :=
  if op ≤ 0x08 ∨ (0x0B ≤ op ∧ op ≤ 0x1B) ∨ (0x20 ≤ op ∧ op ≤ 0x29) ∨ op = 0x35 ∨ op = 0x3E then true
  else if op = 0x09 then k == .vc || k == .cc
  else if op = 0x0A ∨ op = 0x38 ∨ op = 0x39 ∨ op = 0x3F then k == .cc
  else if op = 0x3A then k == .cc || k == .vc
  else if op = 0x30 ∨ op = 0x31 ∨ op = 0x33 ∨ op = 0x34 ∨ op = 0x36 ∨ op = 0x37 then k == .vc
  else if op = 0x32 then k != .cc
  else if op = 0x3B ∨ op = 0x3C then k != .mx
  else if op = 0x3D then k == .vc || k == .cc
  else if 0x40 ≤ op ∧ op ≤ 0x6A then k == .vc
  else if 0x70 ≤ op ∧ op ≤ 0x76 then k == .vc || k == .mx
  else if 0x78 ≤ op ∧ op ≤ 0x7B then k == .ce
  else false

/-- Row 4 of R85 for an instruction that decodes: its sequencer executes it. CTXSV and CTXLD run on a control core,
their .v forms also on a VC. -/
def Instr.runsOn (i : Instr) (k : SeqKind) : Bool :=
  match i with
  | .ctxsv _ => k == .cc
  | .ctxld _ => k == .cc
  | _ => runsOnOp i.form.1.toNat k

/-- The vector instructions and matrix instructions of row 6 of R85 on a VC. -/
def vectorOp (op : Nat) : Bool :=
  (decide (0x44 ≤ op) && decide (op ≤ 0x6A) && op != 0x4C) || (decide (0x70 ≤ op) && decide (op ≤ 0x76))

/-- The source of rows 6, 7 and 10 of R85. -/
def Instr.checkSource (i : Instr) (q : SeqId) : Nat :=
  match q with
  | .worker _ => if vectorOp i.form.1.toNat then 1 else 0
  | _ => Machine.sourceOf q

/-- What a privilege may do with a special register (R134, R427): nothing, as for a number no sequencer of the kind
has; nothing, because of its privilege; read; write; both. -/
inductive SrAccess where
  | absent | denied | ro | wo | rw
  deriving DecidableEq, Repr

/-- Access to a special register by kind of sequencer and privilege (R134, R322, R427, R445). -/
def srAccess (k : SeqKind) (p : Machine.Priv) (n : Nat) : SrAccess :=
  let onVc (a : SrAccess) : SrAccess := if k = .vc then a else .absent
  if n = 0x000 ∨ (0x003 ≤ n ∧ n ≤ 0x006) then onVc .rw
  else if n = 0x001 ∨ n = 0x002 ∨ n = 0x014 then onVc .ro
  else if n = 0x007 then .rw
  else if n = 0x010 ∨ n = 0x011 then (if k = .cc then .absent else .ro)
  else if n = 0x012 ∨ n = 0x013 ∨ (0x020 ≤ n ∧ n ≤ 0x023) then .ro
  else if 0x030 ≤ n ∧ n ≤ 0x032 then (if p = .u then .ro else .rw)
  else if n = 0x033 then onVc (if p = .u then .ro else .rw)
  else if n = 0x040 then onVc (if p = .u then .denied else .ro)
  else if n = 0x041 then onVc (if p = .u then .denied else .rw)
  else if n = 0x042 then onVc (if p = .u then .denied else .wo)
  else if 0x100 ≤ n ∧ n ≤ 0x15F then (if p = .k then .rw else .ro)
  else if (0x800 ≤ n ∧ n ≤ 0x882) ∨ (0x890 ≤ n ∧ n ≤ 0x8A5) ∨ (0x8B0 ≤ n ∧ n ≤ 0x8B8) ∨ (0x8C0 ≤ n ∧ n ≤ 0x8D0) then
    (if k ≠ .cc then .absent else if p = .k then .rw else .denied)
  else if 0x800 ≤ n ∧ n ≤ 0xFFF ∧ k = .cc ∧ p ≠ .k then .denied
  else .absent

/-- Row 5 of R85: the privilege suffices (R82, R134, R179, R244, R255). -/
def Instr.privOk (i : Instr) (k : SeqKind) (p : Machine.Priv) : Bool :=
  match i with
  | .eret _ => p == .s
  | .eretK _ | .preempt _ | .resume _ | .abort _ | .tlbinvPage _ | .tlbinvCtx _ | .tlbinvAll _ | .ctxsv _ | .ctxld _
  | .ctxsvVK _ | .ctxldVK _ | .nbpart _ => p == .k
  | .ctxsvV _ | .ctxldV _ => p == .s
  | .bar _ | .qpop _ | .qpush _ | .forkMx _ | .forkCe _ | .rdv _ | .endProg _ => p != .s
  | .srd f | .swr f | .xfWrite f | .kpost f | .ccrun f | .cctl f | .rangeRegisterWrite f | .cdloss f | .cdrel f =>
    srAccess k p f.srNum.toNat != .denied
  | _ => true

/-- Row 6 of R85, where it depends on the sequencer: the number of a special register and its direction (R134; a WO
register reads as zero, R9), and OWNER of a TWAIT outside a VC (R182). -/
def Instr.kindOk (i : Instr) (k : SeqKind) (p : Machine.Priv) : Bool :=
  match i with
  | .srd f => srAccess k p f.srNum.toNat != .absent && srAccess k p f.srNum.toNat != .denied
  | .swr f | .xfWrite f | .kpost f | .ccrun f | .cctl f | .rangeRegisterWrite f | .cdloss f | .cdrel f =>
    (srAccess k p f.srNum.toNat == .wo) || (srAccess k p f.srNum.toNat == .rw)
  | .twait f => k == .vc || f.imm.extractLsb' 3 2 == 0#2
  | _ => true

/-- The instructions that R254 keeps out of the supervisor routine. -/
def barredInSupervisor (op : Nat) (saved : Bool) : Bool :=
  (decide (0x40 ≤ op) && decide (op ≤ 0x6A) && !saved) || (decide (0x70 ≤ op) && decide (op ≤ 0x76))

/-- An instruction that enters the vector instruction queue of a VC (R140, R275). -/
def Instr.enqueues (i : Instr) : Bool :=
  vectorOp i.form.1.toNat && match i with
  | .vwait .. => false
  | .mpop _ => false
  | .mfirst _ => false
  | _ => true

/-- A scalar instruction whose access takes with it the wait for a release that a fence has asked for: a store, an atomic, a
reduction, a push (R169). -/
def Instr.carriesWait (i : Instr) : Bool :=
  match i with
  | .st _ | .amo .. | .cas _ | .red .. | .qpush _ => true
  | _ => false

/-- A scalar instruction that a release asked for by a fence comes before: one of those, or a sync-register update, which waits
at issue (R169). -/
def Instr.storesLater (i : Instr) : Bool :=
  i.carriesWait || match i with
  | .srts _ | .srfa _ | .srwr _ | .bar _ | .rgset _ => true
  | _ => false

end Sys2Proof

namespace Sys2Proof.Machine

/-! ## Full and empty -/

/-- A queued instruction that is a long-latency producer of a v register (R118). -/
def VEntry.fills (e : VEntry) (r : Nat) : Bool :=
  match e.instr with
  | .vld f => f.group.contains r
  | .vgath f => (hVec f.h).toNat == r
  | .vldl f => (hVec f.h).toNat == r
  | .vacc f => (hVec f.h).toNat == r
  | _ => false

/-- An instruction checked by the vector unit holds the scalar sequencer until it has been (R200, R239). -/
def VEntry.holdsIssue (e : VEntry) : Bool :=
  match e.instr with
  | .vgath _ => true
  | .vscat _ => true
  | .vldl _ => true
  | .vstc _ => true
  | .vamo .. => true
  | .vred .. => true
  | _ => false

/-- A queued instruction that accesses memory. -/
def VEntry.touches (e : VEntry) : Bool :=
  match e.instr with
  | .vld _ => true
  | .vst _ => true
  | .vacc _ => true
  | _ => e.holdsIssue

/-- An instruction in the queue of which the scalar sequencer issues nothing: one checked there, or VLGDOT (R200, R232). -/
def VEntry.stallsIssue (e : VEntry) : Bool :=
  match e.instr with
  | .vlgdot _ => true
  | _ => e.holdsIssue

/-- A v register is empty: a long-latency producer of it is still queued or executing (R118, R119). -/
def State.vEmpty (s : State) (q : SeqId) (r : Nat) : Bool :=
  (s.seqD q).w.queue.any (fun e => e.fills r) ||
  s.net.elems.any (fun l => l.src == q && l.long && l.reg == r) ||
  (s.net.msgs ++ s.net.held.map fun h => h.msg).any fun m => m.src == q && match m.body with
    | .access op _ (.elems _ _ l) _ => op.isLoad && l.any fun x => x.reg == r
    | .pad _ _ (.elems _ _ l) => l.any fun x => x.reg == r
    | _ => false

/-- The queue holds 32 entries (R140). -/
def State.queueFull (s : State) : Bool := decide (32 ≤ s.core.w.queue.length)

/-- A queued instruction that has still to write a mask register. -/
def VEntry.masks (e : VEntry) (m : BitVec 3) : Bool :=
  (e.xsel != 0 && m == 7) ||
  match e.instr with
  | .vcmp _ f => hMask f.h == m
  | .vfcmp _ f => hMask f.h == m
  | .mand f => hMask f.h == m
  | .mor f => hMask f.h == m
  | .mxor f => hMask f.h == m
  | .mnot f => hMask f.h == m
  | .mset f => hMask f.h == m
  | .vstc f => f.mask == m
  | _ => false

/-- Outcomes of VSTC elements are on their way to a mask register of a worker. -/
def State.masksPending (s : State) (q : SeqId) : Bool :=
  s.net.elems.any (fun l => l.src == q && l.toMask) ||
  (s.net.msgs ++ s.net.held.map fun h => h.msg).any fun m => m.src == q && match m.body with
    | .access _ _ (.mask ..) _ => true
    | _ => false

/-- The mask of a computed form is known: nothing queued or on its way writes it. -/
def State.maskKnown (s : State) (m : BitVec 3) : Bool :=
  m == 0 || !(s.core.w.queue.any (fun e => e.masks m) || s.masksPending s.cur)

/-- The instruction waits for a free entry of the queue, and a computed form for its mask, before it issues (R119, R140). -/
def State.issueWaits (s : State) (i : Instr) : Bool :=
  kindOf s.cur == .vc && i.enqueues && (s.queueFull || match i with
    | .vld f => !s.maskKnown f.mask
    | .vst f => !s.maskKnown f.mask
    | _ => false)

/-- The first mark among the sources read (R121, R202). -/
def markOf (o : Operands) (x : Seq) : Option Mark :=
  match o.gs.findSome? (fun p => x.bank.mark p.1) with
  | some m => some m
  | none => o.vs.findSome? fun p => (x.w.v.getD p.1.toNat VReg.reset).poison

/-! ## The checks before an effect -/

/-- The first of rows 4 to 9 of R85 that fails: its source and condition. -/
def State.checkFault (s : State) (i : Instr) : Option (Nat × Nat) :=
  let q := s.cur
  let k := kindOf q
  let p := s.core.priv
  let o := i.operands
  let src := i.checkSource q
  if !i.runsOn k then some (sourceOf q, 2)
  else if !i.privOk k p then some (sourceOf q, 5)
  else if !(i.reservedOk && i.kindOk k p) then some (src, 3)
  else if !i.typeOk then some (src, 35)
  else if !i.segmentOk then some (1, 34)
  else if k == .vc && o.vregs.any (fun r => decide (vnregOf s.core.w.vncode ≤ r)) then some (1, 43)
  else none

/-- Row 10 of R85, of which an instruction is judged when it issues (R119), then VECTOR-IN-SUPERVISOR (R254): the source
and condition. -/
def State.issueFault (s : State) (i : Instr) : Option (Nat × Nat) :=
  let o := i.operands
  if o.gs.any (fun r => r.2 && s.core.bank.isEmpty r.1) || o.vs.any (fun r => r.2 && s.vEmpty s.cur r.1.toNat) then
    some (i.checkSource s.cur, 6)
  else if kindOf s.cur == .vc && s.core.w.ins && barredInSupervisor i.form.1.toNat s.core.w.vsaved then some (1, 36)
  else none

/-- The instruction waits at issue: a g source in wait mode or its g destination is empty (R119, R120), or the queue it
enters is full (R140). -/
def State.operandsWait (s : State) (i : Instr) : Bool :=
  let o := i.operands
  o.gs.any (fun r => !r.2 && s.core.bank.isEmpty r.1) ||
  (match o.gd with
    | some r => s.core.bank.isEmpty r
    | none => false) || s.issueWaits i

/-- The current instruction reads data with an uncorrectable error (R121, R202, R271). -/
def State.raiseMark (s : State) (m : Mark) : State := s.raiseFrom 5 (if m.accum then 16 else 17) m.addr

/-- A store goes on once the releases that fences have asked for are complete, which it makes, or takes the wait with it
(R169). -/
def afterFences (i : Instr) (s : State) (effect : State → Out) : Out :=
  if i.storesLater && s.core.relDue.isSome then
    let (s1, done) := s.releaseDue s.cur
    if done || i.carriesWait then effect s1 else .next s1
  else effect s

/-- What every instruction passes before its effect: the checks of R85, with the waits of R119, R120 and R140, in which the
sequencer stays at the instruction, before the last of them; the marks of R121 and R202; and the fences of R169. -/
def checked (i : Instr) (s : State) (effect : State → Out) : Out :=
  match s.checkFault i with
  | some (src, cond) => .next (s.raiseFrom src cond 0)
  | none =>
    if s.operandsWait i then .next s
    else
      match s.issueFault i with
      | some (src, cond) => .next (s.raiseFrom src cond 0)
      | none =>
        match markOf i.operands s.core with
        | some m => .next (s.raiseMark m)
        | none => afterFences i s effect

/-- A source read by the current instruction. -/
def State.g (s : State) (r : BitVec 5) : Word := s.core.bank.read r

/-- The current instruction writes a g register and goes on by R58. -/
def State.put (s : State) (r : BitVec 5) (v : Word) : State := (s.setG r v).advance

/-- A VC instruction waits by R142. -/
def State.waitsVector (s : State) : Bool := !s.vecIdle s.cur

end Sys2Proof.Machine
end

