-- ==== Sys2Proof/Machine/Access.lean ====
section
/-! DEFINITION. Accesses on their way: sending them (R303, R305), staging (R304, R311), holder records, checks and
publishes (R305 to R307), performing them at the home slice (R310, R344), and landing (R118, R121). -/

namespace Sys2Proof.Machine

/-! ## Results -/

/-- A result of `size` bytes extended to 64 bits (R162, R164). -/
def extendTo (size : Nat) (signed : Bool) (v : Nat) : Word :=
  if signed then BitVec.ofInt 64 (signedOf (8 * size) v) else BitVec.ofNat 64 (v % 2 ^ (8 * size))

/-- The mark a value with an error carries: its line (R121), or its own address for a line a window poisoned (R271). -/
def Msg.mark (m : Msg) (p : Option Bool) : Option Mark := p.map fun a => ⟨if a then m.va else m.va &&& ~~~63#64, a⟩

/-- Data or an outcome is on its way to a vector or mask register (R143). -/
def State.landElem (s : State) (e : ElemLanding) : State :=
  { s with net := { s.net with elems := s.net.elems ++ [{ e with id := s.nextId }] }, nextId := s.nextId + 1 }

/-- The elements that a value of an access holds are on their way to their registers. -/
def State.landParts (s : State) (m : Msg) (entry : Nat) (whole : Bool) (parts : List Part) (v : Nat) (p : Option Mark) (long : Bool)
    (acq : Option (BitVec 3)) : State :=
  parts.foldl (fun (acc : State) x =>
    acc.landElem { id := 0, src := m.src, entry := entry, reg := x.reg, lo := x.lo, width := x.width, elem := x.elem,
                   val := v / 2 ^ x.shift % 2 ^ x.width, poison := p, toMask := false, long := long, whole := whole, acq := acq }) s

/-- The result of a performed access goes where it is wanted. -/
def State.deliver (s : State) (m : Msg) (v : Nat) (p : Option Bool) : State :=
  match m.body with
  | .access _ _ (.g r size signed) acq => s.land m.src r (extendTo size signed v) (m.mark p) acq
  | .access op _ (.elems entry whole parts) acq => s.landParts m entry whole parts v (m.mark p) op.isLoad acq
  | .access _ _ (.mask entry reg elem) _ =>
    s.landElem { id := 0, src := m.src, entry := entry, reg := reg, lo := 0, width := 1, elem := elem,
                 val := v, poison := none, toMask := true, long := false, whole := false, acq := none }
  | .pad _ _ (.elems entry whole parts) => s.landParts m entry whole parts v none true none
  | _ => s

/-- The die a message was sent from: its cluster's, its control core's, or the one whose hardware sent it. -/
def Msg.origin (m : Msg) : Nat :=
  if m.path < 64 then m.path / 16 else if m.path < 96 then (m.path - 64) / 8 else m.path - 96

/-- The die of a destination: of a home slice, a cluster that is checked, a sync home, a mirror or time copy, or a VC's
scratchpads. -/
def destDie (dest : Nat) : Nat :=
  if dest < 256 then dest / 64 else if dest < 512 then (dest - 256) / 16 else if dest < 768 then dest - 512
  else if dest < 1024 then dest - 768 else (dest - 1024) / 512

/-- The die a message goes to. -/
def Msg.destDie (m : Msg) : Nat := Machine.destDie m.dest

/-- The cluster a message was sent from; none for a control core's. -/
def Msg.cluster (m : Msg) : Option Nat := if m.path < 64 then some m.path else none

/-- A performed access gives its result: a tagged one carries it back to its origin, and the destination's filter keeps
it (R414). -/
def State.answer (s : State) (m : Msg) (v : Nat) (p : Option Bool) : State :=
  match m.tag with
  | none => s.deliver m v p
  | some t =>
    let w := BitVec.ofNat 64 v
    let back : Msg := { m with reply := some (w, p), hops := s.route m.destDie m.origin }
    let f : FilterEntry := { origin := m.origin, dest := m.dest, tag := t, result := w, poison := p }
    { s with net := { s.net with msgs := s.net.msgs ++ [back], filter := s.net.filter ++ [f] } }

/-! ## Performing -/

/-- What a cluster has written to a line and its home has still to apply: the publishes on their way, oldest first, then
the entry in its buffer, each with its bytes, its pending reductions and its poison (R304, R305, R313). -/
def State.ownBytes (s : State) (c la : Nat) : List (LineBits × LineBits × List PendingRed × Bool) :=
  (s.net.msgs.filterMap fun m =>
    match m.body with
    | .publish d k reds p _ => if m.pa = la ∧ m.path = c ∧ m.reply = none then some (d, k, reds, p) else none
    | _ => none) ++
  match s.staged c la with
  | some e => [(e.data, e.mask, e.reds, e.poison)]
  | none => []

/-- The bytes of a SHARED or INPLACE line as a party finds them: a worker sees its cluster's staged bytes over the
home line, and a pending reduction it touches is published first (R304); any other party of the cluster finds the
cluster's entry published (R305). An entry on its way to its home is still seen (R117). -/
def State.readFor (s : State) (c : Option Nat) (q : SeqId) (la off n : Nat) : State × LineBits × Option Bool :=
  let own := match c with
    | some k => s.ownBytes k la
    | none => []
  let bits := bitMask (8 * off) (8 * n)
  let touches := own.any fun e => e.2.2.1.any fun r =>
    (placeAt r.off (etWidth r.et / 8) (2 ^ 64 - 1)).2 &&& bits != 0
  if !own.isEmpty && (kindOf q != .vc || touches) then
    let (s1, l) := s.coherentFor c la
    (s1, l.data, if l.poison then some l.accum else none)
  else
    let (s1, l) := s.ensure la
    let mask := own.foldl (fun acc e => acc ||| e.2.1) 0
    (s1, own.foldl (fun acc e => mergeLine acc e.1 e.2.1) l.data,
      if l.poison && (mask &&& bits) != bits then some l.accum
      else if own.any fun e => e.2.2.2 then some false else none)

/-- The elements an access brings to vector registers. -/
def Msg.parts (m : Msg) : List Part :=
  match m.body with
  | .access _ _ (.elems _ _ l) _ => l
  | .pad _ _ (.elems _ _ l) => l
  | _ => []

/-- A worker exists and is not saved: its VLDL can still make reservations (R208). -/
def State.resident (s : State) (w : WKey) : Bool := s.workers.any fun p => p.1 == w && p.2.run != .saved

/-- An access is performed (R344): one indivisible action on its line, and its result is on its way. -/
def State.perform (s : State) (m : Msg) : State :=
  match m.body with
  | .access op kind _ _ =>
    let la := lineOf m.pa
    let off := m.pa % 64
    match op with
    | .load =>
      if kind = .priv ∨ kind = .readonly then
        let (s1, l, p, _) := s.readCached (s.cacheOf m.src) m.origin kind la
        s1.answer m (lineNum l off m.len) p
      else
        let (s1, l, p) := s.readFor m.cluster m.src la off m.len
        s1.answer m (lineNum l off m.len) p
    | .store d mask => (s.homeWrite la d mask false).answer m 0 none
    | .amo o size v =>
      let (s1, l) := s.ensure la
      let old := lineNum l.data off size
      let (d, mask) := placeAt off size (amoApply o (8 * size) old (v.toNat % 2 ^ (8 * size)))
      (s1.homeWrite la d mask false).answer m old (if l.poison then some l.accum else none)
    | .cas size x y =>
      let (s1, l) := s.ensure la
      let old := lineNum l.data off size
      let (d, mask) := placeAt off size y.toNat
      let s2 := if old = x.toNat % 2 ^ (8 * size) then s1.homeWrite la d mask false else s1
      s2.answer m old (if l.poison then some l.accum else none)
    | .red o et v =>
      let (s1, l) := s.ensure la
      let r := applyRed l.data { off := off, op := o, et := et, val := v }
      (s1.homeWrite la r.1 r.2 false).answer m 0 none
    | .link w =>
      let (s1, l) := s.ensure la
      let s2 := if s.resident w then m.parts.foldl (fun (acc : State) x =>
        acc.reserve w x.elem (8 * ((m.pa + x.shift / 8) / 8))) s1 else s1
      s2.answer m (lineNum l.data off m.len) (if l.poison then some l.accum else none)
    | .cond size v w i =>
      let ok := s.intact w i (8 * (m.pa / 8))
      let s1 := s.modMem fun x => { x with resv := x.resv.filter fun r => !(r.owner == w && r.idx == i) }
      let (d, mask) := placeAt off size v.toNat
      let s2 := if ok then s1.homeWrite la d mask false else s1
      s2.answer m (if ok then 0 else 1) none
  | _ => s

/-- The clusters a set of holder bits names. -/
def holderList (h : BitVec 64) : List Nat := (List.range 64).filter fun c => h.getLsbD c

/-- The holders an access must check: those the directory names other than its own cluster (R307). -/
def State.toCheck (s : State) (m : Msg) : List Nat :=
  (holderList (s.holders (lineOf m.pa))).filter fun c => some c != m.cluster

/-- A load of a PRIVATE or READONLY page finds an uncorrectable error: in the copy its die keeps for that KIND, or else in the
home line; none where its cache answers it (R301, R302, R313). -/
def State.poisonFound (s : State) (m : Msg) (kind : PageKind) (la : Nat) : State :=
  let answered := match (s.cacheOf m.src).bind fun o => s.cacheCopy o la (kind == .readonly) with
    | some c => !c.stale
    | none => false
  if answered then s
  else
    match s.dieCopy kind.copy m.origin la with
    | some l => s.poisonCopy l
    | none => s.poisonLine la

/-- An access finds an uncorrectable error: in its cluster's buffer entry where that holds every byte a load reads, else in
the line (R313). -/
def State.poisonRead (s : State) (m : Msg) (la : Nat) : State :=
  let bits := bitMask (8 * (m.pa % 64)) (8 * m.len)
  let mine (e : StageEntry) : Bool := some e.cluster == m.cluster && e.addr == la && (e.mask &&& bits) == bits
  match m.body with
  | .access .load kind _ _ =>
    if kind = .priv ∨ kind = .readonly then s.poisonFound m kind la
    else if s.mem.stage.any mine then
      s.modMem fun x => { x with stage := mapIf x.stage mine fun e => { e with poison := true } }
    else s.poisonLine la
  | _ => s.poisonLine la

/-- An access arrives at its home slice: it is performed, or held while the named holders are checked (R307). -/
def State.arrive (s : State) (m : Msg) (ue : Bool) : State :=
  let la := lineOf m.pa
  let s0 := s.dropMsg m.id
  let s1 := if ue then s0.poisonRead m la else s0
  match m.body with
  | .access _ kind _ _ =>
    if kind = .priv ∨ kind = .readonly then s1.perform m
    else
      match s1.toCheck m with
      | [] => s1.perform m
      | hs =>
        let s2 := s1.dirSplit la 12
        let s3 := hs.foldl (fun (acc : State) c =>
          acc.send m.src (96 + acc.homeDie la) la 0 64 (.check c m.id) (acc.homeDie la) (c / 16) (256 + c)) s2
        { s3 with net := { s3.net with held := s3.net.held ++ [{ msg := m, waiting := hs }] } }
  | _ => s1

/-- A holder has answered for a line: accesses held for it go on once every named holder has (R307). -/
def State.answered (s : State) (la c : Nat) : State :=
  let held := s.net.held.map fun h =>
    if lineOf h.msg.pa = la then { h with waiting := h.waiting.filter fun x => x != c } else h
  let ready := held.filter fun h => h.waiting.isEmpty
  let s1 := { s with net := { s.net with held := held.filter fun h => !h.waiting.isEmpty } }
  ready.foldl (fun (acc : State) h => acc.perform h.msg) s1

/-! ## What may come about -/

/-- An older message goes before another by the order of their path: publishes and holder records of one line before what
follows them there, an issuer's accesses to one line in program order (R117, R305), the operations on sync registers of one
home (R174). -/
def Msg.before (x m : Msg) : Bool :=
  decide (x.id < m.id) && x.path == m.path && x.reply.isNone &&
    match m.body, x.body with
    | .sync .., .sync .. => x.dest == m.dest
    | .access .., .access .. => x.src == m.src && lineOf x.pa == lineOf m.pa
    | .access .., .staged .. => x.src == m.src && lineOf x.pa == lineOf m.pa
    | .sync .., _ => false
    | _, .publish .. => lineOf x.pa == lineOf m.pa
    | _, .record => lineOf x.pa == lineOf m.pa
    | _, _ => false

/-- What a cluster has staged of a line since an access to it was held takes its place after that access: its record and its
publish wait (R307), but not where an older access that is held waits for the cluster's answer. -/
def State.heldBack (s : State) (c la : Nat) : Bool :=
  decide (c < 64) &&
    ((s.net.held.filter fun h => lineOf h.msg.pa == la).takeWhile fun h => !h.waiting.contains c).any fun h =>
      h.msg.cluster != some c

/-- A message waits for an older one, or for an access that is held. -/
def State.behind (s : State) (m : Msg) : Bool :=
  s.net.msgs.any (fun x => x.before m) ||
  match m.body with
  | .publish .. => s.heldBack m.path (lineOf m.pa)
  | .record => s.heldBack m.path (lineOf m.pa)
  | .access .. => s.net.held.any fun h => h.msg.src == m.src && lineOf h.msg.pa == lineOf m.pa
  | _ => false

/-- A load waits for a holder record of its own cluster for the line: what is staged there is not yet performed (R344,
R354). -/
def State.unrecorded (s : State) (m : Msg) : Bool :=
  match m.body with
  | .access .load .. => s.net.msgs.any fun x => x.path == m.path && x.pa == lineOf m.pa && x.body == .record
  | _ => false

/-- A message has arrived at its home slice and may be taken: a line that a window has still to pin makes it wait (R278),
and a channel that retrains when the line is not in its slice (R449). -/
def State.atHome (s : State) (m : Msg) : Bool :=
  m.hops.isEmpty && m.rel.isNone && m.reply.isNone && !s.behind m && (s.pinPending (lineOf m.pa)).isNone && !s.unrecorded m &&
    !s.lineWaits (lineOf m.pa)

/-- An access to another worker's scratchpad acts there: one indivisible action on its bytes (R190, R341). -/
def State.padAct (s : State) (m : Msg) (o : WKey) (st : Option (Nat × Nat)) : State :=
  let x := (s.seqD (.worker o)).w.spad
  match st with
  | none => (s.dropMsg m.id).deliver m (cellsNum x m.pa m.len) none
  | some (d, k) =>
    let v := BitVec.ofNat 512 (cellsNum x m.pa m.len)
    let new := mergeLine v (BitVec.ofNat 512 d) (BitVec.ofNat 512 k)
    (s.dropMsg m.id).modSeq (.worker o) fun y => { y with w := { y.w with spad := cellsPutNum x m.pa m.len new.toNat } }

/-- An older access of the issuer to the same bytes of a scratchpad is on its way: they take effect in program order
(R117, R190). -/
def State.padBehind (s : State) (m : Msg) (o : WKey) : Bool :=
  s.net.msgs.any fun x => decide (x.id < m.id) && x.src == m.src && decide (x.pa < m.pa + m.len) &&
    decide (m.pa < x.pa + x.len) && match x.body with
      | .pad k _ _ => k == o
      | _ => false

/-- A release of a sequencer at a scope of what comes before number n is made as far as it goes: whether it is complete, with
the vector accesses of its queue. -/
def State.releaseUpTo (s : State) (q : SeqId) (scope n : Nat) : State × Bool :=
  if (s.seqD q).w.queue.any fun e => e.touches && decide (e.id < n) then (s, false) else s.releaseBelow q scope n

/-- The release that a message waits for is made as far as it goes; once it is complete the message may leave (R164, R169,
R341). -/
def State.releaseFor (s : State) (m : Msg) (r : Nat × Nat) : State :=
  let (s1, done) := s.releaseUpTo m.src r.1 r.2
  if done then { s1 with net := { s1.net with msgs := mapIf s1.net.msgs (fun x => x.id == m.id) fun x => { x with rel := none } } }
  else s1

/-- HOME_SLICE_ACCESS (R307); a scratchpad's home is its bank (R341). An access that waits for its release asks for it. -/
def execHomeSliceAccess (m : Nat) (ue : Bool) (s : State) : Out :=
  match s.msg? m with
  | some x =>
    match x.body, x.rel with
    | .access .., some r => .next (s.releaseFor x r)
    | .pad o st _, _ => if s.padBehind x o then .next s else .next (s.padAct x o st)
    | .access (.red ..) .., _ => .next s
    | .access .., _ => if s.atHome x && x.tag.isNone then .next (s.arrive x ue) else .next s
    | _, _ => .next s
  | none => .next s

/-- REDUCTION_UPDATE (R310): a reduction update is applied to its line once, in arrival order. -/
def execReductionUpdate (m : Nat) (ue : Bool) (s : State) : Out :=
  match s.msg? m with
  | some x =>
    match x.body, x.rel with
    | .access (.red ..) .., some r => .next (s.releaseFor x r)
    | .access (.red ..) .., none => if s.atHome x && x.tag.isNone then .next (s.arrive x ue) else .next s
    | _, _ => .next s
  | none => .next s

/-! ## Stage buffers -/

/-- A store enters its cluster's entry; a word with a pending reduction has the line published first (R304). -/
def State.stageStore (s : State) (c la : Nat) (d mask : LineBits) : State :=
  let s1 := match s.staged c la with
    | some e =>
      if e.reds.any (fun r => (placeAt r.off (etWidth r.et / 8) (2 ^ 64 - 1)).2 &&& mask != 0) then s.publishEntry e false else s
    | none => s
  match s1.staged c la with
  | some _ =>
    s1.modMem fun x => { x with stage := mapIf x.stage (fun y => y.cluster == c && y.addr == la) fun y =>
      { y with data := mergeLine y.data d mask, mask := y.mask ||| mask } }
  | none =>
    s1.modMem fun x => { x with stage := x.stage ++
      [{ cluster := c, addr := la, data := d &&& mask, mask := mask, reds := [], poison := false }] }

/-- A reduction enters its cluster's entry: it combines with a pending one of the same word, operation and type where
the device chooses so, and has the line published first where R304 or R311 asks for it. Elements of a VRED.co combine like those
of a VRED.cl (DESIGN CHOICE, log entry 104). -/
def State.stageRed (s : State) (c la : Nat) (r : PendingRed) (combine : Bool) : State :=
  let n := etWidth r.et / 8
  let word := (placeAt r.off n (2 ^ 64 - 1)).2
  let meets := fun (x : PendingRed) => ((placeAt x.off (etWidth x.et / 8) (2 ^ 64 - 1)).2 &&& word) != 0
  let same := fun (x : PendingRed) => x.off == r.off && x.op == r.op && x.et == r.et
  let s1 := match s.staged c la with
    | some e =>
      if (e.mask &&& word) != 0 || e.reds.any (fun x => meets x && !(same x && combine)) then s.publishEntry e false
      else s
    | none => s
  match s1.staged c la with
  | some e =>
    let reds := if e.reds.any same then mapIf e.reds same fun x =>
        { x with val := BitVec.ofNat 64 (redApply r.op r.et (x.val.toNat % 2 ^ (8 * n)) (r.val.toNat % 2 ^ (8 * n))) }
      else e.reds ++ [r]
    s1.modMem fun x => { x with stage := mapIf x.stage (fun y => y.cluster == c && y.addr == la) fun y =>
      { y with reds := reds } }
  | none =>
    s1.modMem fun x => { x with stage := x.stage ++
      [{ cluster := c, addr := la, data := 0, mask := 0, reds := [r], poison := false }] }

/-- A full buffer publishes its oldest line before a new one enters (R305). -/
def State.stageRoom (s : State) (c la : Nat) : State :=
  let mine := s.mem.stage.filter fun e => e.cluster == c
  if (s.staged c la).isSome || decide (mine.length < 1024) then s
  else
    match mine.head? with
    | some e => s.publishEntry e false
    | none => s

/-- A store waits: for an older access of the issuer to the line that has not been performed (R117), and for one of its
cluster to the line that is held, which takes its place before what is staged now (R307). -/
def State.stageBehind (s : State) (m : Msg) : Bool :=
  s.net.msgs.any (fun x => decide (x.id < m.id) && x.src == m.src && lineOf x.pa == lineOf m.pa && x.reply.isNone &&
    match x.body with
    | .access .. => true
    | .staged .. => true
    | _ => false) ||
  s.net.held.any fun h => h.msg.path == m.path && lineOf h.msg.pa == lineOf m.pa

/-- STAGE (R303): the store or reduction enters the cluster's buffer, and a line that enters sends its holder record
at once (R344). One that waits for a release asks for it. -/
def execStage (m : Nat) (combine : Bool) (s : State) : Out :=
  match s.msg? m with
  | some x =>
    match x.body, x.rel with
    | .staged .., some r => .next (s.releaseFor x r)
    | .staged op _, none =>
      if s.stageBehind x then .next s
      else
        let c := x.path
        let la := lineOf x.pa
        let s1 := (s.dropMsg x.id).stageRoom c la
        let s2 := match op with
          | .store d mask => s1.stageStore c la d mask
          | .red o et v => s1.stageRed c la { off := x.pa % 64, op := o, et := et, val := v } combine
          | _ => s1
        let onWay := s.net.msgs.any fun y => y.path == c && y.pa == la && y.body == .record
        if (s1.staged c la).isSome && (s2.staged c la).isSome && !onWay && s2.net.msgs.length = s1.net.msgs.length then
          .next s2
        else
          .next (s2.sendFor x.ctx none x.src c la x.va 64 .record (c / 16) (s2.homeDie la) (s2.homeOf la))
    | _, _ => .next s
  | none => .next s

/-- HOLDER_RECORD (R306, R344): a staged store is recorded. Like every access that arrives, it has what other holders have
staged of its line brought home first (R307, R346). -/
def execHolderRecord (m : Nat) (s : State) : Out :=
  match s.msg? m with
  | some x =>
    if x.body == .record && s.atHome x then
      .next (((s.dropMsg m).bringHome x.pa (some x.path)).dirRecord x.pa x.path)
    else .next s
  | none => .next s

/-- A publish is applied to its line (R305): what the other clusters that the directory names have staged of the line is brought
home first (R307, R346), and holds of the line that wait for this cluster go on. An error found in the entry poisons the line
(R313). -/
def State.applyPublish (s : State) (la c : Nat) (d mask : LineBits) (reds : List PendingRed) (poison : Bool) : State :=
  ((((s.bringHome la (some c)).applyEntry la d mask reds poison)).dirAnswer la c).answered la c

/-- PUBLISH (R305): an entry arrives and is applied as one indivisible action. -/
def execPublish (m : Nat) (ue : Bool) (s : State) : Out :=
  match s.msg? m with
  | some x =>
    match x.body with
    | .publish d mask reds p _ =>
      if s.atHome x && x.tag.isNone then .next ((s.dropMsg m).applyPublish x.pa x.path d mask reds (p || ue))
      else .next s
    | _ => .next s
  | none => .next s

/-- CHECK (R307): a holder publishes the line, or replies that it holds nothing for it. -/
def execCheck (m : Nat) (s : State) : Out :=
  match s.msg? m with
  | some x =>
    match x.body with
    | .check c _ =>
      if x.hops.isEmpty then
        let s1 := s.dropMsg m
        match s1.staged c x.pa with
        | some e => .next (s1.publishEntry e true)
        | none => .next (s1.send x.src c x.pa 0 64 (.reply c) (c / 16) (s1.homeDie x.pa) (s1.homeOf x.pa))
      else .next s
    | _ => .next s
  | none => .next s

/-- CHECK_REPLY (R307). -/
def execCheckReply (m : Nat) (s : State) : Out :=
  match s.msg? m with
  | some x =>
    match x.body with
    | .reply c =>
      if s.atHome x then .next (((s.dropMsg m).dirAnswer x.pa c).answered x.pa c) else .next s
    | _ => .next s
  | none => .next s

/-- The base of the sibling of a piece (R306). -/
def DirEntry.sibling (e : DirEntry) : Nat := if e.base / 2 ^ e.size % 2 = 0 then e.base + 2 ^ e.size else e.base - 2 ^ e.size

/-- DIRECTORY_MERGE (R306): two sibling pieces with equal holder masks, neither touched for 65,536 clk of 1 ns (R2),
merge into their parent. -/
def execDirectoryMerge (die slice base : Nat) (s : State) : Out :=
  match s.mem.dir.find? (fun e => e.die == die && e.slice == slice && e.base == base) with
  | some e =>
    match s.mem.dir.find? (fun f => f.die == die && f.slice == slice && f.base == e.sibling && f.size == e.size) with
    | some f =>
      if f.holders = e.holders ∧ e.size < 16 ∧ Nat.max e.touched f.touched + 65536 ≤ (s.die die).time.toNat then
        .next (s.modMem fun m => { m with dir :=
          { e with base := Nat.min e.base f.base, size := e.size + 1 } :: m.dir.filter fun x => x != e && x != f })
      else .next s
    | none => .next s
  | none => .next s

/-- EARLY_CLEAN (R308), where the channel of the oldest line does not retrain (R449). -/
def execEarlyClean (die slice : Nat) (s : State) : Out :=
  match s.oldestDirty die slice with
  | some l => if s.retraining l.addr then .next s else .next (s.cleanLine l)
  | none => .next s

/-- LANDING (R118, R121): the value makes its register full, or marked; an acquire comes with it (R164). -/
def execLanding (k : Nat) (s : State) : Out :=
  match s.net.landings.find? (fun l => l.id == k) with
  | some l =>
    let s1 := { s with net := { s.net with landings := s.net.landings.filter fun x => x.id != k } }
    let s2 := s1.modSeq l.src fun x =>
      { x with bank := match l.poison with
        | none => x.bank.write l.reg l.val
        | some p => x.bank.writeMark l.reg p }
    .next (match l.acq with
      | some sc => s2.acquire l.src sc.toNat
      | none => s2)
  | none => .next s

/-- A peer's write reaches a CXL line's device. -/
def State.peerWrite (s : State) (la : Nat) (d : LineBits) (mask : BitVec 64) : State :=
  (s.breakWords ((List.range 8).filterMap fun k => if mask.extractLsb' (8 * k) 8 != 0#8 then some (la + 8 * k) else none)).modMem
    fun m => { m with arrays := cellsPutLine m.arrays la d mask }

/-- BACK_INVALIDATION (R343): the home slice's copy of a CXL line is dropped, its written bytes going to the device first,
and then the peer's write completes. A line that a window pins keeps the peer waiting. -/
def execBackInvalidation (w : PeerWrite) (s : State) : Out :=
  let la := lineOf w.line
  if rangeOf la = 3 then
    match s.homeCopy la with
    | some l => if l.window.isNone then .next ((s.evict l).peerWrite la w.data w.mask) else .next s
    | none => .next (s.peerWrite la w.data w.mask)
  else .next s

end Sys2Proof.Machine
end

