-- ==== Sys2Proof/Machine/Control.lean ====
section
/-! DEFINITION. Control transfer, hardware loops, traps, return and halt (R146 to R155, R256, R425, R426). -/

namespace Sys2Proof.Machine

/-- A condition of BCC over 64-bit operands (R149). -/
def Cond.holds (c : Cond) (w : Nat) (a b : BitVec w) : Bool :=
  match c with
  | .eq => a == b
  | .ne => a != b
  | .lt => a.slt b
  | .ge => !a.slt b
  | .ltn => a.ult b
  | .gen => !a.ult b

/-- NOP (R146): nothing, and on by R58. -/
def execNop (f : FN) (s : State) : Out := checked (.nop f) s fun s => .next s.advance

/-- BR (R147): to the target. -/
def execBr (f : FJP) (s : State) : Out :=
  checked (.br f) s fun s => .next (s.jump (branchTarget s.core.pc f.target))

/-- BCC (R149): to the target if the condition holds, else on by R58. -/
def execBcc (c : Cond) (f : FCJ) (s : State) : Out :=
  checked (.bcc c f) s fun s =>
    .next (if Cond.holds c 64 (s.g f.ga) (s.g f.gb) then s.jump (branchTarget s.core.pc f.target) else s.advance)

/-- JAL (R147): the next PC to gd, and to the target. -/
def execJal (f : FJP) (s : State) : Out :=
  checked (.jal f) s fun s => .next ((s.setG (hReg f.h) s.nextPc).jump (branchTarget s.core.pc f.target))

/-- JR (R148): the link is formed, PC := ga, gd := the link. -/
def execJr (f : FRG) (s : State) : Out :=
  checked (.jr f) s fun s => .next ((s.setG f.gd s.nextPc).jump (s.g f.ga))

/-- The exit PC of a LOOP (R150). -/
def loopExit (pc : Word) (f : FIM) : Word :=
  pcLine pc + ((f.imm.extractLsb' 5 19).signExtend 64 <<< 6) + (f.imm.extractLsb' 0 5).setWidth 64

/-- LOOP (R150). -/
def execLoop (f : FIM) (s : State) : Out :=
  checked (.loop f) s fun s =>
    let n := s.g (hReg f.h)
    if n = 0 then .next (s.jump (loopExit s.core.pc f))
    else if 6 ≤ s.core.bank.loops.length then .next (s.raise 40 0)
    else
      .next (s.modCore fun x =>
        { x with bank := { x.bank with loops := { body := s.nextPc, rem := n, idx := 0 } :: x.bank.loops } }).advance

/-- ENDL (R151). The boundary after it is a ply boundary (R13). -/
def execEndl (f : FN) (s : State) : Out :=
  checked (.endl f) s fun s =>
    match s.core.bank.loops with
    | [] => .next (s.raise 41 0)
    | t :: r =>
      let next := s.nextPc
      let x := if t.rem - 1 ≠ 0 then
          { s.core with
            bank := { s.core.bank with loops := { t with rem := t.rem - 1, idx := t.idx + 1 } :: r }, pc := t.body,
            ply := true }
        else { s.core with bank := { s.core.bank with loops := r }, pc := next, ply := true }
      .next { s with core := x }

/-- LIDX (R152). -/
def execLidx (f : FIM) (s : State) : Out :=
  checked (.lidx f) s fun s =>
    match s.core.bank.loops[f.imm.toNat]? with
    | none => .next (s.raise 41 0)
    | some t => .next (s.put (hReg f.h) t.idx)

/-- TRAP (R153): USER-TRAP with the code in EADDR; a worker's record saves the next PC (R252). -/
def execTrap (f : FIM) (s : State) : Out :=
  checked (.trap f) s fun s =>
    .next (s.raiseOn s.cur { s.trapAt (sourceOf s.cur) 7 (f.imm.setWidth 64) with save := s.nextPc })

/-- A return of a worker waits by R142, for its landings and for its own accesses to its frame (R117, R256). -/
def State.returnWaits (s : State) (q : SeqId) : Bool := !s.vecIdle q || s.gPending q || s.unperformed q

/-- ERET on a VC at S (R154, R256). -/
def execEret (f : FN) (s : State) : Out :=
  checked (.eret f) s fun s =>
    if s.returnWaits s.cur then .next s
    else
      match s.cur with
      | .worker w => .next (s.returnWorker w)
      | _ => .next (s.raise 2 0)

/-- ERET on a control core at K (R154, R426). The bank changes once every landing for it has completed. -/
def execEretK (f : FN) (s : State) : Out :=
  checked (.eretK f) s fun s => if s.gPending s.cur then .next s else .next (s.modCore Seq.returnCore)

/-- HALT (R155): at K the core stops with EPC at the next PC and its CCRUN bit clear; at U its thread ends with
USER-TRAP. -/
def execHalt (f : FN) (s : State) : Out :=
  checked (.halt f) s fun s =>
    match s.cur with
    | .cc n =>
      if s.core.priv = .k then
        let s1 := s.modCore fun x => { x with epc := s.nextPc, run := .halted, line := none }
        .next { s1 with regs := { s1.regs with ccrun := s1.regs.ccrun &&& ~~~(BitVec.twoPow 32 n) } }
      else .next (s.raise 7 0x1000000)
    | _ => .next (s.raise 2 0)

/-- TRAP_ENTRY (R252): the trap of a worker is entered once its queue has drained and its landings are complete. -/
def execTrapEntry (w : WKey) (s : State) : Out :=
  match s.enterTrap (.worker w) with
  | some s1 => .next s1
  | none => .next s

/-- KERNEL_TRAP_ENTRY (R425): the trap of a control core is entered once its stores and landings are complete. -/
def execKernelTrapEntry (cc : Nat) (s : State) : Out :=
  match s.enterTrap (.cc cc) with
  | some s1 => .next s1
  | none => .next s

end Sys2Proof.Machine
end

