-- ==== Sys2Proof/Machine/Fetch.lean ====
section
/-! DEFINITION. Taking a turn: which party acts (R2), and the fetch of a sequencer's next instruction with the first
rows of R85. -/

namespace Sys2Proof.Machine

/-! ## Turns -/

/-- The next turn: the oldest of the agenda, or a free one (R2, R341). -/
def State.takeTurn (s : State) : Act × State :=
  match s.agenda with
  | t :: r => (t.act, { s.passTime t.dt with agenda := r })
  | [] =>
    let t := Config.freeTurn s.turn
    (t.act, { s.passTime t.dt with turn := s.turn + 1 })

/-- A worker's launch is being pre-empted: at U it stops at this boundary, and a forked context at its next ply
boundary (R12, R52). -/
def State.stopping (s : State) (w : WKey) : Bool :=
  match s.launch? w.ctx w.slot with
  | some l => match l.phase with
    | .preempting => true
    | _ => false
  | none => false

/-- A share of R3 is throttled and its issue held (R448). -/
def State.shareHeld (s : State) (c : Consumer) : Bool := s.mgmt.throttling.any fun t => t.1 == c && t.2.2.1

/-- The clusters of a compute die are held, by its temperature or its share (R448). -/
def State.clustersHeld (s : State) (d : Nat) : Bool := (s.die d).held || s.shareHeld (.compute d)

/-- A sequencer issues: it runs, no trap of its own is being entered, its clusters or its base die's share are not held
(R448), and a worker is the running one of its VC (R49). -/
def State.mayIssue (s : State) (q : SeqId) : Bool :=
  match s.getSeq q with
  | none => false
  | some x =>
    x.run == .running && x.trap.isNone &&
    match q with
    | .cc n => !s.shareHeld (.base (n / 8))
    | .worker w =>
      x.w.onCore && !s.clustersHeld (s.dieOf q) && (x.priv == .s || !s.stopping w) && !x.w.queue.any VEntry.stallsIssue
    | .mx w _ => !s.clustersHeld (s.dieOf q) && !(x.ply && s.stopping w)
    | .ce w _ => !s.clustersHeld (s.dieOf q) && !(x.ply && s.stopping w)

/-! ## Fetch -/

/-- What a fetch gives: the step has ended (with a trap or a stop), or an instruction is to be executed. -/
inductive Fetched where
  | stop (o : Out)
  | run (i : Instr) (s : State)

/-- The PC about to issue is a debug breakpoint of the context (R443). -/
def State.breaks (s : State) : Bool :=
  let c := s.ctx s.curCtx
  (List.range 4).any fun k => c.cdbp.getD k 0 != 0 && c.cdbp.getD k 0 == s.core.pc

/-- A line of a PRIVATE page with what the sequencer's core has written of it in its cache (R61, R301). -/
def State.withOwn (s : State) (kind : PageKind) (la : Nat) (b : LineBits) : LineBits :=
  match (if kind = .priv then (s.cacheOf s.cur).bind fun o => s.cacheCopy o la false else none) with
  | some c => mergeLine b c.data c.mask
  | none => b

/-- One 64-byte access through the translation of the context (R60). A line with an uncorrectable error raises
UNCORRECTABLE with source MEM (R121, log entry 8). The access reads the slices, and of the core's own cache the bytes that the
core has written there (DEDUCED, log entry 79). It waits for a channel that retrains (R449). -/
def State.readCode (s : State) (a : Word) : Except Out (State × LineBits) :=
  match s.checkAccess (s.accessor s.cur) wantFetch a 64 with
  | .error f => .error (.next (s.raiseAcc (sourceOf s.cur) f))
  | .ok l =>
    if reachesDevice l then .error (.fault .deviceRegisters)
    else if (piecesOf l).any fun p => s.lineWaits (lineOf p.1) then .error (.next s)
    else
      let (s1, bs, m) := (s.markAll l false).readPieces none (s.dieOf s.cur) (piecesOf l)
      match m with
      | some _ => .error (.next (s1.raiseFrom 5 17 a))
      | none =>
        let b := (piecesOf l).foldl (fun acc p => s1.withOwn p.2.1 (lineOf p.1) acc) (BitVec.ofNat 512 (bytesNum bs))
        .ok (s1.modCore fun x => { x with line := some (a, b) }, b)

/-- The line the current sequencer executes in: the decoded one it keeps (R61), or a fetch of it (R60). -/
def State.fetchLineOf (s : State) : Except Out (State × LineBits) :=
  let a := pcLine s.core.pc
  match s.core.line with
  | some (b, l) => if b = a then .ok (s, l) else s.readCode a
  | none => s.readCode a

/-- The instruction at the current sequencer's PC: a trap of an earlier vector instruction, once its loads have landed
(R202), a breakpoint (R443), then rows 1 to 4 of R85 but for the sequencer. -/
def State.fetch (s : State) : Fetched :=
  match s.core.w.pending with
  | some p =>
    let s1 := s.modCore fun x => { x with w := { x.w with pending := none } }
    .stop (.next (if s.vPending s.cur then s else s1.raiseOn s1.cur (p.trap s.core.pc)))
  | none =>
    if s.breaks then .stop (.next (s.raise 31 0))
    else
      match s.fetchLineOf with
      | .error o => .stop o
      | .ok (s1, l) =>
        let slot := pcSlot s1.core.pc
        if !LineBits.legal l then .stop (.next (s1.raise 1 0))
        else if slot = 0 ∨ LineBits.heads l < slot then .stop (.next (s1.raise 4 0))
        else
          match decodeSlot (kindOf s1.cur) l slot with
          | none => .stop (.next (s1.raise 2 0))
          | some i => .run i s1

/-- A sequencer's turn. -/
def State.issue (s : State) (q : SeqId) : Fetched := if s.mayIssue q then (s.select q).fetch else .stop (.next s)

end Sys2Proof.Machine
end

