-- ==== Sys2Proof/Machine/ScalarMem.lean ====
section
/-! DEFINITION. Scalar memory, fences and waits: LD, ST, AMO, CAS, RED, PREF, FENCE, WAITT, WAITM (R117, R162 to R171)
and the events that complete them. -/

namespace Sys2Proof.Machine

/-! ## Waits of an access at issue -/

/-- An access of a sequencer that touches a line is on its way. -/
def State.linePending (s : State) (q : SeqId) (la : Nat) : Bool :=
  s.net.msgs.any (fun m => m.isOf q && lineOf m.pa == la) ||
  s.net.held.any fun h => h.msg.src == q && lineOf h.msg.pa == la

/-- A vector access of the current sequencer is still queued: a release is not complete (R343). -/
def State.queueTouches (s : State) : Bool := s.core.w.queue.any VEntry.touches

/-- Two stretches of bytes have one in common. -/
def spansMeet (a b : Nat × Nat) : Bool := decide (a.1 < b.1 + b.2) && decide (b.1 < a.1 + a.2)

/-- A QPUSH of a sequencer has still to write bytes of a stretch (R117, R181). -/
def State.pushMeets (s : State) (q : SeqId) (l : List (Nat × Nat)) : Bool :=
  s.pushes.any fun p => .worker p.owner == q && p.pieces.any fun x => l.any (spansMeet x)

/-- A queued vector access, or a QPUSH that has gone on, overlaps the bytes of a scalar access, which then waits (R117). One of
indexed form, whose addresses are not known before it is dispatched (R200), counts as overlapping. -/
def State.overlapsQueue (s : State) (pa n : Nat) : Bool :=
  (s.core.w.queue.any fun e => (e.holdsIssue && e.vmt == 0) || e.spans.any (spansMeet (pa, n))) ||
    s.pushMeets s.cur [(pa, n)]

/-- What a scalar access found: the physical address with its page kind; or the step that ends it. -/
def State.openAccess (s : State) (w : Want) (va : Word) (size : Nat) : Except Out (State × Nat × PageKind) :=
  if va.toNat % size ≠ 0 then .error (.next (s.raise 9 va))
  else
    match s.checkAccess (s.accessor s.cur) w va size with
    | .error f => .error (.next (s.raiseAcc (sourceOf s.cur) f))
    | .ok l =>
      if reachesDevice l then .error (.fault .deviceRegisters)
      else
        match piecesOf l with
        | (pa, kind, _) :: _ =>
          if s.ordering s.cur || s.overlapsQueue pa size then .error (.next s)
          else .ok (s.markAll l w.wr, pa, kind)
        | [] => .error (.next s)

/-- Bytes of an access by SIZE (R162). -/
def accessSize (f : FIM) : Nat := 2 ^ (f.imm.extractLsb' 2 2).toNat

/-- The signed byte offset of LD and ST (R162). -/
def accessOff (f : FIM) : Word := (f.imm.extractLsb' 4 20).signExtend 64

/-- LD (R162): checked, sent, and its destination empty until the value lands. -/
def execLd (f : FIM) (s : State) : Out :=
  checked (.ld f) s fun s =>
    let va := s.g f.ga + accessOff f
    match s.openAccess wantLoad va (accessSize f) with
    | .error o => o
    | .ok (s1, pa, kind) =>
      let body : Body := .access .load kind (.g (hReg f.h) (accessSize f) (f.imm.getLsbD 1)) none
      .next ((s1.sendAccess s1.cur pa va (accessSize f) body).emptyG (hReg f.h)).advance

/-- A store of a sequencer: into its cache for a PRIVATE page, once a release that a fence has asked for is complete; to its
cluster's stage buffer for a worker's SHARED or INPLACE page; to the home slice otherwise (R169, R303, R344). None while an
older load of its own still touches the line. -/
def State.sendStore (s : State) (pa : Nat) (kind : PageKind) (va : Word) (n : Nat) (d m : LineBits) : Option State :=
  match kind with
  | .shared | .inplace =>
    match s.cur with
    | .worker _ => some (s.sendOrdered (s.relOf s.cur none) s.cur pa va n (.staged (.store d m) 0))
    | _ => some (s.sendOrdered (s.relOf s.cur none) s.cur pa va n (.access (.store d m) kind .none none))
  | _ =>
    if s.linePending s.cur (lineOf pa) || s.core.relDue.isSome then none
    else some (s.writeCached (s.cacheOf s.cur) (s.pathOf s.cur) (s.dieOf s.cur) (lineOf pa) d m)

/-- ST (R162). -/
def execSt (f : FIM) (s : State) : Out :=
  checked (.st f) s fun s =>
    let va := s.g f.ga + accessOff f
    match s.openAccess wantStore va (accessSize f) with
    | .error o => o
    | .ok (s1, pa, kind) =>
      let (d, m) := placeAt (pa % 64) (accessSize f) (s.g (hReg f.h)).toNat
      match s1.sendStore pa kind va (accessSize f) d m with
      | some s2 => .next s2.advance
      | none => .next s

/-- The order of an AMO or CAS (R164): none, acquire, release, both. -/
def ordAcq (ord : BitVec 2) (scope : BitVec 3) : Option (BitVec 3) := if ord.getLsbD 0 then some scope else none

/-- Before an access that goes to the home slice, the cluster's entry for its line leaves for it (R305); none while a
staged store of the issuer to the line is still on its way to the buffer. -/
def State.beforeHome (s : State) (q : SeqId) (la : Nat) : Option State :=
  if s.net.msgs.any (fun m => m.src == q && lineOf m.pa == la && match m.body with
    | .staged .. => true
    | _ => false) then none
  else
    match s.clusterOf q with
    | some c => some (s.publishLine c la)
    | none => some s

/-- The release an AMO or CAS asks for before it is performed: none, or one at its scope (R164). -/
def ordRel (ord : BitVec 2) (scope : BitVec 3) : Option Nat := if ord.getLsbD 1 then some scope.toNat else none

/-- An atomic access (R164, R165): it leaves for the home slice once the release its order asks for is complete; what follows
it need not wait for that (R341). -/
def atomicAccess (f : FTR) (op : MemOp) (size : Nat) (signed : Bool) (s : State) : Out :=
  let va := s.g f.ga
  match s.openAccess wantAtomic va size with
  | .error o => o
  | .ok (s1, pa, kind) =>
    match s1.beforeHome s1.cur (lineOf pa) with
    | none => .next s1
    | some s2 =>
      let body : Body := .access op kind (.g (hReg f.h) size signed) (ordAcq f.ord f.scope)
      .next ((s2.sendOrdered (s2.relOf s2.cur (ordRel f.ord f.scope)) s2.cur pa va size body).emptyG (hReg f.h)).advance

/-- Bytes of an AMO or CAS by W (R164). -/
def atomicSize (f : FTR) : Nat := if f.imm.getLsbD 5 then 8 else 4

/-- AMO (R164). -/
def execAmo (op : AmoOp) (f : FTR) (s : State) : Out :=
  checked (.amo op f) s fun s =>
    atomicAccess f (.amo op (atomicSize f) (s.g f.gb)) (atomicSize f) (op != .minn && op != .maxn) s

/-- CAS (R165). -/
def execCas (f : FTR) (s : State) : Out :=
  checked (.cas f) s fun s => atomicAccess f (.cas (atomicSize f) (s.g f.gb) (s.g f.gc)) (atomicSize f) true s

/-- RED (R166): a worker's .co or .cl reduction goes to its cluster's stage buffer, any other to the home slice
(R303). -/
def execRed (op : RedOp) (f : FTR) (s : State) : Out :=
  checked (.red op f) s fun s =>
    let va := s.g f.ga
    let et := (f.imm.extractLsb' 5 4).toNat
    let size := etWidth et / 8
    match s.openAccess wantAtomic va size with
    | .error o => o
    | .ok (s1, pa, kind) =>
      let narrow := decide (f.scope.toNat ≤ 1) && kindOf s1.cur == .vc
      if narrow then .next (s1.sendOrdered (s1.relOf s1.cur none) s1.cur pa va size
          (.staged (.red op et (s.g f.gb)) 0)).advance
      else
        match s1.beforeHome s1.cur (lineOf pa) with
        | none => .next s1
        | some s2 =>
          .next (s2.sendOrdered (s2.relOf s2.cur none) s2.cur pa va size
            (.access (.red op et (s.g f.gb)) kind .none none)).advance

/-- PREF (R167): a hint. It never faults, never waits and changes no state. -/
def execPref (f : FIM) (s : State) : Out := checked (.pref f) s fun s => .next s.advance

/-! ## Fences and timed waits -/

/-- An earlier load of a sequencer, or the load part of an AMO or CAS, has no value yet (R169, R344). -/
def State.loadsPending (s : State) (q : SeqId) : Bool :=
  (s.net.msgs ++ s.net.held.map fun h => h.msg).any fun m => m.src == q && m.reply.isNone && match m.body with
    | .access (.store ..) .. => false
    | .access (.red ..) .. => false
    | .access .. => true
    | _ => false

/-- A fence of an order at a scope: what it does now, and whether it is complete (R169, R243). -/
def State.fence (s : State) (ord : BitVec 2) (scope : Nat) : State × Bool :=
  let (s1, done) := if ord.getLsbD 1 then s.release s.cur scope else (s, true)
  if !done then (s1, false)
  else if ord.getLsbD 0 then
    if s1.loadsPending s1.cur then (s1, false) else (s1.acquire s1.cur scope, true)
  else (s1, true)

/-- ORD and SCOPE of FENCE and VFENCE (R169). -/
def fenceOrd (f : FIM) : BitVec 2 := f.imm.extractLsb' 0 2

/-- The scope of FENCE and VFENCE. -/
def fenceScope (f : FIM) : Nat := (f.imm.extractLsb' 2 3).toNat

/-- A fence whose waits are over (R169): one that only releases goes on at once, and later stores wait for its release;
any other is complete before anything after it. -/
def fenceBody (f : FIM) (s : State) : Out :=
  if fenceOrd f = 2 then .next ((s.oweRelease s.cur (fenceScope f)).releaseDue s.cur).1.advance
  else
    let (s1, done) := s.fence (fenceOrd f) (fenceScope f)
    .next (if done then s1.advance else s1)

/-- FENCE (R169). On a VC it waits by R142. -/
def execFence (f : FIM) (s : State) : Out :=
  checked (.fence f) s fun s => if s.waitsVector || s.ordering s.cur then .next s else fenceBody f s

/-- A sequencer parks in the current instruction. -/
def State.park (s : State) (p : Park) : State := s.modCore fun x => { x with run := .parked p }

/-- A parked sequencer becomes the current one and runs. -/
def State.wake (s : State) (q : SeqId) : State := (s.select q).modCore fun x => { x with run := .running }

/-- WAITT (R170): completes once TIME has reached ga, and stalls until then. -/
def execWaitt (f : FRG) (s : State) : Out :=
  checked (.waitt f) s fun s =>
    let t := s.timeOf s.cur
    if (s.g f.ga).ule t then .next (s.put f.gd t) else .next (s.park (.waitt f.gd (s.g f.ga)))

/-- WAITT_EXPIRY (R170). -/
def execWaittExpiry (q : SeqId) (s : State) : Out :=
  match (s.seqD q).run with
  | .parked (.waitt gd till) =>
    if till.ule (s.timeOf q) then .next ((s.wake q).put gd (s.timeOf q)) else .next s
  | _ => .next s

/-- The comparison of a WAITM whose word has been checked (R171): it completes, or parks. -/
def waitmBody (f : FTR) (pa : Nat) (s : State) : Out :=
  let (s1, v, p) := s.readHome pa 8
  let x := BitVec.ofNat 64 v
  let t := s1.timeOf s1.cur
  let c := (Cond.ofCode (f.imm.extractLsb' 5 3)).getD .eq
  match p with
  | some a =>
    .next (s1.modCore fun y => { y with bank := y.bank.writeMark (hReg f.h) (Mark.at_ (s.g f.ga) ⟨0, a⟩) }).advance
  | none =>
    if Cond.holds c 64 x (s.g f.gb) then
      let s2 := if f.ord.getLsbD 0 then s1.acquire s1.cur f.scope.toNat else s1
      .next (s2.put (hReg f.h) x)
    else if s.g f.gc ≠ 0 ∧ (s.g f.gc).ule t then .next (s1.put (hReg f.h) x)
    else .next (s1.park (.waitm f pa))

/-- A parked WAITM looks again: a line or a context lost with a die since then raises DIE-LOST (R418). -/
def waitmAgain (f : FTR) (pa : Nat) (s : State) : Out :=
  if s.lineLost pa || ((s.ctx s.curCtx).lost && s.core.priv != .k) then .next (s.raiseFrom 5 28 (s.g f.ga))
  else waitmBody f pa s

/-- WAITM (R171). On a VC it waits by R142. -/
def execWaitm (f : FTR) (s : State) : Out :=
  checked (.waitm f) s fun s =>
    if s.waitsVector then .next s
    else
      match s.openAccess wantWaitm (s.g f.ga) 8 with
      | .error o => o
      | .ok (s1, pa, _) => if s1.linePending s1.cur (lineOf pa) then .next s else waitmBody f pa s1

/-- WAITM_WAKE (R171): the word is read again. -/
def execWaitmWake (q : SeqId) (s : State) : Out :=
  match (s.seqD q).run with
  | .parked (.waitm f pa) => waitmAgain f pa (s.wake q)
  | _ => .next s

/-- WAITM_DEADLINE (R171): TIME has reached the deadline; the word is read once more. -/
def execWaitmDeadline (q : SeqId) (s : State) : Out :=
  match (s.seqD q).run with
  | .parked (.waitm f pa) =>
    let gc := (s.seqD q).bank.read f.gc
    if gc ≠ 0 ∧ gc.ule (s.timeOf q) then waitmAgain f pa (s.wake q) else .next s
  | _ => .next s

end Sys2Proof.Machine
end

