-- ==== Sys2Proof/Machine/Queue.lean ====
section
/-! DEFINITION. The vector instruction queue of a worker (R114 to R116, R140, R141): what an entry captures at issue,
and the vector registers of the instruction that executes. -/

namespace Sys2Proof.Machine

/-- An entry for the current instruction, with what every one captures (R115, R141) and no operand yet. -/
def State.entryFor (s : State) (i : Instr) (id : Nat) : VEntry :=
  let w := s.core.w
  { id := id, pc := s.core.pc, next := s.nextPc, instr := i, ga := 0, gb := 0, gc := 0, vl := w.vl.toNat,
    vstart := w.vstart.toNat, vmt := w.vmt, rm := w.vrm, xsel := w.xsel, base := 0, boff := 0, fault := none,
    pages := [], spans := [], cmd := 0, first := w.vstart.toNat, till := w.vl.toNat }

/-- What an instruction writes of the v registers when no element is masked off: the registers, its mask field, and the
bits of one element. The slot of VMERGE's selector masks nothing off (R223). -/
def vResult (i : Instr) : List Nat × BitVec 3 × Nat :=
  match i with
  | .vbcast f | .vadd f | .vsub f | .vmul f | .vmulh f | .vand f | .vor f | .vxor f | .vshl f | .vshr f | .vsra f
  | .vmin f | .vmax f | .vabs f | .vsadd f | .vssub f | .viota f | .vicvt _ f | .vfadd f | .vfsub f | .vfmul f
  | .vfdiv f | .vfsqrt f | .vfmin f | .vfmax f | .vfabs f | .vfneg f | .vfclass f | .vfcvt _ f | .vlgmul f | .vperm f
  | .vtlu f | .vbfx f | .vcomp f | .vexp f => ([(hVec f.h).toNat], f.mask, etWidth f.et.toNat)
  | .vsrar f => ([(hVec f.h).toNat], f.mask, etWidth f.et.toNat / 2)
  | .vmerge f => ([(hVec f.h).toNat], 0, etWidth f.et.toNat)
  | .vpmac f => ([(hVec f.v.h).toNat], f.v.mask, 32)
  | .vmac f | .vfma f | .vfms f | .vfnma f | .vfnms f | .vslideup f | .vslidedn f =>
    ([(hVec f.v.h).toNat], f.v.mask, etWidth f.v.et.toNat)
  | .vld f => (f.group, f.mask, etWidth f.et.toNat)
  | .vgath f | .vldl f => ([(hVec f.h).toNat], f.mask, etWidth f.et.toNat)
  | .vamo _ f => ([(hVec f.m.h).toNat], f.m.mask, etWidth f.m.et.toNat)
  | .vacc f => ([(hVec f.h).toNat], 0, 32)
  | _ => ([], 0, 0)

/-- The v registers whose mark an entry clears: it is unmasked, begins at element 0, and writes the whole valid extent
(R202). -/
def VEntry.renews (e : VEntry) (x : Worker) : List Nat :=
  let (rs, mask, w) := vResult e.instr
  if mask = 0 ∧ e.vstart = 0 ∧ 0 < e.vl then
    rs.filter fun k => decide ((x.v.getD k VReg.reset).extent ≤ ceilDiv (w * e.vl) 8)
  else []

/-- Registers without a mark. -/
def Worker.unmark (x : Worker) (l : List Nat) : Worker :=
  { x with v := l.foldl (fun v k => v.setIfInBounds k { v.getD k VReg.reset with poison := none }) x.v }

/-- The marks an entry clears as it issues are gone. What an indexed form writes is not known before its elements are
checked: its destination loses its mark then (R200 to R202). -/
def Worker.renew (x : Worker) (e : VEntry) : Worker := if e.holdsIssue then x else x.unmark (e.renews x)

/-- The current instruction enters the queue, VSTART becomes 0, and the scalar sequencer goes on (R114, R115). -/
def State.enqueue (s : State) (e : VEntry) : State :=
  (s.modCore fun x => { x with w := { x.w.renew e with queue := x.w.queue ++ [e], vstart := 0 } }).advance

end Sys2Proof.Machine
end

