-- ==== Sys2Proof/Machine/Sync.lean ====
section
/-! DEFINITION. Sync registers and barriers: SRTS, SRFA, SRRD, SRWR, BAR, the updates at the home and in the mirrors
(R172 to R176, R244 to R247). -/

namespace Sys2Proof.Machine

/-- The home die of a sync register (R172). -/
def syncDie (i : Nat) : Nat := i / 4096

/-- A sync register is granted to a context by CSRGRANT (R172, R427). -/
def State.syncGranted (s : State) (c i : Nat) : Bool :=
  let g := (s.ctx c).csrgrant
  decide ((g.extractLsb' 0 14).toNat ≤ i) && decide (i < (g.extractLsb' 0 14).toNat + (g.extractLsb' 16 15).toNat)

/-- What the index of a sync instruction names, or the step that ends it (R173, R176). EADDR of SYNC-INDEX, which no rule
gives, is the index operand (DESIGN CHOICE, log entry 82). -/
def State.syncIndex (s : State) (home : Bool) (ga : Word) : Except Out Nat :=
  if ga.extractLsb' 14 50 ≠ 0#50 ∨ s.syncGranted s.curCtx ga.toNat = false then .error (.next (s.raise 26 ga))
  else if home && !s.inService (syncDie ga.toNat) then
    match s.cur with
    | .cc _ => .error (.next (s.raiseFrom 5 28 ga))
    | _ => .error (.next s)
  else .ok ga.toNat

/-- A sync instruction waits for an acquiring one before it, then releases at .dv (R175). -/
def State.syncReady (s : State) : State × Bool :=
  if s.ordering s.cur || s.queueTouches then (s, false) else s.release s.cur 3

/-- A sync operation leaves for its register's home. -/
def State.sendSync (s : State) (q : SeqId) (i op : Nat) (v : Word) (gd : Option (BitVec 5)) (group : Option Nat) : State :=
  s.send q (s.pathOf q) 0 (BitVec.ofNat 64 i) 0 (.sync i op v gd group s.core.pc) (s.dieOf q) (syncDie i) (512 + syncDie i)

/-- A sync instruction that acts at the home: 0 test-and-set, 1 fetch-and-add, 2 read, 3 write (R173). -/
def syncAccess (op : Nat) (ga gb : Word) (gd : Option (BitVec 5)) (s : State) : Out :=
  match s.syncIndex true ga with
  | .error o => o
  | .ok i =>
    let (s1, done) := s.syncReady
    if !done then .next s1
    else
      let s2 := s1.sendSync s1.cur i op gb gd none
      .next (match gd with
        | some r => (s2.emptyG r).advance
        | none => s2.advance)

/-- SRTS (R173). -/
def execSrts (f : FRG) (s : State) : Out :=
  checked (.srts f) s fun s => syncAccess 0 (s.g f.ga) 0 (some f.gd) s

/-- SRFA (R173). -/
def execSrfa (f : FRG) (s : State) : Out :=
  checked (.srfa f) s fun s => syncAccess 1 (s.g f.ga) (s.g f.gb) (some f.gd) s

/-- SRRD with HOME = 0 (R173): this die's mirror; the value lands with the acquire of R175. -/
def execSrrd (f : FRG) (s : State) : Out :=
  checked (.srrd f) s fun s =>
    match s.syncIndex false (s.g f.ga) with
    | .error o => o
    | .ok i =>
      let (s1, done) := s.syncReady
      if !done then .next s1
      else
        let v := assocGet s1.syncMirror (16384 * s1.dieOf s1.cur + i) (0, 0)
        .next ((s1.land s1.cur f.gd v.2 none (some 3)).emptyG f.gd).advance

/-- SRRD with HOME = 1 (R173). -/
def execSrrdHome (f : FRG) (s : State) : Out :=
  checked (.srrdHome f) s fun s => syncAccess 2 (s.g f.ga) 0 (some f.gd) s

/-- SRWR (R173). -/
def execSrwr (f : FRG) (s : State) : Out :=
  checked (.srwr f) s fun s => syncAccess 3 (s.g f.ga) (s.g f.gb) none s

/-! ## The home and the mirrors -/

/-- The value of a sync register at its home. -/
def State.syncValue (s : State) (i : Nat) : Word := assocGet s.syncHome i 0

/-- A barrier arrival (R246): the new value, and whether it is the last. -/
def barArrive (old : Word) (count : Nat) : Word × Bool :=
  let n := (old.extractLsb' 0 13).toNat + 1
  if count ≤ n then ((old.extractLsb' 48 16 + 1).setWidth 64 <<< 48, true)
  else ((old &&& ~~~0x1FFF#64) ||| BitVec.ofNat 64 n, false)

/-- A group of a launch (R36). -/
def State.group? (s : State) (w : WKey) (j : Nat) : Option Group := (s.launch? w.ctx w.slot).bind fun l => l.groups[j]?

/-- The home applies an update, counts it, and sends the value to the mirror of every die not resigned (R174). -/
def State.syncUpdate (s : State) (src : SeqId) (i : Nat) (v : Word) (isBar : Bool) (op : Nat) : State :=
  let seq := assocGet s.regUpdates i 0 + 1
  let s1 := { s with syncHome := assocPut s.syncHome i v, regUpdates := assocPut s.regUpdates i seq }
  ((List.range 4).filter s1.inService).foldl (fun (acc : State) d =>
    acc.send src (96 + syncDie i) op 0 0 (.mirror i v seq d op isBar) (syncDie i) d (768 + d)) s1

/-- An update other than a BAR is recorded for every saved worker of a launch with a group on the register (R247). -/
def State.noteReset (s : State) (i : Nat) : State :=
  { s with launches := mapIf s.launches (fun l => l.groups.any fun g => g.sreg == i) fun l =>
      { l with resets := (((s.launchWorkers l.ctx l.slot).filter fun p => p.2.run == .saved).map fun p =>
          i + 16384 * p.1.wid) ++ l.resets } }

/-- Sync operations complete once every mirror that is not resigned has applied them, and their answer has reached the die of
the issuer (R174, R414): gd lands, and the acquire of R175 comes with it. -/
def State.settleSyncs (s : State) : State :=
  let ended (o : SyncOp) : Bool := o.left.isEmpty && !s.net.msgs.any fun m => m.id == o.id
  let s1 := { s with net := { s.net with syncs := s.net.syncs.filter fun o => !ended o } }
  (s.net.syncs.filter ended).foldl (fun (acc : State) o =>
    match o.gd with
    | some r => acc.land o.src r o.old none (some 3)
    | none => acc.acquire o.src 3) s1

/-- The home applies an operation whose message has left, or carries its answer back (R173, R174, R246, R414). -/
def State.applySync (s : State) (x : Msg) (i op : Nat) (v : Word) (gd : Option (BitVec 5)) (group : Option Nat)
    (pc : Word) : State :=
  let old := s.syncValue i
  match group, x.src with
  | some j, .worker w =>
    match s.group? w j with
    | none => s
    | some g =>
      let (new, last) := barArrive old g.count
      let s1 := s.syncUpdate x.src i new true x.id
      if (s1.seqD x.src).run != .parked (.barSent j) then s1
      else if last then ((s1.wake x.src).acquire x.src g.scope.toNat).advance
      else
        s1.modSeq x.src fun y =>
          { y with run := .parked (.bar j (old.extractLsb' 48 16).toNat (assocGet s1.regUpdates i 0)
            (Machine.nextPc y.heads y.pc)) }
  | _, _ =>
    let made (s1 : State) (left : List Nat) : State :=
      { s1 with net := { s1.net with syncs := s1.net.syncs ++
        [{ id := x.id, src := x.src, gd := gd, old := old, left := left, reg := i, pc := pc }] } }
    if op = 2 then (made s []).settleSyncs
    else
      let new := if op = 0 then old ||| 1 else if op = 1 then old + v else v
      let s1 := (s.syncUpdate x.src i new false x.id).noteReset i
      made s1 ((List.range 4).filter s1.inService)

/-- A sync operation has arrived at its home, which is in service. -/
def State.syncArrived (s : State) (x : Msg) (i : Nat) : Bool :=
  x.hops.isEmpty && x.reply.isNone && !s.behind x && s.inService (syncDie i)

/-- SYNC_REGISTER_UPDATE (R174): the home die applies one operation indivisibly. One from another die is applied by its
transaction (R413). -/
def execSyncRegisterUpdate (m : Nat) (s : State) : Out :=
  match s.msg? m with
  | some x =>
    match x.body with
    | .sync i op v gd group pc =>
      if s.syncArrived x i && x.tag.isNone then .next ((s.dropMsg m).applySync x i op v gd group pc) else .next s
    | _ => .next s
  | none => .next s

/-- The mirror of a die has applied a sync operation. -/
def State.syncApplied (s : State) (op d : Nat) : State :=
  let syncs := mapIf s.net.syncs (fun o => o.id == op) fun o => { o with left := o.left.filter fun x => x != d }
  { s with net := { s.net with syncs := syncs } }.settleSyncs

/-- A worker parked in BAR meets an update its die's mirror applies (R246). -/
def State.barMeets (s : State) (w : WKey) (i : Nat) (v : Word) (seq : Nat) (isBar : Bool) : State :=
  match (s.seqD (.worker w)).run with
  | .parked (.bar j gen at_ next) =>
    match s.group? w j with
    | none => s
    | some g =>
      if g.sreg ≠ i ∨ seq ≤ at_ then s
      else if isBar then
        if (v.extractLsb' 48 16).toNat ≠ gen then ((s.wake (.worker w)).acquire (.worker w) g.scope.toNat).jump next else s
      else (s.wake (.worker w)).raise 25 0
  | _ => s

/-- MIRROR_UPDATE (R174): a mirror applies a value in the home's order, and barrier waiters of its die see it. -/
def execMirrorUpdate (m : Nat) (s : State) : Out :=
  match s.msg? m with
  | some x =>
    match x.body with
    | .mirror i v seq d op isBar =>
      let older := s.net.msgs.any fun y => match y.body with
        | .mirror j _ k e _ _ => j == i && e == d && decide (k < seq)
        | _ => false
      if !x.hops.isEmpty || older then .next s
      else
        let s1 := { s.dropMsg m with syncMirror := assocPut s.syncMirror (16384 * d + i) (seq, v) }
        let here := s1.workers.filter fun p => p.2.w.place.die == d
        .next ((here.foldl (fun (acc : State) p => acc.barMeets p.1 i v seq isBar) s1).syncApplied op d)
    | _ => .next s
  | none => .next s

/-- BAR (R244, R246): it waits by R142, fences, and sends its arrival. -/
def execBar (f : FIM) (s : State) : Out :=
  checked (.bar f) s fun s =>
    let j := (f.imm.extractLsb' 0 8).toNat
    match s.cur with
    | .worker w =>
      match s.group? w j with
      | none => .next (s.raise 24 0)
      | some g =>
        if !g.members.getLsbD w.wid then .next (s.raise 24 0)
        else if s.waitsVector || s.ordering s.cur then .next s
        else
          let (s1, done) := s.release s.cur g.scope.toNat
          if !done then .next s1
          else .next ((s1.sendSync s1.cur g.sreg 4 0 none (some j)).park (.barSent j))
    | _ => .next (s.raise 2 0)

end Sys2Proof.Machine
end

