-- ==== Sys2Proof/Machine/LaunchUnit.lean ====
section
/-! DEFINITION. What the launch unit knows of a launch: its block, its stages' inputs, residency, placement, the
choice rule and the start of a worker (R18 to R37, R189). -/

namespace Sys2Proof.Machine

/-! ## The launch block (R18 to R21) -/

/-- A word of a launch block. -/
def blockWord (b : BitVec 4096) (k : Nat) : Word := b.extractLsb' (64 * k) 64

/-- LBCTL. -/
def lbctl (b : BitVec 4096) : Word := blockWord b 0

/-- NSTAGE (R19). -/
def blockStages (b : BitVec 4096) : Nat := ((lbctl b).extractLsb' 0 3).toNat + 1

/-- INDEXED (R19). -/
def blockIndexed (b : BitVec 4096) : Bool := (lbctl b).getLsbD 6

/-- COR (R19). -/
def blockCor (b : BitVec 4096) : Bool := (lbctl b).getLsbD 7

/-- QIDX (R19). -/
def blockQueue (b : BitVec 4096) : Nat := ((lbctl b).extractLsb' 8 6).toNat

/-- DIEMASK (R19). -/
def blockDies (b : BitVec 4096) : BitVec 4 := (lbctl b).extractLsb' 16 4

/-- ARG, GTAB, CWORD, WDOG, START, ICOUNT (R18). -/
def blockArg (b : BitVec 4096) : Word := blockWord b 1

/-- GTAB (R18). -/
def blockGtab (b : BitVec 4096) : Word := blockWord b 2

/-- CWORD (R18). -/
def blockCword (b : BitVec 4096) : Word := blockWord b 3

/-- WDOG (R18). -/
def blockWdog (b : BitVec 4096) : Word := blockWord b 4

/-- START (R18). -/
def blockStart (b : BitVec 4096) : Word := blockWord b 5

/-- ICOUNT (R18). -/
def blockCount (b : BitVec 4096) : Nat := (blockWord b 6).toNat

/-- CHUNK (R20). -/
def blockChunk (b : BitVec 4096) : Nat := ((blockWord b 7).extractLsb' 0 32).toNat

/-- NGROUP (R20). -/
def blockGroups (b : BitVec 4096) : Nat := ((blockWord b 7).extractLsb' 32 9).toNat

/-- The lead die: the lowest in DIEMASK (R19). -/
def leadDie (m : BitVec 4) : Nat := ((List.range 4).find? fun d => m.getLsbD d).getD 0

/-- The bits of stage descriptor k (R18). -/
def stageBits (b : BitVec 4096) (k : Nat) : BitVec 448 := b.extractLsb' (512 + 448 * k) 448

/-- A stage descriptor (R21). -/
def stageFrom (d : BitVec 448) : Stage :=
  { entry := d.extractLsb' 0 64
    maxw := (d.extractLsb' 112 13).toNat
    minw := (d.extractLsb' 99 13).toNat
    mxn := (d.extractLsb' 93 3).toNat
    cen := (d.extractLsb' 90 3).toNat
    spad := (d.extractLsb' 87 3).toNat
    vreg := d.extractLsb' 85 2
    sinq := d.extractLsb' 128 64
    recsz := (d.extractLsb' 208 16).toNat
    depthlog := (d.extractLsb' 192 5).toNat
    preload := (d.extractLsb' 256 17).toNat }

/-- The reserved bits of a stage descriptor are zero (R21). -/
def stageReserved (d : BitVec 448) : Bool :=
  d.extractLsb' 273 175 == 0#175 && d.extractLsb' 224 32 == 0#32 && d.extractLsb' 197 11 == 0#11 &&
    d.extractLsb' 125 3 == 0#3 && d.extractLsb' 96 3 == 0#3 && d.extractLsb' 64 21 == 0#21

/-- The stages of a block. -/
def stagesFrom (b : BitVec 4096) : List Stage := (List.range (blockStages b)).map fun k => stageFrom (stageBits b k)

/-- The sum of MAXW (R23). -/
def sumMaxw (l : List Stage) : Nat := l.foldl (fun n x => n + x.maxw) 0

/-- The block checks of R23 on one stage. `indexed` says that it takes the index source. -/
def stageOk (x : Stage) (k : Nat) (indexed : Bool) : Bool :=
  let slot := pcSlot x.entry
  decide (1 ≤ slot ∧ slot ≤ 31) && decide (1 ≤ x.minw ∧ x.minw ≤ x.maxw) && decide (x.mxn ≤ 2) &&
    decide (x.cen ≤ 4) && decide (x.spad ≤ 4) && (x.preload == 0 || k == 0) &&
    (if indexed then x.sinq == 0 && x.recsz == 0 && x.depthlog == 0 && x.preload == 0
     else decide (8 ≤ x.recsz ∧ x.recsz ≤ 4096) && x.recsz % 8 == 0 && decide (1 ≤ x.depthlog ∧ x.depthlog ≤ 16) &&
       decide (x.preload ≤ 2 ^ x.depthlog))

/-- The block checks of R23, made as LAUNCH enters the block into its queue. -/
def State.blockOk (s : State) (c : Nat) (b : BitVec 4096) : Bool :=
  let l := lbctl b
  let st := stagesFrom b
  (l.extractLsb' 24 8 == 1#8) && l.extractLsb' 32 32 == 0#32 && l.extractLsb' 20 4 == 0#4 && l.extractLsb' 14 2 == 0#2 &&
    l.extractLsb' 3 3 == 0#3 && (blockWord b 7).extractLsb' 41 23 == 0#23 && blockDies b != 0 &&
    ((s.ctx c).cqgrant.getD (leadDie (blockDies b)) 0).getLsbD (blockQueue b) &&
    (List.range (blockStages b)).all (fun k => stageReserved (stageBits b k)) &&
    (st.zipIdx.all fun p => stageOk p.1 p.2 (blockIndexed b && p.2 == 0)) && decide (sumMaxw st ≤ 4096) &&
    (if blockIndexed b then blockCount b != 0 && blockChunk b != 0 else blockCount b == 0 && blockChunk b == 0) &&
    decide (blockGroups b ≤ 256) && (blockGroups b == 0 || blockGtab b != 0)

/-! ## Inputs (R22, R30 to R33) -/

/-- A stage of a launch. -/
def Launch.stage (l : Launch) (k : Nat) : Stage := l.stages.getD k
  { entry := 0, maxw := 0, minw := 0, mxn := 0, cen := 0, spad := 0, vreg := 0, sinq := 0, recsz := 0, depthlog := 0,
    preload := 0 }

/-- The ring of a stage. -/
def Launch.ring (l : Launch) (k : Nat) : Ring := l.rings.getD k { given := 0, push := 0, pop := 0, owned := [] }

/-- Changes the ring of a stage. -/
def Launch.setRing (l : Launch) (k : Nat) (r : Ring) : Launch := { l with rings := l.rings.set k r }

/-- A stage takes the index source. -/
def Launch.indexed (l : Launch) (k : Nat) : Bool := k == 0 && blockIndexed l.block

/-- Records or chunks that the input of a stage holds. -/
def Launch.holds (l : Launch) (k : Nat) : Nat :=
  if l.indexed k then (blockCount l.block - l.nextIndex + blockChunk l.block - 1) / Nat.max 1 (blockChunk l.block)
  else (l.ring k).push - (l.ring k).pop

/-- The pressure of a stage as a fraction (R34). -/
def Launch.pressure (l : Launch) (k : Nat) : Nat × Nat :=
  if l.indexed k then (if l.holds k = 0 then 0 else 1, 1) else (l.holds k, 2 ^ (l.stage k).depthlog)

/-- The input ring of a stage is full: its next slot is given out or holds a record not yet popped, or one a worker still owns
(R30, R31). -/
def Launch.full (l : Launch) (k : Nat) : Bool :=
  if l.indexed k then false
  else
    let d := 2 ^ (l.stage k).depthlog
    let r := l.ring k
    decide (d ≤ r.given - r.pop) || r.owned.any fun p => p % d == r.given % d

/-- Workers assigned to a stage. -/
def State.stageCount (s : State) (l : Launch) (k : Nat) : Nat :=
  ((s.launchWorkers l.ctx l.slot).filter fun p => p.2.w.stage == k).length

/-- A QPUSH to a stage of a launch has not taken its position. -/
def State.pushing (s : State) (l : Launch) (k : Nat) : Bool :=
  s.pushes.any fun p => p.owner.ctx == l.ctx && p.owner.slot == l.slot && p.stage == k

/-- The input of a stage is closed (R32). -/
def State.closed (s : State) (l : Launch) : Nat → Bool
  | 0 => if l.indexed 0 then l.holds 0 == 0 else decide ((l.stage 0).preload ≤ (l.ring 0).pop)
  | k + 1 => s.closed l k && l.holds k == 0 && s.stageCount l k == 0 && !s.pushing l (k + 1)

/-! ## Residency (R27, R28) -/

/-- A worker that holds a place on its VC: one that is not saved. -/
def State.residents (s : State) : List (WKey × Seq) := s.workers.filter fun p => p.2.run != .saved

/-- The stage of a worker, or one that needs nothing. -/
def State.stageD (s : State) (w : WKey) : Stage :=
  (s.stageOf w).getD { entry := 0, maxw := 0, minw := 0, mxn := 0, cen := 0, spad := 0, vreg := 0, sinq := 0, recsz := 0,
                       depthlog := 0, preload := 0 }

/-- A worker belongs to a COR launch. -/
def State.isCor (s : State) (w : WKey) : Bool :=
  match s.launch? w.ctx w.slot with
  | some l => blockCor l.block
  | none => false

/-- A stage fits on a VC beside the residents there (R27), but for one worker that would leave its place. -/
def State.fits (s : State) (die cluster core : Nat) (x : Stage) (cor : Bool) (except : Option WKey) : Bool :=
  let others := s.residents.filter fun p => some p.1 != except
  let mates := others.filter fun p => p.2.w.place.die == die && p.2.w.place.cluster == cluster
  let here := mates.filter fun p => p.2.w.place.core == core
  let mx := mates.foldl (fun n p => n + (s.stageD p.1).mxn) 0
  let ce := mates.foldl (fun n p => n + (s.stageD p.1).cen) 0
  decide (here.length < 2) && (here.isEmpty || (!cor && here.all fun p => !s.isCor p.1)) &&
    decide (here.foldl (fun n p => n + p.2.w.spadCode) x.spad ≤ 4) && decide (mx + x.mxn ≤ 8) &&
    decide (ce + x.cen ≤ 16)

/-- The VCs of a die mask that are in service and up (R444), lowest first. -/
def State.maskVcs (s : State) (m : BitVec 4) : List (Nat × Nat × Nat) :=
  ((List.range 4).filter fun d => m.getLsbD d && s.inService d && (s.die d).up).flatMap fun d =>
    (List.range 16).flatMap fun c => (List.range 32).map fun k => (d, c, k)

/-- Preference among places (R28): residents on the VC, workers of the launch in the cluster. Lower is better. -/
def State.placeRank (s : State) (l : Launch) (v : Nat × Nat × Nat) : Nat × Nat :=
  let mates := s.residents.filter fun p => p.2.w.place.die == v.1 && p.2.w.place.cluster == v.2.1
  (if mates.any (fun p => p.2.w.place.core == v.2.2) then 1 else 0,
    (mates.filter fun p => p.1.ctx == l.ctx && p.1.slot == l.slot).length)

/-- The place of R28 for a worker of a stage, the first of the best ranked. -/
def State.choosePlace (s : State) (l : Launch) (x : Stage) : Option Place :=
  let cand := (s.maskVcs (blockDies l.block)).filter fun v => s.fits v.1 v.2.1 v.2.2 x (blockCor l.block) none
  let best := cand.foldl (fun (acc : Option ((Nat × Nat × Nat) × (Nat × Nat))) v =>
    let r := s.placeRank l v
    match acc with
    | none => some (v, r)
    | some (_, q) => if r.1 < q.1 ∨ (r.1 = q.1 ∧ r.2 < q.2) then some (v, r) else acc) none
  best.map fun p =>
    let v := p.1
    let taken := s.residents.any fun y => y.2.w.place.die == v.1 && y.2.w.place.cluster == v.2.1 &&
      y.2.w.place.core == v.2.2 && y.2.w.place.slot == 0
    { die := v.1, cluster := v.2.1, core := v.2.2, slot := if taken then 1 else 0 }

/-- The lowest free frame of a context's pool (R248). -/
def State.freeFrame (s : State) (c : Nat) : Option Nat :=
  (List.range (s.ctx c).cfn.toNat).find? fun f => !(s.workers.any fun p => p.1.ctx == c && p.2.w.frame == f)

/-! ## The choice rule (R34) -/

/-- A worker that is never reassigned (R34). -/
def State.fixedWorker (s : State) (w : WKey) : Bool :=
  let x := s.seqD (.worker w)
  x.w.mxHeld != 0 || x.w.ceHeld != 0 || x.w.win.toList.any (fun r => r.isOpen) || !x.tlv.idle || !x.tlm.idle ||
    !x.tln.idle || x.poisoned || s.isCor w

/-- A stage that may take one more worker by pressure, count and output (R34). -/
def State.wantsWorker (s : State) (l : Launch) (t : Nat) : Bool :=
  let p := l.pressure t
  decide (p.2 ≤ 2 * p.1) && decide (s.stageCount l t < (l.stage t).maxw) &&
    (decide (l.stages.length ≤ t + 1) || !l.full (t + 1))

/-- The best of the stages that satisfy a test: the highest pressure, ties to the lower index (R34). -/
def Launch.best (l : Launch) (ok : Nat → Bool) : Option Nat :=
  (List.range l.stages.length).foldl (fun acc t =>
    if !ok t then acc
    else
      match acc with
      | none => some t
      | some b =>
        let p := l.pressure t
        let q := l.pressure b
        if q.1 * p.2 < p.1 * q.2 then some t else acc) none

/-- The stage that the rule names for a worker in a stage (R34). -/
def State.chooseFor (s : State) (l : Launch) (w : WKey) : Option Nat :=
  let x := s.seqD (.worker w)
  let k := x.w.stage
  if s.fixedWorker w then none
  else if !s.closed l k && decide (s.stageCount l k ≤ (l.stage k).minw) then none
  else l.best fun t => t != k && s.wantsWorker l t &&
    s.fits x.w.place.die x.w.place.cluster x.w.place.core (l.stage t) false (some w)

/-- The stage that the rule names for a new worker, with its place (R26, R34, R35): one below its minimum first. -/
def State.chooseNew (s : State) (l : Launch) : Option (Nat × Place) :=
  let short := (List.range l.stages.length).find? fun t =>
    !s.closed l t && decide (s.stageCount l t < (l.stage t).minw) && (s.choosePlace l (l.stage t)).isSome
  let named := match short with
    | some t => some t
    | none => l.best fun t => s.wantsWorker l t && (s.choosePlace l (l.stage t)).isSome
  match named with
  | none => none
  | some t => (s.choosePlace l (l.stage t)).map fun p => (t, p)

/-! ## Starting a worker (R29) -/

/-- The state of a worker that starts or restarts in a stage (R29). -/
def State.startState (s : State) (l : Launch) (k : Nat) (old : Worker) : Seq :=
  let st := l.stage k
  { Seq.reset with
    bank := Bank.reset.write 1 (blockArg l.block)
    pc := st.entry
    priv := .u
    run := .running
    ply := true
    w := { Worker.reset with
      vncode := st.vreg
      spadCode := st.spad
      svec := (s.ctx l.ctx).csvec
      stage := k
      frame := old.frame
      place := old.place
      onCore := old.onCore
      moves := old.moves } }

/-- A VC runs some worker. -/
def State.vcBusy (s : State) (p : Place) : Bool := s.residents.any fun x => x.2.w.onCore && x.2.w.place.vc == p.vc

/-- The launch unit creates a worker of a stage at a place with a frame (R26, R28, R29, R248): its scratchpad takes its
room from the VC's L1 (R295), and it sees the code stored before its LAUNCH (R61). -/
def State.createWorker (s : State) (l : Launch) (k : Nat) (p : Place) (frame : Nat) : State :=
  let key : WKey := ⟨l.ctx, l.slot, l.issued⟩
  let x := s.startState l k { Worker.reset with frame := frame, place := p, onCore := !s.vcBusy p }
  let s1 := ((s.clearResv key).setSeq (.worker key) x).shrinkCache p.vc (s.cacheLines p.vc)
  (s1.dropGuests p.die).modLaunch l.ctx l.slot fun y => { y with issued := y.issued + 1 }

/-- A worker restarts in another stage, on its VC and in its slot, under its id (R26, R34). -/
def State.restartWorker (s : State) (l : Launch) (w : WKey) (k : Nat) : State :=
  let q := SeqId.worker w
  let x := s.seqD q
  ((s.clearResv w).setSeq q (s.startState l k x.w)).shrinkCache x.w.place.vc (s.cacheLines x.w.place.vc)

end Sys2Proof.Machine
end

