-- ==== Sys2Proof/Machine/Threads.lean ====
section
/-! DEFINITION. Fork, rendezvous, end, queues and timelines of the sequencers (R30 to R34, R39 to R44, R177 to R183). -/

namespace Sys2Proof.Machine

/-! ## Fork and rendezvous -/

/-- The class of a forked context: MX or CE. -/
def forkId (w : WKey) (ce : Bool) (h : Nat) : SeqId := if ce then .ce w h else .mx w h

/-- The handles of a class that a worker holds (R39). -/
def Worker.held (x : Worker) (ce : Bool) : List Nat :=
  if ce then (List.range 4).filter fun h => x.ceHeld.getLsbD h else (List.range 2).filter fun h => x.mxHeld.getLsbD h

/-- Sets or clears a handle. -/
def Worker.setHeld (x : Worker) (ce : Bool) (h : Nat) (on : Bool) : Worker :=
  if ce then
    { x with ceHeld := if on then x.ceHeld ||| BitVec.twoPow 4 h else x.ceHeld &&& ~~~(BitVec.twoPow 4 h) }
  else { x with mxHeld := if on then x.mxHeld ||| BitVec.twoPow 2 h else x.mxHeld &&& ~~~(BitVec.twoPow 2 h) }

/-- The state of a forked sequencer at its FORK (R39, R266): g1 to g7 and the matrix state copied, the rest zero. -/
def forkState (b : Bank) (mx : MatrixState) (pc : Word) : Seq :=
  { Seq.reset with
    bank := (List.range 8).foldl (fun (acc : Bank) k =>
      let r := BitVec.ofNat 5 k
      match b.mark r with
      | some m => acc.writeMark r m
      | none => acc.write r (b.read r)) Bank.reset
    pc := pc
    priv := .u
    run := .running
    ply := true
    mx := mx }

/-- FORK (R39, R177): it waits by R142, releases at .dv, and takes the lowest free handle of the class. -/
def forkAccess (f : FJP) (ce : Bool) (s : State) : Out :=
  match s.cur with
  | .worker w =>
    let x := s.core.w
    let st := s.stageD w
    let most := if ce then Nat.min 4 st.cen else Nat.min 2 st.mxn
    if s.waitsVector || s.ordering s.cur || (List.range 8).any (fun k => s.core.bank.isEmpty (BitVec.ofNat 5 k)) then
      .next s
    else if most ≤ (x.held ce).length then .next (s.raise 37 0)
    else
      let (s1, done) := s.release s.cur 3
      if !done then .next s1
      else
        let h := ((List.range 4).find? fun k => !(x.held ce).contains k).getD 0
        let child := forkState s1.core.bank s1.core.mx (branchTarget s1.core.pc f.target)
        let s2 := (s1.setSeq (forkId w ce h) child).modCore fun y => { y with w := y.w.setHeld ce h true }
        .next (s2.put (hReg f.h) (BitVec.ofNat 64 h))
  | _ => .next (s.raise 2 0)

/-- FORK.mx (R177). -/
def execForkMx (f : FJP) (s : State) : Out := checked (.forkMx f) s (forkAccess f false)

/-- FORK.ce (R177). -/
def execForkCe (f : FJP) (s : State) : Out := checked (.forkCe f) s (forkAccess f true)

/-- A forked sequencer has ended: it stopped issuing, and every command it issued has completed (R39). -/
def State.forkEnded (s : State) (q : SeqId) : Bool :=
  let x := s.seqD q
  x.run == .ended || (x.run == .ending && x.tlv.idle && x.tlm.idle && x.tlc.idle && x.tln.idle && !s.unperformed q)

/-- The contexts an RDV names. -/
def rdvTargets (w : WKey) (x : Worker) (all ce : Bool) (h : Nat) : List SeqId :=
  if all then (x.held false).map (forkId w false) ++ (x.held true).map (forkId w true) else [forkId w ce h]

/-- The handle of a forked context becomes free, and its sequencer ceases to exist (R39). -/
def State.freeFork (s : State) (q : SeqId) : State :=
  match q with
  | .mx w h => (s.dropSeq q).modSeq (.worker w) fun x => { x with w := x.w.setHeld false h false }
  | .ce w h => (s.dropSeq q).modSeq (.worker w) fun x => { x with w := x.w.setHeld true h false }
  | _ => s

/-- RDV once what it names is known (R39, R178): it parks as `p` until all have ended, then frees them, acquires at .dv,
and traps if one of them has a poisoned timeline (R43). -/
def rdvBody (w : WKey) (all ce : Bool) (h : Nat) (p : Park) (s : State) : State × Bool :=
  let l := rdvTargets w s.core.w all ce h
  if l.all s.forkEnded then
    let bad := l.any fun q => (s.seqD q).poisoned
    let s1 := (l.foldl State.freeFork s).acquire s.cur 3
    if bad then (s1.raise 19 0, false) else (s1, true)
  else (s.park p, false)

/-- RDV (R178). -/
def execRdv (f : FIM) (s : State) : Out :=
  checked (.rdv f) s fun s =>
    match s.cur with
    | .worker w =>
      let all := f.imm.getLsbD 1
      let ce := f.imm.getLsbD 0
      let h := (s.g (hReg f.h)).toNat
      if s.waitsVector then .next s
      else if !all && !(s.core.w.held ce).contains h then .next (s.raise 37 0)
      else
        let (s1, done) := rdvBody w all ce h (.rdv all ce h) s
        .next (if done then s1.advance else s1)
    | _ => .next (s.raise 2 0)

/-! ## End -/

/-- A worker's popped record is released: its slot may be filled again (R30). -/
def State.releaseRecord (s : State) (w : WKey) : State :=
  let x := s.seqD (.worker w)
  match x.w.record with
  | none => s
  | some p =>
    (s.modLaunch w.ctx w.slot fun l =>
      let r := l.ring x.w.stage
      l.setRing x.w.stage { r with owned := r.owned.erase p }).modSeq (.worker w) fun y =>
        { y with w := { y.w with record := none } }

/-- A worker leaves its VC for good: its reservations, its record and its place are given up. The L1 grows, and keeps its
lines (R295). -/
def State.removeWorker (s : State) (w : WKey) : State := ((s.releaseRecord w).clearResv w).dropSeq (.worker w)

/-- The end of a worker whose forks are joined (R44). -/
def endWorker (w : WKey) (s : State) : Out :=
  let (s1, done) := s.release s.cur 2
  if !done || s.gPending s.cur || !s.core.tlv.idle || !s.core.tlm.idle || !s.core.tln.idle then .next s1
  else
    let xf := s1.core.bank.xf
    let s2 := s1.modLaunch w.ctx w.slot fun l => { l with flags := l.flags ||| xf, retired := l.retired + 1 }
    .next (s2.removeWorker w)

/-- END of a worker: RDV on every forked context, and once all have ended the rest (R44). -/
def endBody (w : WKey) (s : State) : Out :=
  let (s1, done) := rdvBody w true false 0 .endProg s
  if done then endWorker w s1 else .next s1

/-- END (R39, R44, R179). -/
def execEndProg (f : FN) (s : State) : Out :=
  checked (.endProg f) s fun s =>
    match s.cur with
    | .worker w =>
      if s.waitsVector || s.ordering s.cur then .next s
      else endBody w s
    | _ => .next (s.modCore fun x => { x with run := .ending, line := none })

/-- RDV_WAKE (R39): the contexts that an RDV, or an END, awaits have ended. -/
def execRdvWake (q : SeqId) (s : State) : Out :=
  match q, (s.seqD q).run with
  | .worker w, .parked (.rdv all ce h) =>
    if (rdvTargets w (s.seqD q).w all ce h).all s.forkEnded then
      let (s1, done) := rdvBody w all ce h (.rdv all ce h) (s.wake q)
      .next (if done then s1.advance else s1)
    else .next s
  | .worker w, .parked .endProg =>
    if (rdvTargets w (s.seqD q).w true false 0).all s.forkEnded then endBody w (s.wake q) else .next s
  | _, _ => .next s

/-! ## Queues -/

/-- Workers parked in QPOP at a stage before a moment; the first parked takes the first record (R33). -/
def State.aheadInStage (s : State) (l : Launch) (k since : Nat) : Nat :=
  ((s.launchWorkers l.ctx l.slot).filter fun p => p.2.w.stage == k && match p.2.run with
    | .parked (.qpop _ t _) => decide (t < since)
    | _ => false).length

/-- A QPOP waits for earlier ones of its stage that have not taken the records the input holds for them (R33). -/
def State.popWaits (s : State) (l : Launch) (k since : Nat) : Bool :=
  s.aheadInStage l k since != 0 && decide (s.aheadInStage l k since < l.holds k)

/-- What has entered the rings of a launch, and the inputs that have closed: parked QPOPs evaluate again when this has
grown (R33). -/
def State.arrivals (s : State) (l : Launch) : Nat :=
  (List.range l.stages.length).foldl (fun n k => n + (l.ring k).push + if s.closed l k then 1 else 0) 0

/-- Steps 2 to 4 of QPOP (R30); none where the worker is to park. The second part says whether it goes on by R58. -/
def State.popNow (s : State) (w : WKey) (l : Launch) (gd : BitVec 5) (since : Nat) : Option (State × Bool) :=
  let k := (s.seqD (.worker w)).w.stage
  if s.aheadInStage l k since < l.holds k then
    if l.indexed k then
      let s1 := (s.setG gd (BitVec.ofNat 64 (l.nextIndex + 1))).modLaunch l.ctx l.slot fun y =>
        { y with nextIndex := Nat.min (y.nextIndex + blockChunk y.block) (blockCount y.block) }
      some (s1, true)
    else
      let r := l.ring k
      let st := l.stage k
      let at_ := st.sinq + BitVec.ofNat 64 (r.pop % 2 ^ st.depthlog * st.recsz)
      let s1 := (s.setG gd at_).modLaunch l.ctx l.slot fun y =>
        y.setRing k { r with pop := r.pop + 1, owned := r.pop :: r.owned }
      some (s1.modCore fun x => { x with w := { x.w with record := some r.pop } }, true)
  else
    match s.chooseFor l w with
    | some t => some (s.restartWorker l w t, false)
    | none => if s.closed l k && l.holds k == 0 then some (s.setG gd 0, true) else none

/-- QPOP (R30, R180): it waits by R142, releases its record, then pops, restarts, returns 0 or parks, acquiring at
.dv where it returns. -/
def execQpop (f : FN) (s : State) : Out :=
  checked (.qpop f) s fun s =>
    match s.cur with
    | .worker w =>
      if s.waitsVector || s.gPending s.cur then .next s
      else
        let s1 := s.releaseRecord w
        match s1.launch? w.ctx w.slot with
        | none => .next s1
        | some l =>
          if s1.popWaits l s1.core.w.stage s1.nextId then .next s1
          else
            match s1.popNow w l (hReg f.h) s1.nextId with
            | some (s2, true) => .next (s2.acquire s2.cur 3).advance
            | some (s2, false) => .next s2
            | none =>
              let (t, s2) := s1.takeId
              .next (s2.park (.qpop (hReg f.h) t (s2.arrivals l)))
    | _ => .next (s.raise 2 0)

/-- QPOP_WAKE (R33): a record has entered a ring of the launch or an input has closed, and the parked QPOP evaluates
steps 2 to 4 again, behind the earlier ones of its stage. -/
def execQpopWake (q : SeqId) (s : State) : Out :=
  match q, (s.seqD q).run with
  | .worker w, .parked (.qpop gd t seen) =>
    match s.launch? w.ctx w.slot with
    | none => .next s
    | some l =>
      if s.arrivals l = seen ∨ s.popWaits l (s.seqD q).w.stage t = true then .next s
      else
        match (s.wake q).popNow w l gd t with
        | some (s1, true) => .next (s1.acquire q 3).advance
        | some (s1, false) => .next s1
        | none => .next (s.modSeq q fun x => { x with run := .parked (.qpop gd t (s.arrivals l)) })
  | _, _ => .next s

/-- A write into a ring slot by QPUSH: a write to SHARED or INPLACE pages at U (R181). -/
def wantSlot : Want := ⟨false, true, false, 2, false⟩

/-- A line of a QPUSH's source is not yet as the worker's own stores leave it, or its cluster's buffer holds bytes that no
record has announced: the copy waits (R117, R354). -/
def State.sourceWaits (s : State) (l : List (Nat × Nat)) : Bool :=
  s.pushMeets s.cur l || l.any fun p => s.linePending s.cur (lineOf p.1) ||
    s.net.msgs.any fun m => m.path == s.pathOf s.cur && m.pa == lineOf p.1 && m.body == .record

/-- The stretches of a checked access inside single lines. -/
def linesFrom (l : Leaves) : List (Nat × Nat) := l.flatMap fun p => chunksOf (p.1.pa p.2.1) p.2.2

/-- QPUSH once the next stage's ring is not full (R31, R181): the next slot is checked, and given to it with the record read. The
worker goes on; the record's bytes leave once the release at .dv is complete, and its position is taken when they are at
their home slices. -/
def qpushBody (w : WKey) (l : Launch) (src : Word) (s : State) : Out :=
  let k := s.core.w.stage + 1
  let st := l.stage k
  if l.full k then .next (s.park (.qpush src))
  else
    let a := s.accessor s.cur
    let dst := st.sinq + BitVec.ofNat 64 ((l.ring k).given % 2 ^ st.depthlog * st.recsz)
    match s.checkAccess a wantLoad src st.recsz with
    | .error f => .next (s.raiseAcc 0 f)
    | .ok rd =>
      match s.checkAccess a wantSlot dst st.recsz with
      | .error f => .next (s.raiseAcc 0 f)
      | .ok wr =>
        if reachesDevice rd || reachesDevice wr then .fault .deviceRegisters
        else if s.sourceWaits (linesFrom rd) then .next s
        else
          let (s1, bs, m) := ((s.markAll rd false).markAll wr true).readPieces (s.cacheOf s.cur) (s.dieOf s.cur)
            (piecesOf rd)
          match m with
          | some x => .next (s1.raiseMark (x.at_ src))
          | none =>
            let rel := (s1.relOf s1.cur (some 3)).getD (3, s1.nextId)
            let (id, s2) := s1.takeId
            let push : Push := { id := id, owner := w, stage := k, pages := wr.map fun p => p.1.page p.2.1, rel := rel,
                                 pieces := linesFrom wr, bytes := bs, sent := none }
            .next ({ s2 with pushes := s2.pushes ++ [push] }.modLaunch w.ctx w.slot fun y =>
              y.setRing k { y.ring k with given := (y.ring k).given + 1 }).advance

/-- QPUSH (R31, R181). QUEUE-CLOSED comes before the checks of its address, an order that no rule gives (DESIGN CHOICE, log
entry 83). -/
def execQpush (f : FRG) (s : State) : Out :=
  checked (.qpush f) s fun s =>
    match s.cur with
    | .worker w =>
      match s.launch? w.ctx w.slot with
      | none => .next s
      | some l =>
        let src := s.g f.ga
        if s.waitsVector || s.ordering s.cur then .next s
        else if l.stages.length ≤ s.core.w.stage + 1 then .next (s.raise 23 0)
        else if src.toNat % 8 ≠ 0 then .next (s.raise 9 src)
        else
          match s.checkAccess (s.accessor s.cur) wantLoad src (l.stage (s.core.w.stage + 1)).recsz with
          | .error e => .next (s.raiseAcc 0 e)
          | .ok _ => qpushBody w l src s
    | _ => .next (s.raise 2 0)

/-- QPUSH_WAKE (R31): a slot of the ring is free. -/
def execQpushWake (q : SeqId) (s : State) : Out :=
  match q, (s.seqD q).run with
  | .worker w, .parked (.qpush src) =>
    match s.launch? w.ctx w.slot with
    | none => .next s
    | some l => if l.full ((s.seqD q).w.stage + 1) then .next s else qpushBody w l src (s.wake q)
  | _, _ => .next s

/-- The bytes of a record leave for the home slices of their lines. -/
def State.sendPieces (s : State) (q : SeqId) : List (Nat × Nat) → List Byte → State
  | [], _ => s
  | (pa, n) :: r, bs =>
    let (d, m) := placeAt (pa % 64) n (bytesNum (bs.take n))
    (s.sendFor none none q (s.pathOf q) pa 0 n (.access (.store d m) .shared .none none) (s.dieOf q) (s.homeDie pa)
      (s.homeOf pa)).sendPieces q r (bs.drop n)

/-- Changes a QPUSH that has gone on. -/
def State.modPush (s : State) (i : Nat) (f : Push → Push) : State :=
  { s with pushes := mapIf s.pushes (fun p => p.id == i) f }

/-- Some message numbered from a to b has still to be performed. -/
def State.pieceDue (s : State) (a b : Nat) : Bool :=
  (s.net.msgs ++ s.net.held.map fun h => h.msg).any fun m => decide (a ≤ m.id) && decide (m.id < b) && m.reply.isNone

/-- An earlier QPUSH to the same ring has not taken its position: positions follow the slots (R181). -/
def State.pushBefore (s : State) (p : Push) : Bool :=
  s.pushes.any fun x => decide (x.id < p.id) && x.owner.ctx == p.owner.ctx && x.owner.slot == p.owner.slot && x.stage == p.stage

/-- A QPUSH goes on as far as it can (R31, R181): once its release is complete the record leaves, and once all its bytes are
at their home slices its position is taken. -/
def State.settlePush (s : State) (p : Push) : State :=
  match p.sent with
  | none =>
    let (s1, done) := s.releaseUpTo (.worker p.owner) p.rel.1 p.rel.2
    if done then
      let s2 := s1.sendPieces (.worker p.owner) p.pieces p.bytes
      s2.modPush p.id fun x => { x with sent := some (s1.nextId, s2.nextId) }
    else s1
  | some (a, b) =>
    if s.pieceDue a b || s.pushBefore p then s
    else
      { s with pushes := s.pushes.filter fun x => x.id != p.id }.modLaunch p.owner.ctx p.owner.slot fun y =>
        y.setRing p.stage { y.ring p.stage with push := (y.ring p.stage).push + 1 }

/-- The QPUSHes that have gone on. -/
def State.settlePushes (s : State) : State := s.pushes.foldl State.settlePush s

/-- A worker has a QPUSH that has not taken its position. -/
def State.pushesOf (s : State) (w : WKey) : Bool := s.pushes.any fun p => p.owner == w

/-! ## Timelines -/

/-- TLK of TWAIT and TREAD (R182). -/
def timelineSel (f : FTR) : Nat := (f.imm.extractLsb' 0 3).toNat

/-- OWNER of TWAIT and TREAD (R182). -/
def timelineOwner (f : FTR) : Nat := (f.imm.extractLsb' 3 2).toNat

/-- The counter a selection names with whether n is poisoned there, or the condition that stops it (R182). -/
def State.counter (s : State) (sel owner : Nat) (gb : Word) (n : Nat) : Except Nat (Nat × Bool) :=
  if sel ≥ 4 then
    if owner ≠ 0 ∨ 128 ≤ gb.toNat then .error 20
    else
      let r := s.region s.curCtx gb.toNat
      .ok (if sel = 4 then r.scnt.toNat else r.rcnt.toNat, false)
  else if owner = 0 then
    let t := s.core.timeline sel
    .ok (t.count, t.poisonedAt n)
  else
    match s.cur with
    | .worker w =>
      if (s.core.w.held (owner == 2)).contains gb.toNat then
        let t := (s.seqD (forkId w (owner == 2) gb.toNat)).timeline sel
        .ok (t.count, t.poisonedAt n)
      else .error 37
    | _ => .error 3

/-- TWAIT once it may look (R182): it traps on poison, completes with its acquire, or parks. -/
def twaitBody (gd sel : BitVec 5) (n owner : Word) (s : State) : Out :=
  match s.counter (sel.extractLsb' 0 3).toNat (sel.extractLsb' 3 2).toNat owner n.toNat with
  | .error c => .next (s.raise c 0)
  | .ok (count, bad) =>
    if bad then .next (s.raise 19 0)
    else if n.toNat ≤ count then .next ((s.acquire s.cur 3).put gd (BitVec.ofNat 64 count))
    else .next (s.park (.twait gd sel n owner))

/-- TWAIT (R42, R43, R182). On a VC it waits by R142. -/
def execTwait (f : FTR) (s : State) : Out :=
  checked (.twait f) s fun s =>
    if s.waitsVector then .next s
    else twaitBody (hReg f.h) (f.imm.extractLsb' 0 5) (s.g f.ga) (s.g f.gb) s

/-- TWAIT_WAKE (R42). -/
def execTwaitWake (q : SeqId) (s : State) : Out :=
  match (s.seqD q).run with
  | .parked (.twait gd sel n owner) => twaitBody gd sel n owner (s.wake q)
  | _ => .next s

/-- TREAD (R183): the counter now. -/
def execTread (f : FTR) (s : State) : Out :=
  checked (.tread f) s fun s =>
    match s.counter (timelineSel f) (timelineOwner f) (s.g f.gb) 0 with
    | .error c => .next (s.raise c 0)
    | .ok (count, _) => .next (s.put (hReg f.h) (BitVec.ofNat 64 count))

end Sys2Proof.Machine
end

