-- ==== Sys2Proof/Machine/Launch.lean ====
section
/-! DEFINITION. LAUNCH, PREEMPT, RESUME and ABORT, and what the launch unit does: admission checks, admission, creation,
pre-emption and resumption, releases, switches, the watchdog and the end of a launch (R16 to R53, R184, R185, R257 to
R259). -/

namespace Sys2Proof.Machine

/-! ## Completion words (R45, R46) -/

/-- A sequencer belongs to a launch. -/
def ofLaunch (q : SeqId) (c slot : Nat) : Bool :=
  match ownerOf q with
  | some w => w.ctx == c && w.slot == slot
  | none => false

/-- A write to a SHARED or INPLACE page at U: the completion word (R17). -/
def wantCword : Want := ⟨false, true, false, 2, false⟩

/-- The launch unit as an accessor: a die's translations, in a context, at U. -/
def unitAccessor (die c : Nat) : Accessor := { holder := die, ctx := c, k := false }

/-- The launch unit writes bytes of one line at their home slice: at once on its own die, by a transaction on another (R413). -/
def State.unitWrite (s : State) (d pa n v : Nat) : State :=
  if s.homeDie pa = d then s.writeHome pa n v
  else
    let (x, m) := placeAt (pa % 64) n v
    s.send (.cc (8 * d)) (96 + d) (lineOf pa) 0 64 (.publish x m [] false false) d (s.homeDie pa) (s.homeOf pa)

/-- A launch's completion word is written at its home slice; not where its page is no longer present, writable and SHARED or
INPLACE or leads to the device-register range (DESIGN CHOICE, log entry 96), or is homed on a resigned die (R46). The launch
unit's write is no access by the context, and is made for a touched one too (R418). -/
def State.writeCword (s : State) (l : Launch) (v : Nat) : State :=
  match (s.modCtx l.ctx fun x => { x with lost := false }).checkAccess (unitAccessor l.lead l.ctx) wantCword (blockCword l.block) 8 with
  | .error _ => s
  | .ok p =>
    if reachesDevice p then s
    else (piecesOf p).foldl (fun (acc : State) x => acc.unitWrite l.lead x.1 x.2.2 v) (s.markAll p true)

/-- The final value of a completion word (R45). -/
def Launch.finalWord (l : Launch) (status : Nat) : Nat :=
  2 ^ 32 * (l.retired % 2 ^ 32) + 2 ^ 16 * (l.faults % 2 ^ 16) + 2 ^ 8 * l.flags.toNat + status

/-- A launch leaves its context, and its slot is free. -/
def State.dropLaunch (s : State) (c slot : Nat) : State :=
  { s with launches := s.launches.filter fun l => !(l.ctx == c && l.slot == slot) }

/-- A write that a copy command of a sequencer has sent to another die (R401, R413). -/
def Msg.copyWrite (m : Msg) : Bool :=
  decide (96 ≤ m.path) && m.reply.isNone && match m.body with
    | .publish .. => true
    | _ => false

/-- A write with bytes, on its way to its home. -/
def Msg.carries (m : Msg) : Bool :=
  match m.body with
  | .publish _ k _ _ _ => k != 0
  | _ => false

/-- A control core that stands at PREEMPT, RESUME or ABORT gets its status and goes on (R185). -/
def State.answerCore (s : State) (q : SeqId) (gd : BitVec 5) (status : Nat) : State :=
  s.modSeq q fun x =>
    { x with run := .running, bank := x.bank.write gd (BitVec.ofNat 64 status), pc := Machine.nextPc x.heads x.pc,
             ply := x.bank.loops.isEmpty }

/-- Control cores that wait in ABORT for a launch complete (R185). -/
def State.wakeAborts (s : State) (c slot : Nat) : State :=
  (s.allSeqs.map fun p => p.1).foldl (fun (acc : State) q =>
    match (acc.seqD q).run with
    | .parked (.abort gd x y st) => if x = c ∧ y = slot then acc.answerCore q gd st else acc
    | _ => acc) s

/-- The completion word of a launch is written for the last time and the launch leaves, at once, or when the word has reached
its home on another die (R46, R413). -/
def State.writeFinal (s : State) (l : Launch) (v : Nat) : State :=
  let s1 := s.writeCword l v
  match s1.net.msgs.find? fun m => decide (s.nextId ≤ m.id) && m.path == 96 + l.lead && m.carries with
  | some m => s1.modLaunch l.ctx l.slot fun x => { x with phase := .ended m.id }
  | none => (s1.dropLaunch l.ctx l.slot).wakeAborts l.ctx l.slot

/-! ## LAUNCH (R17, R184) -/

/-- The lowest slot of a context that no launch holds. -/
def State.freeSlot (s : State) (c : Nat) : Option Nat :=
  (List.range 64).find? fun k => !(s.launches.any fun l => l.ctx == c && l.slot == k)

/-- A launch as LAUNCH enters it into its queue. -/
def newLaunch (c slot order : Nat) (b : BitVec 4096) : Launch :=
  { ctx := c, slot := slot, block := b, lead := leadDie (blockDies b), order := order, eligible := blockStart b == 0,
    stages := stagesFrom b, groups := [], phase := .queued, checked := false, issued := 0,
    rings := (List.range (blockStages b)).map fun k =>
      let n := (stageFrom (stageBits b k)).preload
      { given := n, push := n, pop := 0, owned := [] }
    nextIndex := 0, retired := 0, faults := 0, flags := 0, watch := 0, resets := [] }

/-- The pieces of a checked access, read at the home slices of their lines (R17, R25). -/
def homePieces (l : List (Leaf × Word × Nat)) : List (Nat × PageKind × Nat) :=
  (piecesOf l).map fun p => (p.1, PageKind.shared, p.2.2)

/-- A block is entered into its queue, or written 0x06 at once where a block check fails (R23); gd is its slot. -/
def State.enterLaunch (s : State) (c slot : Nat) (b : BitVec 4096) (gd : BitVec 5) : State :=
  let l := newLaunch c slot s.orders b
  let s1 := if s.blockOk c b then { s with launches := s.launches ++ [l], orders := s.orders + 1 } else s.writeCword l 6
  s1.put gd (BitVec.ofNat 64 slot)

/-- LAUNCH (R17, R184). A line of the block with an uncorrectable error or poison raises UNCORRECTABLE or ACCUM-POISON
with source MEM and enqueues nothing, where R17 is silent (DEDUCED, log entry 84). -/
def execLaunch (f : FIM) (s : State) : Out :=
  checked (.launch f) s fun s =>
    let c := s.curCtx
    let va := s.g f.ga
    let a := s.accessor s.cur
    if s.ordering s.cur then .next s
    else
      let (s1, done) := s.release s.cur 4
      if !done then .next s1
      else
        match s1.freeSlot c with
        | none => .next (s1.put (hReg f.h) (BitVec.allOnes 64))
        | some slot =>
          if va.toNat % 64 ≠ 0 then .next (s1.raise 9 va)
          else
            match s1.checkAccess a wantLoad va 512 with
            | .error e => .next (s1.raiseAcc 0 e)
            | .ok l =>
              if reachesDevice l then .fault .deviceRegisters
              else
                let (s2, bs, m) := (s1.markAll l false).readPieces none (s1.dieOf s1.cur) (homePieces l)
                let b := BitVec.ofNat 4096 (bytesNum bs)
                let cw := blockCword b
                match m with
                | some x => .next (s2.raiseMark (x.at_ va))
                | none =>
                  if cw.toNat % 8 ≠ 0 then .next (s2.raise 9 cw)
                  else
                    match s2.checkAccess a wantCword cw 8 with
                    | .error e => .next (s2.raiseAcc 0 e)
                    | .ok p =>
                      if reachesDevice p then .fault .deviceRegisters else .next (s2.enterLaunch c slot b (hReg f.h))

/-! ## The launch that is next (R23, R24) -/

/-- The priority of a launch's queue (R427). -/
def State.priority (s : State) (l : Launch) : Nat :=
  let q := blockQueue l.block
  (((s.regs.lqprio.getD (4 * l.lead + q / 16) 0) >>> (4 * (q % 16))).toNat) % 8

/-- The launch of a lead die that R24 would admit next: eligible, of the highest priority, the oldest. -/
def State.nextLaunch (s : State) (die : Nat) : Option Launch :=
  (s.launches.filter fun l => l.lead == die && l.phase == .queued && l.eligible).foldl (fun acc l =>
    match acc with
    | none => some l
    | some b =>
      if s.priority b < s.priority l ∨ (s.priority b = s.priority l ∧ l.order < b.order) then some l else acc) none

/-- ELIGIBILITY (R24): device time has reached START. -/
def execEligibility (ctx slot : Nat) (s : State) : Out :=
  match s.launch? ctx slot with
  | some l =>
    if l.phase = .queued ∧ (blockStart l.block).ule (s.die l.lead).time then
      .next (s.modLaunch ctx slot fun x => { x with eligible := true })
    else .next s
  | none => .next s

/-! ## Admission checks (R23, R37) -/

/-- The fewest VCs that hold workers of these SPAD codes, two to a VC and four scratchpads to a VC (R27): the largest
takes the smallest beside it where both fit. The list descends; `fuel` is its length. -/
def vcsFor : Nat → List Nat → Nat
  | 0, _ => 0
  | _, [] => 0
  | fuel + 1, x :: r =>
    match r.getLast? with
    | some y => 1 + vcsFor fuel (if x + y ≤ 4 then r.dropLast else r)
    | none => 1

/-- Workers of these stages, so many of each, fit in one cluster with no other launch present (R23, R27): its 32 VCs,
with a VC for each worker of a COR launch, and its MX and CE contexts. -/
def clusterFits (cor : Bool) (l : List (Stage × Nat)) : Bool :=
  let total (f : Stage → Nat) : Nat := l.foldl (fun n p => n + f p.1 * p.2) 0
  let spads := (List.range 5).reverse.flatMap fun k =>
    l.flatMap fun p => if p.1.spad = k then List.replicate p.2 k else []
  decide (total (fun _ => 1) ≤ if cor then 32 else 64) && decide (total (fun x => x.mxn) ≤ 8) &&
    decide (total (fun x => x.cen) ≤ 16) && (cor || decide (vcsFor spads.length spads ≤ 32))

/-- A cluster takes no further worker of those that are left. -/
def clusterFull (cor : Bool) (left taken : List (Stage × Nat)) : Bool :=
  (List.range left.length).all fun k =>
    (left.map fun p => p.2).getD k 0 ≤ (taken.map fun p => p.2).getD k 0 ||
      !clusterFits cor (taken.zipIdx.map fun p => (p.1.1, if p.2 = k then p.1.2 + 1 else p.1.2))

/-- Some numbers of workers of each stage that fit in one cluster satisfy a condition, the largest first. -/
def someFilling (cor : Bool) (k : List (Stage × Nat) → Bool) : List (Stage × Nat) → List (Stage × Nat) → Bool
  | [], taken => k taken.reverse
  | (x, n) :: r, taken =>
    (List.range (Nat.min n 64 + 1)).reverse.any fun m =>
      clusterFits cor ((x, m) :: taken) && someFilling cor k r ((x, m) :: taken)

/-- Some assignment of workers to clusters meets the limits (R23). Fewer workers fit where more do, so it is enough to
try the fillings of a cluster that leave no room. -/
def packs (cor : Bool) : Nat → List (Stage × Nat) → Bool
  | 0, need => need.all fun p => p.2 == 0
  | c + 1, need =>
    need.all (fun p => p.2 == 0) ||
      someFilling cor (fun taken => clusterFull cor need taken &&
        packs cor c ((need.zip taken).map fun p => (p.1.1, p.1.2 - p.2.2))) need []

/-- Stages whose workers need the same of a cluster counted together: which of them a worker serves does not matter to
where it fits. -/
def alike (l : List (Stage × Nat)) : List (Stage × Nat) :=
  l.foldl (fun acc p =>
    if acc.any (fun q => q.1.spad == p.1.spad && q.1.mxn == p.1.mxn && q.1.cen == p.1.cen) then
      acc.map fun q => if q.1.spad == p.1.spad && q.1.mxn == p.1.mxn && q.1.cen == p.1.cen then (q.1, q.2 + p.2) else q
    else acc ++ [p]) []

/-- What the clusters hold in all (R23): no assignment exists where the totals pass it. -/
def totalsFit (cor : Bool) (n : Nat) (l : List (Stage × Nat)) : Bool :=
  let total (f : Stage → Nat) : Nat := l.foldl (fun k p => k + f p.1 * p.2) 0
  decide (total (fun _ => 1) ≤ n * (if cor then 32 else 64)) && decide (total (fun x => x.mxn) ≤ n * 8) &&
    decide (total (fun x => x.cen) ≤ n * 16) && (cor || decide (total (fun x => x.spad) ≤ 128 * n))

/-- The residency test of R23: MAXW for a COR launch, MINW otherwise with the frames of the context's pool. -/
def State.residencyOk (s : State) (l : Launch) : Bool :=
  let cor := blockCor l.block
  let need := l.stages.map fun x => (x, if cor then x.maxw else x.minw)
  let dies := ((List.range 4).filter fun d => (blockDies l.block).getLsbD d).length
  totalsFit cor (16 * dies) need && packs cor (16 * dies) (alike need) &&
    (cor || decide (need.foldl (fun n p => n + p.2) 0 ≤ (s.ctx l.ctx).cfn.toNat))

/-- Every page of a stage's input ring is present and SHARED or INPLACE (R23). -/
def State.ringOk (s : State) (l : Launch) (x : Stage) : Bool :=
  match s.checkAccess { unitAccessor l.lead l.ctx with k := true } ⟨false, false, false, 0, true⟩ x.sinq
      (x.recsz * 2 ^ x.depthlog) with
  | .error _ => false
  | .ok p => p.all fun y => pteKind y.1.val == .shared || pteKind y.1.val == .inplace

/-- A group table entry of 576 bytes (R36), and whether its reserved bits are zero. -/
def groupFrom (bs : List Byte) : Group × Bool :=
  let h := BitVec.ofNat 512 (bytesNum (bs.take 64))
  ({ sreg := (h.extractLsb' 30 14).toNat, scope := h.extractLsb' 24 3, count := (h.extractLsb' 0 13).toNat,
     members := BitVec.ofNat 4096 (bytesNum (bs.drop 64)) },
    h.extractLsb' 44 468 == 0#468 && h.extractLsb' 27 3 == 0#3 && h.extractLsb' 13 11 == 0#11)

/-- The number of set bits. -/
def countBits (n : Nat) (b : BitVec n) : Nat := ((List.range n).filter fun k => b.getLsbD k).length

/-- The checks of R37 on the entries of a group table. COUNT is 1 to 4,096 (R36): an entry with a COUNT of 0 and no member,
which R37 does not name, is rejected too (DEDUCED, log entry 74). -/
def State.groupsOk (s : State) (l : Launch) (gs : List Group) : Bool :=
  let most := sumMaxw l.stages
  (gs.all fun g => decide (g.count = countBits 4096 g.members) && decide (1 ≤ g.count) &&
      g.members >>> most == 0 && decide (g.scope.toNat ≤ 4) && s.syncGranted l.ctx g.sreg) &&
    decide ((gs.map fun g => g.sreg).Nodup) &&
    (List.range most).all fun w => decide ((gs.filter fun g => g.members.getLsbD w).length ≤ 4)

/-- The group table of a launch, read once at the home slices of its lines (R23, R25, R37); none where it is rejected.
A table with an uncorrectable error is rejected (log entry 16). -/
def State.readGroups (s : State) (l : Launch) : Option (State × List Group) :=
  let n := blockGroups l.block
  if n = 0 then some (s, [])
  else
    match s.checkAccess (unitAccessor l.lead l.ctx) wantLoad (blockGtab l.block) (576 * n) with
    | .error _ => none
    | .ok p =>
      if reachesDevice p then none
      else
        let (s1, bs, m) := (s.markAll p false).readPieces none l.lead (homePieces p)
        let gs := (List.range n).map fun k => groupFrom ((bs.drop (576 * k)).take 576)
        if m.isNone && gs.all (fun g => g.2) && s1.groupsOk l (gs.map fun g => g.1) then some (s1, gs.map fun g => g.1)
        else none

/-- The admission checks of R23 on one launch: its groups, or none. -/
def State.admissionOk (s : State) (l : Launch) : Option (State × List Group) :=
  let dies := (List.range 4).all fun d => !(blockDies l.block).getLsbD d || (s.inService d && (s.die d).released)
  let rings := l.stages.zipIdx.all fun p => l.indexed p.2 || s.ringOk l p.1
  if dies && rings && s.residencyOk l then s.readGroups l else none

/-- ADMISSION_CHECKS (R23): made once, when the launch is first the next of its lead die; a launch that fails one is
written 0x06. -/
def execAdmissionChecks (die : Nat) (s : State) : Out :=
  match s.nextLaunch die with
  | some l =>
    if l.checked then .next s
    else
      match s.admissionOk l with
      | some (s1, gs) => .next (s1.modLaunch l.ctx l.slot fun x => { x with checked := true, groups := gs })
      | none => .next (s.writeFinal l 6)
  | none => .next s

/-! ## Admission and creation (R25, R26, R35) -/

/-- A worker of a stage is created where R28 places it, if a place and a frame are free. -/
def State.tryCreate (s : State) (c slot k : Nat) : Option State :=
  match s.launch? c slot with
  | none => none
  | some l =>
    match s.choosePlace l (l.stage k), s.freeFrame c with
    | some p, some f => some (s.createWorker l k p f)
    | _, _ => none

/-- The stages of the workers that admission creates, in order: MINW of each stage, or MAXW for a COR launch (R26). -/
def Launch.initial (l : Launch) : List Nat :=
  l.stages.zipIdx.flatMap fun p => List.replicate (if blockCor l.block then p.1.maxw else p.1.minw) p.2

/-- The sync register of each group is set to zero (R25), an update its waiters see (R247). -/
def State.zeroGroups (s : State) (gs : List Group) : State :=
  gs.foldl (fun (acc : State) g => (acc.syncUpdate acc.cur g.sreg 0 false acc.nextId).noteReset g.sreg) s

/-- ADMISSION (R24, R25): the completion word as zero, the group registers, the initial workers; all of them or
none. That the minimums can be placed is judged by placing workers in the order of R28: a launch that only another
assignment would fit waits in its queue (DEDUCED, log entry 78). -/
def execAdmission (die : Nat) (s : State) : Out :=
  match s.nextLaunch die with
  | some l =>
    if !l.checked then .next s
    else
      let s1 := ((s.writeCword l 0).zeroGroups l.groups).modLaunch l.ctx l.slot fun x => { x with phase := .admitted }
      match foldOpt (fun (acc : State) k => acc.tryCreate l.ctx l.slot k) l.initial s1 with
      | some s2 => .next s2
      | none => .next s
  | none => .next s

/-- WORKER_CREATION (R26, R35): a new worker of the stage that the choice rule names. -/
def execWorkerCreation (ctx slot : Nat) (s : State) : Out :=
  match s.launch? ctx slot with
  | some l =>
    if l.phase != .admitted || blockCor l.block || decide (sumMaxw l.stages ≤ l.issued) then .next s
    else
      match s.chooseNew l, s.freeFrame ctx with
      | some (k, p), some f => .next (s.createWorker l k p f)
      | _, _ => .next s
  | none => .next s

/-! ## Teardown and the end (R44, R46 to R48) -/

/-- A matrix command is under way: it has reached a line, or it is on an array and has not sent its partials. It goes on to its
end where its issuer is stopped at a command boundary (R48). -/
def State.underWay (s : State) (c : MxCmd) : Bool :=
  match c.kind with
  | .mmas => c.started && !c.sent
  | .mmaf => c.started && !c.sent
  | .close => false
  | _ => s.windows.any fun w => w.id == c.window && decide (c.left.length < w.lines.length)

/-- A forked context is stopped at the boundary of its command and chunk, and its undone commands are discarded (R48). -/
def State.stopAtOnce (s : State) (q : SeqId) : State :=
  { s with
    mxCmds := s.mxCmds.filter fun c => c.src != q || s.underWay c
    cpCmds := s.cpCmds.filter fun c => c.src != q
    jobs := s.jobs.filter fun j => j.src != q || !j.started.isEmpty }

/-- A worker with its forked contexts is stopped and ceases to exist. What it has written in its L1 goes to L2, for the
release of its launch's final word (R348). -/
def State.stopWorker (s : State) (w : WKey) : State :=
  let forks := (s.allSeqs.map fun p => p.1).filter fun q => ownerOf q == some w && q != .worker w
  let s1 := forks.foldl (fun (acc : State) q => (acc.stopAtOnce q).dropSeq q) (s.stopAtOnce (.worker w))
  let x := s1.seqD (.worker w)
  (if x.run = .saved then s1 else s1.flushCache x.w.place.vc).removeWorker w

/-- Windows of a launch are released, but for those of commands under way (R48). -/
def State.dropWindows (s : State) (c slot : Nat) : State :=
  (s.windows.filter fun w => w.ctx == c && w.slot == slot && !s.mxCmds.any fun x => x.window == w.id).foldl
    (fun (acc : State) w => acc.unpinWindow w.id) s

/-- What a launch's workers and forked contexts have left to do is discarded, but for commands under way (R48). -/
def State.dropUndone (s : State) (c slot : Nat) : State :=
  { s with
    mxCmds := s.mxCmds.filter fun x => !ofLaunch x.src c slot || s.underWay x
    pushes := s.pushes.filter fun p => !(p.owner.ctx == c && p.owner.slot == slot) }

/-- What is left of launches that are torn down stops (R48). -/
def State.sweepTorn (s : State) : State :=
  s.launches.foldl (fun (acc : State) l =>
    match l.phase with
    | .tearing _ =>
      (((acc.launchWorkers l.ctx l.slot).foldl (fun (a : State) p => a.stopWorker p.1) acc).dropUndone l.ctx l.slot).dropWindows
        l.ctx l.slot
    | _ => acc) s

/-- Something a launch's sequencers issued is still on its way. -/
def State.launchBusy (s : State) (c slot : Nat) : Bool :=
  s.net.msgs.any (fun m => (m.isOf m.src || m.copyWrite) && ofLaunch m.src c slot) ||
    s.net.held.any (fun h => ofLaunch h.msg.src c slot) ||
    s.net.syncs.any (fun o => ofLaunch o.src c slot) || s.net.landings.any (fun l => ofLaunch l.src c slot) ||
    s.net.elems.any (fun l => ofLaunch l.src c slot) || s.sweeps.any (fun x => ofLaunch x.src c slot) ||
    s.jobs.any (fun j => ofLaunch j.src c slot) || s.mxCmds.any (fun x => ofLaunch x.src c slot) ||
    s.cpCmds.any fun x => ofLaunch x.src c slot

/-- A poisoned window is reported as it closes: logged with its base as operand and its count in EADDR, which R439 gives
no place of its own (log entry 77), and counted (R279). -/
def State.reportWindow (s : State) (q : SeqId) (w : Window) (num : Nat) : State :=
  if w.bad.isEmpty then s
  else s.reportFault q w.ctx (2 * 64 + 16) (plainBody (BitVec.ofNat 64 w.bad.length) w.base num)

/-- The windows a launch left open are closed as by MCLOSE (R44). -/
def State.closeWindows (s : State) (c slot : Nat) : State :=
  (s.windows.filter fun w => w.ctx == c && w.slot == slot).foldl (fun (acc : State) w =>
    (acc.reportWindow (.worker ⟨c, slot, 0⟩) w 0).unpinWindow w.id) s

/-- The final completion word is written (R46). -/
def State.finishLaunch (s : State) (c slot status : Nat) : State :=
  match s.launch? c slot with
  | some l => s.writeFinal l (l.finalWord status)
  | none => s

/-- Launches whose final words have reached their homes leave (R46). -/
def State.settleEnded (s : State) : State :=
  s.launches.foldl (fun (acc : State) l =>
    match l.phase with
    | .ended i =>
      if acc.net.msgs.any fun m => m.id == i && m.reply.isNone then acc
      else (acc.dropLaunch l.ctx l.slot).wakeAborts l.ctx l.slot
    | _ => acc) s

/-- The release at system scope of everything a launch's workers stored, which its final word makes (R46, R348): the
clusters of its dies publish what they have staged. Whether it is complete. -/
def State.releaseLaunch (s : State) (l : Launch) : State × Bool :=
  let cs := (List.range 64).filter fun c => (blockDies l.block).getLsbD (c / 16) && s.inService (c / 16)
  let s1 := cs.foldl State.publishAll s
  if cs.any s1.unpublished then (s1, false) else (s1.flushCxl, true)

/-- Every input of a launch is closed and empty, or its ids are used up (R47). -/
def State.exhausted (s : State) (l : Launch) : Bool :=
  decide (sumMaxw l.stages ≤ l.issued) ||
    (List.range l.stages.length).all fun k => s.closed l k && decide (l.holds k = 0)

/-- LAUNCH_END (R47, R48): a launch with no worker and nothing more to do ends, done or done with faults; a launch torn
down ends with its status once what it dispatched has ended. -/
def execLaunchEnd (ctx slot : Nat) (s : State) : Out :=
  match s.launch? ctx slot with
  | some l =>
    if !(s.launchWorkers ctx slot).isEmpty || s.launchBusy ctx slot then .next s
    else
      match l.phase with
      | .admitted =>
        if s.exhausted l then
          let (s0, done) := s.releaseLaunch l
          if !done then .next s0
          else
            let s1 := s0.closeWindows ctx slot
            .next (s1.finishLaunch ctx slot (match s1.launch? ctx slot with
              | some x => if x.faults = 0 then 1 else 2
              | none => 1))
        else .next s
      | .tearing st =>
        let (s0, done) := s.releaseLaunch l
        .next (if done then s0.finishLaunch ctx slot st else s0)
      | _ => .next s
  | none => .next s

/-- WATCHDOG (R51): logged, posted, and the launch torn down. -/
def execWatchdog (ctx slot : Nat) (s : State) : Out :=
  match s.launch? ctx slot with
  | some l =>
    let due := blockWdog l.block != 0 && decide ((blockWdog l.block).toNat ≤ l.watch / 1000)
    let runs := match l.phase with
      | .admitted => true
      | .preempting => true
      | .restoring => true
      | _ => false
    if due && runs then
      let s1 := (s.logUnstated ctx slot 347 (s.die l.lead).time).postHardware 27 ctx slot none
      .next (s1.modLaunch ctx slot fun x => { x with phase := .tearing 4 })
    else .next s
  | none => .next s

/-! ## Pre-emption (R52, R258) -/

/-- Where a sequencer stands that may be stopped: running, or parked but for KPOST and BAR's sending. -/
def Run.stoppable (r : Run) : Bool :=
  match r with
  | .running => true
  | .parked .kpost => false
  | .parked (.barSent _) => false
  | .parked _ => true
  | _ => false

/-- A forked context has stopped: ended, or at a ply boundary, with its commands done and nothing landing (R258). Its pawn
jobs not yet dispatched stay queued (R52). -/
def State.forkStopped (s : State) (q : SeqId) : Bool :=
  let x := s.seqD q
  s.forkEnded q || (((x.run.stoppable && x.ply && x.trap.isNone) || x.run == .ending) && x.tlm.idle && x.tlc.idle &&
    !s.gPending q && !s.unperformed q)

/-- The forked contexts a worker holds. -/
def State.forksOf (s : State) (w : WKey) : List SeqId := rdvTargets w (s.seqD (.worker w)).w true false 0

/-- The mirror of a worker's die has still to apply an update to the register of the barrier it waits in (R246). -/
def State.mirrorBehind (s : State) (w : WKey) : Bool :=
  match (s.seqD (.worker w)).run with
  | .parked (.bar j _ _ _) =>
    match s.group? w j with
    | some g =>
      s.net.msgs.any fun m => match m.body with
        | .mirror i _ _ d _ _ => i == g.sreg && d == s.dieOf (.worker w)
        | _ => false
    | none => false
  | _ => false

/-- A worker has stopped and may be saved: at U and drained, or parked by KPOST, its forked contexts stopped (R258), and each of
its QPUSHes in its place (R52). -/
def State.mayStop (s : State) (w : WKey) : Bool :=
  let q := SeqId.worker w
  let x := s.seqD q
  (s.forksOf w).all s.forkStopped &&
    !s.pushesOf w &&
    ((x.run == .parked .kpost && !s.gPending q && !s.unperformed q) ||
      (x.priv == .u && x.run.stoppable && x.trap.isNone && x.w.pending.isNone && s.drained q && !s.mirrorBehind w))

/-- The forked record of a context (R251). -/
def forkWords (x : Seq) (ended : Bool) : List Nat :=
  let loops := x.bank.loops
  [x.pc.toNat, 1 + (if ended then 2 else 0) + loops.length % 8 * 4, x.bank.xf.toNat, gpoisonWord x.bank] ++
    gregWords x.bank ++ loopWords loops

/-- Where the record of a forked context lies (R249). -/
def forkOffset (q : SeqId) : Nat :=
  match q with
  | .mx _ h => 0x400 + 0x200 * h
  | .ce _ h => 0x800 + 0x200 * h
  | _ => 0x400

/-- BARWAIT of a worker (R250). -/
def barWait (r : Run) : Nat :=
  match r with
  | .parked (.bar j g _ _) => 2 ^ 63 + 2 ^ 16 * (j % 256) + g % 2 ^ 16
  | _ => 0

/-- The PC a stopped worker continues at (R258): that of its waiting instruction, or the one after a BAR. -/
def stoppedPc (x : Seq) : Word :=
  match x.run with
  | .parked (.bar _ _ _ next) => next
  | _ => x.pc

/-- The records of the forked contexts go to the frame, each with zeros in its place where none is held. -/
def State.saveForks (s : State) (w : WKey) : Option State :=
  foldOpt (fun (acc : State) q =>
    let x := acc.seqD q
    acc.frameWrite w (forkOffset q) (wordsBytes (forkWords x (x.run == .ended || x.run == .ending)))) (s.forksOf w) s

/-- The scratchpad image goes to the frame. -/
def State.saveSpad (s : State) (w : WKey) : Option State :=
  let x := (s.seqD (.worker w)).w
  s.frameWrite w 0x28000 (numBytes (spadBytes x.spadCode) (cellsNum x.spad 0 (spadBytes x.spadCode)))

/-- The window registers go to the frame. -/
def State.saveWindowRegs (s : State) (w : WKey) : Option State :=
  let x := (s.seqD (.worker w)).w
  s.frameWrite w 0x300 (wordsBytes ((List.range 8).flatMap fun k => windowWords (x.win.getD k WindowReg.reset)))

/-- The record and the vector state of a worker that is not posted go to the frame (R258). -/
def State.saveRecord (s : State) (w : WKey) : Option State :=
  let x := s.seqD (.worker w)
  match s.frameWrite w 0 (wordsBytes (recordWords x (stoppedPc x) x.bank.loops false false (barWait x.run))) with
  | none => none
  | some s1 =>
    match s1.frameWrite w 0x1F8 (numBytes 8 0) with
    | none => none
    | some s2 =>
      match s2.saveExtents w with
      | none => none
      | some s3 =>
        match s3.saveBlocks w with
        | none => none
        | some s4 => s4.saveMasks w

/-- The save engine saves a stopped worker (R258). The record of a posted worker stands as its trap and post wrote it
(log entry 17). Its place, and those of its forked contexts, are free afterwards. -/
def State.saveWorker (s : State) (w : WKey) : State :=
  let posted := (s.seqD (.worker w)).run == .parked .kpost
  let done := (if posted then some s else s.saveRecord w).bind fun s1 =>
    (s1.saveWindowRegs w).bind fun s2 => (s2.saveSpad w).bind fun s3 => s3.saveForks w
  match done with
  | none => s.frameFault w
  | some s4 =>
    let s5 := (s4.forksOf w).foldl (fun (acc : State) q =>
      acc.modSeq q fun x => { x with run := .saved, line := none }) s4
    ((s5.clearResv w).flushCache (s5.seqD (.worker w)).w.place.vc).modSeq (.worker w) fun x =>
      { x with
        run := .saved
        line := none
        w := { x.w with onCore := false, v := x.w.v.map fun r => { r with granule := 0 } } }

/-- A worker whose earlier vector load met an error takes its trap before it is saved, from a park too (R52, R202). -/
def State.takePending (s : State) (w : WKey) : State :=
  let q := SeqId.worker w
  let x := s.seqD q
  match x.w.pending with
  | some p =>
    if s.vPending q then s
    else (s.modSeq q fun y => { y with run := .running, w := { y.w with pending := none } }).raiseOn q (p.trap x.pc)
  | none => s

/-- One worker of a launch that is being pre-empted goes as far towards its save as it can now. -/
def State.stopStep (s : State) (w : WKey) : State :=
  let x := s.seqD (.worker w)
  if x.run = .saved then s
  else if x.w.pending.isSome && x.priv == .u && x.trap.isNone && x.run.stoppable then s.takePending w
  else if s.mayStop w then s.saveWorker w
  else s

/-- Every worker of a launch is saved. -/
def State.allSaved (s : State) (c slot : Nat) : Bool := (s.launchWorkers c slot).all fun p => p.2.run == .saved

/-- The launch a PREEMPT, RESUME or ABORT names (R185). -/
def State.namedLaunch (s : State) (ga : Word) : Option Launch :=
  if ga.extractLsb' 15 49 ≠ 0#49 then none else s.launch? (ga.extractLsb' 6 9).toNat (ga.extractLsb' 0 6).toNat

/-- An admitted launch is ending: it has no worker and nothing more to do (R47, R185). -/
def State.endsNow (s : State) (l : Launch) : Bool := (s.launchWorkers l.ctx l.slot).isEmpty && s.exhausted l

/-- The phase of a launch that may be placed again: with no worker to restore, it is admitted (R53). -/
def State.resumedPhase (s : State) (l : Launch) : LaunchPhase :=
  if (s.launchWorkers l.ctx l.slot).isEmpty then .admitted else .restoring

/-- A control core stalls in one of them. -/
def State.stallCore (s : State) (q : SeqId) (p : Park) : State := s.modSeq q fun x => { x with run := .parked p }

/-- The launch unit takes a PREEMPT (R52, R185). -/
def State.takePreempt (s : State) (q : SeqId) (gd : BitVec 5) (l : Launch) : State :=
  let start := (s.modLaunch l.ctx l.slot fun x => { x with phase := .preempting }).stallCore q (.preempt gd l.ctx l.slot)
  match l.phase with
  | .admitted => if s.endsNow l then s.answerCore q gd 2 else start
  | .restoring => start
  | _ => s.answerCore q gd 2

/-- The launch unit takes a RESUME (R53, R185): the launch may be placed again. -/
def State.takeResume (s : State) (q : SeqId) (gd : BitVec 5) (l : Launch) : State :=
  match l.phase with
  | .preempted => (s.modLaunch l.ctx l.slot fun x => { x with phase := s.resumedPhase l }).answerCore q gd 0
  | _ => s.answerCore q gd 2

/-- The launch unit takes an ABORT (R48, R185): a queued launch is written 0x03 and leaves; any other is torn down, and the core
waits for the final word. One that is torn down already is waited for and answered 2, as an ended one (DEDUCED, log
entry 85); one that has ended is answered 2. -/
def State.takeAbort (s : State) (q : SeqId) (gd : BitVec 5) (l : Launch) : State :=
  let wait (status : Nat) : State := s.stallCore q (.abort gd l.ctx l.slot status)
  let tear := (wait 0).modLaunch l.ctx l.slot fun x => { x with phase := .tearing 3 }
  match l.phase with
  | .queued => (wait 0).writeFinal l 3
  | .tearing _ => wait 2
  | .ended _ => wait 2
  | .admitted => if s.endsNow l then s.answerCore q gd 2 else tear
  | _ => tear

/-- The launch unit takes an operation on a launch: 1 PREEMPT, 2 RESUME, 3 ABORT (R185). -/
def State.takeOp (s : State) (q : SeqId) (op : Nat) (gd : BitVec 5) (l : Launch) : State :=
  if op = 1 then s.takePreempt q gd l else if op = 2 then s.takeResume q gd l else s.takeAbort q gd l

/-- An operation on a launch that came before a moment waits. -/
def State.opBefore (s : State) (c slot arrival : Nat) : Bool :=
  s.allSeqs.any fun p => match p.2.run with
    | .parked (.launchOp _ _ x y a) => x == c && y == slot && decide (a < arrival)
    | _ => false

/-- A PREEMPT, RESUME or ABORT of the current core reaches the launch unit, which takes the operations on one launch in the
order in which they come: one that finds a PREEMPT of its launch in progress waits (R185). -/
def State.launchOp (s : State) (op : Nat) (gd : BitVec 5) (ga : Word) : State :=
  match s.namedLaunch ga with
  | none => s.answerCore s.cur gd 1
  | some l =>
    if l.phase == .preempting || s.opBefore l.ctx l.slot s.nextId then
      let (a, s1) := s.takeId
      s1.stallCore s1.cur (.launchOp op gd l.ctx l.slot a)
    else s.takeOp s.cur op gd l

/-- PREEMPT (R52, R185). -/
def execPreempt (f : FIM) (s : State) : Out := checked (.preempt f) s fun s => .next (s.launchOp 1 (hReg f.h) (s.g f.ga))

/-- RESUME (R53, R185). -/
def execResume (f : FIM) (s : State) : Out := checked (.resume f) s fun s => .next (s.launchOp 2 (hReg f.h) (s.g f.ga))

/-- ABORT (R48, R185). -/
def execAbort (f : FIM) (s : State) : Out := checked (.abort f) s fun s => .next (s.launchOp 3 (hReg f.h) (s.g f.ga))

/-- A launch that is being pre-empted goes on until every worker of it is saved (R52). -/
def State.preemptStep (s : State) (l : Launch) : State :=
  let s1 := (s.launchWorkers l.ctx l.slot).foldl (fun (acc : State) p => acc.stopStep p.1) s
  if s1.allSaved l.ctx l.slot then
    s1.modLaunch l.ctx l.slot fun x => if x.phase = .preempting then { x with phase := .preempted } else x
  else s1

/-- What a PREEMPT of a launch answers, once it does: 0 when every worker is saved; 2 where the launch has been torn down
meanwhile, and 1 once its slot is free (DESIGN CHOICE, log entry 97). -/
def State.preemptStatus (s : State) (c slot : Nat) : Option Nat :=
  match s.launch? c slot with
  | none => some 1
  | some l =>
    match l.phase with
    | .preempting => none
    | .preempted => some 0
    | _ => some 2

/-- A control core that stalls in PREEMPT goes on once it may. -/
def State.servePreempt (s : State) (q : SeqId) : State :=
  match (s.seqD q).run with
  | .parked (.preempt gd c slot) =>
    match s.preemptStatus c slot with
    | some v => s.answerCore q gd v
    | none => s
  | _ => s

/-- An operation that waits behind a PREEMPT is taken once it may be. -/
def State.serveOp (s : State) (q : SeqId) : State :=
  match (s.seqD q).run with
  | .parked (.launchOp op gd c slot a) =>
    match s.launch? c slot with
    | none => s.answerCore q gd 1
    | some l => if l.phase == .preempting || s.opBefore c slot a then s else s.takeOp q op gd l
  | _ => s

/-- What the launch unit does beside every turn: the launches that are being pre-empted, and the operations that wait (R185). -/
def State.serveLaunches (s : State) : State :=
  let s1 := (s.launches.filter fun l => l.phase == .preempting).foldl State.preemptStep s
  let qs := s1.allSeqs.map fun p => p.1
  qs.foldl State.serveOp (qs.foldl State.servePreempt s1)

/-! ## Resumption (R53, R259) -/

/-- A forked context restarts from its record (R251, R259). One that has ended waits for its RDV. -/
def State.restoreFork (s : State) (w : WKey) (q : SeqId) : Option State :=
  match s.frameRead w (forkOffset q) 0x200 with
  | none => none
  | some (s1, r) =>
    let st := wordAt r 1
    some (s1.modSeq q fun x =>
      { x with
        run := if st / 2 % 2 = 1 then .ending else .running
        line := none
        ply := true
        pc := BitVec.ofNat 64 (wordAt r 0)
        bank := { (Bank.reset.fromWords ((List.range 32).map fun k => wordAt r (4 + k)) (wordAt r 3)) with
          xf := BitVec.ofNat 8 (wordAt r 2)
          loops := loopsFrom ((List.range 18).map fun k => wordAt r (36 + k)) (st / 4 % 8) } })

/-- The scratchpad image comes back. -/
def State.restoreSpad (s : State) (w : WKey) : Option State :=
  let n := spadBytes (s.seqD (.worker w)).w.spadCode
  match s.frameRead w 0x28000 n with
  | none => none
  | some (s1, bs) => some (s1.modSeq (.worker w) fun x => { x with w := { x.w with spad := cellsPutNum [] 0 n (bytesNum bs) } })

/-- The window of a worker's launch that a window register describes (R267). -/
def State.windowNamed (s : State) (w : WKey) (r : WindowReg) : Option Nat :=
  (s.windows.find? fun x => x.ctx == w.ctx && x.slot == w.slot && x.base.setWidth 58 == r.base && x.rows == r.rows.toNat &&
    x.cols == r.cols.toNat && x.pitchl == r.pitchl.toNat).map fun x => x.id

/-- The window registers come back (R259). -/
def State.restoreWindowRegs (s : State) (w : WKey) : Option State :=
  match s.frameRead w 0x300 0x80 with
  | none => none
  | some (s1, r) =>
    let named (k : Fin 8) : WindowReg := windowFrom (s1.windowNamed w) (wordAt r (2 * k.val)) (wordAt r (2 * k.val + 1))
    some (s1.modSeq (.worker w) fun x => { x with w := { x.w with win := Vector.ofFn named } })

/-- The record of a worker comes back (R259). With KPOSTED it stays parked by KPOST, its vector state in the frame (R255,
R257). -/
def State.restoreRecord (s : State) (w : WKey) : Option (State × Nat) :=
  match s.loadVector w with
  | none => none
  | some s1 =>
    match s1.frameRead w 0 0x1F0 with
    | none => none
    | some (s2, r) =>
      let st := BitVec.ofNat 64 (wordAt r 1)
      let posted := st.getLsbD 18
      some (s2.modSeq (.worker w) fun x =>
        { x with
          run := if posted then .parked .kpost else .running
          priv := .u
          ply := true
          pc := BitVec.ofNat 64 (wordAt r 0)
          line := none
          cause := BitVec.ofNat 9 (wordAt r 5)
          epc := BitVec.ofNat 64 (wordAt r 6)
          eaddr := BitVec.ofNat 64 (wordAt r 7)
          eidx := BitVec.ofNat 15 (wordAt r 8)
          bank := { (Bank.reset.fromWords ((List.range 32).map fun k => wordAt r (12 + k)) (wordAt r 9)) with
            xf := st.extractLsb' 32 8
            loops := loopsFrom ((List.range 18).map fun k => wordAt r (44 + k)) (st.extractLsb' 19 3).toNat }
          w := { x.w with
            ins := posted
            vsaved := posted
            keptLoops := []
            vl := BitVec.ofNat 15 (wordAt r 2)
            vstart := BitVec.ofNat 15 (wordAt r 3)
            vlmax := BitVec.ofNat 15 (wordAt r 4)
            xsel := st.extractLsb' 28 4
            vrm := st.extractLsb' 26 2
            vmt := st.extractLsb' 24 2 } }, if posted then 0 else wordAt r 11)

/-- A restored worker that stood in the BAR at `bar` (R247, R259): an update not made by BAR traps it; another generation lets it
go on with the acquire; otherwise it parks again. -/
def State.rejoin (s : State) (w : WKey) (bw : Nat) (bar : Word) : State :=
  if bw / 2 ^ 63 = 0 then s
  else
    let q := SeqId.worker w
    match s.group? w (bw / 2 ^ 16 % 256), s.launch? w.ctx w.slot with
    | some g, some l =>
      if l.resets.contains (g.sreg + 16384 * w.wid) then
        s.raiseOn q { source := 0, cond := 25, epc := bar, eaddr := 0, eidx := 0, save := bar, vstart := none }
      else if (s.syncValue g.sreg).extractLsb' 48 16 ≠ BitVec.ofNat 16 bw then s.acquire q g.scope.toNat
      else
        s.modSeq q fun x =>
          { x with
            pc := bar
            run := .parked (.bar (bw / 2 ^ 16 % 256) (bw % 2 ^ 16) (assocGet s.regUpdates g.sreg 0) x.pc) }
    | _, _ => s

/-- A saved worker is placed and restored (R259). It sees what it stored before, wherever that was (R117). -/
def State.restoreAt (s : State) (w : WKey) (p : Place) : State :=
  let q := SeqId.worker w
  let s0 := (s.modSeq q fun x =>
    { x with
      run := .parked .kpost
      w := { x.w with
        place := p, onCore := !s.vcBusy p, moves := x.w.moves + 1, svec := (s.ctx w.ctx).csvec } }).shrinkCache p.vc
    (s.cacheLines p.vc)
  let done := ((((s0.dropClean p.vc).dropGuests p.die).restoreSpad w).bind fun s1 => s1.restoreWindowRegs w).bind fun s2 =>
    s2.restoreRecord w
  match done with
  | none => s0.frameFault w
  | some (s2, bw) =>
    match foldOpt (fun (acc : State) f => acc.restoreFork w f) (s2.forksOf w) s2 with
    | none => s2.frameFault w
    | some s3 =>
      (s3.rejoin w bw (s.seqD q).pc).modLaunch w.ctx w.slot fun l =>
        { l with resets := l.resets.filter fun k => k / 16384 != w.wid }

/-- The saved workers of a launch. -/
def State.savedWorkers (s : State) (l : Launch) : List WKey :=
  ((s.launchWorkers l.ctx l.slot).filter fun p => p.2.run == .saved).map fun p => p.1

/-- A saved worker is placed and restored; none where it fits nowhere. Of the VCs that R53 allows, the model takes the one
that R28 gives a new worker (DESIGN CHOICE, log entry 76). -/
def State.placeOne (s : State) (l : Launch) (w : WKey) : Option State :=
  (s.choosePlace l (s.stageD w)).map fun p => s.restoreAt w p

/-- RESTORE (R53, R259): one worker of a launch that is being resumed, or every one of a COR launch, whole or not at all
(R50). Whether a COR launch can be placed is judged by placing its workers one after another, in the order of the state's list
and where R28 would place each: one that only another assignment would fit stays restoring (DESIGN CHOICE, log entry 98). -/
def execRestore (w : WKey) (s : State) : Out :=
  match s.launch? w.ctx w.slot with
  | some l =>
    if l.phase != .restoring || (s.seqD (.worker w)).run != .saved then .next s
    else
      match foldOpt (fun (acc : State) v => acc.placeOne l v) (if blockCor l.block then s.savedWorkers l else [w]) s with
      | none => .next s
      | some s1 =>
        .next (s1.modLaunch w.ctx w.slot fun x =>
          if (s1.savedWorkers l).isEmpty && x.phase == .restoring then { x with phase := .admitted } else x)
  | none => .next s

/-! ## Posted workers and switches (R49, R257) -/

/-- RELEASE (R257): the word the kernel has written decides how the posted worker goes on: as by ERET, with its waits, or to its
end, which waits for its QPUSHes. -/
def execRelease (w : WKey) (s : State) : Out :=
  let q := SeqId.worker w
  if (s.seqD q).run != .parked .kpost then .next s
  else
    match s.frameRead w 0x1F8 8 with
    | none => .next (s.frameFault w)
    | some (s1, bs) =>
      let v := bytesNum bs
      if v = 0 then .next s
      else if v = 1 then .next (if s.returnWaits q then s else s1.returnWorker w)
      else if s.pushesOf w then .next s
      else
        let s2 := if v = 2 then s1
          else s1.logFault w.ctx w.slot w.wid 3 (plainBody 0 (BitVec.ofNat 64 v) 0) (s1.timeOf q)
        .next ((s2.countFault w.ctx w.slot).stopWorker w)

/-- A worker stands at a point at which its VC may switch (R49). -/
def Run.switches (r : Run) : Bool :=
  match r with
  | .parked (.waitt _ _) => false
  | .parked _ => true
  | _ => false

/-- WORKER_SWITCH (R49, R144): the running worker of a VC has parked with its queue drained, or is gone, and the
standby worker is ready. -/
def execWorkerSwitch (vc : Nat) (s : State) : Out :=
  let here := s.residents.filter fun p => p.2.w.place.vc == vc
  let busy := here.any fun p => p.2.w.onCore && !(p.2.run.switches && s.vecIdle (.worker p.1))
  match here.find? (fun p => !p.2.w.onCore && p.2.run == .running) with
  | some (w, _) =>
    if busy then .next s
    else
      let s1 := here.foldl (fun (acc : State) p =>
        acc.modSeq (.worker p.1) fun x => { x with w := { x.w with onCore := false } }) s
      .next (s1.modSeq (.worker w) fun x => { x with w := { x.w with onCore := true } })
  | none => .next s

end Sys2Proof.Machine
end

