-- ==== Sys2Proof/Machine/Kernel.lean ====
section
/-! DEFINITION. The kernel's instructions: TLBINV, thread records, and the vector state of workers in their frames
(R255, R302, R432 to R436); and the end of a page-table walk. -/

namespace Sys2Proof.Machine

/-! ## TLBINV (R434) -/

/-- What a TLBINV drops: all contexts, or one; every page, or a range of addresses. -/
structure Drop where
  ctx : Option Nat
  range : Option (Nat × Nat)
  deriving DecidableEq, Repr

/-- The page of n bytes of a context that holds a virtual address meets what is dropped. -/
def Drop.meets (d : Drop) (c va n : Nat) : Bool :=
  (match d.ctx with
    | none => true
    | some x => x == c) &&
  match d.range with
  | none => true
  | some (lo, hi) => decide (va / n * n < hi) && decide (lo < va / n * n + n)

/-- A translation checked meets what is dropped, by the whole page it is a part of. -/
def Drop.meetsPage (d : Drop) (c : Nat) (g : PageMap) : Bool := d.meets c (4096 * g.vpn) g.span

/-- A TLB entry meets what is dropped: a leaf by its page, a pointer by what its table serves. -/
def Drop.meetsLeaf (d : Drop) (t : TlbEntry) : Bool :=
  d.meets t.ctx (4096 * t.vpn) (if t.pointer then tableBytes t.level else leafBytes t.leaf t.level)

/-- The numbers a message carries: its own and that of the vector instruction it belongs to. -/
def Msg.ids (m : Msg) : List Nat :=
  match m.body with
  | .access _ _ (.elems e _ _) _ => [m.id, e]
  | .pad _ _ (.elems e _ _) => [m.id, e]
  | .access _ _ (.mask e _ _) _ => [m.id, e]
  | .access _ _ (.sent e) _ => [m.id, e]
  | .staged _ e => [m.id, e]
  | _ => [m.id]

/-- The numbers of what is still to be performed. -/
def State.busyIds (s : State) : List Nat :=
  (s.net.msgs ++ s.net.held.map fun h => h.msg).flatMap Msg.ids ++
    (s.allSeqs.flatMap fun p => p.2.w.queue.map fun e => e.id) ++ (s.pushes.map fun p => p.id) ++ (s.mxCmds.map fun c => c.id) ++
    s.jobs.map fun j => j.id

/-- What was checked against a dropped translation and has not been performed (R434): accesses and copy writes on their way,
queued vector instructions, QPUSHes, matrix commands and pawn jobs. What is on its way counts by the largest page there is,
which only delays the TLBINV. -/
def State.usersOf (s : State) (d : Drop) : List Nat :=
  ((s.net.msgs ++ s.net.held.map fun h => h.msg).filter (fun m => m.reply.isNone && m.ctx.any fun c =>
      d.meets c m.va.toNat (2 ^ 30))).map (fun m => m.id) ++
  ((s.pushes.filter fun p => p.pages.any fun g => d.meetsPage p.owner.ctx g).map fun p => p.id) ++
  (s.allSeqs.flatMap fun p => (p.2.w.queue.filter fun e => e.pages.any fun g => d.meetsPage (p.2.ctxOn p.1) g).map
    fun e => e.id) ++
  ((s.mxCmds.filter fun c => c.pages.any fun g => d.meetsPage (s.ctxOf c.src) g).map fun c => c.id) ++
  (s.jobs.filter fun j => j.pins.any fun g => d.meetsPage j.ctx g.2).map fun j => j.id

/-- The physical pages whose READONLY replicas go with what is dropped: of every READONLY translation used, or checked
by a queued instruction, since the last TLBINV of its page (R302, R434). -/
def State.readonlyPages (s : State) (d : Drop) : List Nat :=
  ((s.mem.ro.filter fun e => d.meetsPage e.1 e.2).map fun e => e.2.ppn) ++
    s.allSeqs.flatMap fun p => (p.2.w.queue.flatMap fun e => e.pages).filterMap fun g =>
      if g.kind = 1 ∧ d.meetsPage (p.2.ctxOn p.1) g then some g.ppn else none

/-- TLB entries and the hidden slots of stream registers are dropped (R434). -/
def State.dropTranslations (s : State) (d : Drop) : State :=
  let s1 := s.modMem fun m => { m with
    tlb := m.tlb.filter fun t => !d.meetsLeaf t
    ro := m.ro.filter fun e => !d.meetsPage e.1 e.2 }
  (s1.allSeqs.map fun p => p.1).foldl (fun (acc : State) q =>
    match q with
    | .worker w => acc.modSeq q fun x =>
        { x with w := { x.w with q := x.w.q.map fun r =>
          { r with slots := r.slots.filter fun a => !d.meets w.ctx a.1.toNat a.2 } } }
    | _ => acc) s1

/-- Every READONLY replica of some physical pages leaves the L1s, the control-core caches and L2 (R302). -/
def State.dropReplicas (s : State) (pages : List Nat) : State :=
  s.modMem fun m => { m with
    caches := m.caches.filter fun c => !(c.readonly && pages.contains (c.addr / 4096))
    lines := m.lines.filter fun l => !(l.kind == .replica && pages.contains (l.addr / 4096)) }

/-- The CROOT of each context whose change a TLBINV of all its pages makes effective (R429). -/
def State.newRoots (s : State) (d : Drop) : List (Nat × Word) :=
  match d.range with
  | some _ => []
  | none => (s.ctxs.filter fun p => d.meets p.1 0 1).map fun p => (p.1, p.2.croot)

/-- A context walks from a new root; what a TLB has taken from the old one since the drop goes with it (R429). -/
def State.setRoot (s : State) (c : Nat) (r : Word) : State :=
  if (s.ctx c).root = r then s
  else (s.modCtx c fun x => { x with root := r }).modMem fun m => { m with tlb := m.tlb.filter fun t => t.ctx != c }

/-- TLBINV once its release is complete: the drop, then the wait for what uses a dropped translation; the core stalls
until then. -/
def State.startDrop (s : State) (d : Drop) (gd : BitVec 5) : State :=
  let ids := s.usersOf d
  let pages := s.readonlyPages d
  let (num, s1) := s.takeId
  (s1.dropTranslations d).park (.tlbinv gd num ids pages (s.newRoots d))

/-- A form of TLBINV: `ok` says that the context it names is the kernel's own or enabled. -/
def tlbinvAccess (f : FTR) (d : Drop) (ok : Bool) (s : State) : Out :=
  if s.ordering s.cur then .next s
  else
    let (s1, done) := s.release s.cur 3
    if !done then .next s1
    else if !ok then .next (s1.put (hReg f.h) 1)
    else .next (s1.startDrop d (hReg f.h))

/-- The context number a TLBINV names is 0, or an enabled one. -/
def State.ctxNamed (s : State) (v : Word) : Bool := v == 0 || (decide (v.toNat ≤ 511) && s.enabled v.toNat)

/-- TLBINV.page (R434). -/
def execTlbinvPage (f : FTR) (s : State) : Out :=
  checked (.tlbinvPage f) s fun s =>
    let lo := (s.g f.gb).toNat
    tlbinvAccess f ⟨some (s.g f.ga).toNat, some (lo, lo + 4096 * (s.g f.gc).toNat)⟩ (s.ctxNamed (s.g f.ga)) s

/-- TLBINV.ctx (R434). -/
def execTlbinvCtx (f : FTR) (s : State) : Out :=
  checked (.tlbinvCtx f) s fun s => tlbinvAccess f ⟨some (s.g f.ga).toNat, none⟩ (s.ctxNamed (s.g f.ga)) s

/-- TLBINV.all (R434). -/
def execTlbinvAll (f : FTR) (s : State) : Out :=
  checked (.tlbinvAll f) s fun s => tlbinvAccess f ⟨none, none⟩ true s

/-- A TLBINV of all pages of a context has completed: an older one that is still to complete makes no older CROOT of it effective
(R429). -/
def Run.supersede (r : Run) (num : Nat) (ctxs : List Nat) : Run :=
  match r with
  | .parked (.tlbinv gd n ids pages roots) =>
    if n < num then .parked (.tlbinv gd n ids pages (roots.filter fun p => !ctxs.contains p.1)) else r
  | _ => r

/-- A new root of some context is not yet free to take effect: what a walk from the old one has served is still to be performed
(R429, R434). -/
def State.rootsBusy (s : State) (roots : List (Nat × Word)) : Bool :=
  roots.any fun p => (s.ctx p.1).root != p.2 && !(s.usersOf ⟨some p.1, none⟩).isEmpty

/-- A TLBINV drops the replicas of its pages, makes a new CROOT effective, and completes (R429, R434). -/
def State.endDrop (s : State) (q : SeqId) (gd : BitVec 5) (num : Nat) (pages : List Nat) (roots : List (Nat × Word)) : State :=
  let s1 := ((roots.foldl (fun (a : State) p => a.setRoot p.1 p.2) s).dropReplicas pages).modSeq q fun x =>
    { x with run := .running, bank := x.bank.write gd 0, pc := Machine.nextPc x.heads x.pc }
  (s1.allSeqs.map fun p => p.1).foldl (fun (a : State) r =>
    a.modSeq r fun x => { x with run := x.run.supersede num (roots.map fun p => p.1) }) s1

/-- Every TLBINV whose waits are over completes. -/
def State.endDrops (s : State) : State :=
  (s.allSeqs.map fun p => p.1).foldl (fun (acc : State) q =>
    match (acc.seqD q).run with
    | .parked (.tlbinv gd num ids pages roots) =>
      if (ids.any fun i => acc.busyIds.contains i) || acc.rootsBusy roots then acc else acc.endDrop q gd num pages roots
    | _ => acc) s

/-! ## Page-table walks (R432, R433) -/

/-- The entries a TLB holds (R433). -/
def tlbSize (holder : Nat) : Nat := if holder < 4 then 16384 else if holder < 36 then 512 else 256

/-- The pointer entry of a walk that leads to a table of level n, with its place and the places read before it (R430, R431). -/
def State.pointerTo (s : State) (va : Word) (n : Nat) : Nat → Nat → Nat → Option (Word × Nat × List Nat)
  | 0, _, _ => none
  | fuel + 1, table, level =>
    let place := table + 8 * tableIndex va level
    let e := s.peekWord place
    if !pteValid e || !ptePointer e || level == 4 || pteBit e 10 || !insideOne (ptePfn e) 4096 then none
    else if level + 1 = n then some (e, place, [])
    else (s.pointerTo va n fuel (ptePfn e) (level + 1)).map fun p => (p.1, p.2.1, place :: p.2.2)

/-- The access of a scalar memory instruction of the current sequencer: its address, its bytes and what it wants. -/
def State.scalarUse (s : State) (i : Instr) : Option (Word × Nat × Want) :=
  match i with
  | .ld f => some (s.g f.ga + accessOff f, accessSize f, wantLoad)
  | .st f => some (s.g f.ga + accessOff f, accessSize f, wantStore)
  | .amo _ f => some (s.g f.ga, atomicSize f, wantAtomic)
  | .cas f => some (s.g f.ga, atomicSize f, wantAtomic)
  | .red _ f => some (s.g f.ga, etWidth (f.imm.extractLsb' 5 4).toNat / 8, wantAtomic)
  | .waitm f => some (s.g f.ga, 8, wantWaitm)
  | _ => none

/-- The scalar access that a sequencer is about to make and that waits for its walks: the instruction at its PC, in the
line it keeps, whose checks pass (R85, R163). -/
def State.waitingUse (s : State) (q : SeqId) : Option (Leaves × Bool) :=
  let u := s.select q
  match u.core.line with
  | none => none
  | some (a, l) =>
    let slot := pcSlot u.core.pc
    if !s.mayIssue q || a != pcLine u.core.pc || !LineBits.legal l || slot == 0 || decide (LineBits.heads l < slot) then
      none
    else
      match decodeSlot (kindOf q) l slot with
      | none => none
      | some i =>
        if (u.checkFault i).isSome || u.operandsWait i || (u.issueFault i).isSome then none
        else
          match u.scalarUse i with
          | none => none
          | some (va, n, w) =>
            if va.toNat % n ≠ 0 then none
            else
              match u.checkAccess (u.accessor q) w va n with
              | .error _ => none
              | .ok t => some (t, w.wr)

/-- An entry enters a TLB, the oldest one making room for it (R433). -/
def State.tlbPut (s : State) (t : TlbEntry) : State :=
  s.modMem fun m =>
    let others := m.tlb.filter fun x =>
      !(x.holder == t.holder && x.ctx == t.ctx && x.vpn == t.vpn && x.level == t.level && x.pointer == t.pointer)
    { m with tlb := t :: (others.filter fun x => x.holder != t.holder) ++
        (others.filter fun x => x.holder == t.holder).take (tlbSize t.holder - 1) }

/-- PAGE_WALK (R432, R433): a walk of an address of a context ends. Where it serves the access that a sequencer is about
to make, A is set, and D for a write. The TLB named holds the leaf, or, for a level of 2 to 4, the pointer entry that
leads to the table of that level. A walk that finds none delivers its fault to the access that waits, which finds it
itself; the tables it has read leave no fill of the second tier, which R441 would count (DEDUCED, log entry 108). -/
def execPageWalk (ctx : Nat) (va : BitVec 64) (use : WalkUse) (holder : Nat) (s : State) : Out :=
  let s1 := match use.user.bind s.waitingUse with
    | some (t, wr) => if t.any fun p => p.1.ctx == ctx && p.2.1.toNat / 4096 == va.toNat / 4096 then s.markAll t wr else s
    | none => s
  if 2084 ≤ holder then .next s1
  else if use.keep = 0 then
    match s1.walk ctx va with
    | none => .next s1
    | some l => .next ((l.walked.foldl State.walkRead s1).tlbPut
        { holder := holder, ctx := ctx, vpn := va.toNat / 4096, leaf := l.val, leafAt := l.place, level := l.level, pointer := false })
  else if va.extractLsb' 48 16 ≠ 0#16 then .next s1
  else
    match s1.pointerTo va use.keep 4 (ptePfn (s1.ctx ctx).root) 1 with
    | none => .next s1
    | some (e, place, before) =>
      .next (((place :: before).foldl State.walkRead s1).tlbPut
        { holder := holder, ctx := ctx, vpn := va.toNat / 4096, leaf := e, leafAt := place, level := use.keep, pointer := true })

/-! ## Thread records (R435) -/

/-- The words of a thread record. -/
def threadWords (x : Seq) : List Nat :=
  let u := x.other
  [x.epc.toNat, x.cc.uctx.toNat + 2 ^ 9 * (u.loops.length % 8)] ++ gregWords u ++ loopWords u.loops ++
    [gpoisonWord u, u.xf.toNat] ++ List.replicate 10 0

/-- The reserved bits of a thread record are zero and its loop depth is at most 6 (R435). -/
def threadOk (r : List Byte) : Bool :=
  decide (wordAt r 1 < 2 ^ 12) && decide (wordAt r 1 / 2 ^ 9 ≤ 6) && decide (wordAt r 53 < 2 ^ 8) &&
    (List.range 10).all fun k => wordAt r (54 + k) == 0

/-- CTXSV and CTXLD check their 512 bytes through context 0, and wait for what is landing in the core's registers. -/
def threadAccess (va : Word) (write : Bool) (s : State) : Except Out (State × List (Nat × PageKind × Nat)) :=
  if va.toNat % 64 ≠ 0 then .error (.next (s.raise 9 va))
  else
    match s.checkAccess (s.accessor s.cur) (if write then wantStore else wantLoad) va 512 with
    | .error f => .error (.next (s.raiseAcc 0 f))
    | .ok l =>
      if reachesDevice l then .error (.fault .deviceRegisters)
      else if s.ordering s.cur || !s.coreDrained s.cur then .error (.next s)
      else .ok (s.markAll l write, piecesOf l)

/-- CTXSV (R435). -/
def execCtxsv (f : FIM) (s : State) : Out :=
  checked (.ctxsv f) s fun s =>
    match threadAccess (s.g f.ga) true s with
    | .error o => o
    | .ok (s1, l) =>
      let s2 := s1.writePieces (s1.cacheOf s1.cur) (s1.dieOf s1.cur) l (wordsBytes (threadWords s1.core))
      .next (s2.put (hReg f.h) 0)

/-- A record loaded into the U bank, EPC and the U context (R435). -/
def Seq.loadThread (x : Seq) (r : List Byte) : Seq :=
  { x with
    epc := BitVec.ofNat 64 (wordAt r 0)
    other := { (Bank.reset.fromWords ((List.range 32).map fun k => wordAt r (2 + k)) (wordAt r 52)) with
      xf := BitVec.ofNat 8 (wordAt r 53)
      loops := loopsFrom ((List.range 18).map fun k => wordAt r (34 + k)) (wordAt r 1 / 2 ^ 9) }
    cc := { x.cc with uctx := BitVec.ofNat 9 (wordAt r 1) } }

/-- CTXLD (R435). -/
def execCtxld (f : FIM) (s : State) : Out :=
  checked (.ctxld f) s fun s =>
    match threadAccess (s.g f.ga) false s with
    | .error o => o
    | .ok (s1, l) =>
      let (s2, r, m) := s1.readPieces (s1.cacheOf s1.cur) (s1.dieOf s1.cur) l
      match m with
      | some x => .next (s2.raiseMark (x.at_ (s.g f.ga)))
      | none =>
        if threadOk r && s2.enabled (wordAt r 1 % 2 ^ 9) then
          .next ((s2.modCore fun x => x.loadThread r).put (hReg f.h) 0)
        else .next (s2.put (hReg f.h) 1)

/-! ## Vector state in the frame (R255, R436) -/

/-- CTXSV.v on a VC at S (R255): with VSAVED = 0 the vector state goes to the frame. -/
def execCtxsvV (f : FIM) (s : State) : Out :=
  checked (.ctxsvV f) s fun s =>
    if s.waitsVector || s.framePending s.cur then .next s
    else
      match s.cur with
      | .worker w =>
        match s.saveVector w with
        | some t => .next t.advance
        | none => .next (s.frameFault w)
      | _ => .next (s.raise 2 0)

/-- CTXLD.v on a VC at S (R255): with VSAVED = 1 the vector state comes back. -/
def execCtxldV (f : FIM) (s : State) : Out :=
  checked (.ctxldV f) s fun s =>
    if s.waitsVector || s.framePending s.cur then .next s
    else
      match s.cur with
      | .worker w =>
        if !s.core.w.vsaved then .next s.advance
        else
          match s.loadVector w with
          | some t => .next t.advance
          | none => .next (s.frameFault w)
      | _ => .next (s.raise 2 0)

/-- The worker that CTXSV.v and CTXLD.v name on a control core (R436): gd of 1 or 2 where it cannot be served. -/
def State.namedWorker (s : State) (ga : Word) : Except Word WKey :=
  let w : WKey := ⟨(ga.extractLsb' 6 9).toNat, (ga.extractLsb' 0 6).toNat, (ga.extractLsb' 15 12).toNat⟩
  if ga.extractLsb' 27 37 ≠ 0#37 then .error 1
  else
    match s.getSeq (.worker w) with
    | none => .error 2
    | some x =>
      match x.run with
      | .parked _ => if x.w.onCore then .error 2 else .ok w
      | _ => .error 2

/-- Every granule of a worker is spilled to its frame and freed (R127, R436). -/
def State.spillAll (s : State) (w : WKey) : Option State :=
  match s.saveBlocks w with
  | none => none
  | some s1 =>
    some (s1.modSeq (.worker w) fun x =>
      { x with w := { x.w with v := x.w.v.map fun r => { r with framed := r.framed ||| r.granule, granule := 0 } } })

/-- CTXSV.v on a control core (R436). -/
def execCtxsvVK (f : FIM) (s : State) : Out :=
  checked (.ctxsvVK f) s fun s =>
    match s.namedWorker (s.g f.ga) with
    | .error v => .next (s.put (hReg f.h) v)
    | .ok w =>
      match s.spillAll w with
      | some t => .next (t.put (hReg f.h) 0)
      | none => .next ((s.frameFault w).put (hReg f.h) 0)

/-- CTXLD.v on a control core (R436): the granules are freed without being saved, and the blocks reload from the
frame. -/
def execCtxldVK (f : FIM) (s : State) : Out :=
  checked (.ctxldVK f) s fun s =>
    match s.namedWorker (s.g f.ga) with
    | .error v => .next (s.put (hReg f.h) v)
    | .ok w =>
      .next ((s.modSeq (.worker w) fun x =>
        { x with w := { x.w with v := x.w.v.map fun r =>
          { r with framed := r.framed ||| r.granule, granule := 0, dirty := 0 } } }).put (hReg f.h) 0)

end Sys2Proof.Machine
end

