-- ==== Sys2Proof/Machine/Regions.lean ====
section
/-! DEFINITION. The region table, SETTLE and RENEW, with the points and completions of their sweeps (R316 to R321). -/

namespace Sys2Proof.Machine

/-! ## The region table (R317) -/

/-- RGSET (R317): a store followed by a release at .dv. -/
def execRgset (f : FTR) (s : State) : Out :=
  checked (.rgset f) s fun s =>
    let k := (s.g f.ga).toNat
    let b := s.g f.gb
    let n := s.g f.gc
    if 128 ≤ k then .next (s.raise 20 0)
    else if b.toNat % 64 ≠ 0 then .next (s.raise 9 b)
    else if n.toNat % 64 ≠ 0 then .next (s.raise 9 n)
    else if 2 ^ 40 < n.toNat ∨ 2 ^ 58 < b.toNat + n.toNat then .next (s.raise 21 0)
    else if s.waitsVector || s.ordering s.cur then .next s
    else
      let (s1, done) := s.release s.cur 3
      if !done then .next s1
      else .next (s1.modRegion s1.curCtx k fun r => { r with base := b.setWidth 58, len := n }).advance

/-- A field of a region table entry (R316, R317). -/
def Region.field (r : Region) (k : BitVec 2) : Word :=
  match k.toNat with
  | 0 => r.base.setWidth 64
  | 1 => r.len
  | 2 => r.scnt
  | _ => r.rcnt

/-- RGRD (R317): the field now, with no wait and no acquire. -/
def execRgrd (f : FTR) (s : State) : Out :=
  checked (.rgrd f) s fun s =>
    let k := (s.g f.ga).toNat
    if 128 ≤ k then .next (s.raise 20 0)
    else .next (s.put (hReg f.h) ((s.region s.curCtx k).field (f.imm.extractLsb' 0 2)))

/-! ## SETTLE and RENEW (R318, R319) -/

/-- What SETTLE and RENEW wait for before their checks (R318). -/
def State.sweepWaits (s : State) : Bool :=
  match s.cur with
  | .cc _ => s.unperformed s.cur
  | .ce _ _ => !s.core.tlc.idle
  | _ => s.waitsVector

/-- The pages of a region with their leaves, in order, or what the checks of R318 find. -/
def State.sweepCheck (s : State) (r : Region) (renew : Bool) : Except AccFault (List (Leaf × Word × Nat)) :=
  match s.checkAccess (s.accessor s.cur) ⟨true, false, false, 0, true⟩ (r.base.setWidth 64) r.len.toNat with
  | .error f => .error f
  | .ok l =>
    match l.find? (fun p => pteKind p.1.val == .priv) with
    | some p => .error ⟨12, p.2.1, false⟩
    | none =>
      match l.find? (fun p => renew && pteKind p.1.val != .readonly && (!pteBit p.1.val 2 || pteBit p.1.val 9)) with
      | some p => .error ⟨11, p.2.1, false⟩
      | none => .ok l

/-- Every staged line of the current sequencer's cluster leaves for its home (R319), and whether every earlier store and
reduction has been acknowledged. -/
def State.publishOwn (s : State) : State × Bool :=
  if s.unperformed s.cur then (s, false)
  else
    match s.clusterOf s.cur with
    | none => (s, true)
    | some c =>
      let s1 := s.publishAll c
      (s1, !s1.unpublished c)

/-- The physical lines of checked pieces. -/
def linesOf (l : List (Leaf × Word × Nat)) : List Nat :=
  l.flatMap fun p => (List.range (p.2.2 / 64)).map fun k => p.1.pa p.2.1 + 64 * k

/-- The lines of checked pieces that a slice can hold: those of the device-register range are never cached (R296), and a sweep
finds nothing of them. -/
def sweptLines (l : Leaves) : List Nat := (linesOf l).filter fun la => decide (la < 2 ^ 50)

/-- SETTLE and RENEW (R318, R319): waits, checks, publishes; then the sweep is numbered on TLV and begins. -/
def sweepAccess (f : FIM) (renew : Bool) (s : State) : Out :=
  let k := (s.g f.ga).toNat
  if s.sweepWaits || s.ordering s.cur then .next s
  else if 128 ≤ k then .next (s.raise 20 0)
  else
    match s.sweepCheck (s.region s.curCtx k) renew with
    | .error e => .next (s.raiseAcc (sourceOf s.cur) e)
    | .ok l =>
      let (s1, done) := (s.markAll l false).publishOwn
      if !done then .next s1
      else
        let (i, s2) := s1.takeId
        let n := s2.core.tlv.issued + 1
        let w : Sweep := { id := i, src := s2.cur, ctx := s2.curCtx, region := k, renew := renew, left := sweptLines l,
                           num := n, stranded := 0, pinned := 0, failed := false }
        let s3 := { s2 with sweeps := s2.sweeps ++ [w], core := { s2.core with tlv := s2.core.tlv.take } }
        .next (if renew then s3.modCore fun x => { x with run := .renewing (hReg f.h) i }
          else s3.put (hReg f.h) (BitVec.ofNat 64 n))

/-- SETTLE (R318, R319). -/
def execSettle (f : FIM) (s : State) : Out := checked (.settle f) s (sweepAccess f false)

/-- RENEW (R318, R319). -/
def execRenew (f : FIM) (s : State) : Out := checked (.renew f) s (sweepAccess f true)

/-! ## Points and completions (R319, R320) -/

/-- A line of a sweep has been acted on. -/
def State.sweptLine (s : State) (i line stranded pinned : Nat) : State :=
  { s with sweeps := mapIf s.sweeps (fun w => w.id == i) fun w =>
      { w with left := w.left.erase line, stranded := w.stranded + stranded, pinned := w.pinned + pinned } }

/-- A sweep of one kind with a line still to be acted on. -/
def State.sweepAt (s : State) (i line : Nat) (renew : Bool) : Bool :=
  s.sweeps.any fun w => w.id == i && w.renew == renew && w.left.contains line

/-- The settle point of a line: its holders are checked, and a dirty or poisoned line is written to the arrays and is
clean (R313, R319). -/
def State.settleLine (s : State) (la : Nat) : State :=
  let s1 := s.forceLine la
  match s1.homeCopy la with
  | some l => if l.isDirty then s1.cleanLine l else s1
  | none => s1

/-- SETTLE_POINT (R320). A line whose channel retrains waits (R449). -/
def execSettlePoint (sweep line : Nat) (s : State) : Out :=
  if s.sweepAt sweep line false && !s.retraining line then .next ((s.settleLine line).sweptLine sweep line 0 0) else .next s

/-- Every READONLY replica of a line leaves the caches (R302). -/
def State.dropReplicaLine (s : State) (la : Nat) : State :=
  s.modMem fun m => { m with
    caches := m.caches.filter fun c => !(c.readonly && c.addr == la)
    lines := m.lines.filter fun l => !(l.kind == .replica && l.addr == la) }

/-- The renew point of a line, without a check: how many lines it strands and how many it finds pinned (R319). -/
def State.renewLine (s : State) (la : Nat) : State × Nat × Nat :=
  let s1 := (s.dropReplicaLine la).breakWords (maskWords la (BitVec.allOnes 512))
  match s1.homeCopy la with
  | some l =>
    if l.window.isSome then (s1, 0, 1)
    else if l.dirty.isSome || l.poison then (s1.dropLine l, 1, 0)
    else (s1.dropLine l, 0, 0)
  | none => (s1, 0, 0)

/-- RENEW_POINT (R320). -/
def execRenewPoint (sweep line : Nat) (s : State) : Out :=
  if s.sweepAt sweep line true then
    let (s1, a, b) := s.renewLine line
    .next (s1.sweptLine sweep line a b)
  else .next s

/-- A sweep of one kind with every line acted on. -/
def State.sweepDone (s : State) (i : Nat) (renew : Bool) : Option Sweep :=
  s.sweeps.find? fun w => w.id == i && w.renew == renew && w.left.isEmpty

/-- A sweep ends. -/
def State.dropSweep (s : State) (i : Nat) : State := { s with sweeps := s.sweeps.filter fun w => w.id != i }

/-- A sweep's number completes on TLV; one that lost lines with their die has failed, and is logged and counted (R43,
R418). The spec states no EADDR and operand of that entry. -/
def State.endSweep (s : State) (w : Sweep) : State :=
  let s1 := s.completeOp w.src 0 w.num w.failed
  if w.failed then
    let (n, s2) := s1.takeFree
    s2.reportFault w.src w.ctx 348 (plainBody (Config.unstated n 0) (Config.unstated n 1) w.num)
  else s1

/-- SETTLE_COMPLETION (R319): SCNT gains one and the TLV number completes. -/
def execSettleCompletion (sweep : Nat) (s : State) : Out :=
  match s.sweepDone sweep false with
  | some w =>
    let s1 := (s.dropSweep sweep).modRegion w.ctx w.region fun r => { r with scnt := r.scnt + 1 }
    .next (s1.endSweep w)
  | none => .next s

/-- What RENEW writes to gd (R319). -/
def Sweep.result (w : Sweep) : Word :=
  BitVec.ofNat 64 (Nat.min w.stranded (2 ^ 32 - 1) + 2 ^ 32 * Nat.min w.pinned (2 ^ 32 - 1))

/-- RENEW_COMPLETION (R319): RCNT gains one, the TLV number completes, and the issuer goes on with its counts. -/
def execRenewCompletion (sweep : Nat) (s : State) : Out :=
  match s.sweepDone sweep true with
  | some w =>
    let s1 := (s.dropSweep sweep).modRegion w.ctx w.region fun r => { r with rcnt := r.rcnt + 1 }
    let s2 := s1.endSweep w
    .next (s2.modSeq w.src fun x =>
      match x.run with
      | .renewing gd i =>
        if i = sweep then
          { x with run := .running, bank := x.bank.write gd w.result, pc := Machine.nextPc x.heads x.pc,
                   ply := x.bank.loops.isEmpty }
        else x
      | _ => x)
  | none => .next s

end Sys2Proof.Machine
end

