-- ==== Sys2Proof/Machine/Matrix.lean ====
section
/-! DEFINITION. The matrix engine: windows, matrix state, commands and their partials (R266 to R288). -/

namespace Sys2Proof.Machine

/-! ## Window registers and windows (R267 to R271) -/

/-- A window register: those of the worker, which its forked contexts share (R39, R267). -/
def State.winReg (s : State) (k : BitVec 3) : WindowReg := (s.ownerSeq s.cur).w.win.getD k.toNat WindowReg.reset

/-- Writes a window register. -/
def State.setWinReg (s : State) (k : BitVec 3) (r : WindowReg) : State :=
  match ownerOf s.cur with
  | some w => s.modSeq (.worker w) fun x => { x with w := { x.w with win := x.w.win.setIfInBounds k.toNat r } }
  | none => s

/-- The window a register field names. -/
def windowSel (f : FTR) : BitVec 3 := hMask f.h

/-- A window by its number. -/
def State.window? (s : State) (i : Nat) : Option Window := s.windows.find? fun w => w.id == i

/-- The launch slot of the current sequencer; a control core has none. -/
def State.curSlot (s : State) : Nat :=
  match ownerOf s.cur with
  | some w => w.slot
  | none => 0

/-- Every line that a window uses. -/
def State.windowLines (s : State) : List Nat := s.windows.flatMap fun w => w.lines

/-- The lines a slice pins at most (R312). -/
def State.slicePins (s : State) (d : Nat) : Nat := (s.regs.accpart.getD d 0).toNat / 48

/-- One more line fits its home slice, its set and the context's quota on its home die (R268, R312). -/
def State.pinFits (s : State) (c : Nat) (mine others : List Nat) (la : Nat) : Bool :=
  let d := s.homeDie la
  let here := (others.filter fun x => s.homeOf x == s.homeOf la).length
  let same := (others.filter fun x => s.homeOf x == s.homeOf la && setOf x == setOf la).length
  let used := (mine.filter fun x => s.homeDie x == d).length
  decide (here < s.slicePins d) && decide (same < 12) && decide (used < ((s.ctx c).cwquota.getD d 0).toNat)

/-- The lines of a new window fit, one after another. -/
def State.pinsFit (s : State) (c : Nat) : List Nat → List Nat → List Nat → Bool
  | [], _, _ => true
  | la :: r, mine, others => s.pinFits c mine others la && s.pinsFit c r (la :: mine) (la :: others)

/-- The lines a context has pinned or is pinning. -/
def State.linesOfCtx (s : State) (c : Nat) : List Nat := (s.windows.filter fun w => w.ctx == c).flatMap fun w => w.lines

/-- A failed check with its condition and no address. -/
def failed {α : Type} (cond : Nat) : Except AccFault α := .error ⟨cond, 0, false⟩

/-- Row pitch in lines: ceil(COLS / 16) (R267). -/
def pitchOf (cols : Nat) : Nat := ceilDiv cols 16

/-- A page whose lines lie in an FP64-coded or lg6-tagged range, or where CODED-REGION is raised by R328. -/
def State.windowCoded (s : State) (p : Leaf × Word × Nat) : Bool :=
  let pa := p.1.pa p.2.1
  s.fmtAt pa != 0 || s.fmtAt (pa + p.2.2 - 1) != 0 || !s.codedOk pa (pteKind p.1.val)

/-- The checks of MOPEN after the register's (R278): the pages of the window, lowest first. -/
def State.openCheck (s : State) (c : Nat) (base rows cols : Word) : Except AccFault (List (Leaf × Word × Nat)) :=
  if rows.toNat < 1 ∨ 128 < rows.toNat ∨ cols.toNat < 1 ∨ 128 < cols.toNat then failed 38
  else if base.toNat % 64 ≠ 0 then .error ⟨9, base, false⟩
  else
    match s.checkAccess (s.accessor s.cur) ⟨false, true, false, 0, true⟩ base (64 * rows.toNat * pitchOf cols.toNat) with
    | .error e => .error e
    | .ok l =>
      match l.find? (fun p => pteKind p.1.val != .shared && pteKind p.1.val != .inplace) with
      | some p => .error ⟨12, p.2.1, false⟩
      | none =>
        match l.find? s.windowCoded with
        | some p => .error ⟨18, p.2.1, false⟩
        | none =>
          match l.find? (fun p => !s.inplaceOk p.1 (p.1.pa p.2.1)) with
          | some p => .error ⟨32, p.2.1, false⟩
          | none =>
            let ls := linesOf l
            if ls.any fun x => s.windowLines.contains x then failed 38
            else if s.pinsFit c ls (s.linesOfCtx c) s.windowLines then .ok l
            else failed 15

/-! ## Commands -/

/-- Issuing a matrix command waits: for an access that acquires (R164), and on a VC for a free queue entry (R276). -/
def State.matrixWaits (s : State) : Bool := s.ordering s.cur || (kindOf s.cur == .vc && s.queueFull)

/-- A matrix command of the current sequencer with what it captured (R266, R277): numbered on TLM, or the follow-on of
a copy command (R404). -/
def State.newCmd (s : State) (kind : MxKind) (follow : Option Nat) (window : Nat) (a b : Word) (k : Nat)
    (pages : List PageMap) (left : List Nat) : State × MxCmd :=
  let (i, s1) := s.takeId
  let c : MxCmd :=
    { id := i, cluster := (s.clusterOf s.cur).getD 0, src := s.cur, follow := follow,
      num := if follow.isSome then 0 else s.core.tlm.issued + 1, kind := kind, window := window, a := a, b := b, k := k,
      st := s.core.mx, pages := pages, accepted := false, started := false, sent := false, slices := [], left := left,
      array := 0, failed := none }
  let s2 := if follow.isSome then s1 else s1.modCore fun x => { x with tlm := x.tlm.take }
  ({ s2 with mxCmds := s2.mxCmds ++ [c] }, c)

/-- A command by its number. -/
def State.cmd? (s : State) (i : Nat) : Option MxCmd := s.mxCmds.find? fun c => c.id == i

/-- Changes a command. -/
def State.modCmd (s : State) (i : Nat) (f : MxCmd → MxCmd) : State :=
  { s with mxCmds := mapIf s.mxCmds (fun c => c.id == i) f }

/-- A copy command fails or completes: TLC counts it, and it leaves (R402, R405). -/
def State.endCopy (s : State) (c : CpCmd) (isFailed : Bool) : State :=
  { s with cpCmds := s.cpCmds.filter fun x => x.id != c.id }.completeOp c.src 2 c.num isFailed

/-- The one entry of a failed copy operation, framed as CE (R404, R405, R407). -/
def State.reportCopy (s : State) (c : CpCmd) (cause off : Nat) (eaddr : Word) : State :=
  let (wid, h) := ceNames c.src
  let ctx := match ownerOf c.src with
    | some w => w.ctx
    | none => 0
  s.reportFault c.src ctx cause (ceBody c.num wid h cause off c.mig eaddr)

/-- The context a sequencer's matrix commands act for. -/
def launchCtx (q : SeqId) : Nat :=
  match ownerOf q with
  | some w => w.ctx
  | none => 0

/-- The virtual base of a command's window. -/
def State.windowBase (s : State) (c : MxCmd) : Word :=
  match s.window? c.window with
  | some w => w.base
  | none => 0

/-- A command has been applied (R277): TLM, or the operation of its copy, completes. One with a failed operand line is
reported (R287, R404). -/
def State.endCmd (s : State) (c : MxCmd) : State :=
  let s1 : State := { s with mxCmds := s.mxCmds.filter fun x => x.id != c.id }
  match c.follow with
  | none =>
    let s2 := match c.failed with
      | some va => s1.reportFault c.src (launchCtx c.src) 145 (plainBody va (s.windowBase c) c.num)
      | none => s1
    s2.completeOp c.src 1 c.num c.failed.isSome
  | some k =>
    match s1.cpCmds.find? fun x => x.id == k with
    | none => s1
    | some y =>
      let s2 := match c.failed with
        | some va => s1.reportCopy y 145 (y.rows * y.width) va
        | none => s1
      s2.endCopy y c.failed.isSome

/-- Every line of a pin or zero command has been reached, or an MMA has K = 0: the command is complete once it is
accepted (R277). -/
def State.settleCmd (s : State) (i : Nat) : State :=
  match s.cmd? i with
  | none => s
  | some c =>
    match c.kind with
    | .openLoad => if c.accepted && c.left.isEmpty then s.endCmd c else s
    | .openZero => if c.accepted && c.left.isEmpty then s.endCmd c else s
    | .zero => if c.accepted && c.left.isEmpty then s.endCmd c else s
    | .mmas => if c.accepted && c.k == 0 then s.endCmd c else s
    | .mmaf => if c.accepted && c.k == 0 then s.endCmd c else s
    | .close => s

/-- The MX accepts a command (R276). -/
def State.acceptCmd (s : State) (i : Nat) : State := (s.modCmd i fun c => { c with accepted := true }).settleCmd i

/-- A checked command of the current sequencer goes on: on a VC into the queue (R276), on an MX sequencer to the MX. -/
def State.issueCmd (s : State) (i : Instr) (c : MxCmd) : State :=
  match s.cur with
  | .worker _ =>
    let (e, s1) := s.takeId
    s1.enqueue { s1.entryFor i e with cmd := c.id }
  | _ => (s.acceptCmd c.id).advance

/-- MOPEN (R278). -/
def openWindow (i : Instr) (f : FTR) (zero : Bool) (s : State) : Out :=
  let k := windowSel f
  if s.matrixWaits then .next s
  else if (s.winReg k).isOpen then .next (s.raiseFrom 2 38 0)
  else
    match s.openCheck s.curCtx (s.g f.ga) (s.g f.gb) (s.g f.gc) with
    | .error e => .next (s.raiseAcc 2 e)
    | .ok l =>
      if reachesDevice l then .fault .deviceRegisters
      else
      let (w, s1) := (s.markAll l true).takeId
      let ls := linesOf l
      let cols := (s.g f.gc).toNat
      let win : Window :=
        { id := w, ctx := s.curCtx, slot := s.curSlot, base := s.g f.ga, rows := (s.g f.gb).toNat, cols := cols,
          pitchl := pitchOf cols, lines := ls, pinned := [], bad := [], zero := zero }
      let s2 := ({ s1 with windows := s1.windows ++ [win] }).setWinReg k
        { isOpen := true, cols := BitVec.ofNat 8 cols, rows := BitVec.ofNat 8 win.rows,
          pitchl := BitVec.ofNat 4 win.pitchl, base := (s.g f.ga).setWidth 58, window := w }
      let (s3, c) := s2.newCmd (if zero then .openZero else .openLoad) none w 0 0 0
        (l.map fun p => p.1.page p.2.1) ls
      .next (s3.issueCmd i c)

/-- MOPEN.load (R278). -/
def execMopenLoad (f : FTR) (s : State) : Out :=
  checked (.mopenLoad f) s fun s => openWindow (.mopenLoad f) f false s

/-- MOPEN.zero (R278). -/
def execMopenZero (f : FTR) (s : State) : Out :=
  checked (.mopenZero f) s fun s => openWindow (.mopenZero f) f true s

/-- MCLOSE (R279): OPEN is cleared at issue. On an MX sequencer the command is accepted at once, and completes by
MCLOSE_COMPLETION. -/
def execMclose (f : FTR) (s : State) : Out :=
  checked (.mclose f) s fun s =>
    let k := windowSel f
    let r := s.winReg k
    if s.matrixWaits then .next s
    else if !r.isOpen then .next (s.raiseFrom 2 14 0)
    else
      let (s1, c) := (s.setWinReg k { r with isOpen := false }).newCmd .close none r.window 0 0 0 [] []
      .next (s1.issueCmd (.mclose f) c)

/-- The check of MZERO, and its command (R280). -/
def State.prepareZero (s : State) (f : FTR) (follow : Option Nat) : Except AccFault (State × MxCmd) :=
  let r := s.winReg (windowSel f)
  if !r.isOpen then failed 14
  else
    match s.window? r.window with
    | none => failed 14
    | some w => .ok (s.newCmd .zero follow w.id 0 0 0 [] w.lines)

/-- MZERO (R280). -/
def execMzero (f : FTR) (s : State) : Out :=
  checked (.mzero f) s fun s =>
    if s.matrixWaits then .next s
    else
      match s.prepareZero f none with
      | .error e => .next (s.raiseAcc 2 e)
      | .ok (s1, c) => .next (s1.issueCmd (.mzero f) c)

/-- MPRED and MFMT go on: on a VC they pass through the queue (R276). -/
def State.issueState (s : State) (i : Instr) : State :=
  match s.cur with
  | .worker _ =>
    let (e, s1) := s.takeId
    s1.enqueue (s1.entryFor i e)
  | _ => s.advance

/-- Both predicates lie in 1 to 128 (R281). -/
def predicatesOk (a b : Word) : Bool :=
  decide (1 ≤ a.toNat) && decide (a.toNat ≤ 128) && decide (1 ≤ b.toNat) && decide (b.toNat ≤ 128)

/-- MPRED (R281). -/
def execMpred (f : FTR) (s : State) : Out :=
  checked (.mpred f) s fun s =>
    if s.matrixWaits then .next s
    else if !predicatesOk (s.g f.ga) (s.g f.gb) then .next (s.raiseFrom 2 39 0)
    else
      .next ((s.modCore fun x => { x with mx := { x.mx with
        pr := (s.g f.ga).setWidth 8, pc := (s.g f.gb).setWidth 8 } }).issueState (.mpred f))

/-- A format code of MFMT (R282). -/
def formatOk (t : Nat) : Bool := decide (8 ≤ t ∧ t ≤ 12)

/-- A stride fits its format (R282, check 3). -/
def strideOk (t : Nat) (g : Word) : Bool := !(decide (11 ≤ t)) || g.toNat % 2 == 0

/-- MFMT (R282). -/
def execMfmt (f : FTR) (s : State) : Out :=
  checked (.mfmt f) s fun s =>
    let fa := (f.imm.extractLsb' 0 4).toNat
    let fb := (f.imm.extractLsb' 4 4).toNat
    if s.matrixWaits then .next s
    else if !(formatOk fa && formatOk fb && ((fa == 8) == (fb == 8))) then .next (s.raiseFrom 2 35 0)
    else if 2 ^ 32 ≤ (s.g f.ga).toNat ∨ 2 ^ 32 ≤ (s.g f.gb).toNat then .next (s.raiseFrom 2 3 0)
    else if !strideOk fa (s.g f.ga) then .next (s.raiseFrom 2 9 (s.g f.ga))
    else if !strideOk fb (s.g f.gb) then .next (s.raiseFrom 2 9 (s.g f.gb))
    else
      .next ((s.modCore fun x => { x with mx := { x.mx with
        fa := BitVec.ofNat 4 fa, fb := BitVec.ofNat 4 fb, sa := (s.g f.ga).setWidth 32, sb := (s.g f.gb).setWidth 32,
        sca := (s.g f.gc).extractLsb' 0 8, scb := (s.g f.gc).extractLsb' 8 8 } }).issueState (.mfmt f))

/-! ## MMAS and MMAF at issue (R283, R286) -/

/-- Bytes per element of a format; 1 for lg6, which has no alignment (R283). -/
def operandAlign (t : Nat) : Nat := if 11 ≤ t then 2 else 1

/-- The bytes that n consecutive elements of a format take. -/
def operandBytes (t n : Nat) : Nat := ceilDiv (n * etWidth t) 8

/-- The stretches of bytes a command reads: the rows of A, then those of B (R283). -/
def operandSpans (st : MatrixState) (a b : Word) (k : Nat) : List (Word × Nat) :=
  ((List.range st.pr.toNat).map fun i =>
    (a + BitVec.ofNat 64 (i * st.sa.toNat), operandBytes st.fa.toNat k)) ++
  ((List.range k).map fun t => (b + BitVec.ofNat 64 (t * st.sb.toNat), operandBytes st.fb.toNat st.pc.toNat))

/-- The checks of R163 on every stretch, in order, each page once. -/
def State.spanCheck (s : State) (a : Accessor) : List (Word × Nat) → List (Leaf × Word × Nat) →
    Except AccFault (List (Leaf × Word × Nat))
  | [], acc => .ok acc.reverse
  | (va, n) :: r, acc =>
    if n = 0 then s.spanCheck a r acc
    else if acc.any fun p => p.2.1.toNat / 4096 == va.toNat / 4096 && (va.toNat % 4096 + n ≤ 4096) then
      s.spanCheck a r acc
    else
      match s.checkAccess a ⟨true, false, false, 0, true⟩ va n with
      | .error e => .error e
      | .ok l => s.spanCheck a r (l.reverse ++ acc)

/-- A page of an operand that lies in an FP64-coded range, or where CODED-REGION is raised by R328. -/
def State.operandCoded (s : State) (p : Leaf × Word × Nat) : Bool :=
  let pa := p.1.pa p.2.1
  s.fmtAt pa == 1 || s.fmtAt (pa + p.2.2 - 1) == 1 || !s.codedOk pa (pteKind p.1.val)

/-- The checks of R283 after WINDOW-CLOSED. In a row of its table the pages of A come before those of B, an order that no rule
gives (DESIGN CHOICE, log entry 101). -/
def State.mmaCheck (s : State) (r : WindowReg) (ga gb gc : Word) : Except AccFault (List (Leaf × Word × Nat)) :=
  let st := s.core.mx
  if r.rows.toNat < st.pr.toNat ∨ r.cols.toNat < st.pc.toNat ∨ 65536 < gc.toNat then failed 38
  else if ga.toNat % operandAlign st.fa.toNat ≠ 0 then .error ⟨9, ga, false⟩
  else if gb.toNat % operandAlign st.fb.toNat ≠ 0 then .error ⟨9, gb, false⟩
  else
    match s.spanCheck (s.accessor s.cur) (operandSpans st ga gb gc.toNat) [] with
    | .error e => .error e
    | .ok l =>
      match l.find? s.operandCoded with
      | some p => .error ⟨18, p.2.1, false⟩
      | none =>
        match l.find? (fun p => !s.inplaceOk p.1 (p.1.pa p.2.1)) with
        | some p => .error ⟨32, p.2.1, false⟩
        | none => .ok l

/-- The checks of MMAS and MMAF, and their command (R283). -/
def State.prepareMma (s : State) (f : FTR) (strict : Bool) (follow : Option Nat) : Except AccFault (State × MxCmd) :=
  let r := s.winReg (windowSel f)
  if !r.isOpen then failed 14
  else
    match s.mmaCheck r (s.g f.ga) (s.g f.gb) (s.g f.gc) with
    | .error e => .error e
    | .ok l =>
      .ok ((s.markAll l false).newCmd (if strict then .mmas else .mmaf) follow r.window (s.g f.ga) (s.g f.gb)
        (s.g f.gc).toNat (l.map fun p => p.1.page p.2.1) [])

/-- A command whose operand pages lie in the device-register range (R11). -/
def MxCmd.device (c : MxCmd) : Bool := c.pages.any fun p => decide (2 ^ 38 ≤ p.ppn)

/-- MMAS and MMAF (R283, R286): on an MX sequencer the implicit release at die scope comes first; on a VC it holds the
command's dispatch. -/
def mmaAccess (i : Instr) (f : FTR) (strict : Bool) (s : State) : Out :=
  if s.matrixWaits then .next s
  else
    match s.prepareMma f strict none with
    | .error e => .next (s.raiseAcc 2 e)
    | .ok (s1, c) =>
      if c.device then .fault .deviceRegisters
      else
      match s.cur with
      | .worker _ => .next (s1.issueCmd i c)
      | _ =>
        let (s2, done) := s.release s.cur 2
        if done then
          match s2.prepareMma f strict none with
          | .error e => .next (s2.raiseAcc 2 e)
          | .ok (s3, d) => .next (s3.issueCmd i d)
        else .next s2

/-- MMAS (R284). -/
def execMmas (f : FTR) (s : State) : Out := checked (.mmas f) s fun s => mmaAccess (.mmas f) f true s

/-- MMAF (R284). -/
def execMmaf (f : FTR) (s : State) : Out := checked (.mmaf f) s fun s => mmaAccess (.mmaf f) f false s

/-! ## Windows at their home slices -/

/-- The line of row i, column block c of a window. -/
def Window.line (w : Window) (i c : Nat) : Option Nat := w.lines[i * w.pitchl + c]?

/-- The lines a product updates: rows below PR, column blocks below ceil(PC / 16) (R285). -/
def MxCmd.targets (c : MxCmd) (w : Window) : List (Nat × Nat × Nat) :=
  if c.k = 0 then []
  else
    (List.range c.st.pr.toNat).flatMap fun i =>
      (List.range (pitchOf c.st.pc.toNat)).filterMap fun b => (w.line i b).map fun la => (i, b, la)

/-- A product's partial for a line is still to come: not yet sent, or on its way. -/
def State.partialDue (s : State) (c : MxCmd) (la : Nat) : Bool :=
  (!c.sent && match s.window? c.window with
    | some w => (c.targets w).any fun t => t.2.2 == la
    | none => false) ||
  s.net.msgs.any fun m => m.pa == la && m.reply.isNone && match m.body with
    | .mxPartial i _ => i == c.id
    | _ => false

/-- An earlier command of the same issuer on the same window has still to reach a line, and goes before one of the given
kind (R285): pins and zeroes always, an MMAS before an MMAS, every product before a zero. -/
def State.windowOrder (s : State) (c : MxCmd) (la : Nat) : Bool :=
  s.mxCmds.any fun e =>
    decide (e.id < c.id) && e.src == c.src && e.window == c.window &&
    match e.kind with
    | .openLoad => e.left.contains la
    | .openZero => e.left.contains la
    | .zero => e.left.contains la
    | .mmas => (c.kind == .mmas || c.kind == .zero) && s.partialDue e la
    | .mmaf => c.kind == .zero && s.partialDue e la
    | .close => false

/-- A pin or zero command has reached a line. -/
def State.reached (s : State) (c : MxCmd) (la : Nat) : State :=
  (s.modCmd c.id fun x => { x with left := x.left.filter fun y => y != la }).settleCmd c.id

/-- MZERO at one line (R280): nothing is written to a poisoned one (R271). -/
def State.zeroLine (s : State) (la : Nat) : State :=
  let (s1, l) := s.coherent la
  if l.poison then s1 else s1.homeWrite la 0 (BitVec.allOnes 512) false

/-- WINDOW_PIN (R278, R280): a pin or zero command reaches one of its lines, once it need not be read over a channel that
retrains (R449). -/
def execWindowPin (cmd line : Nat) (s : State) : Out :=
  match s.cmd? cmd with
  | none => .next s
  | some c =>
    if !c.accepted || !c.left.contains line || s.windowOrder c line then .next s
    else
      match c.kind with
      | .openLoad => if s.lineWaits line then .next s else .next ((s.forceLine line).reached c line)
      | .openZero => .next ((s.forceLine line).reached c line)
      | .zero => if (s.pinPending line).isSome || s.lineWaits line then .next s else .next ((s.zeroLine line).reached c line)
      | _ => .next s

/-- MCLOSE_COMPLETION (R279): every command that named the window before the MCLOSE has been applied. -/
def execMcloseCompletion (cmd : Nat) (s : State) : Out :=
  match s.cmd? cmd with
  | none => .next s
  | some c =>
    let earlier := s.mxCmds.any fun e => decide (e.id < c.id) && e.window == c.window
    if c.kind != .close || !c.accepted || earlier then .next s
    else
      match s.window? c.window with
      | none => .next (s.endCmd c)
      | some w =>
        let s1 := (s.reportWindow c.src w c.num).unpinWindow w.id
        .next (({ s1 with mxCmds := s1.mxCmds.filter fun x => x.id != c.id }).completeOp c.src 1 c.num (!w.bad.isEmpty))

/-! ## Tile fetch and arrays (R272, R273, R284) -/

/-- A product waits for an array: accepted, not started. -/
def MxCmd.waiting (c : MxCmd) : Bool := (c.kind == .mmas || c.kind == .mmaf) && !c.started && c.k != 0

/-- The commands a cluster's MX may take: of each party its oldest waiting one, when that has been accepted (R273). -/
def State.takeable (s : State) (cluster : Nat) : List MxCmd :=
  s.mxCmds.filter fun c => c.cluster == cluster && c.waiting && c.accepted &&
    !(s.mxCmds.any fun e => decide (e.id < c.id) && e.src == c.src && e.waiting)

/-- An array of a cluster runs no command. -/
def State.arrayFree (s : State) (cluster a : Nat) : Bool :=
  !(s.mxCmds.any fun c => c.cluster == cluster && c.started && !c.sent && c.array == a)

/-- MX_COMMAND_START (R273): which party's slice is pinned first is free. -/
def execMxCommandStart (cluster : Nat) (s : State) : Out :=
  let l := s.takeable cluster
  match (List.range 4).find? fun a => s.arrayFree cluster a with
  | none => .next s
  | some a =>
    let (k, s1) := s.takeFree
    match l[Config.freeChoice k 0 % l.length]? with
    | none => .next s
    | some c => .next (s1.modCmd c.id fun x => { x with started := true, array := a })

/-- The physical address and kind of a byte of an operand. -/
def MxCmd.place (c : MxCmd) (va : Word) : Nat × PageKind :=
  match c.pages.find? fun p => p.vpn == va.toNat / 4096 with
  | some p => (4096 * p.ppn + va.toNat % 4096, pteKind ((p.kind.setWidth 64) <<< 5))
  | none => (0, .shared)

/-- A line of an operand as tile fetch reads it (R272): bytes, poison, scale tag. -/
def State.fetchOperand (s : State) (c : MxCmd) (va : Word) : State × SliceLine :=
  let (pa, kind) := c.place va
  if kind = .priv ∨ kind = .readonly then s.readL2 (c.cluster / 16) kind (lineOf pa) else s.coherent (lineOf pa)

/-- The lines of a stretch of bytes, read once each: their virtual line addresses with what was read. -/
def State.fetchSpan (s : State) (c : MxCmd) : Nat → Word → List (Word × SliceLine) → State × List (Word × SliceLine)
  | 0, _, acc => (s, acc)
  | n + 1, va, acc =>
    if acc.any fun p => p.1 == va then s.fetchSpan c n (va + 64) acc
    else
      let (s1, l) := s.fetchOperand c va
      s1.fetchSpan c n (va + 64) ((va, l) :: acc)

/-- The lines of several stretches. -/
def State.fetchSpans (s : State) (c : MxCmd) : List (Word × Nat) → List (Word × SliceLine) →
    State × List (Word × SliceLine)
  | [], acc => (s, acc)
  | (va, n) :: r, acc =>
    let first := va &&& ~~~63#64
    let (s1, acc1) := s.fetchSpan c (ceilDiv (va.toNat % 64 + n) 64) first acc
    s1.fetchSpans c r acc1

/-- One element of an operand from the lines read, at a bit offset from a byte address; an lg6 element carries the scale
tag of the line that holds its lowest bit (R284, log entry 40). -/
def elementIn (ls : List (Word × SliceLine)) (t : Nat) (va : Word) (bit : Nat) : Nat :=
  let at_ := va + BitVec.ofNat 64 (bit / 8)
  let base := at_ &&& ~~~63#64
  let here : LineBits := match ls.find? fun p => p.1 == base with
    | some p => p.2.data
    | none => 0
  let tag := match ls.find? fun p => p.1 == base with
    | some p => p.2.tag.toNat
    | none => 0
  let more : LineBits := match ls.find? fun p => p.1 == base + 64 with
    | some p => p.2.data
    | none => 0
  let off := 8 * (at_.toNat % 64) + bit % 8
  let both : BitVec 1024 := here.setWidth 1024 ||| (more.setWidth 1024 <<< 512)
  let v := (both >>> off).toNat % 2 ^ etWidth t
  if t = 8 then v + 64 * tag else v

/-- The stretches of one K slice of A: from element k0, n elements of every row below PR. -/
def MxCmd.sliceA (c : MxCmd) (k0 n : Nat) : List (Word × Nat) :=
  let w := etWidth c.st.fa.toNat
  (List.range c.st.pr.toNat).map fun i =>
    (c.a + BitVec.ofNat 64 (i * c.st.sa.toNat + k0 * w / 8), ceilDiv (k0 * w % 8 + n * w) 8)

/-- The stretches of one K slice of B: rows k0 to k0 + n − 1, PC elements each. -/
def MxCmd.sliceB (c : MxCmd) (k0 n : Nat) : List (Word × Nat) :=
  (List.range n).map fun t =>
    (c.b + BitVec.ofNat 64 ((k0 + t) * c.st.sb.toNat), operandBytes c.st.fb.toNat c.st.pc.toNat)

/-- The elements of A and of B in one K slice, row after row. -/
def MxCmd.sliceElems (c : MxCmd) (ls : List (Word × SliceLine)) (k0 n : Nat) : List Nat × List Nat :=
  let fa := c.st.fa.toNat
  let fb := c.st.fb.toNat
  ((List.range c.st.pr.toNat).flatMap fun i => (List.range n).map fun t =>
      elementIn ls fa (c.a + BitVec.ofNat 64 (i * c.st.sa.toNat)) ((k0 + t) * etWidth fa),
    (List.range n).flatMap fun t => (List.range c.st.pc.toNat).map fun j =>
      elementIn ls fb (c.b + BitVec.ofNat 64 ((k0 + t) * c.st.sb.toNat)) (j * etWidth fb))

/-- A[i][k] of a command whose slices have been read. -/
def MxCmd.elemA (c : MxCmd) (i k : Nat) : Nat :=
  match c.slices[k / 32]? with
  | some sl => sl.1.getD (i * Nat.min 32 (c.k - 32 * (k / 32)) + k % 32) 0
  | none => 0

/-- B[k][j] of a command whose slices have been read. -/
def MxCmd.elemB (c : MxCmd) (k j : Nat) : Nat :=
  match c.slices[k / 32]? with
  | some sl => sl.2.getD (k % 32 * c.st.pc.toNat + j) 0
  | none => 0

/-- The exact product of two values, scaled (R284). -/
def exactProduct (a b : FVal) (sc : Int) : FVal :=
  match a, b with
  | .nan _, _ => .nan false
  | _, .nan _ => .nan false
  | .inf n, y => if y.isZero then .nan false else .inf (n ^^ y.neg)
  | x, .inf n => if x.isZero then .nan false else .inf (x.neg ^^ n)
  | .fin an am ae, .fin bn bm be => .fin (an ^^ bn) (am * bm) (ae + be + sc)

/-- One addition rounded to f32 by RNE. -/
def addF32 (a b : FVal) : FVal := fdecode 13 (faddV 13 0 a b).1

/-- The value of some full binary tree over the leaves (R112, R284): each round adds two of the values left, by a free
choice. `fuel` is the number of additions. -/
def freeTree (choice : Nat → Nat) : Nat → List FVal → FVal
  | 0, l => l.headD (.fin false 0 0)
  | n + 1, l =>
    let i := choice (2 * n) % l.length
    let x := l.getD i (.fin false 0 0)
    let l1 := l.take i ++ l.drop (i + 1)
    let j := choice (2 * n + 1) % l1.length
    let y := l1.getD j (.fin false 0 0)
    freeTree choice n (addF32 x y :: (l1.take j ++ l1.drop (j + 1)))

/-- The sum of lg6 products whose scales may differ, as f32 (R107, R284). -/
def lgScaledSum (l : List (Nat × Nat × Int)) : Nat :=
  let low := l.foldl (fun m p => min m p.2.2) 1024
  let acc := l.foldl (fun (s : Option Int) p =>
    match s, lgTerm p.1 p.2.1 with
    | some x, some y => some (x + y * (2 ^ (p.2.2 - low).toNat : Nat))
    | _, _ => none) (some 0)
  match acc with
  | none => canonNaN 13
  | some v => (fround 13 0 (decide (v < 0)) v.natAbs (low - 23)).1

/-- The f32 encoding of a value that is an f32. -/
def f32Of (v : FVal) : Nat := (ftofV 13 0 v).1

/-- The partial p[i][j] (R284). `pick` numbers the free choices of an MMAF. -/
def MxCmd.partialAt (c : MxCmd) (pick : Nat) (i j : Nat) : Nat :=
  let sc := signedOf 8 c.st.sca.toNat + signedOf 8 c.st.scb.toNat
  if c.st.fa = 8 then
    lgScaledSum ((List.range c.k).map fun k =>
      let x := c.elemA i k
      let y := c.elemB k j
      (x % 64, y % 64, sc + signedOf 8 (x / 64) + signedOf 8 (y / 64)))
  else
    let terms := (List.range c.k).map fun k =>
      exactProduct (fdecode c.st.fa.toNat (c.elemA i k)) (fdecode c.st.fb.toNat (c.elemB k j)) sc
    if c.kind = .mmas then f32Of (terms.foldl addF32 (.fin false 0 0))
    else
      f32Of (freeTree (fun n => Config.freeChoice pick (131074 * (i * 128 + j) + n)) c.k (.fin false 0 0 :: terms))

/-- A command's partials leave for the home slices of their lines; after a failed operand, messages that poison them
(R284, R287). -/
def State.sendPartials (s : State) (c : MxCmd) (pick : Nat) : State :=
  match s.window? c.window with
  | none => s.endCmd c
  | some w =>
    let s1 := (c.targets w).foldl (fun (acc : State) t =>
      let vals := match c.failed with
        | some _ => []
        | none => (List.range (Nat.min 16 (c.st.pc.toNat - 16 * t.2.1))).map fun e =>
            BitVec.ofNat 32 (c.partialAt pick t.1 (16 * t.2.1 + e))
      acc.send c.src c.cluster t.2.2 0 64 (.mxPartial c.id vals) (c.cluster / 16) (acc.homeDie t.2.2) (acc.homeOf t.2.2)) s
    s1.modCmd c.id fun x => { x with sent := true }

/-- One K slice is read: its elements are added to the command; a poisoned line fails it (R272, R287). -/
def State.readSlice (s : State) (c : MxCmd) : State × MxCmd :=
  let k0 := 32 * c.slices.length
  let n := Nat.min 32 (c.k - k0)
  let (s1, ls) := s.fetchSpans c (c.sliceA k0 n ++ c.sliceB k0 n) []
  let bad := (ls.reverse.find? fun p => p.2.poison).map fun p => p.1
  let d : MxCmd :=
    { c with slices := c.slices ++ [c.sliceElems ls k0 n], failed := if c.failed.isSome then c.failed else bad }
  (s1.modCmd c.id fun _ => d, d)

/-- A line of the next K slice of a command has to be read over a channel that retrains (R449). -/
def State.sliceWaits (s : State) (c : MxCmd) : Bool :=
  let k0 := 32 * c.slices.length
  let n := Nat.min 32 (c.k - k0)
  !s.mgmt.training.isEmpty && (c.sliceA k0 n ++ c.sliceB k0 n).any fun p =>
    (List.range (ceilDiv (p.1.toNat % 64 + p.2) 64)).any fun j =>
      s.lineWaits (lineOf (c.place ((p.1 &&& ~~~63#64) + BitVec.ofNat 64 (64 * j))).1)

/-- K_SLICE (R272): an array consumes the next K slice of its command, and after the last one its partials are sent.
`ue` is an uncorrectable error found in the slice's first line (R313). -/
def execKSlice (cluster array : Nat) (ue : Bool) (s : State) : Out :=
  match s.mxCmds.find? fun c => c.cluster == cluster && c.started && !c.sent && c.array == array with
  | none => .next s
  | some c =>
    if s.sliceWaits c then .next s
    else
      let s0 := if ue then s.poisonLine (lineOf (c.place (c.a + BitVec.ofNat 64
        (32 * c.slices.length * etWidth c.st.fa.toNat / 8))).1) else s
      let (s1, d) := s0.readSlice c
      if d.k ≤ 32 * d.slices.length then
        let (pick, s2) := s1.takeFree
        .next (s2.sendPartials d pick)
      else .next s1

/-! ## Partials at their home slices (R285, R287) -/

/-- A line's values with partials added from its first element, each by one RNE addition, and the bits written. -/
def addPartials (l : LineBits) (vals : List (BitVec 32)) : LineBits × LineBits :=
  ((List.range vals.length).foldl (fun (acc : LineBits) k =>
    let v := (faddV 13 0 (fdecode 13 (lineNum l (4 * k) 4)) (fdecode 13 (vals.getD k 0).toNat)).1
    let (d, m) := placeAt (4 * k) 4 v
    mergeLine acc d m) l, bitMask 0 (32 * vals.length))

/-- A partial is applied as one indivisible action: discarded on a poisoned line (R271), else added, breaking the
reservations on the line's words (R270). -/
def State.addToLine (s : State) (la : Nat) (vals : List (BitVec 32)) : State :=
  let (s1, l) := s.coherent la
  if l.poison then s1
  else
    let (d, m) := addPartials l.data vals
    (s1.homeWrite la d m false).breakWords (maskWords la (BitVec.allOnes 512))

/-- A product is complete once it has been sent and no partial of it is on its way (R277). -/
def State.settlePartials (s : State) (i : Nat) : State :=
  match s.cmd? i with
  | none => s
  | some c =>
    let busy := s.net.msgs.any fun m => m.reply.isNone && match m.body with
      | .mxPartial k _ => k == i
      | _ => false
    if c.sent && !busy then s.endCmd c else s

/-- A partial at its home slice may be applied: its line is pinned, and the window order allows it (R278, R285). -/
def State.partialReady (s : State) (c : MxCmd) (la : Nat) : Bool := (s.pinPending la).isNone && !s.windowOrder c la

/-- A partial that has arrived is applied. One of a command that was discarded changes nothing. -/
def State.takePartial (s : State) (m : Msg) (ue : Bool) : Option State :=
  match m.body with
  | .mxPartial i vals =>
    match s.cmd? i with
    | none => some (s.dropMsg m.id)
    | some c =>
      if s.partialReady c m.pa then
        let s1 := (s.dropMsg m.id)
        let s2 := if ue || vals.isEmpty then s1.poisonLine m.pa else s1
        some ((s2.addToLine m.pa vals).settlePartials i)
      else none
  | _ => none

/-- PARTIAL_APPLICATION (R285). A partial from another die is applied by its transaction (R413). -/
def execPartialApplication (m : Nat) (ue : Bool) (s : State) : Out :=
  match s.msg? m with
  | some x =>
    if x.hops.isEmpty && x.reply.isNone && x.tag.isNone then
      match s.takePartial x ue with
      | some s1 => .next s1
      | none => .next s
    else .next s
  | none => .next s

/-! ## VACC: when a row is released (R288) -/

/-- The lines of the row of a window that begins at a virtual address: all of the row's columns. -/
def Window.rowLines (w : Window) (row : Word) : List Nat :=
  (List.range w.pitchl).filterMap fun b => w.line ((row - w.base).toNat / (64 * w.pitchl)) b

/-- An inline command of a worker that named a window before an instruction of its queue has still to write a line of a
row. -/
def State.rowHeld (s : State) (q : SeqId) (entry window : Nat) (row : Word) : Bool :=
  let lines := match s.window? window with
    | some w => w.rowLines row
    | none => []
  s.mxCmds.any fun c =>
    decide (c.id < entry) && c.src == q && c.window == window && lines.any fun la =>
      match c.kind with
      | .close => false
      | .mmas => s.partialDue c la
      | .mmaf => s.partialDue c la
      | _ => c.left.contains la

end Sys2Proof.Machine
end

