-- ==== Sys2Proof/Machine/VectorOps.lean ====
section
/-! DEFINITION. What every vector instruction shares: its checks at issue (R125, R213), its elements and masks (R123,
R129, R211), the granules behind its registers (R127, R128), and the way its results, flags and poison are put in
place (R124, R130, R137, R202). -/

namespace Sys2Proof.Machine

/-! ## Issue -/

/-- VLMAX of an element width under a VNREG code (R122). -/
def vlmaxOf (code : BitVec 2) (w : Nat) : Nat := regBits code / w

/-- VL exceeds VLMAX of one of the types an instruction names (R125). -/
def State.exceeds (s : State) (types : List Nat) : Bool :=
  types.any fun t => decide (vlmaxOf s.core.w.vncode (etWidth t) < s.core.w.vl.toNat)

/-- A vector instruction that touches no memory: VL-EXCEEDS, then a queue entry with what it captured. A g destination
of a long-latency producer becomes empty (R118). -/
def vectorIssue (i : Instr) (types : List Nat) (ga gb gc : Word) (gd : Option (BitVec 5)) (s : State) : Out :=
  if s.exceeds types then .next (s.raiseFrom 1 8 0)
  else
    let (e, s1) := s.takeId
    let s2 := s1.enqueue { s1.entryFor i e with ga := ga, gb := gb, gc := gc }
    .next (match gd with
      | some r => s2.emptyG r
      | none => s2)

/-- The value of gb that an F-V3 instruction captures: the g register in VB when S = 1 (R211). -/
def State.gbOf (s : State) (f : FV3) : Word := if f.s then s.g (f.vb.extractLsb' 0 5) else 0

/-- An element-wise or permuting F-V3 instruction at issue. -/
def issueV3 (i : Instr) (f : FV3) (types : List Nat) (s : State) : Out :=
  checked i s fun s => vectorIssue i types 0 (s.gbOf f) 0 none s

/-- An F-V4 instruction at issue. -/
def issueV4 (i : Instr) (f : FV4) (types : List Nat) (s : State) : Out :=
  checked i s fun s => vectorIssue i types 0 (s.gbOf f.v) 0 none s

/-! ## Elements -/

/-- Element i of width w of a register; bits beyond its extent read 0 (R123, R124). -/
def VReg.elem (r : VReg) (w i : Nat) : Nat := (r.bits.extractLsb' (w * i) w).toNat

/-- A register of a worker. -/
def Worker.vreg (x : Worker) (k : Nat) : VReg := x.v.getD k VReg.reset

/-- A mask register of a worker. -/
def Worker.mreg (x : Worker) (k : BitVec 3) : MaskBits := x.m.getD k.toNat 0

/-- Element i of vector source a. -/
def srcA (f : FV3) (x : Worker) (w i : Nat) : Nat := (x.vreg f.va.toNat).elem w i

/-- Element i of source b: a vector's element, or the captured gb (R211). -/
def srcB (f : FV3) (e : VEntry) (x : Worker) (w i : Nat) : Nat :=
  if f.s then e.gb.toNat % 2 ^ w else (x.vreg f.vb.toNat).elem w i

/-- Element i of source c of F-V4. -/
def srcC (f : FV4) (x : Worker) (w i : Nat) : Nat := (x.vreg f.vc.toNat).elem w i

/-- The elements from VSTART to VL − 1 (R129), of which a part is executed that ends at `till` (R143). -/
def VEntry.body (e : VEntry) : List Nat := (List.range (e.till - e.vstart)).map fun k => e.vstart + k

/-- The active elements under a mask field, in ascending order (R129). -/
def VEntry.active (e : VEntry) (x : Worker) (mask : BitVec 3) : List Nat :=
  e.body.filter fun i => mask == 0#3 || (x.mreg mask).getLsbD i

/-- The rounding mode of an RND field (R98): 0 RNE, 1 RTZ, 2 RDN, 3 RUP. -/
def VEntry.round (e : VEntry) (rnd : BitVec 2) : Nat := if rnd = 0 then e.rm.toNat else rnd.toNat - 1

/-! ## What an instruction delivers -/

/-- The part executed is the first of an instruction that was issued with VSTART = 0. -/
def VEntry.fromStart (e : VEntry) : Bool := e.first == 0 && e.vstart == 0

/-- What a vector instruction that touches no memory delivers: elements of a vector register with the number of
elements its extent covers, bits of a mask register, a value for a g register, which is written at once where `now`; the
flags, and the bits of m7 where the instruction is element-wise and can raise a flag. `whole` says that it is unmasked
and began at element 0. -/
structure Effect where
  vd : Option (Nat × Nat × List (Nat × Nat))
  upto : Nat
  md : Option (Nat × List (Nat × Bool))
  gd : Option (BitVec 5 × Word)
  now : Bool
  flags : BitVec 8
  capture : List (Nat × Bool)
  whole : Bool
  deriving DecidableEq, Repr

/-- Nothing delivered. -/
def noEffect : Effect := { vd := none, upto := 0, md := none, gd := none, now := false, flags := 0, capture := [], whole := false }

/-- The bits of m7 that XSEL captures (R137). -/
def captureOf (e : VEntry) (raises : Bool) (l : List (Nat × Nat × BitVec 8)) : List (Nat × Bool) :=
  if raises && e.xsel != 0 then l.map fun p => (p.1, captured e.xsel p.2.2) else []

/-- The OR of the flags of elements. -/
def flagsOf (l : List (Nat × Nat × BitVec 8)) : BitVec 8 := l.foldl (fun acc p => acc ||| p.2.2) noFlags

/-- An element-wise instruction: each active element's value and flags (R129, R130, R137). -/
def elementwise (e : VEntry) (x : Worker) (h : BitVec 7) (mask : BitVec 3) (dw : Nat) (raises : Bool)
    (f : Nat → Nat × BitVec 8) : Effect :=
  let l := (e.active x mask).map fun i => (i, f i)
  { noEffect with
    vd := some ((hVec h).toNat, dw, l.map fun p => (p.1, p.2.1))
    upto := if l.isEmpty then 0 else e.vl
    flags := flagsOf l
    capture := captureOf e raises l
    whole := mask == 0#3 && e.fromStart }

/-- A comparison: each active element's bit of md, with flags; a comparison into m7 makes no capture (R137). -/
def comparing (e : VEntry) (x : Worker) (h : BitVec 7) (mask : BitVec 3) (raises : Bool) (f : Nat → Bool × BitVec 8) :
    Effect :=
  let md := (hMask h).toNat
  let l := (e.active x mask).map fun i => (i, (f i).1.toNat, (f i).2)
  { noEffect with
    md := some (md, (e.active x mask).map fun i => (i, (f i).1))
    flags := flagsOf l
    capture := captureOf e (raises && md != 7) l }

/-- The bits of a vector register with elements replaced. -/
def putElems (v : VBits) (w : Nat) (l : List (Nat × Nat)) : VBits :=
  l.foldl (fun acc p =>
    (acc &&& ~~~(((BitVec.allOnes w).setWidth 131072) <<< (w * p.1))) |||
      (((BitVec.ofNat w p.2).setWidth 131072) <<< (w * p.1))) v

/-- A mask register with bits replaced. -/
def putBits (m : MaskBits) (l : List (Nat × Bool)) : MaskBits :=
  l.foldl (fun acc p => if p.2 then acc ||| BitVec.twoPow 21845 p.1 else acc &&& ~~~(BitVec.twoPow 21845 p.1)) m

/-- The bytes that n elements of a width take (R124). -/
def bytesFor (w n : Nat) : Nat := ceilDiv (w * n) 8

/-! ## Granules (R127, R128) -/

/-- The granules the residents of a VC hold. -/
def State.granulesOn (s : State) (vc : Nat) : Nat :=
  (s.workers.filter fun p => p.2.run != .saved && p.2.w.place.vc == vc).foldl (fun n p =>
    (List.range 64).foldl (fun m k => m + oneCount (p.2.w.vreg k).granule) n) 0
where
  oneCount (b : BitVec 8) : Nat := (List.range 8).foldl (fun n k => if b.getLsbD k then n + 1 else n) 0

/-- The highest-numbered register that holds a granule, and its highest block that does. -/
def Worker.topGranule (x : Worker) : Option (Nat × Nat) :=
  match (List.range 64).reverse.find? fun k => (x.vreg k).granule != 0 with
  | none => none
  | some k => ((List.range 8).reverse.find? fun b => (x.vreg k).granule.getLsbD b).map fun b => (k, b)

/-- Changes a vector register of a worker. -/
def State.modVReg (s : State) (q : SeqId) (k : Nat) (f : VReg → VReg) : State :=
  s.modSeq q fun x => { x with w := { x.w with v := x.w.v.setIfInBounds k (f (x.w.vreg k)) } }

/-- A block's granule is spilled: written to the frame when dirty, and freed (R127). -/
def State.spillBlock (s : State) (w : WKey) (k b : Nat) : Option State :=
  let x := (s.seqD (.worker w)).w
  let r := x.vreg k
  let bit := BitVec.twoPow 8 b
  let done (s1 : State) : State := s1.modVReg (.worker w) k fun y =>
    { y with granule := y.granule &&& ~~~bit, dirty := y.dirty &&& ~~~bit, framed := y.framed ||| bit }
  if r.dirty.getLsbD b && decide (b < blocksIn r.extent) then
    (s.frameWrite w (blockOffset x.vncode k b) (blockBytes r.bits b)).map done
  else some (done s)

/-- A granule of the VC is free, or is made free by a spill of the other resident; a frame that fails ends its launch
(R127, R248). -/
def State.roomForGranule (s : State) (w : WKey) : Except State State :=
  let vc := (s.seqD (.worker w)).w.place.vc
  if s.granulesOn vc < 64 then .ok s
  else
    match s.workers.find? fun p => p.1 != w && p.2.run != .saved && p.2.w.place.vc == vc with
    | none => .ok s
    | some (o, y) =>
      match y.w.topGranule with
      | none => .ok s
      | some (k, b) =>
        match s.spillBlock o k b with
        | some s1 => .ok s1
        | none => .error (s.frameFault o)

/-- A block of a register has a granule: kept, reloaded from the frame, or allocated as zeros and dirty (R127, R128). Bits
of it beyond the extent read zero, whatever the frame holds there (R124). -/
def State.needBlock (s : State) (w : WKey) (k b : Nat) : Except State State :=
  let q := SeqId.worker w
  if ((s.seqD q).w.vreg k).granule.getLsbD b then .ok s
  else
    match s.roomForGranule w with
    | .error s1 => .error s1
    | .ok s1 =>
      let x := (s1.seqD q).w
      let bit := BitVec.twoPow 8 b
      if (x.vreg k).framed.getLsbD b then
        match s1.frameRead w (blockOffset x.vncode k b) 2048 with
        | none => .error (s1.frameFault w)
        | some (s2, bs) =>
          .ok (s2.modVReg q k fun r =>
            { r with bits := putBlockBits r.bits b (BitVec.ofNat 16384 (bytesNum (bs.take (r.extent - 2048 * b)))), granule := r.granule ||| bit,
                     dirty := r.dirty &&& ~~~bit })
      else
        .ok (s1.modVReg q k fun r => { r with granule := r.granule ||| bit, dirty := r.dirty ||| bit })

/-- Every block of a list has a granule. -/
def State.needBlocks (s : State) (w : WKey) : List (Nat × Nat) → Except State State
  | [] => .ok s
  | p :: r =>
    match s.needBlock w p.1 p.2 with
    | .error s1 => .error s1
    | .ok s1 => s1.needBlocks w r

/-- `width` bits from bit `lo` of a register, that element `elem` of an instruction reads or writes. -/
def regPart (elem reg lo width : Nat) : Part := { reg := reg, lo := lo, width := width, shift := 0, elem := elem }

/-- Element i of a number of registers. -/
def elemParts (width : Nat) (regs : List Nat) (i : Nat) : List Part := regs.map fun r => regPart i r (width * i) width

/-- The blocks a part lies in. -/
def Part.blocks (p : Part) : List (Nat × Nat) := [(p.reg, p.lo / 16384), (p.reg, (p.lo + p.width - 1) / 16384)]

/-- Each element of a list once. -/
def once {α : Type} [DecidableEq α] (l : List α) : List α := l.foldl (fun acc x => if acc.contains x then acc else acc ++ [x]) []

/-- The blocks within the extents that an instruction reads (R127, R128). -/
def Worker.readBlocks (x : Worker) (l : List Part) : List (Nat × Nat) :=
  (once (l.flatMap Part.blocks)).filter fun p => decide (p.2 < blocksIn (x.vreg p.1).extent)

/-- The blocks by which a register's extent grows to a number of bytes: each of them is to be backed (R127). -/
def Worker.growth (x : Worker) (k bytes : Nat) : List (Nat × Nat) :=
  let old := (x.vreg k).extent
  if old < bytes then (List.range (blocksIn bytes - old / 2048)).map fun b => (k, old / 2048 + b) else []

/-- The blocks that elements of a width touch. -/
def blocksTouched (w : Nat) (l : List Nat) : BitVec 8 :=
  l.foldl (fun acc i => acc ||| BitVec.twoPow 8 (w * i / 16384) ||| BitVec.twoPow 8 ((w * i + w - 1) / 16384)) 0

/-! ## Poison (R202) -/

/-- The mark among the v sources of an instruction that executes. -/
def Worker.sourceMark (x : Worker) (o : Operands) : Option Mark := o.vs.findSome? fun p => (x.vreg p.1.toNat).poison

/-- Instruction `by_` sets a register's mark. -/
def VReg.setMark (r : VReg) (by_ : Nat) (m : Mark) : VReg := { r with poison := some m, marker := by_ }

/-- What becomes of a destination's mark: an instruction that writes the whole valid extent unmasked clears it, and a
poisoned source sets it (R202). -/
def VReg.remark (r : VReg) (by_ : Nat) (whole : Bool) (bytes : Nat) (m : Option Mark) : VReg :=
  match m with
  | some p => r.setMark by_ p
  | none => if whole && decide (r.extent ≤ bytes) then { r with poison := none } else r

/-! ## Putting results in place -/

/-- Elements written into a register: bits, extent, dirty blocks (R124, R128). -/
def VReg.write (r : VReg) (w upto : Nat) (l : List (Nat × Nat)) : VReg :=
  if l.isEmpty then r
  else
    { r with
      bits := putElems r.bits w l
      extent := Nat.max r.extent (bytesFor w upto)
      dirty := r.dirty ||| blocksTouched w (l.map fun p => p.1) }

/-- XF gains flags (R137). -/
def State.raiseFlags (s : State) (q : SeqId) (f : BitVec 8) : State :=
  s.modSeq q fun x => { x with bank := x.bank.raise f }

/-- A mask register's bits are replaced. -/
def State.putMask (s : State) (q : SeqId) (k : Nat) (l : List (Nat × Bool)) : State :=
  s.modSeq q fun x => { x with w := { x.w with m := x.w.m.setIfInBounds k (putBits (x.w.m.getD k 0) l) } }

/-- An effect of instruction `by_` is put in place for a worker (R124, R130, R137, R202). -/
def State.applyEffect (s : State) (q : SeqId) (by_ : Nat) (o : Operands) (ef : Effect) : State :=
  let m := (s.seqD q).w.sourceMark o
  let s1 := match ef.vd with
    | some (k, w, l) =>
      s.modVReg q k fun r => (if l.isEmpty then r else r.remark by_ ef.whole (bytesFor w ef.upto) m).write w ef.upto l
    | none => s
  let s2 := match ef.md with
    | some (k, l) => s1.putMask q k l
    | none => s1
  let s3 := (s2.putMask q 7 ef.capture).raiseFlags q ef.flags
  match ef.gd with
  | some (r, v) => if ef.now then s3.modSeq q fun x => { x with bank := x.bank.write r v } else s3.land q r v m none
  | none => s3

/-- The blocks an effect's destination is to be backed by: those it writes, and those its extent grows by. -/
def Worker.blocksWritten (x : Worker) (ef : Effect) : List (Nat × Nat) :=
  match ef.vd with
  | some (k, w, l) =>
    if l.isEmpty then []
    else once (l.flatMap fun p => (regPart p.1 k (w * p.1) w).blocks) ++ x.growth k (bytesFor w ef.upto)
  | none => []

/-- The blocks that an instruction reads and no granule holds are brought back, those that say which elements it reads
first; then the effect is computed from the registers as they stand, the destination's blocks are backed, and it is put in
place. -/
def State.runEffect (s : State) (w : WKey) (by_ : Nat) (o : Operands) (index reads : Worker → List Part) (f : Worker → Effect) :
    Except State State :=
  let q := SeqId.worker w
  match s.needBlocks w ((s.seqD q).w.readBlocks (index (s.seqD q).w)) with
  | .error s1 => .error s1
  | .ok s1 =>
    match s1.needBlocks w ((s1.seqD q).w.readBlocks (reads (s1.seqD q).w)) with
    | .error s2 => .error s2
    | .ok s2 =>
      let ef := f (s2.seqD q).w
      match s2.needBlocks w ((s2.seqD q).w.blocksWritten ef) with
      | .error s3 => .error s3
      | .ok s3 => .ok (s3.applyEffect q by_ o ef)

end Sys2Proof.Machine
end

