-- ==== Sys2Proof/Machine/VectorArith.lean ====
section
/-! DEFINITION. Vector arithmetic that writes vector and mask registers element by element: moves, integer, compare,
merge, mask, floating and lg6 instructions (R209, R217 to R231). For each instruction `exec…` is its issue, with the
checks it makes there, and `perform…` what it delivers when the vector unit executes it. -/

namespace Sys2Proof.Machine

/-! ## Moves between scalar and vector registers (R209) -/

/-- An element as a 64-bit value: i types are sign-extended, all others zero-extended (R209, R237). -/
def elemWord (t n : Nat) : Word := if etSigned t then BitVec.ofInt 64 (signedOf (etWidth t) n) else BitVec.ofNat 64 n

/-- An index at or above VLMAX of a type (R209). -/
def State.beyond (s : State) (t : Nat) (g : Word) : Bool := decide (vlmaxOf s.core.w.vncode (etWidth t) ≤ g.toNat)

/-- VGET at issue. -/
def execVget (f : FV3) (s : State) : Out :=
  checked (.vget f) s fun s =>
    if s.beyond f.et.toNat (s.gbOf f) then .next (s.raiseFrom 1 8 0)
    else vectorIssue (.vget f) [] 0 (s.gbOf f) 0 (some (hReg f.h)) s

/-- VGET delivers element gb of va. -/
def performVget (f : FV3) (e : VEntry) (x : Worker) : Effect :=
  { noEffect with gd := some (hReg f.h, elemWord f.et.toNat (srcA f x (etWidth f.et.toNat) e.gb.toNat)) }

/-- VPUT at issue. -/
def execVput (f : FV3) (s : State) : Out :=
  checked (.vput f) s fun s =>
    let ga := s.g (f.va.extractLsb' 0 5)
    if s.beyond f.et.toNat ga then .next (s.raiseFrom 1 8 0) else vectorIssue (.vput f) [] ga (s.gbOf f) 0 none s

/-- VPUT writes gb into element ga of vd. -/
def performVput (f : FV3) (e : VEntry) (_ : Worker) : Effect :=
  let w := etWidth f.et.toNat
  { noEffect with vd := some ((hVec f.h).toNat, w, [(e.ga.toNat, e.gb.toNat % 2 ^ w)]), upto := e.ga.toNat + 1 }

/-- VBCAST at issue. -/
def execVbcast (f : FV3) (s : State) : Out := issueV3 (.vbcast f) f [f.et.toNat] s

/-- VBCAST writes gb into every active element. -/
def performVbcast (f : FV3) (e : VEntry) (x : Worker) : Effect :=
  elementwise e x f.h f.mask (etWidth f.et.toNat) false fun _ => (e.gb.toNat % 2 ^ etWidth f.et.toNat, noFlags)

/-! ## Integer arithmetic (R217 to R221) -/

/-- An element-wise operation on a and b of the instruction's type, with a result of the same type. -/
def binaryOp (f : FV3) (e : VEntry) (x : Worker) (raises : Bool) (op : Nat → Nat → Nat × BitVec 8) : Effect :=
  let w := etWidth f.et.toNat
  elementwise e x f.h f.mask w raises fun i => op (srcA f x w i) (srcB f e x w i)

/-- The same on exact integers, wrapping and raising nothing (R217). -/
def wrapOp (f : FV3) (e : VEntry) (x : Worker) (op : Int → Int → Int) : Effect :=
  let t := f.et.toNat
  binaryOp f e x false fun a b => (wrapTo (etWidth t) (op (intOf t a) (intOf t b)), noFlags)

/-- The same on bits. -/
def bitOp (f : FV3) (e : VEntry) (x : Worker) (op : Nat → Nat → Nat) : Effect :=
  binaryOp f e x false fun a b => (op a b, noFlags)

/-- VADD at issue. -/
def execVadd (f : FV3) (s : State) : Out := issueV3 (.vadd f) f [f.et.toNat] s

/-- VADD: a + b, wrapping. -/
def performVadd (f : FV3) (e : VEntry) (x : Worker) : Effect :=
  wrapOp f e x fun a b => a + b

/-- VSUB at issue. -/
def execVsub (f : FV3) (s : State) : Out := issueV3 (.vsub f) f [f.et.toNat] s

/-- VSUB: a − b, wrapping. -/
def performVsub (f : FV3) (e : VEntry) (x : Worker) : Effect :=
  wrapOp f e x fun a b => a - b

/-- VMUL at issue. -/
def execVmul (f : FV3) (s : State) : Out := issueV3 (.vmul f) f [f.et.toNat] s

/-- VMUL: the low w bits of a · b. -/
def performVmul (f : FV3) (e : VEntry) (x : Worker) : Effect :=
  wrapOp f e x fun a b => a * b

/-- VMULH at issue. -/
def execVmulh (f : FV3) (s : State) : Out := issueV3 (.vmulh f) f [f.et.toNat] s

/-- VMULH: bits 2w−1:w of the exact product. -/
def performVmulh (f : FV3) (e : VEntry) (x : Worker) : Effect :=
  wrapOp f e x fun a b => a * b / (2 ^ etWidth f.et.toNat : Nat)

/-- VAND at issue. -/
def execVand (f : FV3) (s : State) : Out := issueV3 (.vand f) f [f.et.toNat] s

/-- VAND: bitwise and. -/
def performVand (f : FV3) (e : VEntry) (x : Worker) : Effect :=
  bitOp f e x fun a b => a &&& b

/-- VOR at issue. -/
def execVor (f : FV3) (s : State) : Out := issueV3 (.vor f) f [f.et.toNat] s

/-- VOR: bitwise or. -/
def performVor (f : FV3) (e : VEntry) (x : Worker) : Effect :=
  bitOp f e x fun a b => a ||| b

/-- VXOR at issue. -/
def execVxor (f : FV3) (s : State) : Out := issueV3 (.vxor f) f [f.et.toNat] s

/-- VXOR: bitwise exclusive or. -/
def performVxor (f : FV3) (e : VEntry) (x : Worker) : Effect :=
  bitOp f e x fun a b => a ^^^ b

/-- VSHL at issue. -/
def execVshl (f : FV3) (s : State) : Out := issueV3 (.vshl f) f [f.et.toNat] s

/-- VSHL: a shifted left by the low log2(w) bits of b. -/
def performVshl (f : FV3) (e : VEntry) (x : Worker) : Effect :=
  bitOp f e x fun a b => a * 2 ^ (b % etWidth f.et.toNat) % 2 ^ etWidth f.et.toNat

/-- VSHR at issue. -/
def execVshr (f : FV3) (s : State) : Out := issueV3 (.vshr f) f [f.et.toNat] s

/-- VSHR: a shifted right with zeros. -/
def performVshr (f : FV3) (e : VEntry) (x : Worker) : Effect :=
  bitOp f e x fun a b => a / 2 ^ (b % etWidth f.et.toNat)

/-- VSRA at issue. -/
def execVsra (f : FV3) (s : State) : Out := issueV3 (.vsra f) f [f.et.toNat] s

/-- VSRA: a shifted right with copies of its top bit, for i and n types alike. -/
def performVsra (f : FV3) (e : VEntry) (x : Worker) : Effect :=
  let w := etWidth f.et.toNat
  bitOp f e x fun a b => wrapTo w (signedOf w a / (2 ^ (b % w) : Nat))

/-- VMIN at issue. -/
def execVmin (f : FV3) (s : State) : Out := issueV3 (.vmin f) f [f.et.toNat] s

/-- VMIN: the lesser. -/
def performVmin (f : FV3) (e : VEntry) (x : Worker) : Effect :=
  wrapOp f e x fun a b => if b < a then b else a

/-- VMAX at issue. -/
def execVmax (f : FV3) (s : State) : Out := issueV3 (.vmax f) f [f.et.toNat] s

/-- VMAX: the greater. -/
def performVmax (f : FV3) (e : VEntry) (x : Worker) : Effect :=
  wrapOp f e x fun a b => if a < b then b else a

/-- VABS at issue. -/
def execVabs (f : FV3) (s : State) : Out := issueV3 (.vabs f) f [f.et.toNat] s

/-- VABS: the absolute value; −2^(w−1) yields itself. -/
def performVabs (f : FV3) (e : VEntry) (x : Worker) : Effect :=
  wrapOp f e x fun a _ => (a.natAbs : Int)

/-- VSADD at issue. -/
def execVsadd (f : FV3) (s : State) : Out := issueV3 (.vsadd f) f [f.et.toNat] s

/-- VSADD (R218): a + b, saturated. -/
def performVsadd (f : FV3) (e : VEntry) (x : Worker) : Effect :=
  let t := f.et.toNat
  binaryOp f e x true fun a b => saturate t (intOf t a + intOf t b)

/-- VSSUB at issue. -/
def execVssub (f : FV3) (s : State) : Out := issueV3 (.vssub f) f [f.et.toNat] s

/-- VSSUB (R218): a − b, saturated. -/
def performVssub (f : FV3) (e : VEntry) (x : Worker) : Effect :=
  let t := f.et.toNat
  binaryOp f e x true fun a b => saturate t (intOf t a - intOf t b)

/-- VMAC at issue. -/
def execVmac (f : FV4) (s : State) : Out := issueV4 (.vmac f) f [f.v.et.toNat] s

/-- VMAC (R219): a · b + c, wrapping. -/
def performVmac (f : FV4) (e : VEntry) (x : Worker) : Effect :=
  let t := f.v.et.toNat
  let w := etWidth t
  elementwise e x f.v.h f.v.mask w false fun i =>
    (wrapTo w (intOf t (srcA f.v x w i) * intOf t (srcB f.v e x w i) + intOf t (srcC f x w i)), noFlags)

/-- VPMAC at issue. -/
def execVpmac (f : FV4) (s : State) : Out := issueV4 (.vpmac f) f [1, 2] s

/-- VPMAC (R110, R219): two i16 taps into a saturating i32 accumulator. -/
def performVpmac (f : FV4) (e : VEntry) (x : Worker) : Effect :=
  let lo := signedOf 16 (e.gb.toNat % 2 ^ 16)
  let hi := signedOf 16 (e.gb.toNat / 2 ^ 16 % 2 ^ 16)
  elementwise e x f.v.h f.v.mask 32 true fun i =>
    saturate 2 (signedOf 32 ((x.vreg (hVec f.v.h).toNat).elem 32 i) + signedOf 16 (srcA f.v x 16 i) * lo +
      signedOf 16 (srcC f x 16 i) * hi)

/-- The rounding narrowing shift of R109 to the type of half the width, code t − 1. Where its formula gives 1 and its text
0 (an n type at s = w, x at least 2^(w − 1)), the formula is followed (DEDUCED, log entry 80). -/
def narrowShift (t : Nat) (v : Int) (sh : Nat) : Nat × BitVec 8 :=
  saturate (t - 1) (if sh = 0 then v else (v + (2 ^ (sh - 1) : Nat)) / (2 ^ sh : Nat))

/-- VSRAR at issue. -/
def execVsrar (f : FV3) (s : State) : Out := issueV3 (.vsrar f) f [f.et.toNat, f.et.toNat - 1] s

/-- VSRAR (R109, R220). -/
def performVsrar (f : FV3) (e : VEntry) (x : Worker) : Effect :=
  let t := f.et.toNat
  let w := etWidth t
  elementwise e x f.h f.mask (w / 2) true fun i => narrowShift t (intOf t (srcA f x w i)) (srcB f e x w i % 64)

/-- The destination type holds every value of the source type (R137). -/
def intFits (src dst : Nat) : Bool := decide (intMin dst ≤ intMin src) && decide (intMax src ≤ intMax dst)

/-- VICVT at issue. -/
def execVicvt (src : BitVec 5) (f : FV3) (s : State) : Out := issueV3 (.vicvt src f) f [f.et.toNat, src.toNat] s

/-- VICVT (R102, R221): the value, saturated to the destination type. From an i type to a wider n type, which both the
widening row of R102 and its row between i and n describe, it saturates, as R137 has it (DEDUCED, log entry 81). -/
def performVicvt (src : BitVec 5) (f : FV3) (e : VEntry) (x : Worker) : Effect :=
  let t := f.et.toNat
  let u := src.toNat
  elementwise e x f.h f.mask (etWidth t) (!intFits u t) fun i => saturate t (intOf u (srcA f x (etWidth u) i))

/-! ## Compares, merges and masks (R222 to R225) -/

/-- VCMP at issue. -/
def execVcmp (c : Cond) (f : FV3) (s : State) : Out := issueV3 (.vcmp c f) f [f.et.toNat] s

/-- VCMP (R222): the condition at the type's width, whatever its signedness. -/
def performVcmp (c : Cond) (f : FV3) (e : VEntry) (x : Worker) : Effect :=
  let w := etWidth f.et.toNat
  comparing e x f.h f.mask false fun i =>
    (Cond.holds c w (BitVec.ofNat w (srcA f x w i)) (BitVec.ofNat w (srcB f e x w i)), noFlags)

/-- VMERGE at issue. -/
def execVmerge (f : FV3) (s : State) : Out := issueV3 (.vmerge f) f [f.et.toNat] s

/-- VMERGE (R223): every element from VSTART to VL − 1, chosen by the selector mask. -/
def performVmerge (f : FV3) (e : VEntry) (x : Worker) : Effect :=
  let w := etWidth f.et.toNat
  let l := e.body.map fun i => (i, if (x.mreg f.mask).getLsbD i then srcB f e x w i else srcA f x w i)
  { noEffect with
    vd := some ((hVec f.h).toNat, w, l), upto := if l.isEmpty then 0 else e.vl, whole := e.fromStart }

/-- An instruction of the mask group that writes a mask register (R224): bits VSTART to VL − 1. -/
def maskOp (f : FV3) (e : VEntry) (op : Nat → Bool) : Effect :=
  { noEffect with md := some ((hMask f.h).toNat, e.body.map fun i => (i, op i)) }

/-- Bit i of the mask operand in VA. -/
def maskA (f : FV3) (x : Worker) (i : Nat) : Bool := (x.mreg (f.va.extractLsb' 0 3)).getLsbD i

/-- Bit i of the mask operand in VB. -/
def maskB (f : FV3) (x : Worker) (i : Nat) : Bool := (x.mreg (f.vb.extractLsb' 0 3)).getLsbD i

/-- MAND at issue. -/
def execMand (f : FV3) (s : State) : Out := issueV3 (.mand f) f [] s

/-- MAND. -/
def performMand (f : FV3) (e : VEntry) (x : Worker) : Effect :=
  maskOp f e fun i => maskA f x i && maskB f x i

/-- MOR at issue. -/
def execMor (f : FV3) (s : State) : Out := issueV3 (.mor f) f [] s

/-- MOR. -/
def performMor (f : FV3) (e : VEntry) (x : Worker) : Effect :=
  maskOp f e fun i => maskA f x i || maskB f x i

/-- MXOR at issue. -/
def execMxor (f : FV3) (s : State) : Out := issueV3 (.mxor f) f [] s

/-- MXOR. -/
def performMxor (f : FV3) (e : VEntry) (x : Worker) : Effect :=
  maskOp f e fun i => maskA f x i ^^ maskB f x i

/-- MNOT at issue. -/
def execMnot (f : FV3) (s : State) : Out := issueV3 (.mnot f) f [] s

/-- MNOT. -/
def performMnot (f : FV3) (e : VEntry) (x : Worker) : Effect :=
  maskOp f e fun i => !maskA f x i

/-- MSET at issue. -/
def execMset (f : FV3) (s : State) : Out := issueV3 (.mset f) f [] s

/-- MSET. -/
def performMset (f : FV3) (e : VEntry) (_ : Worker) : Effect := maskOp f e fun _ => true

/-- The positions from VSTART to VL − 1 at which a mask is set. -/
def Worker.setBits (x : Worker) (k : BitVec 3) : List Nat :=
  (List.range (x.vl.toNat - x.vstart.toNat)).filterMap fun n =>
    let i := x.vstart.toNat + n
    if (x.mreg k).getLsbD i then some i else none

/-- An instruction that goes on leaves VSTART at 0 (R115, R130). -/
def State.clearStart (s : State) : State := s.modCore fun x => { x with w := { x.w with vstart := 0 } }

/-- MPOP (R224): waits for the vector unit, then counts. -/
def execMpop (f : FV3) (s : State) : Out :=
  checked (.mpop f) s fun s =>
    if s.waitsVector then .next s
    else
      let l := s.core.w.setBits (f.va.extractLsb' 0 3)
      .next (s.clearStart.put (hReg f.h) (BitVec.ofNat 64 l.length))

/-- MFIRST (R224): waits for the vector unit, then finds the lowest. -/
def execMfirst (f : FV3) (s : State) : Out :=
  checked (.mfirst f) s fun s =>
    if s.waitsVector then .next s
    else
      match s.core.w.setBits (f.va.extractLsb' 0 3) with
      | [] => .next (s.clearStart.put (hReg f.h) (BitVec.allOnes 64))
      | i :: _ => .next (s.clearStart.put (hReg f.h) (BitVec.ofNat 64 i))

/-- VIOTA at issue. -/
def execViota (f : FV3) (s : State) : Out := issueV3 (.viota f) f [f.et.toNat] s

/-- VIOTA (R225): the count of set bits below each element, active or not. -/
def performViota (f : FV3) (e : VEntry) (x : Worker) : Effect :=
  let w := etWidth f.et.toNat
  elementwise e x f.h f.mask w false fun i =>
    (((List.range i).filter fun j => maskA f x j).length % 2 ^ w, noFlags)

/-! ## Floating-point arithmetic (R226 to R230) -/

/-- An element-wise floating operation on a and b. -/
def floatOp (f : FV3) (e : VEntry) (x : Worker) (raises : Bool) (op : Nat → FVal → FVal → Nat × BitVec 8) : Effect :=
  let t := f.et.toNat
  binaryOp f e x raises fun a b => op (e.round f.rnd) (fdecode t a) (fdecode t b)

/-- VFADD at issue. -/
def execVfadd (f : FV3) (s : State) : Out := issueV3 (.vfadd f) f [f.et.toNat] s

/-- VFADD. -/
def performVfadd (f : FV3) (e : VEntry) (x : Worker) : Effect :=
  floatOp f e x true fun rm a b => faddV f.et.toNat rm a b

/-- VFSUB at issue. -/
def execVfsub (f : FV3) (s : State) : Out := issueV3 (.vfsub f) f [f.et.toNat] s

/-- VFSUB. -/
def performVfsub (f : FV3) (e : VEntry) (x : Worker) : Effect :=
  floatOp f e x true fun rm a b => faddV f.et.toNat rm a b.negate

/-- VFMUL at issue. -/
def execVfmul (f : FV3) (s : State) : Out := issueV3 (.vfmul f) f [f.et.toNat] s

/-- VFMUL. -/
def performVfmul (f : FV3) (e : VEntry) (x : Worker) : Effect :=
  floatOp f e x true fun rm a b => fmulV f.et.toNat rm a b

/-- VFDIV at issue. -/
def execVfdiv (f : FV3) (s : State) : Out := issueV3 (.vfdiv f) f [f.et.toNat] s

/-- VFDIV. -/
def performVfdiv (f : FV3) (e : VEntry) (x : Worker) : Effect :=
  floatOp f e x true fun rm a b => fdivV f.et.toNat rm a b

/-- VFSQRT at issue. -/
def execVfsqrt (f : FV3) (s : State) : Out := issueV3 (.vfsqrt f) f [f.et.toNat] s

/-- VFSQRT. -/
def performVfsqrt (f : FV3) (e : VEntry) (x : Worker) : Effect :=
  floatOp f e x true fun rm a _ => fsqrtV f.et.toNat rm a

/-- VFMIN at issue. -/
def execVfmin (f : FV3) (s : State) : Out := issueV3 (.vfmin f) f [f.et.toNat] s

/-- VFMIN (R113). -/
def performVfmin (f : FV3) (e : VEntry) (x : Worker) : Effect :=
  binaryOp f e x true fun a b => fminmax f.et.toNat false a b

/-- VFMAX at issue. -/
def execVfmax (f : FV3) (s : State) : Out := issueV3 (.vfmax f) f [f.et.toNat] s

/-- VFMAX (R113). -/
def performVfmax (f : FV3) (e : VEntry) (x : Worker) : Effect :=
  binaryOp f e x true fun a b => fminmax f.et.toNat true a b

/-- VFABS at issue. -/
def execVfabs (f : FV3) (s : State) : Out := issueV3 (.vfabs f) f [f.et.toNat] s

/-- VFABS: the sign bit becomes 0. -/
def performVfabs (f : FV3) (e : VEntry) (x : Worker) : Effect :=
  bitOp f e x fun a _ => a % 2 ^ (etWidth f.et.toNat - 1)

/-- VFNEG at issue. -/
def execVfneg (f : FV3) (s : State) : Out := issueV3 (.vfneg f) f [f.et.toNat] s

/-- VFNEG: the sign bit is inverted. -/
def performVfneg (f : FV3) (e : VEntry) (x : Worker) : Effect :=
  bitOp f e x fun a _ => a ^^^ 2 ^ (etWidth f.et.toNat - 1)

/-- A fused operation: ±(a · b) ± c with one rounding (R227). -/
def fusedOp (f : FV4) (e : VEntry) (x : Worker) (negProduct negC : Bool) : Effect :=
  let t := f.v.et.toNat
  let w := etWidth t
  let sign (n : Bool) (v : FVal) : FVal := if n then v.negate else v
  elementwise e x f.v.h f.v.mask w true fun i =>
    ffmaV t (e.round f.v.rnd) (sign negProduct (fdecode t (srcA f.v x w i))) (fdecode t (srcB f.v e x w i))
      (sign negC (fdecode t (srcC f x w i)))

/-- VFMA at issue. -/
def execVfma (f : FV4) (s : State) : Out := issueV4 (.vfma f) f [f.v.et.toNat] s

/-- VFMA: a · b + c. -/
def performVfma (f : FV4) (e : VEntry) (x : Worker) : Effect :=
  fusedOp f e x false false

/-- VFMS at issue. -/
def execVfms (f : FV4) (s : State) : Out := issueV4 (.vfms f) f [f.v.et.toNat] s

/-- VFMS: a · b − c. -/
def performVfms (f : FV4) (e : VEntry) (x : Worker) : Effect :=
  fusedOp f e x false true

/-- VFNMA at issue. -/
def execVfnma (f : FV4) (s : State) : Out := issueV4 (.vfnma f) f [f.v.et.toNat] s

/-- VFNMA: −(a · b) − c. -/
def performVfnma (f : FV4) (e : VEntry) (x : Worker) : Effect :=
  fusedOp f e x true true

/-- VFNMS at issue. -/
def execVfnms (f : FV4) (s : State) : Out := issueV4 (.vfnms f) f [f.v.et.toNat] s

/-- VFNMS: −(a · b) + c. -/
def performVfnms (f : FV4) (e : VEntry) (x : Worker) : Effect :=
  fusedOp f e x true false

/-- The conditions of VFCMP on values (R228). -/
def FCond.holds (c : FCond) (a b : FVal) : Bool :=
  let nan := a.isNaN || b.isNaN
  match c with
  | .eq => !nan && fcompare a b == 0
  | .ne => nan || fcompare a b != 0
  | .lt => !nan && decide (fcompare a b < 0)
  | .le => !nan && decide (fcompare a b ≤ 0)
  | .un => nan
  | .or => !nan

/-- NV of VFCMP: any NaN for .lt and .le, a signalling one for the others (R228). -/
def FCond.invalid (c : FCond) (a b : FVal) : Bool :=
  match c with
  | .lt => a.isNaN || b.isNaN
  | .le => a.isNaN || b.isNaN
  | _ => a.snan || b.snan

/-- VFCMP at issue. -/
def execVfcmp (c : FCond) (f : FV3) (s : State) : Out := issueV3 (.vfcmp c f) f [f.et.toNat] s

/-- VFCMP (R228). -/
def performVfcmp (c : FCond) (f : FV3) (e : VEntry) (x : Worker) : Effect :=
  let t := f.et.toNat
  let w := etWidth t
  comparing e x f.h f.mask true fun i =>
    let a := fdecode t (srcA f x w i)
    let b := fdecode t (srcB f e x w i)
    (FCond.holds c a b, flagIf (FCond.invalid c a b) flagNV)

/-- The class bit of an encoding (R229). -/
def classBit (t n : Nat) : Nat :=
  let normal := decide ((fmtOf t).sign / 2 ^ (fmtOf t).e ≤ n % (fmtOf t).sign)
  match fdecode t n with
  | .nan s => if s then 8 else 9
  | .inf g => if g then 0 else 7
  | .fin g m _ =>
    if m = 0 then (if g then 3 else 4)
    else if normal then (if g then 1 else 6) else (if g then 2 else 5)

/-- VFCLASS at issue. -/
def execVfclass (f : FV3) (s : State) : Out := issueV3 (.vfclass f) f [f.et.toNat] s

/-- VFCLASS (R229). -/
def performVfclass (f : FV3) (e : VEntry) (x : Worker) : Effect :=
  bitOp f e x fun a _ => 2 ^ classBit f.et.toNat a

/-- A conversion of VFCVT (R101, R102, R108), with the lg6 scale. -/
def convert (src dst rm n : Nat) (sc : Int) : Nat × BitVec 8 :=
  if src = 8 then lgToF dst rm n sc
  else if src ≤ 7 then itofV dst rm (intOf src n)
  else if dst = 8 then fToLg (fdecode src n) sc
  else if dst ≤ 7 then ftoiV dst rm (fdecode src n)
  else ftofV dst rm (fdecode src n)

/-- The bits of magnitude of an integer type. -/
def intBits (t : Nat) : Nat := if etSigned t then etWidth t - 1 else etWidth t

/-- A conversion can raise a flag (R137): not an integer into a format whose significand holds it, nor an 8-bit format
into a wider one. -/
def convertRaises (src dst : Nat) : Bool :=
  if src ≤ 7 then decide ((fmtOf dst).m + 1 < intBits src)
  else if src = 9 ∨ src = 10 then !etIsFloat dst
  else true

/-- VFCVT at issue. -/
def execVfcvt (src : BitVec 5) (f : FV3) (s : State) : Out := issueV3 (.vfcvt src f) f [f.et.toNat, src.toNat] s

/-- VFCVT (R230). -/
def performVfcvt (src : BitVec 5) (f : FV3) (e : VEntry) (x : Worker) : Effect :=
  let t := f.et.toNat
  let u := src.toNat
  elementwise e x f.h f.mask (etWidth t) (convertRaises u t) fun i =>
    convert u t (e.round f.rnd) (srcA f x (etWidth u) i) (lgScale e.gb)

/-! ## lg6 (R231) -/

/-- VLGMUL at issue. -/
def execVlgmul (f : FV3) (s : State) : Out := issueV3 (.vlgmul f) f [8] s

/-- VLGMUL (R106, R231). -/
def performVlgmul (f : FV3) (e : VEntry) (x : Worker) : Effect :=
  binaryOp f e x true lgMul

end Sys2Proof.Machine
end

