-- ==== Sys2Proof/Machine/VectorPerm.lean ====
section
/-! DEFINITION. Vector instructions that move elements between positions or reduce them: slides, permutation, table
lookup, compress and expand, bit fields, reductions and dot products (R232 to R237). -/

namespace Sys2Proof.Machine

/-! ## Slides (R233) -/

/-- The offset of a slide, gb<14:0>. -/
def slideOff (e : VEntry) : Nat := e.gb.toNat % 2 ^ 15

/-- The fill length of VSLIDEUP, gb<30:16>. -/
def slideFill (g : Word) : Nat := g.toNat / 2 ^ 16 % 2 ^ 15

/-- VSLIDEUP at issue: a fill length above VLMAX raises VL-EXCEEDS. -/
def execVslideup (f : FV4) (s : State) : Out :=
  checked (.vslideup f) s fun s =>
    if vlmaxOf s.core.w.vncode (etWidth f.v.et.toNat) < slideFill (s.gbOf f.v) then .next (s.raiseFrom 1 8 0)
    else vectorIssue (.vslideup f) [f.v.et.toNat] 0 (s.gbOf f.v) 0 none s

/-- VSLIDEUP: from va below, filled from the top of vc. -/
def performVslideup (f : FV4) (e : VEntry) (x : Worker) : Effect :=
  let w := etWidth f.v.et.toNat
  let off := slideOff e
  let fill := slideFill e.gb
  elementwise e x f.v.h f.v.mask w false fun i =>
    (if off ≤ i then srcA f.v x w (i - off) else if off ≤ fill + i then srcC f x w (fill + i - off) else 0, noFlags)

/-- VSLIDEDN at issue. -/
def execVslidedn (f : FV4) (s : State) : Out := issueV4 (.vslidedn f) f [f.v.et.toNat] s

/-- VSLIDEDN: from va above, filled from the start of vc. -/
def performVslidedn (f : FV4) (e : VEntry) (x : Worker) : Effect :=
  let w := etWidth f.v.et.toNat
  let off := slideOff e
  elementwise e x f.v.h f.v.mask w false fun i =>
    (if i + off < e.vl then srcA f.v x w (i + off)
     else if i + off - e.vl < vlmaxOf x.vncode w then srcC f x w (i + off - e.vl) else 0, noFlags)

/-! ## Permutation and lookup (R234) -/

/-- VPERM at issue: VL is checked against n16 too. -/
def execVperm (f : FV3) (s : State) : Out := issueV3 (.vperm f) f [f.et.toNat, 5] s

/-- VPERM: va[j] for the n16 index j = vb[i], or 0 from VL up. -/
def performVperm (f : FV3) (e : VEntry) (x : Worker) : Effect :=
  let w := etWidth f.et.toNat
  elementwise e x f.h f.mask w false fun i =>
    let j := (x.vreg f.vb.toNat).elem 16 i
    (if j < e.vl then srcA f x w j else 0, noFlags)

/-- VTLU at issue: VL is checked against n16 too. -/
def execVtlu (f : FV3) (s : State) : Out := issueV3 (.vtlu f) f [f.et.toNat, 5] s

/-- VTLU: va[j] for j below 256; above, 0 and TRG. -/
def performVtlu (f : FV3) (e : VEntry) (x : Worker) : Effect :=
  let w := etWidth f.et.toNat
  elementwise e x f.h f.mask w true fun i =>
    let j := (x.vreg f.vb.toNat).elem 16 i
    if j < 256 then (srcA f x w j, noFlags) else (0, flagTRG)

/-! ## Compress, expand, bit fields (R235, R236) -/

/-- VCOMP at issue. -/
def execVcomp (f : FV3) (s : State) : Out := issueV3 (.vcomp f) f [f.et.toNat] s

/-- VCOMP: the active elements packed downward from VSTART. -/
def performVcomp (f : FV3) (e : VEntry) (x : Worker) : Effect :=
  let w := etWidth f.et.toNat
  let act := e.active x f.mask
  let l := (List.range act.length).map fun k => (e.vstart + k, srcA f x w (act.getD k 0))
  { noEffect with
    vd := some ((hVec f.h).toNat, w, l), upto := e.vstart + act.length, whole := f.mask == 0#3 && e.fromStart }

/-- VEXP at issue. -/
def execVexp (f : FV3) (s : State) : Out := issueV3 (.vexp f) f [f.et.toNat] s

/-- VEXP: elements from VSTART upward spread into the active positions. -/
def performVexp (f : FV3) (e : VEntry) (x : Worker) : Effect :=
  let w := etWidth f.et.toNat
  let act := e.active x f.mask
  let l := (List.range act.length).map fun k => (act.getD k 0, srcA f x w (e.vstart + k))
  { noEffect with
    vd := some ((hVec f.h).toNat, w, l), upto := if act.isEmpty then 0 else e.vl
    whole := f.mask == 0#3 && e.fromStart }

/-- The field width of VBFX, gb<6:0>. -/
def fieldWidth (g : Word) : Nat := g.toNat % 128

/-- VBFX at issue: a field of no bits, or wider than the element, raises RESERVED-FIELD, also where VL exceeds VLMAX, for
which vectorIssue raises VL-EXCEEDS (DESIGN CHOICE, log entry 103). -/
def execVbfx (f : FV3) (s : State) : Out :=
  checked (.vbfx f) s fun s =>
    let n := fieldWidth (s.gbOf f)
    if n = 0 ∨ etWidth f.et.toNat < n then .next (s.raiseFrom 1 3 0)
    else vectorIssue (.vbfx f) [f.et.toNat] 0 (s.gbOf f) 0 none s

/-- VBFX: field i of va from bit gb<31:8>, extended by gb<7>. -/
def performVbfx (f : FV3) (e : VEntry) (x : Worker) : Effect :=
  let w := etWidth f.et.toNat
  let n := fieldWidth e.gb
  let p := e.gb.toNat / 256 % 2 ^ 24
  elementwise e x f.h f.mask w false fun i =>
    let v := ((x.vreg f.va.toNat).bits.extractLsb' (p + i * n) n).toNat
    (if e.gb.getLsbD 7 then wrapTo w (signedOf n v) else v, noFlags)

/-! ## Reductions and dot products (R111 to R113, R237) -/

/-- A rounded fold with its flags. -/
def foldFlags (step : Nat → Nat → Nat × BitVec 8) (init : Nat) (l : List Nat) : Nat × BitVec 8 :=
  l.foldl (fun acc v => ((step acc.1 v).1, acc.2 ||| (step acc.1 v).2)) (init, noFlags)

/-- The minimum or maximum of R113 over an initial scalar and elements: the canonical NaN when all are NaNs. -/
def floatExtreme (t : Nat) (wantMax : Bool) (init : Nat) (l : List Nat) : Nat × BitVec 8 :=
  match l with
  | [] =>
    let a := fdecode t init
    if a.isNaN then (canonNaN t, flagIf a.snan flagNV) else (init, noFlags)
  | _ => foldFlags (fun a b => fminmax t wantMax a b) init l

/-- A VREDS operation over an initial scalar and the active elements. `pick` numbers the choice of a free sum's tree. -/
def reduce (op : RedsOp) (t rm pick init : Nat) (l : List Nat) : Nat × BitVec 8 :=
  let w := etWidth t
  let int (g : Int → Int → Int) : Nat × BitVec 8 :=
    (wrapTo w (l.foldl (fun acc v => g acc (intOf t v)) (intOf t init)), noFlags)
  match op with
  | .osum =>
    if etIsFloat t then foldFlags (fun a b => faddV t rm (fdecode t a) (fdecode t b)) init l
    else int fun a b => a + b
  | .fsum =>
    if etIsFloat t then
      freeSum (fun a b => faddV t rm (fdecode t a) (fdecode t b)) (Config.freeChoice pick) l.length (init :: l) noFlags
    else int fun a b => a + b
  | .max => if etIsFloat t then floatExtreme t true init l else int fun a b => if a < b then b else a
  | .min => if etIsFloat t then floatExtreme t false init l else int fun a b => if b < a then b else a
  | .and => (l.foldl (fun acc v => acc &&& v) init, noFlags)
  | .or => (l.foldl (fun acc v => acc ||| v) init, noFlags)
  | .xor => (l.foldl (fun acc v => acc ^^^ v) init, noFlags)

/-- VREDS at issue: gd becomes empty. -/
def execVreds (op : RedsOp) (f : FV4) (s : State) : Out :=
  checked (.vreds op f) s fun s =>
    vectorIssue (.vreds op f) [f.v.et.toNat] 0 (s.gbOf f.v) 0 (some (hReg f.v.h)) s

/-- VREDS. -/
def performVreds (op : RedsOp) (f : FV4) (pick : Nat) (e : VEntry) (x : Worker) : Effect :=
  let t := f.v.et.toNat
  let w := etWidth t
  let r := reduce op t (e.round f.v.rnd) pick (e.gb.toNat % 2 ^ w) ((e.active x f.v.mask).map (srcA f.v x w))
  { noEffect with gd := some (hReg f.v.h, elemWord t r.1), flags := r.2 }

/-- VDOT at issue: gc holds the initial scalar, and gd becomes empty. -/
def execVdot (f : FV4) (s : State) : Out :=
  checked (.vdot f) s fun s =>
    vectorIssue (.vdot f) [f.v.et.toNat] 0 0 (s.g (f.vc.extractLsb' 0 5)) (some (hReg f.v.h)) s

/-- VDOT: the ordered dot product, one fused step an element; integers wrap. -/
def performVdot (f : FV4) (e : VEntry) (x : Worker) : Effect :=
  let t := f.v.et.toNat
  let w := etWidth t
  let init := e.gc.toNat % 2 ^ w
  let act := e.active x f.v.mask
  let r : Nat × BitVec 8 :=
    if etIsFloat t then
      foldFlags (fun acc i => ffmaV t (e.round f.v.rnd) (fdecode t (srcA f.v x w i)) (fdecode t (srcB f.v e x w i))
        (fdecode t acc)) init act
    else
      (wrapTo w (act.foldl (fun acc i => acc + intOf t (srcA f.v x w i) * intOf t (srcB f.v e x w i)) (intOf t init)),
        noFlags)
  { noEffect with gd := some (hReg f.v.h, elemWord t r.1), flags := r.2 }

/-- The entry an instruction that executes at issue would have, with its captured state. -/
def State.entryNow (s : State) (i : Instr) : VEntry := s.entryFor i 0

/-- VLGDOT at issue (R232): it waits for the vector unit, and the sequencer goes on once it has completed. -/
def execVlgdot (f : FV3) (s : State) : Out :=
  checked (.vlgdot f) s fun s =>
    if s.exceeds [8] then .next (s.raiseFrom 1 8 0)
    else if s.waitsVector then .next s
    else vectorIssue (.vlgdot f) [8] 0 0 (s.g (hReg f.h)) none s

/-- VLGDOT: the lg6 sum of the active elements, written to gd at once (R107, R232). -/
def performVlgdot (f : FV3) (e : VEntry) (x : Worker) : Effect :=
  let l := (e.active x f.mask).map fun i => (srcA f x 6 i, srcB f e x 6 i)
  let r := lgSum (e.round f.rnd) (signedOf 16 (e.gc.toNat % 2 ^ 16)) l
  { noEffect with gd := some (hReg f.h, BitVec.ofNat 64 r.1), now := true, flags := r.2 }

/-! ## What of the v registers an instruction reads and writes (R127, R128, R143) -/

/-- The fields common to F-V3 and F-V4 of the checked instructions, which R260 lists. -/
def checkedForm (i : Instr) : Option FV3 :=
  match i with
  | .vadd f | .vsub f | .vmul f | .vmulh f | .vand f | .vor f | .vxor f | .vshl f | .vshr f | .vsra f | .vmin f
  | .vmax f | .vabs f | .vsadd f | .vssub f | .vsrar f | .vcmp _ f | .vicvt _ f | .vfadd f | .vfsub f | .vfmul f
  | .vfdiv f | .vfsqrt f | .vfmin f | .vfmax f | .vfabs f | .vfneg f | .vfcmp _ f | .vfclass f | .vfcvt _ f
  | .vlgmul f => some f
  | .vmac f | .vpmac f | .vfma f | .vfms f | .vfnma f | .vfnms f => some f.v
  | _ => none

/-- The numbers of the vector sources. -/
def vSources (i : Instr) : List Nat := vnums i.operands.vs

/-- What an instruction that touches no memory reads to know which elements it reads: the indices of R234. -/
def VEntry.indexReads (e : VEntry) (x : Worker) : List Part :=
  match e.instr with
  | .vperm f => (e.active x f.mask).flatMap (elemParts 16 [f.vb.toNat])
  | .vtlu f => (e.active x f.mask).flatMap (elemParts 16 [f.vb.toNat])
  | _ => []

/-- What an instruction that touches no memory reads of the v registers, element by element. -/
def VEntry.reads (e : VEntry) (x : Worker) : List Part :=
  let all (f : FV3) (w : Nat) (regs : List Nat) := (e.active x f.mask).flatMap (elemParts w regs)
  match e.instr with
  | .vget f =>
    let w := etWidth f.et.toNat
    [regPart e.gb.toNat f.va.toNat (w * e.gb.toNat) w]
  | .vpmac f => all f.v 16 [f.v.va.toNat, f.vc.toNat] ++ all f.v 32 [(hVec f.v.h).toNat]
  | .vicvt src f => all f (etWidth src.toNat) [f.va.toNat]
  | .vfcvt src f => all f (etWidth src.toNat) [f.va.toNat]
  | .vmerge f =>
    let w := etWidth f.et.toNat
    e.body.flatMap fun i =>
      if !(x.mreg f.mask).getLsbD i then elemParts w [f.va.toNat] i else elemParts w (vnums f.bV?) i
  | .vslideup f =>
    let w := etWidth f.v.et.toNat
    let off := slideOff e
    (e.active x f.v.mask).filterMap fun i =>
      if off ≤ i then some (regPart i f.v.va.toNat (w * (i - off)) w)
      else if off ≤ slideFill e.gb + i then some (regPart i f.vc.toNat (w * (slideFill e.gb + i - off)) w) else none
  | .vslidedn f =>
    let w := etWidth f.v.et.toNat
    let off := slideOff e
    (e.active x f.v.mask).filterMap fun i =>
      if i + off < e.vl then some (regPart i f.v.va.toNat (w * (i + off)) w)
      else if i + off - e.vl < vlmaxOf x.vncode w then some (regPart i f.vc.toNat (w * (i + off - e.vl)) w) else none
  | .vperm f =>
    let w := etWidth f.et.toNat
    e.indexReads x ++ (e.active x f.mask).filterMap fun i =>
      let j := (x.vreg f.vb.toNat).elem 16 i
      if j < e.vl then some (regPart i f.va.toNat (w * j) w) else none
  | .vtlu f =>
    let w := etWidth f.et.toNat
    e.indexReads x ++ (e.active x f.mask).filterMap fun i =>
      let j := (x.vreg f.vb.toNat).elem 16 i
      if j < 256 then some (regPart i f.va.toNat (w * j) w) else none
  | .vcomp f => all f (etWidth f.et.toNat) [f.va.toNat]
  | .vexp f =>
    let w := etWidth f.et.toNat
    ((e.active x f.mask).zipIdx).map fun p => regPart p.1 f.va.toNat (w * (e.vstart + p.2)) w
  | .vbfx f =>
    let n := fieldWidth e.gb
    (e.active x f.mask).map fun i => regPart i f.va.toNat (e.gb.toNat / 256 % 2 ^ 24 + i * n) n
  | .vreds _ f => all f.v (etWidth f.v.et.toNat) [f.v.va.toNat]
  | .vdot f => all f.v (etWidth f.v.et.toNat) [f.v.va.toNat, f.v.vb.toNat]
  | .vlgdot f => all f 6 [f.va.toNat, f.vb.toNat]
  | i =>
    match checkedForm i with
    | some f => all f (etWidth f.et.toNat) (vSources i)
    | none => []

/-- What an instruction may write of the v registers, element by element. -/
def VEntry.writeParts (e : VEntry) (x : Worker) : List Part :=
  match e.instr with
  | .vput f =>
    let w := etWidth f.et.toNat
    [regPart e.ga.toNat (hVec f.h).toNat (w * e.ga.toNat) w]
  | .vcomp f =>
    let w := etWidth f.et.toNat
    (e.active x f.mask).zipIdx.map fun p => regPart p.1 (hVec f.h).toNat (w * (e.vstart + p.2)) w
  | i =>
    let (rs, mask, w) := vResult i
    (e.active x mask).flatMap (elemParts w rs)

end Sys2Proof.Machine
end

