-- ==== Sys2Proof/Machine/VectorMem.lean ====
section
/-! DEFINITION. Vector memory instructions (R187 to R208, R239 to R242, R288): stream registers, vector length and
register count, the addresses and checks of elements, issue, and what each delivers when the vector unit executes it. -/

namespace Sys2Proof.Machine

/-! ## Length, register count, stream registers (R191 to R196) -/

/-- VSETL (R195). -/
def execVsetl (f : FIM) (s : State) : Out :=
  checked (.vsetl f) s fun s =>
    let m := vlmaxOf s.core.w.vncode (etWidth (f.imm.extractLsb' 0 4).toNat)
    let n := Nat.min (s.g f.ga).toNat m
    .next ((s.modCore fun x => { x with w := { x.w with vlmax := BitVec.ofNat 15 m, vl := BitVec.ofNat 15 n } }).put
      (hReg f.h) (BitVec.ofNat 64 n))

/-- VDECL (R196). -/
def execVdecl (f : FIM) (s : State) : Out :=
  checked (.vdecl f) s fun s =>
    if s.waitsVector then .next s
    else
      let s1 := s.modCore fun x => { x with w := { x.w with
        vncode := f.imm.extractLsb' 0 2, v := Vector.replicate 64 VReg.reset, m := Vector.replicate 8 0 } }
      .next (match s1.cur with
        | .worker w => (s1.clearResv w).advance
        | _ => s1.advance)

/-- A stream register of the current worker. -/
def State.stream (s : State) (q : BitVec 4) : Stream := s.core.w.q.getD q.toNat Stream.reset

/-- Writes a stream register of the current worker. -/
def State.setStream (s : State) (q : BitVec 4) (r : Stream) : State :=
  s.modCore fun x => { x with w := { x.w with q := x.w.q.setIfInBounds q.toNat r } }

/-- QSET (R191). -/
def execQset (f : FIM) (s : State) : Out :=
  checked (.qset f) s fun s =>
    .next (s.setStream (f.imm.extractLsb' 0 4)
      { set := true, dir := false, boff := f.imm.extractLsb' 4 3,
        base := (s.g f.ga + (f.imm.extractLsb' 8 16).signExtend 64).setWidth 58, slots := [] }).advance

/-- A stream register moved by a number of bits (R192). -/
def Stream.move (r : Stream) (n : Int) : Stream :=
  let pos := ((r.base.toNat * 8 + r.boff.toNat : Nat) + n) % (2 ^ 61 : Nat)
  { r with
    base := BitVec.ofInt 58 (pos / 8)
    boff := BitVec.ofInt 3 pos
    dir := if n < 0 then true else if 0 < n then false else r.dir }

/-- QADV (R192). -/
def execQadv (f : FIM) (s : State) : Out :=
  checked (.qadv f) s fun s =>
    let q := f.imm.extractLsb' 0 4
    if !(s.stream q).set then .next (s.raise 22 0)
    else
      let n := (s.g f.ga).toInt
      .next (s.setStream q ((s.stream q).move (if f.imm.getLsbD 4 then n else 8 * n))).advance

/-- The page of a context that follows an address by n pages in a direction, with its bytes, each page as large as the
translation found there says (R193). A page without a translation counts 4 KiB on the way. -/
def State.pageAhead (s : State) (holder c : Nat) (down : Bool) : Nat → Word → Option (Word × Leaf)
  | 0, va => (s.leafFor holder c va).map fun l =>
      (BitVec.ofNat 64 (va.toNat / leafBytes l.val l.level * leafBytes l.val l.level), l)
  | n + 1, va =>
    let size := ((s.leafFor holder c va).map fun l => leafBytes l.val l.level).getD 4096
    let base := va.toNat / size * size
    s.pageAhead holder c down n (BitVec.ofInt 64 (if down then (base : Int) - 1 else base + size))

/-- WALK_AHEAD (R193): a walk for one of the four pages that follow BASE in direction DIR ends; its page is kept in a
hidden slot when a translation with U and R or W was found, and the slot stays empty otherwise. -/
def execWalkAhead (w : WKey) (q : BitVec 4) (slot : Nat) (s : State) : Out :=
  let x := (s.seqD (.worker w)).w
  let r := x.q.getD q.toNat Stream.reset
  if !r.set || x.vmt != 0 || decide (4 ≤ slot) then .next s
  else
    match s.pageAhead (s.dieOf (.worker w)) w.ctx r.dir (slot + 1) (r.base.setWidth 64) with
    | none => .next s
    | some (at_, l) =>
      let kept := (at_, leafBytes l.val l.level)
      if !pteBit l.val 4 || !(pteBit l.val 1 || pteBit l.val 2) || r.slots.contains kept then .next s
      else
        .next (s.modSeq (.worker w) fun y =>
          { y with w := { y.w with q := y.w.q.setIfInBounds q.toNat { r with slots := (kept :: r.slots).take 4 } } })

/-! ## Elements in memory (R198) -/

/-- One element, or one field of a segment element, in memory: its element number, the register and the bit of it that
it goes to or comes from, the bytes it touches, and where among their bits it lies. -/
structure Piece where
  elem : Nat
  reg : Nat
  lo : Nat
  va : Word
  n : Nat
  shift : Nat
  w : Nat
  deriving DecidableEq, Repr

/-- BASE as captured. -/
def VEntry.baseVa (e : VEntry) : Word := e.base.setWidth 64

/-- Element i of an lg6 stream (R198). -/
def lg6Piece (e : VEntry) (reg i : Nat) : Piece :=
  let bit := e.boff.toNat + 6 * i
  { elem := i, reg := reg, lo := 6 * i, va := e.baseVa + BitVec.ofNat 64 (bit / 8),
    n := if bit % 8 ≤ 2 then 1 else 2, shift := bit % 8, w := 6 }

/-- An element of whole bytes at an address. -/
def bytePiece (reg w i : Nat) (va : Word) : Piece :=
  { elem := i, reg := reg, lo := w * i, va := va, n := w / 8, shift := 0, w := w }

/-- The pieces of element i of a unit, stride or segment form (R198); gc holds the stride. -/
def computedPieces (f : FVM) (e : VEntry) (i : Nat) : List Piece :=
  let w := etWidth f.et.toNat
  let b := w / 8
  let r := (hVec f.h).toNat
  match f.mode.toNat with
  | 0 => if f.et = 8 then [lg6Piece e r i] else [bytePiece r w i (e.baseVa + BitVec.ofNat 64 (i * b))]
  | 1 => [bytePiece r w i (e.baseVa + BitVec.ofNat 64 i * e.gc)]
  | _ =>
    (List.range (f.nf1.toNat + 1)).map fun k =>
      bytePiece (r + k) w i (e.baseVa + BitVec.ofNat 64 ((i * (f.nf1.toNat + 1) + k) * b))

/-- The piece of element i of an indexed form (R198): the register is the data's. -/
def indexedPiece (e : VEntry) (x : Worker) (idx reg w i : Nat) : Piece :=
  bytePiece reg w i (e.baseVa + BitVec.ofNat 64 ((x.vreg idx).elem 64 i))

/-! ## Scratchpads (R187 to R189) -/

/-- A worker whose scratchpad another may reach: resident in the cluster, of the same launch. -/
def State.padOwner (s : State) (w : WKey) (core off : Nat) : Option (WKey × Nat) :=
  let me := (s.seqD (.worker w)).w.place
  s.workers.findSome? fun p =>
    let pl := p.2.w.place
    let size := spadBytes p.2.w.spadCode
    let start := if pl.slot = 0 then 0 else 262144 - size
    if p.2.run != .saved && p.1.ctx == w.ctx && p.1.slot == w.slot && pl.die == me.die && pl.cluster == me.cluster &&
        pl.core == core && decide (start ≤ off) && decide (off < start + size) then some (p.1, off - start)
    else none

/-- The scratchpad byte at an address of spaces 1 and 2: whose it is and its offset there. -/
def State.padByte (s : State) (w : WKey) (vmt : BitVec 2) (a : Word) : Option (WKey × Nat) :=
  if vmt = 1 then
    if a.toNat < spadBytes (s.seqD (.worker w)).w.spadCode then some (w, a.toNat) else none
  else if a.extractLsb' 23 41 ≠ 0#41 then none
  else s.padOwner w (a.extractLsb' 18 5).toNat (a.extractLsb' 0 18).toNat

/-- The bytes of a scratchpad access as a number. -/
def State.padNum (s : State) (w : WKey) (vmt : BitVec 2) (a : Word) (n : Nat) : Nat :=
  bytesNum ((List.range n).map fun k =>
    match s.padByte w vmt (a + BitVec.ofNat 64 k) with
    | some (o, off) => cellsGet (s.seqD (.worker o)).w.spad off
    | none => 0)

/-- The bits of a scratchpad byte under a mask are replaced. -/
def State.padPut (s : State) (w : WKey) (vmt : BitVec 2) (a : Word) (d m : Byte) : State :=
  match s.padByte w vmt a with
  | none => s
  | some (o, off) =>
    s.modSeq (.worker o) fun x =>
      { x with w := { x.w with spad := cellsPut x.w.spad off ((cellsGet x.w.spad off &&& ~~~m) ||| (d &&& m)) } }

/-- An element is stored into a scratchpad. -/
def State.padStore (s : State) (w : WKey) (vmt : BitVec 2) (p : Piece) (v : Nat) : State :=
  (List.range p.n).foldl (fun acc k =>
    acc.padPut w vmt (p.va + BitVec.ofNat 64 k) (BitVec.ofNat 8 (v * 2 ^ p.shift / 256 ^ k))
      (BitVec.ofNat 8 ((2 ^ p.w - 1) * 2 ^ p.shift / 256 ^ k))) s

/-! ## The checks of an element (R199) -/

/-- The checks of a piece, in order: `want` is what R163 checks it for in space 0, `spaces` that the form may address a
scratchpad. -/
def State.checkPiece (s : State) (w : WKey) (e : VEntry) (want : Want) (spaces : Bool) (p : Piece) :
    Except AccFault Leaves :=
  if p.w ≠ 6 ∧ (p.va.toNat % p.n ≠ 0 ∨ e.boff ≠ 0) then .error ⟨9, p.va, false⟩
  else if e.vmt = 0 then s.checkAccess (s.accessor (.worker w)) want p.va p.n
  else
    match (List.range p.n).find? fun k => (s.padByte w e.vmt (p.va + BitVec.ofNat 64 k)).isNone with
    | some k => .error ⟨if e.vmt = 1 then 44 else 45, p.va + BitVec.ofNat 64 k, false⟩
    | none => if spaces then .ok [] else .error ⟨12, p.va, false⟩

/-- The pieces checked in order: the leaves of those that pass, and the first fault. -/
def checkPieces (chk : Piece → Except AccFault Leaves) : List Piece → Leaves × Option ElemFault
  | [] => ([], none)
  | p :: r =>
    match chk p with
    | .error f => ([], some { elem := p.elem, cond := f.cond, eaddr := f.eaddr })
    | .ok l =>
      let (l2, e) := checkPieces chk r
      (l ++ l2, e)

/-- The pages of leaves, each once. -/
def pagesFrom (l : Leaves) : List PageMap :=
  l.foldl (fun acc p => if acc.contains (p.1.page p.2.1) then acc else acc ++ [p.1.page p.2.1]) []

/-- The trap of an element stop (R201). -/
def stopTrap (e : VEntry) (f : ElemFault) : Trap :=
  { source := if f.cond = 28 then 5 else 1, cond := f.cond, epc := e.pc, eaddr := f.eaddr, eidx := f.elem, save := e.pc,
    vstart := some f.elem }

/-! ## Issue (R194, R200) -/

/-- The entry of a vector memory instruction, with its stream register captured (R194). -/
def State.memEntry (s : State) (i : Instr) (id : Nat) (q : BitVec 4) : VEntry :=
  { s.entryFor i id with base := (s.stream q).base, boff := (s.stream q).boff }

/-- An entry joins the queue without the scalar sequencer going on: its instruction has faulted. -/
def State.pushEntry (s : State) (e : VEntry) : State :=
  s.modCore fun x => { x with w := { x.w with queue := x.w.queue ++ [e], vstart := 0 } }

/-- The elements below the lowest faulting one (R201). -/
def VEntry.below (e : VEntry) (l : List Nat) : List Nat :=
  match e.fault with
  | none => l
  | some f => l.filter fun i => decide (i < f.elem)

/-- The physical address and kind of a byte of an entry's pages. -/
def VEntry.place (e : VEntry) (va : Word) : Nat × PageKind :=
  match e.pages.find? fun p => p.vpn == va.toNat / 4096 with
  | some p => (4096 * p.ppn + va.toNat % 4096, pteKind ((p.kind.setWidth 64) <<< 5))
  | none => (0, .shared)

/-- What an instruction captured of its pieces is to touch: the pieces of its active elements below the faulting one. -/
def VEntry.pieces (e : VEntry) (x : Worker) (f : FVM) : List Piece :=
  (e.below (e.active x f.mask)).flatMap fun i => computedPieces f e i

/-- The pieces of VACC, one a line of its row: its elements from VSTART to VL − 1 (R288). -/
def vaccPieces (f : FTR) (e : VEntry) : List Piece :=
  (List.range (pitchOf e.vl)).filterMap fun b =>
    let lo := Nat.max (16 * b) e.vstart
    let hi := Nat.min (16 * b + 16) e.vl
    if lo < hi then
      some { elem := lo, reg := (hVec f.h).toNat, lo := 32 * lo, va := e.gb + BitVec.ofNat 64 (4 * lo), n := 4 * (hi - lo),
             shift := 0, w := 32 * (hi - lo) }
    else none

/-- An element cut where it leaves its 32 bytes, and with them its line or its scratchpad: an lg6 element may lie in
two (R336). -/
def Piece.cut (p : Piece) : List Piece :=
  if p.w = 6 ∧ p.n = 2 ∧ p.va.toNat % 32 = 31 then
    [{ p with n := 1, w := 8 - p.shift },
      { p with va := p.va + 1, n := 1, shift := 0, lo := p.lo + (8 - p.shift), w := p.w - (8 - p.shift) }]
  else [p]

/-- Where a scratchpad byte stands among the bytes that accesses of a worker may share: above every physical address, by
the place of its owner. -/
def State.padSpan (s : State) (w : WKey) (vmt : BitVec 2) (a : Word) : Nat :=
  match s.padByte w vmt a with
  | some (o, off) =>
    let p := (s.seqD (.worker o)).w.place
    2 ^ 64 + 2 ^ 18 * (2 * p.vc + p.slot) + off
  | none => 2 ^ 64

/-- The bytes of pieces, each with their number. -/
def State.spansOf (s : State) (w : WKey) (e : VEntry) (l : List Piece) : List (Nat × Nat) :=
  (l.flatMap Piece.cut).map fun p => (if e.vmt = 0 then (e.place p.va).1 else s.padSpan w e.vmt p.va, p.n)

/-- The bytes that a queued instruction of computed addresses has still to touch (R117). -/
def State.spansLeft (s : State) (w : WKey) (e : VEntry) : List (Nat × Nat) :=
  let x := (s.seqD (.worker w)).w
  match e.instr with
  | .vld f => s.spansOf w e (e.pieces x f)
  | .vst f => s.spansOf w e (e.pieces x f)
  | .vacc f => s.spansOf w { e with vmt := 0 } (vaccPieces f e)
  | _ => []

/-- Some bytes of two lists are the same. -/
def meets (a b : List (Nat × Nat)) : Bool :=
  a.any fun p => b.any fun q => decide (p.1 < q.1 + q.2) && decide (q.1 < p.1 + p.2)

/-- A computed form at issue: checked by the scalar sequencer, then queued; one that faults is queued for the elements
below the faulting one, and raises its trap (R200, R201). -/
def computedIssue (i : Instr) (f : FVM) (want : Want) (s : State) : Out :=
  checked i s fun s =>
    if !(s.stream f.q).set then .next (s.raiseFrom 1 22 0)
    else if s.exceeds [f.et.toNat] then .next (s.raiseFrom 1 8 0)
    else
      match s.cur with
      | .worker w =>
        let (id, s1) := s.takeId
        let e := { s1.memEntry i id f.q with gc := s1.g f.sreg }
        let pieces := (e.active s1.core.w f.mask).flatMap fun i => computedPieces f e i
        let (l, fault) := checkPieces (s1.checkPiece w e want true) pieces
        if reachesDevice l then .fault .deviceRegisters
        else
          let s2 := s1.markAll l want.wr
          let e2 := { e with pages := pagesFrom l, fault := fault }
          let e3 := { e2 with spans := s2.spansLeft w e2 }
          match fault with
          | none => .next (s2.enqueue e3)
          | some x => .next ((s2.pushEntry e3).raiseOn s2.cur (stopTrap e3 x))
      | _ => .next s

/-- VLD at issue (R204). -/
def execVld (f : FVM) (s : State) : Out := computedIssue (.vld f) f wantLoad s

/-- VST at issue (R204). -/
def execVst (f : FVM) (s : State) : Out := computedIssue (.vst f) f wantStore s

/-- An indexed form at issue: its elements are checked when it executes (R200). -/
def indexedIssue (i : Instr) (f : FVM) (s : State) : Out :=
  checked i s fun s =>
    if !(s.stream f.q).set then .next (s.raiseFrom 1 22 0)
    else if s.exceeds [f.et.toNat, 3] then .next (s.raiseFrom 1 8 0)
    else
      let (id, s1) := s.takeId
      .next (s1.enqueue (s1.memEntry i id f.q))

/-- VGATH at issue (R205). -/
def execVgath (f : FVM) (s : State) : Out := indexedIssue (.vgath f) f s

/-- VSCAT at issue (R205). -/
def execVscat (f : FVM) (s : State) : Out := indexedIssue (.vscat f) f s

/-- VLDL at issue (R206). -/
def execVldl (f : FVM) (s : State) : Out := indexedIssue (.vldl f) f s

/-- VSTC at issue (R207). -/
def execVstc (f : FVM) (s : State) : Out := indexedIssue (.vstc f) f s

/-- VAMO at issue (R240). -/
def execVamo (op : AmoOp) (f : FVX) (s : State) : Out := indexedIssue (.vamo op f) f.m s

/-- VRED at issue (R242). -/
def execVred (op : RedOp) (f : FVX) (s : State) : Out := indexedIssue (.vred op f) f.m s

/-- VACC at issue (R288): its checks, then an entry that holds the lines of its row, the row's address in gb and the
window's number. -/
def execVacc (f : FTR) (s : State) : Out :=
  checked (.vacc f) s fun s =>
    let r := s.winReg (f.imm.extractLsb' 0 3)
    let row := (s.g f.ga).toNat
    if !r.isOpen then .next (s.raiseFrom 2 14 0)
    else if r.rows.toNat ≤ row ∨ r.cols.toNat < s.core.w.vl.toNat then .next (s.raiseFrom 2 38 0)
    else if s.exceeds [13] then .next (s.raiseFrom 1 8 0)
    else
      match s.cur, s.window? r.window with
      | .worker w, some win =>
        let va := win.base + BitVec.ofNat 64 (64 * win.pitchl * row)
        let (id, s1) := s.takeId
        let pages := (List.range (pitchOf s.core.w.vl.toNat)).filterMap fun b => (win.line row b).map fun la =>
          ({ vpn := (va + BitVec.ofNat 64 (64 * b)).toNat / 4096, ppn := la / 4096, kind := 2, span := 4096 } : PageMap)
        let e := { s1.entryFor (.vacc f) id with gb := va, cmd := win.id, pages := pages }
        .next (s1.enqueue { e with spans := s1.spansLeft w e })
      | _, _ => .next (s.raiseFrom 2 14 0)

/-! ## What comes of executing one -/

/-- What comes of an attempt to execute a queued instruction: it waits, it has been executed and perhaps raises a trap,
or one of its elements reaches a device register. -/
inductive Did where
  | wait (s : State)
  | done (s : State) (t : Option Trap)
  | device

/-- Where a piece goes or comes from in its register, and where its bits lie in bytes that begin `back` bytes before it. -/
def Piece.part (p : Piece) (back : Nat) : Part :=
  { reg := p.reg, lo := p.lo, width := p.w, shift := 8 * back + p.shift, elem := p.elem }

/-- A message of a vector instruction for the bytes of one piece. -/
def State.sendPiece (s : State) (q : SeqId) (e : VEntry) (p : Piece) (body : Body) : State :=
  s.sendAccess q (e.place p.va).1 p.va p.n body

/-- The blocks that an instruction reads come back: those that say which elements it reads first (R128). -/
def State.openReads (s : State) (w : WKey) (index reads : Worker → List Part) : Except State State :=
  let q := SeqId.worker w
  match s.needBlocks w ((s.seqD q).w.readBlocks (index (s.seqD q).w)) with
  | .error s1 => .error s1
  | .ok s1 => s1.needBlocks w ((s1.seqD q).w.readBlocks (reads (s1.seqD q).w))

/-- A load writes the whole valid extents of its registers unmasked (R202). -/
def State.loadsWhole (s : State) (q : SeqId) (e : VEntry) (dst : List Nat) (mask : BitVec 3) (bytes : Nat) : Bool :=
  mask == 0#3 && e.fromStart && e.fault.isNone && dst.all fun r => decide (((s.seqD q).w.vreg r).extent ≤ bytes)

/-- The registers a load writes: their extents grow over blocks that are backed, and a mark among its sources marks them
(R202). -/
def State.openDests (s : State) (w : WKey) (e : VEntry) (dst : List Nat) (bytes : Nat) (m : Option Mark) :
    Except State State :=
  let q := SeqId.worker w
  match s.needBlocks w (dst.flatMap fun r => (s.seqD q).w.growth r bytes) with
  | .error s1 => .error s1
  | .ok s1 => .ok (dst.foldl (fun (acc : State) r => acc.modVReg q r fun x =>
      { x.remark e.id false bytes m with extent := Nat.max x.extent bytes }) s1)

/-! ## Loads -/

/-- What one access of a vector load reads: its bytes, and the elements they hold. -/
structure Reading where
  pa : Nat
  va : Word
  len : Nat
  kind : PageKind
  parts : List Part
  deriving DecidableEq, Repr

/-- The access of one piece. -/
def VEntry.reading (e : VEntry) (p : Piece) : Reading :=
  { pa := (e.place p.va).1, va := p.va, len := p.n, kind := (e.place p.va).2, parts := [p.part 0] }

/-- One access in the place of two: the bytes from the first to the last. -/
def Reading.join (r x : Reading) : Reading :=
  let pa := Nat.min r.pa x.pa
  let back (y : Reading) : List Part := y.parts.map fun p => { p with shift := p.shift + 8 * (y.pa - pa) }
  { pa := pa, va := r.va - BitVec.ofNat 64 (r.pa - pa), len := Nat.max (r.pa + r.len) (x.pa + x.len) - pa, kind := r.kind,
    parts := back r ++ back x }

/-- The accesses of a vector load: one a piece, but one for all it reads in one block of an FMT-1 window (R203, R336). -/
def State.readings (s : State) (e : VEntry) (l : List Piece) : List Reading :=
  l.foldl (fun acc p =>
    let x := e.reading p
    let same (r : Reading) : Bool := s.fmtAt x.pa == 1 && r.pa / 32 == x.pa / 32 && r.kind == x.kind
    if acc.any same then mapIf acc same fun r => r.join x else acc ++ [x]) []

/-- An element of the worker's own scratchpad is on its way into its register. -/
def State.padLoad (s : State) (w : WKey) (e : VEntry) (whole : Bool) (p : Piece) : State :=
  s.landElem { id := 0, src := .worker w, entry := e.id, reg := p.reg, lo := p.lo, width := p.w, elem := p.elem,
               val := s.padNum w e.vmt p.va p.n / 2 ^ p.shift % 2 ^ p.w, poison := none, toMask := false, long := true,
               whole := whole, acq := none }

/-- An access to another worker's scratchpad leaves for it (R190, R341). -/
def State.sendPad (s : State) (w o : WKey) (off : Nat) (p : Piece) (store : Option (Nat × Nat)) (dest : Dest) : State :=
  let q := SeqId.worker w
  s.send q (s.pathOf q) off p.va p.n (.pad o store dest) (s.dieOf q) (s.dieOf q)
    (1024 + (s.seqD (.worker o)).w.place.vc)

/-- An element of a scratchpad is loaded: read at once from the worker's own, by an access from another one's (R190). -/
def State.loadPad (s : State) (w : WKey) (e : VEntry) (whole : Bool) (p : Piece) : State :=
  match s.padByte w e.vmt p.va with
  | some (o, off) =>
    if o = w then s.padLoad w e whole p else s.sendPad w o off p none (.elems e.id whole [p.part 0])
  | none => s

/-- Loaded elements leave for their registers. -/
def State.loadPieces (s : State) (w : WKey) (e : VEntry) (op : Piece → MemOp) (whole : Bool) (acq : Option (BitVec 3))
    (l : List Piece) : State :=
  let pieces := l.flatMap Piece.cut
  let q := SeqId.worker w
  if e.vmt ≠ 0 then pieces.foldl (fun acc p => acc.loadPad w e whole p) s
  else if pieces.all fun p => (op p).isLoad then
    (s.readings e pieces).foldl (fun (acc : State) r =>
      acc.sendAccess q r.pa r.va r.len (.access (match pieces.head? with
        | some p => op p
        | none => .load) r.kind (.elems e.id whole r.parts) acq)) s
  else
    pieces.foldl (fun acc p =>
      acc.sendPiece q e p (.access (op p) (e.place p.va).2 (.elems e.id whole [p.part 0]) acq)) s

/-! ## Stores -/

/-- The data of a piece in its register. -/
def Worker.pieceBits (x : Worker) (p : Piece) : Nat := ((x.vreg p.reg).bits.extractLsb' p.lo p.w).toNat

/-- What a vector store writes of one line of a page kind: its bits, and the piece that met the line first. -/
structure Writing where
  la : Nat
  kind : PageKind
  first : Piece
  data : LineBits
  mask : LineBits
  deriving DecidableEq, Repr

/-- The bits a piece writes in its line. -/
def VEntry.writing (e : VEntry) (x : Worker) (p : Piece) : Writing :=
  let (pa, kind) := e.place p.va
  let at_ := 8 * (pa % 64) + p.shift
  { la := lineOf pa, kind := kind, first := p, data := (BitVec.ofNat 512 (x.pieceBits p)) <<< at_, mask := bitMask at_ p.w }

/-- The writes of a vector store: the elements of one line enter one together, in ascending order (R203, R305). -/
def VEntry.writings (e : VEntry) (x : Worker) (l : List Piece) : List Writing :=
  l.foldl (fun acc p =>
    let y := e.writing x p
    let same (r : Writing) : Bool := r.la == y.la && r.kind == y.kind
    if acc.any same then
      mapIf acc same fun r => { r with data := mergeLine r.data y.data y.mask, mask := r.mask ||| y.mask }
    else acc ++ [y]) []

/-- One line is written: in the core's cache for a PRIVATE page, else by the stage buffer (R303). -/
def State.storeLine (s : State) (w : WKey) (e : VEntry) (y : Writing) : State :=
  let q := SeqId.worker w
  match y.kind with
  | .priv => s.writeCached (s.cacheOf q) (s.pathOf q) (s.dieOf q) y.la y.data y.mask
  | _ => s.sendPiece q e y.first (.staged (.store y.data y.mask) e.id)

/-- An element is stored into a scratchpad: at once into the worker's own, by an access into another one's (R190). -/
def State.storePad (s : State) (w : WKey) (e : VEntry) (p : Piece) : State :=
  let v := (s.seqD (.worker w)).w.pieceBits p
  match s.padByte w e.vmt p.va with
  | some (o, off) =>
    if o = w then s.padStore w e.vmt p v
    else s.sendPad w o off p (some (v * 2 ^ p.shift, (2 ^ p.w - 1) * 2 ^ p.shift)) .none
  | none => s

/-- Elements are stored in ascending order (R203). -/
def State.storePieces (s : State) (w : WKey) (e : VEntry) (l : List Piece) : State :=
  let pieces := l.flatMap Piece.cut
  if e.vmt = 0 then (e.writings (s.seqD (.worker w)).w pieces).foldl (fun acc y => acc.storeLine w e y) s
  else pieces.foldl (fun acc p => acc.storePad w e p) s

/-- A store into a PRIVATE line waits for the worker's loads of it that are on their way (R117). -/
def State.storesWait (s : State) (q : SeqId) (e : VEntry) (l : List Piece) : Bool :=
  e.vmt == 0 && (l.flatMap Piece.cut).any fun p => (e.place p.va).2 == .priv && s.linePending q (lineOf (e.place p.va).1)

/-- Before the accesses of an instruction go to their home slices, the cluster's entries for their lines leave (R305). -/
def State.beforeHomes (s : State) (q : SeqId) (e : VEntry) (l : List Piece) : Option State :=
  foldOpt (fun (acc : State) p => acc.beforeHome q (lineOf (e.place p.va).1)) l s

/-- The trap of an instruction whose checks found a fault when it executed. -/
def VEntry.stopOf (e : VEntry) : Option Trap := e.fault.map (stopTrap e)

/-- The access of a VLDL or VSTC element of an index is on its way: the next one of that index waits, so that the
reservations of an index follow program order (R116, R206, R207). -/
def State.indexPending (s : State) (w : WKey) (i : Nat) : Bool :=
  (s.net.msgs ++ s.net.held.map fun h => h.msg).any fun m => m.reply.isNone && match m.body with
    | .access (.link o) _ (.elems _ _ l) _ => o == w && l.any fun p => p.elem == i
    | .access (.cond _ _ o k) _ _ _ => o == w && k == i
    | _ => false

/-! ## The computed forms (R204) -/

/-- What a vector memory instruction reads to know which elements it reads, and its accesses: its index vector (R205). -/
def VEntry.indexOf (e : VEntry) (x : Worker) : List Part :=
  let all (f : FVM) := (e.active x f.mask).flatMap (elemParts 64 [f.idx.toNat])
  match e.instr with
  | .vgath f => all f
  | .vscat f => all f
  | .vldl f => all f
  | .vstc f => all f
  | .vamo _ f => all f.m
  | .vred _ f => all f.m
  | _ => e.indexReads x

/-- What an instruction reads of the v registers, element by element. -/
def VEntry.readParts (e : VEntry) (x : Worker) : List Part :=
  let data (f : FVM) (r : Nat) := (e.active x f.mask).flatMap (elemParts (etWidth f.et.toNat) [r])
  match e.instr with
  | .vst f => (e.pieces x f).map fun p => p.part 0
  | .vscat f => e.indexOf x ++ data f (hVec f.h).toNat
  | .vstc f => e.indexOf x ++ data f (hVec f.h).toNat
  | .vgath _ => e.indexOf x
  | .vldl _ => e.indexOf x
  | .vamo _ f => e.indexOf x ++ data f.m f.vb.toNat
  | .vred _ f => e.indexOf x ++ data f.m f.vb.toNat
  | _ => e.reads x

/-! ## What of the registers is still in use (R143) -/

/-- The element group of 256 bytes that a part counts to: the later one of an element that spans two, so too of the first
bits of a cut lg6 element (R126). -/
def Part.group (p : Part) : Nat :=
  if p.width < 6 ∧ p.lo = 6 * p.elem then (p.lo + 5) / 2048 else (p.lo + p.width - 1) / 2048

/-- Two parts are of one element group of a register, or share bits of it (R116, R143). -/
def Part.meets (p r : Part) : Bool :=
  p.reg == r.reg && (p.group == r.group || (decide (p.lo < r.lo + r.width) && decide (r.lo < p.lo + p.width)))

/-- The parts of registers that data on its way to a worker's v registers will write, each with its instruction. -/
def State.flying (s : State) (q : SeqId) : List (Nat × Part) :=
  ((s.net.elems.filter fun l => l.src == q && !l.toMask).map fun l => (l.entry, regPart l.elem l.reg l.lo l.width)) ++
  ((s.net.msgs ++ s.net.held.map fun h => h.msg).filter fun m => m.src == q).flatMap fun m =>
    match m.body with
    | .access _ _ (.elems e _ l) _ => l.map fun p => (e, p)
    | .pad _ _ (.elems e _ l) => l.map fun p => (e, p)
    | _ => []

/-- The parts of registers that instructions older than one have still to write or to read, data on its way included. -/
def State.olderUses (s : State) (q : SeqId) (entry : Nat) : List Part :=
  let x := (s.seqD q).w
  ((x.queue.filter fun e => decide (e.id < entry)).flatMap fun e => e.readParts x ++ e.writeParts x) ++
    ((s.flying q).filter fun p => decide (p.1 < entry)).map fun p => p.2

/-- An indexed form whose elements have all passed their checks writes its whole valid extent: the mark of its destination
is gone, unless an older instruction has still to use the register (R202). -/
def State.unmarkChecked (s : State) (w : WKey) (e : VEntry) : State :=
  let q := SeqId.worker w
  if e.holdsIssue && e.fault.isNone then
    let used := s.olderUses q e.id
    let l := (e.renews (s.seqD q).w).filter fun r => !used.any fun p => p.reg == r
    s.modSeq q fun x => { x with w := x.w.unmark l }
  else s

/-- A load with its pieces known executes: its destinations are opened, and its accesses leave. -/
def loadBody (dst : List Nat) (width : Nat) (mask : BitVec 3) (op : Piece → MemOp) (acq : Option (BitVec 3)) (w : WKey)
    (e : VEntry) (l : List Piece) (s : State) : Did :=
  let q := SeqId.worker w
  let bytes := bytesFor width e.vl
  let whole := s.loadsWhole q e dst mask bytes
  match (s.unmarkChecked w e).openDests w e (if l.isEmpty then [] else dst) bytes ((s.seqD q).w.sourceMark e.instr.operands) with
  | .error s1 => .done s1 none
  | .ok s1 => .done (s1.loadPieces w e op whole acq l) e.stopOf

/-- VLD. Its stop has been raised at issue. -/
def performVld (f : FVM) (e : VEntry) (w : WKey) (s : State) : Did :=
  match loadBody f.group (etWidth f.et.toNat) f.mask (fun _ => .load) none w e (e.pieces (s.seqD (.worker w)).w f) s with
  | .done s1 _ => .done s1 none
  | d => d

/-- VST. -/
def performVst (f : FVM) (e : VEntry) (w : WKey) (s : State) : Did :=
  let q := SeqId.worker w
  let l := e.pieces (s.seqD q).w f
  if s.storesWait q e l then .wait s
  else
    match s.openReads w e.indexOf e.readParts with
    | .error s1 => .done s1 none
    | .ok s1 => .done (s1.storePieces w e l) none

/-! ## The indexed forms (R205 to R207, R240, R242) -/

/-- An indexed form is checked (R200): its entry with the pages and the fault found, and the pieces below it. None
reaches a device register. -/
def State.checkIndexed (s : State) (w : WKey) (e : VEntry) (f : FVM) (reg : Nat) (want : Want) (spaces : Bool) :
    Option (State × VEntry × List Piece) :=
  let x := (s.seqD (.worker w)).w
  let all := (e.active x f.mask).map (indexedPiece e x f.idx.toNat reg (etWidth f.et.toNat))
  let (l, fault) := checkPieces (s.checkPiece w e want spaces) all
  if reachesDevice l then none
  else
    let e2 := { e with pages := pagesFrom l, fault := fault }
    some (s.markAll l want.wr, e2, match fault with
      | none => all
      | some y => all.filter fun p => decide (p.elem < y.elem))

/-- An older entry of the queue, or a QPUSH, has still to touch some of the bytes (R117). -/
def State.olderMeets (s : State) (w : WKey) (e : VEntry) (spans : List (Nat × Nat)) : Bool :=
  ((s.seqD (.worker w)).w.queue.any fun o => decide (o.id < e.id) && meets spans o.spans) || s.pushMeets (.worker w) spans

/-- An indexed form executes: its sources come back to the register file, its elements are checked, and `go` performs
those below a faulting one, unless an older instruction has still to touch their bytes (R117). -/
def indexed (f : FVM) (reg : Nat) (want : Want) (spaces : Bool) (e : VEntry) (w : WKey) (s : State)
    (go : VEntry → List Piece → State → Did) : Did :=
  match s.openReads w e.indexOf e.readParts with
  | .error s1 => .done s1 none
  | .ok s1 =>
    match s1.checkIndexed w e f reg want spaces with
    | none => .device
    | some (s2, e2, l) => if s2.olderMeets w e2 (s2.spansOf w e2 l) then .wait s else go e2 l s2

/-- VGATH. -/
def performVgath (f : FVM) (e : VEntry) (w : WKey) (s : State) : Did :=
  indexed f (hVec f.h).toNat wantLoad true e w s
    (loadBody [(hVec f.h).toNat] (etWidth f.et.toNat) f.mask (fun _ => .load) none w)

/-- VSCAT. -/
def performVscat (f : FVM) (e : VEntry) (w : WKey) (s : State) : Did :=
  indexed f (hVec f.h).toNat wantStore true e w s fun e2 l s1 =>
    if s1.storesWait (.worker w) e2 l then .wait s else .done (s1.storePieces w e2 l) e2.stopOf

/-- VLDL: as VGATH, with a reservation for every element. -/
def performVldl (f : FVM) (e : VEntry) (w : WKey) (s : State) : Did :=
  indexed f (hVec f.h).toNat wantWaitm false e w s fun e2 l s1 =>
    match s1.beforeHomes (.worker w) e2 l with
    | none => .wait s
    | some s2 =>
      if l.any fun p => s2.indexPending w p.elem then .wait s
      else loadBody [(hVec f.h).toNat] (etWidth f.et.toNat) f.mask (fun _ => .link w) none w e2 l s2

/-- VSTC: each element's outcome goes to its bit of the mask register. -/
def performVstc (f : FVM) (e : VEntry) (w : WKey) (s : State) : Did :=
  let q := SeqId.worker w
  indexed f (hVec f.h).toNat wantAtomic false e w s fun e2 l s1 =>
    match s1.beforeHomes q e2 l with
    | none => .wait s
    | some s2 =>
      if l.any fun p => s2.indexPending w p.elem then .wait s
      else
        .done (l.foldl (fun acc p => acc.sendPiece q e2 p (.access
          (.cond p.n (BitVec.ofNat 64 ((s2.seqD q).w.pieceBits p)) w p.elem) (e2.place p.va).2
          (.mask e2.id f.mask.toNat p.elem) none)) s2) e2.stopOf

/-- Element i of vb as an operand. -/
def operandB (f : FVX) (x : Worker) (i : Nat) : Word :=
  BitVec.ofNat 64 ((x.vreg f.vb.toNat).elem (etWidth f.m.et.toNat) i)

/-- VAMO: the release first where its order asks, then every element at its home slice; the acquire comes with the last
element, or at once where there is none. -/
def performVamo (op : AmoOp) (f : FVX) (e : VEntry) (w : WKey) (s : State) : Did :=
  let q := SeqId.worker w
  let (s0, ready) := if f.ord.getLsbD 1 then s.release q f.scope.toNat else (s, true)
  if !ready then .wait s0
  else
    indexed f.m (hVec f.m.h).toNat wantAtomic false e w s0 fun e2 l s1 =>
      match s1.beforeHomes q e2 l with
      | none => .wait s0
      | some s2 =>
        let x := (s2.seqD q).w
        match loadBody [(hVec f.m.h).toNat] (etWidth f.m.et.toNat) f.m.mask
            (fun p => .amo op p.n (operandB f x p.elem)) (ordAcq f.ord f.scope) w e2 l s2 with
        | .done s3 t => .done (if l.isEmpty && f.ord.getLsbD 0 then s3.acquire q f.scope.toNat else s3) t
        | d => d

/-- VRED: narrow ones by the stage buffer, wider ones at the home slice (R303). -/
def performVred (op : RedOp) (f : FVX) (e : VEntry) (w : WKey) (s : State) : Did :=
  let q := SeqId.worker w
  let et := f.m.et.toNat
  indexed f.m 0 wantAtomic false e w s fun e2 l s1 =>
    let x := (s1.seqD q).w
    if f.scope.toNat ≤ 1 then
      .done (l.foldl (fun acc p => acc.sendPiece q e2 p (.staged (.red op et (operandB f x p.elem)) e2.id)) s1) e2.stopOf
    else
      match s1.beforeHomes q e2 l with
      | none => .wait s
      | some s2 =>
        .done (l.foldl (fun acc p => acc.sendPiece q e2 p
          (.access (.red op et (operandB f x p.elem)) (e2.place p.va).2 (.sent e2.id) none)) s2) e2.stopOf

/-! ## VACC (R288) -/

/-- VACC: once every earlier inline command that named its window has written the whole row, each of the row's lines is
read once. -/
def performVacc (f : FTR) (e : VEntry) (w : WKey) (s : State) : Did :=
  if s.rowHeld (.worker w) e.id e.cmd e.gb then .wait s
  else loadBody [(hVec f.h).toNat] 32 0 (fun _ => .load) none w { e with vmt := 0 } (vaccPieces f e) s

/-! ## VWAIT (R241) -/

/-- The elements of the current worker's VWAIT that are not done. -/
def State.vwaitLeft (s : State) (places : List (Nat × Nat)) : List (Nat × Nat) :=
  places.filter fun p => !(s.core.w.vwaitDone.any fun d => d.1 == p.1)

/-- One element's word is read at its home slice; it is done when it meets the comparison, or holds an error (R202). -/
def State.vwaitRead (s : State) (c : Cond) (f : FVX) (p : Nat × Nat) : State :=
  let w := etWidth f.m.et.toNat
  let (s1, v, bad) := s.readHome p.2 (w / 8)
  let b := (s1.core.w.vreg f.vb.toNat).elem w p.1
  let idx := (s1.core.w.vreg f.m.idx.toNat).elem 64 p.1
  let va := (s1.stream f.m.q).base.setWidth 64 + BitVec.ofNat 64 idx
  let mark : Option Mark := bad.map fun a => Mark.at_ va ⟨0, a⟩
  if mark.isSome || Cond.holds c w (BitVec.ofNat w v) (BitVec.ofNat w b) then
    s1.modCore fun x => { x with w := { x.w with vwaitDone := x.w.vwaitDone ++ [(p.1, BitVec.ofNat 64 v, mark)] } }
  else s1

/-- VWAIT completes: every element's value into vd, the acquire, and on. -/
def State.vwaitEnd (s : State) (f : FVX) (w : WKey) (i : Instr) : State :=
  let q := SeqId.worker w
  let width := etWidth f.m.et.toNat
  let e := s.entryNow i
  let got := s.core.w.vwaitDone
  let marked := got.findSome? fun d => d.2.2.map fun m => (d.1, m)
  let vd := (hVec f.m.h).toNat
  let ef : Effect := { noEffect with vd := some (vd, width, got.map fun d => (d.1, d.2.1.toNat)), upto := e.vl,
                                     whole := f.m.mask == 0 && e.fromStart }
  match s.needBlocks w (s.core.w.blocksWritten ef) with
  | .error s1 => s1
  | .ok s1 =>
    let s2 := (s1.applyEffect q e.id noOperands ef).modVReg q vd fun r =>
      match marked with
      | some (_, m) => r.setMark e.id m
      | none => r
    let s3 := s2.modCore fun x => { x with w := { x.w with
      vwaitDone := []
      pending := match marked with
        | some (k, m) => some { source := 5, mark := m, elem := k, entry := 0 }
        | none => x.w.pending } }
    (if f.ord.getLsbD 0 then s3.acquire q f.scope.toNat else s3).clearStart.advance

/-- The loop of VWAIT: reads the elements not done, then completes or parks. -/
def vwaitBody (c : Cond) (f : FVX) (w : WKey) (places : List (Nat × Nat)) (s : State) : Out :=
  let s1 := (s.vwaitLeft places).foldl (fun acc p => acc.vwaitRead c f p) s
  if (s1.vwaitLeft places).isEmpty then .next (s1.vwaitEnd f w (.vwait c f)) else .next (s1.park (.vwait c f places))

/-- VWAIT (R241): waits by R142, checks every active element, then reads and parks. -/
def execVwait (c : Cond) (f : FVX) (s : State) : Out :=
  checked (.vwait c f) s fun s =>
    if !(s.stream f.m.q).set then .next (s.raiseFrom 1 22 0)
    else if s.exceeds [f.m.et.toNat, 3] then .next (s.raiseFrom 1 8 0)
    else if s.waitsVector || s.ordering s.cur then .next s
    else
      match s.cur with
      | .worker w =>
        let now := s.entryNow (.vwait c f)
        let reads (x : Worker) : List Part :=
          (now.active x f.m.mask).flatMap fun i =>
            elemParts 64 [f.m.idx.toNat] i ++ elemParts (etWidth f.m.et.toNat) [f.vb.toNat] i
        match s.openReads w (fun _ => []) reads with
        | .error s1 => .next s1
        | .ok s1 =>
          match s1.checkIndexed w (s1.memEntry (.vwait c f) 0 f.m.q) f.m 0 wantWaitm false with
          | none => .fault .deviceRegisters
          | some (s2, e, l) =>
            match e.fault with
            | some x => .next (s2.raiseOn s2.cur { stopTrap e x with vstart := some 0 })
            | none =>
              let places := l.map fun p => (p.elem, (e.place p.va).1)
              if places.any fun p => s2.linePending s2.cur (lineOf p.2) then .next s
              else vwaitBody c f w places (s2.modCore fun x => { x with w := { x.w with vwaitDone := [] } })
      | _ => .next s

/-- VWAIT_WAKE (R241): the words of the elements not done are read again. -/
def execVwaitWake (w : WKey) (s : State) : Out :=
  match (s.seqD (.worker w)).run with
  | .parked (.vwait c f places) => vwaitBody c f w places (s.wake (.worker w))
  | _ => .next s

/-- VFENCE (R243): waits by R142, then orders as FENCE. -/
def execVfence (f : FIM) (s : State) : Out :=
  checked (.vfence f) s fun s =>
    if s.waitsVector || s.ordering s.cur then .next s
    else
      let (s1, done) := s.fence (fenceOrd f) (fenceScope f)
      .next (if done then s1.advance else s1)

end Sys2Proof.Machine
end

