-- ==== Sys2Proof/Machine/VectorUnit.lean ====
section
/-! DEFINITION. The vector unit: the dispatch of queued instructions with chaining (R116, R140, R143), the recompute check
(R260 to R262), and the landing of loaded elements (R118, R143, R202). -/

namespace Sys2Proof.Machine

/-! ## What each queued instruction delivers -/

/-- What an instruction that touches no memory delivers. `pick` numbers the free choices of a free sum (R112). -/
def performOf (pick : Nat) (i : Instr) : Option (VEntry → Worker → Effect) :=
  match i with
  | .vget f => some (performVget f)
  | .vput f => some (performVput f)
  | .vbcast f => some (performVbcast f)
  | .vadd f => some (performVadd f)
  | .vsub f => some (performVsub f)
  | .vmul f => some (performVmul f)
  | .vmulh f => some (performVmulh f)
  | .vand f => some (performVand f)
  | .vor f => some (performVor f)
  | .vxor f => some (performVxor f)
  | .vshl f => some (performVshl f)
  | .vshr f => some (performVshr f)
  | .vsra f => some (performVsra f)
  | .vmin f => some (performVmin f)
  | .vmax f => some (performVmax f)
  | .vabs f => some (performVabs f)
  | .vsadd f => some (performVsadd f)
  | .vssub f => some (performVssub f)
  | .vmac f => some (performVmac f)
  | .vpmac f => some (performVpmac f)
  | .vsrar f => some (performVsrar f)
  | .vicvt src f => some (performVicvt src f)
  | .vcmp c f => some (performVcmp c f)
  | .vmerge f => some (performVmerge f)
  | .mand f => some (performMand f)
  | .mor f => some (performMor f)
  | .mxor f => some (performMxor f)
  | .mnot f => some (performMnot f)
  | .mset f => some (performMset f)
  | .viota f => some (performViota f)
  | .vfadd f => some (performVfadd f)
  | .vfsub f => some (performVfsub f)
  | .vfmul f => some (performVfmul f)
  | .vfdiv f => some (performVfdiv f)
  | .vfsqrt f => some (performVfsqrt f)
  | .vfmin f => some (performVfmin f)
  | .vfmax f => some (performVfmax f)
  | .vfabs f => some (performVfabs f)
  | .vfneg f => some (performVfneg f)
  | .vfma f => some (performVfma f)
  | .vfms f => some (performVfms f)
  | .vfnma f => some (performVfnma f)
  | .vfnms f => some (performVfnms f)
  | .vfcmp c f => some (performVfcmp c f)
  | .vfclass f => some (performVfclass f)
  | .vfcvt src f => some (performVfcvt src f)
  | .vlgmul f => some (performVlgmul f)
  | .vslideup f => some (performVslideup f)
  | .vslidedn f => some (performVslidedn f)
  | .vperm f => some (performVperm f)
  | .vtlu f => some (performVtlu f)
  | .vcomp f => some (performVcomp f)
  | .vexp f => some (performVexp f)
  | .vbfx f => some (performVbfx f)
  | .vreds op f => some (performVreds op f pick)
  | .vdot f => some (performVdot f)
  | .vlgdot f => some (performVlgdot f)
  | _ => none

/-- What a vector memory instruction does. -/
def memoryOf (i : Instr) : Option (VEntry → WKey → State → Did) :=
  match i with
  | .vld f => some (performVld f)
  | .vst f => some (performVst f)
  | .vgath f => some (performVgath f)
  | .vscat f => some (performVscat f)
  | .vldl f => some (performVldl f)
  | .vstc f => some (performVstc f)
  | .vamo op f => some (performVamo op f)
  | .vred op f => some (performVred op f)
  | .vacc f => some (performVacc f)
  | _ => none

/-- A matrix instruction leaves the queue when the MX has accepted its command (R276); a product's implicit release at
die scope comes first (R286). MPRED and MFMT have had their effect at issue. -/
def dispatchMatrix (e : VEntry) (w : WKey) (s : State) : Did :=
  let product : Did :=
    let (s1, ready) := s.release (.worker w) 2
    if ready then .done (s1.acceptCmd e.cmd) none else .wait s1
  match e.instr with
  | .mmas _ => product
  | .mmaf _ => product
  | .mpred _ => .done s none
  | .mfmt _ => .done s none
  | _ => .done (s.acceptCmd e.cmd) none

/-- An entry executes, from its VSTART to where it ends. -/
def State.execute (s : State) (w : WKey) (e : VEntry) : Did :=
  match memoryOf e.instr with
  | some p => p e w s
  | none =>
    let (pick, s1) := match e.instr with
      | .vreds .. => s.takeFree
      | _ => (0, s)
    match performOf pick e.instr with
    | some p =>
      match s1.runEffect w e.id e.instr.operands e.indexReads e.reads (p e) with
      | .ok s2 => .done s2 none
      | .error s2 => .done s2 none
    | none => dispatchMatrix e w s

/-! ## What of the registers is still in use (R143) -/

/-- The outcome of a VSTC element is on its way to a mask register of a worker. -/
def State.maskFlying (s : State) (q : SeqId) (k : Nat) : Bool :=
  s.net.elems.any (fun l => l.src == q && l.toMask && l.reg == k) ||
  (s.net.msgs ++ s.net.held.map fun h => h.msg).any fun m => m.src == q && match m.body with
    | .access _ _ (.mask _ r _) _ => r == k
    | _ => false

/-- The MASK field of an instruction: of VMERGE its selector (R223), of VSTC its mask register. -/
def maskField (i : Instr) : List (BitVec 3) :=
  match i with
  | .vld f | .vst f | .vgath f | .vscat f | .vldl f | .vstc f => [f.mask]
  | .vamo _ f | .vred _ f => [f.m.mask]
  | .vreds _ f | .vdot f | .vslideup f | .vslidedn f => [f.v.mask]
  | .viota f | .vmerge f | .vbcast f | .vperm f | .vtlu f | .vcomp f | .vexp f | .vbfx f | .vlgdot f => [f.mask]
  | i =>
    match checkedForm i with
    | some f => [f.mask]
    | none => []

/-- The mask registers an instruction reads: as data, m0 too, and by a MASK field that is not 0 (R131). -/
def maskReads (i : Instr) : List (BitVec 3) :=
  (match i with
    | .mand f | .mor f | .mxor f => [f.va.extractLsb' 0 3, f.vb.extractLsb' 0 3]
    | .mnot f | .viota f => [f.va.extractLsb' 0 3]
    | _ => []) ++ (maskField i).filter fun m => m != 0

/-- An instruction reads or writes a mask register that instructions before it have still to write, or writes one they
have still to read (R116). -/
def State.maskClash (s : State) (q : SeqId) (before : List VEntry) (e : VEntry) : Bool :=
  (List.range 8).any fun k =>
    let m := BitVec.ofNat 3 k
    let reads (o : VEntry) : Bool := (maskReads o.instr).contains m
    ((reads e || e.masks m) && (s.maskFlying q k || before.any fun o => o.masks m)) || (e.masks m && before.any reads)

/-! ## When an instruction may run, and how far (R140, R143) -/

/-- An instruction that takes element groups in ascending order as they become available (R143): element-wise, with no
source that it overwrites at other elements; and VST (R204). -/
def VEntry.partwise (e : VEntry) (x : Worker) : Bool :=
  let (rs, _, w) := vResult e.instr
  match e.instr with
  | .vst _ => true
  | .vbcast _ => true
  | i =>
    ((match i with
      | .vmerge _ => true
      | _ => false) || (checkedForm i).isSome) &&
      (e.reads x).all fun p => !rs.contains p.reg || (p.width == w && p.lo == w * p.elem)

/-- An instruction whose results come from memory, each by its own landing. -/
def VEntry.landsLater (e : VEntry) : Bool :=
  match e.instr with
  | .vamo .. => true
  | _ => (List.range 64).any e.fills

/-- An instruction that releases before it acts: VAMO of a releasing order (R240), and a product (R286). -/
def VEntry.releases (e : VEntry) : Bool :=
  match e.instr with
  | .vamo _ f => f.ord.getLsbD 1
  | .mmas _ => true
  | .mmaf _ => true
  | _ => false

/-- The element at which an instruction that goes group by group has to wait: the lowest that reads a group still to be
written, or writes one still to be read or written (R143). -/
def VEntry.limit (e : VEntry) (x : Worker) (written read : List Part) : Nat :=
  let r := (e.readParts x).filter fun p => written.any p.meets
  let w := (e.writeParts x).filter fun p => written.any p.meets || read.any p.meets
  (r ++ w).foldl (fun n p => Nat.min n p.elem) e.till

/-- The end of a part of a VST up to an element: no line has elements on both sides of it (R305). -/
def VEntry.lineCut (e : VEntry) (x : Worker) (n : Nat) : Nat :=
  match e.instr with
  | .vst f =>
    if e.vmt ≠ 0 then n
    else
      let l := (e.pieces x f).flatMap Piece.cut
      let line (p : Piece) : Nat × PageKind := (lineOf (e.place p.va).1, (e.place p.va).2)
      let apart (k : Nat) : Bool :=
        let later := (l.filter fun p => decide (k ≤ p.elem)).map line
        l.all fun p => decide (k ≤ p.elem) || !later.contains (line p)
      (((List.range (n + 1 - e.vstart)).map fun j => n - j).find? apart).getD e.vstart
  | _ => n

/-- How far an instruction may run while instructions `before` it, which have begun, are not complete: up to an element, or
not at all. It waits too as an access for one that acquires (R164, R240), for bytes that those, or a QPUSH, have still to touch
(R117), and, where it releases, for all their accesses (R240, R286). -/
def State.runsTo (s : State) (q : SeqId) (before : List VEntry) (e : VEntry) : Option Nat :=
  let x := (s.seqD q).w
  -- A store takes no element of an instruction that has not retired (R261).
  let started (o : VEntry) : VEntry := if e.touches then { o with vstart := o.first } else o
  let written := (s.flying q).map (fun p => p.2) ++ before.flatMap fun o => (started o).writeParts x
  let read := before.flatMap fun o => o.readParts x
  let busy (l : List Part) (r : Nat) : Bool := l.any fun p => p.reg == r
  let src := once ((e.readParts x).map fun p => p.reg)
  let dst := (vResult e.instr).1
  if s.maskClash q before e || (e.touches && (s.ordering q || s.pushMeets q e.spans)) || (e.releases && before.any VEntry.touches) ||
      before.any fun o => meets e.spans o.spans then none
  else if e.partwise x then
    let n := e.lineCut x (e.limit x written read)
    if (n ≤ e.vstart ∧ e.vstart < e.till) ∨ (e.renews x).any (fun r => !src.contains r && busy written r) = true then none
    else some n
  else
    let ready : Bool := match e.instr with
      | .vget _ => !(e.readParts x).any fun p => written.any p.meets
      | .vput _ => !(e.writeParts x).any fun p => written.any p.meets || read.any p.meets
      | _ => !src.any (busy written) && (e.landsLater || !dst.any fun r => busy written r || busy read r)
    if ready then some e.till else none

/-- The first instruction of a queue that may run: those before it have begun (R140, R143). -/
def State.pickEntry (s : State) (q : SeqId) : List VEntry → List VEntry → Option (VEntry × Nat)
  | _, [] => none
  | before, e :: r =>
    match s.runsTo q before e with
    | some n => some (e, n)
    | none => if e.first < e.vstart then s.pickEntry q (before ++ [e]) r else none

/-- An instruction that makes a store, an atomic or a reduction: a release that a fence has asked for comes before it
(R169). -/
def VEntry.stores (e : VEntry) : Bool :=
  match e.instr with
  | .vst _ => true
  | .vscat _ => true
  | .vstc _ => true
  | .vamo .. => true
  | .vred .. => true
  | _ => false

/-! ## The recompute check (R260 to R262) -/

/-- An entry is checked: it is one of R260's, has an active element, and has not begun. -/
def VEntry.isChecked (e : VEntry) (x : Worker) : Bool :=
  match checkedForm e.instr with
  | some f => e.vstart == e.first && !(e.active x f.mask).isEmpty
  | none => false

/-- The v registers an instruction writes, for the mark of R262. -/
def VEntry.writes (e : VEntry) : List Nat :=
  match e.instr with
  | .vput f => [(hVec f.h).toNat]
  | i => (vResult i).1

/-- The lowest element by which an instruction uses a block of a register (R262). -/
def VEntry.uses (e : VEntry) (x : Worker) (reg block : Nat) : Option Nat :=
  ((e.readParts x).filter fun p => p.blocks.contains (reg, block)).foldl (fun acc p =>
    some (Nat.min p.elem (acc.getD p.elem))) none

/-- A worker is to trap at its next issue; the lowest element of one instruction counts (R202). -/
def Worker.notePending (x : Worker) (p : PendingTrap) : Worker :=
  { x with pending := match x.pending with
    | none => some p
    | some o => if o.entry = p.entry ∧ p.elem < o.elem then some p else some o }

/-- What the check leaves: a corrected mismatch counts in RCOUNT (R261); an error in a granule that the instruction reads
marks its destination, and the worker traps UNCORRECTABLE with source VEC, EIDX the lowest element that used the granule
(R262). `x` is the worker as the instruction found it. -/
def State.afterCheck (s : State) (w : WKey) (x : Worker) (e : VEntry) (lane : LaneCheck) (wasChecked : Bool) : State :=
  let q := SeqId.worker w
  match lane with
  | .once =>
    if wasChecked then
      s.modSeq q fun x => { x with w := { x.w with
        rcount := if x.w.rcount = 255 then 255 else x.w.rcount + 1 } }
    else s
  | .granule reg block =>
    match e.uses x reg block with
    | none => s
    | some k =>
      let mark : Mark := ⟨0, false⟩
      let s1 := e.writes.foldl (fun (acc : State) r => acc.modVReg q r fun y => y.setMark e.id mark) s
      let s2 := match e.instr with
        | .vlgdot f => s1.modSeq q fun y => { y with bank := y.bank.writeMark (hReg f.h) mark }
        | i =>
          match i.operands.gd with
          | some r =>
            let marked := mapIf s1.net.landings (fun l => l.src == q && l.reg == r) fun l => { l with poison := some mark }
            { s1 with net := { s1.net with landings := marked } }
          | none => s1
      s2.modSeq q fun y => { y with w := y.w.notePending { source := 1, mark := mark, elem := k, entry := e.id } }
  | _ => s

/-- A matrix command of an entry that is rolled back never was: its window register and window stand as before it, and
its number completes. -/
def State.dropQueued (s : State) (w : WKey) (e : VEntry) : State :=
  match s.cmd? e.cmd with
  | none => s
  | some c =>
    let s1 : State := { s with mxCmds := s.mxCmds.filter fun x => x.id != c.id }
    let regs (isOpen : Bool) (acc : State) : State := acc.modSeq (.worker w) fun x =>
      { x with w := { x.w with win := x.w.win.map fun r => if r.window == c.window then { r with isOpen := isOpen } else r } }
    let s2 := match c.kind with
      | .openLoad => regs false { s1 with windows := s1.windows.filter fun x => x.id != c.window }
      | .openZero => regs false { s1 with windows := s1.windows.filter fun x => x.id != c.window }
      | .close => regs true s1
      | _ => s1
    s2.completeOp c.src 1 c.num false

/-- A second mismatch (R261): the checked instruction and every one behind it are rolled back, their g destinations keep
what they held, and the worker traps RECOMPUTE-MISMATCH at the checked instruction. -/
def State.rollBack (s : State) (w : WKey) (e : VEntry) : State :=
  let q := SeqId.worker w
  let l := (s.seqD q).w.queue.filter fun x => decide (e.id ≤ x.id)
  let s1 := l.foldl (fun (acc : State) x => match x.instr with
    | .vacc _ => acc
    | _ => acc.dropQueued w x) s
  let refill (b : BitVec 32) : BitVec 32 := l.foldl (fun (b : BitVec 32) y => match y.instr.operands.gd with
    | some r => b &&& ~~~(BitVec.twoPow 32 r.toNat)
    | none => b) b
  let s2 := s1.modSeq q fun x =>
    { x with w := { x.w with queue := x.w.queue.filter fun y => decide (y.id < e.id), vstart := 0 }, bank := { x.bank with empty := refill x.bank.empty } }
  s2.raiseOn q { source := 1, cond := 30, epc := e.pc, eaddr := 0, eidx := 0, save := e.pc, vstart := some 0 }

/-- An instruction has run up to an element: it leaves the queue, or waits there for its rest (R143). -/
def State.ranTo (s : State) (w : WKey) (e : VEntry) (n : Nat) : State :=
  let rest := { e with vstart := n }
  let left := { rest with spans := s.spansLeft w rest }
  s.modSeq (.worker w) fun x => { x with w := { x.w with
    queue := if n < e.till then mapIf x.w.queue (fun y => y.id == e.id) fun _ => left
      else x.w.queue.filter fun y => y.id != e.id } }

/-- An instruction of the queue runs up to an element. -/
def State.runEntry (s : State) (w : WKey) (e : VEntry) (n : Nat) (lane : LaneCheck) : Out :=
  let x := (s.seqD (.worker w)).w
  let now := { e with till := n }
  match s.execute w now with
  | .wait s1 => .next s1
  | .device => .fault .deviceRegisters
  | .done s1 t =>
    let s2 := (s1.afterCheck w x now lane (e.isChecked x)).ranTo w e n
    .next (match t with
      | some y => s2.raiseOn (.worker w) y
      | none => s2)

/-- VECTOR_DISPATCH (R140): the oldest queued instruction executes, or a later one where those before it have begun and
wait for their registers (R143); one that goes group by group executes as far as they are available. A store waits for a
release that a fence has asked for (R169). `lane` is what the recompute check met. -/
def execVectorDispatch (w : WKey) (lane : LaneCheck) (s : State) : Out :=
  let q := SeqId.worker w
  match s.pickEntry q [] (s.seqD q).w.queue with
  | none => .next s
  | some (e, n) =>
    if lane = .twice ∧ e.isChecked (s.seqD q).w = true then .next (s.rollBack w e)
    else
      let (s1, ready) := if e.stores then s.releaseDue q else (s, true)
      if ready then s1.runEntry w e n lane else .next s1

/-! ## Landing (R118, R143, R202) -/

/-- Bits of a register replaced. -/
def putAt (v : VBits) (lo width val : Nat) : VBits :=
  (v &&& ~~~(((BitVec.allOnes width).setWidth 131072) <<< lo)) ||| (((BitVec.ofNat width val).setWidth 131072) <<< lo)

/-- Loaded data waits for its register: an earlier instruction has still to write the element group, or to read it
(R143). -/
def State.landingWaits (s : State) (l : ElemLanding) : Bool :=
  (s.olderUses l.src l.entry).any (regPart l.elem l.reg l.lo l.width).meets

/-- A load that writes the whole valid extent clears the mark an earlier instruction set, once none of those has still to
read or write the register (R202). -/
def State.landClears (s : State) (l : ElemLanding) : Bool :=
  l.whole && !(s.olderUses l.src l.entry).any fun p => p.reg == l.reg

/-- Loaded bits enter their register; data with an error marks it, and the worker is to trap. -/
def State.landBits (s : State) (l : ElemLanding) : State :=
  let s1 := s.modVReg l.src l.reg fun r =>
    let r1 := { r with
      bits := putAt r.bits l.lo l.width l.val
      dirty := r.dirty ||| BitVec.twoPow 8 (l.lo / 16384) ||| BitVec.twoPow 8 ((l.lo + l.width - 1) / 16384) }
    match l.poison with
    | some m => r1.setMark l.entry m
    | none => if s.landClears l && decide (r.marker < l.entry) then { r1 with poison := none } else r1
  match l.poison with
  | some m => s1.modSeq l.src fun x =>
      { x with w := x.w.notePending { source := 5, mark := m, elem := l.elem, entry := l.entry } }
  | none => s1

/-- Another acquiring element of a vector instruction is still on its way. -/
def State.acquiring (s : State) (q : SeqId) (entry : Nat) : Bool :=
  s.net.elems.any (fun l => l.src == q && l.entry == entry && l.acq.isSome) ||
  (s.net.msgs ++ s.net.held.map fun h => h.msg).any fun m => m.src == q && match m.body with
    | .access _ _ (.elems e _ _) (some _) => e == entry
    | _ => false

/-- ELEMENT_GROUP_LANDING (R143): loaded data enters its register, or a VSTC element that stored clears its mask bit
(R207), after what earlier instructions have to do with the same element group; the acquire of a VAMO comes with its last
element (R240). -/
def execElementGroupLanding (k : Nat) (s : State) : Out :=
  match s.net.elems.find? fun l => l.id == k with
  | none => .next s
  | some l =>
    let s1 := { s with net := { s.net with elems := s.net.elems.filter fun x => x.id != k } }
    if l.toMask then .next (if l.val = 0 then s1.putMask l.src l.reg [(l.elem, false)] else s1)
    else if s1.landingWaits l then .next s
    else
      match l.src with
      | .worker w =>
        match s1.needBlocks w [(l.reg, l.lo / 16384), (l.reg, (l.lo + l.width - 1) / 16384)] with
        | .error s2 => .next s2
        | .ok s2 =>
          let s3 := s2.landBits l
          .next (match l.acq with
            | some sc => if s3.acquiring l.src l.entry then s3 else s3.acquire l.src sc.toNat
            | none => s3)
      | _ => .next s1

end Sys2Proof.Machine
end

