-- ==== Sys2Proof/Machine/Copy.lean ====
section
/-! DEFINITION. The copy engine (R396 to R408): copy commands at issue, their chunks, the signals of WSIG and the
follow-ons of CPYM. -/

namespace Sys2Proof.Machine

/-! ## Issue (R396, R398, R399) -/

/-- The pitch or flag register of IMM10 (R398). -/
def gpReg (f : FTR) : BitVec 5 := f.imm.extractLsb' 0 5

/-- SSP (R398). -/
def ssp (f : FTR) : Bool := f.imm.getLsbD 7

/-- DSP (R398). -/
def dsp (f : FTR) : Bool := f.imm.getLsbD 6

/-- MIG (R398). -/
def migOf (f : FTR) : Bool := f.imm.getLsbD 8

/-- What a form of copy instruction is: its kind, whether it is 2-D, whether it names gp or gf, whether it is CPY.mig. -/
structure CopyForm where
  kind : CpKind
  block : Bool
  named : Bool
  mig : Bool
  deriving DecidableEq, Repr

/-- A range of a migration copy starts on a page and lies inside a populated range of R11 (R399). -/
def migRangeOk (a n : Nat) : Bool := a % 4096 == 0 && (n == 0 || (insideOne a n && decide (a + n ≤ 2 ^ 52)))

/-- Checks 1 to 5 of R399. -/
def State.copyCheck (s : State) (c : CopyForm) (f : FTR) : Except AccFault Unit :=
  let ga := s.g f.ga
  let gb := s.g f.gb
  let gc := s.g f.gc
  let gp := s.g (gpReg f)
  let signal := c.kind == .wsigNum || c.kind == .wsigAdd
  if (migOf f && (!c.mig || ssp f || dsp f)) || (!c.named && f.imm.extractLsb' 0 6 != 0#6) then failed 3
  else if c.mig && s.curCtx != 0 then failed 5
  else if (if c.block then gc.extractLsb' 48 16 != 0#16 else decide (2 ^ 40 < gc.toNat)) then failed 3
  else if signal && gp.toNat % 8 != 0 then .error ⟨9, gp, false⟩
  else if c.mig && !migRangeOk ga.toNat gc.toNat then .error ⟨9, ga, false⟩
  else if c.mig && !migRangeOk gb.toNat gc.toNat then .error ⟨9, gb, false⟩
  else if c.mig && gc.toNat % 4096 != 0 then .error ⟨9, gc, false⟩
  else .ok ()

/-- The current context holds 8 commands that are not complete: the ninth stalls (R396). -/
def State.copyFull (s : State) : Bool := decide (8 ≤ (s.cpCmds.filter fun c => c.src == s.cur).length)

/-- A copy instruction issues, unless the context holds 8 commands, a stall that is no ply boundary, or an access of it that
acquires is outstanding; an implicit release at die scope comes first (R396). -/
def copyGo (s : State) (go : State → Out) : Out :=
  if s.copyFull then .next (s.modCore fun x => { x with ply := false })
  else if s.ordering s.cur then .next s
  else
    let (s1, done) := s.release s.cur 2
    if done then go s1 else .next s1

/-- A command of the current sequencer with what it captured, numbered on TLC; gd gets its number (R396, R398). -/
def State.newCopy (s : State) (c : CopyForm) (f : FTR) (id : Nat) (follow : Option Nat) : State :=
  let gc := (s.g f.gc).toNat
  let gp := (s.g (gpReg f)).toNat
  let num := s.core.tlc.issued + 1
  let cmd : CpCmd :=
    { id := id, src := s.cur, cluster := (s.clusterOf s.cur).getD 0, num := num, kind := c.kind, dst := s.g f.ga,
      source := s.g f.gb, block := c.block, rows := if c.block then gc / 2 ^ 32 % 2 ^ 16 + 1 else 1,
      width := if c.block then gc % 2 ^ 32 else gc, dpitch := if c.block then gp % 2 ^ 32 else 0,
      spitch := if c.block then gp / 2 ^ 32 else 0, ssp := ssp f, dsp := dsp f, mig := c.mig,
      flag := s.g (gpReg f), follow := follow, moved := 0, chunk := 0, copied := false, handed := false }
  let s1 := s.modCore fun x => { x with tlc := x.tlc.take }
  { s1 with cpCmds := s1.cpCmds ++ [cmd] }.setG (hReg f.h) (BitVec.ofNat 64 num)

/-- A copy instruction without a follow-on: the checks of R399, the implicit release at die scope, then the command
(R396). -/
def copyIssue (i : Instr) (c : CopyForm) (f : FTR) (s : State) : Out :=
  checked i s fun s =>
    match s.copyCheck c f with
    | .error e => .next (s.raiseAcc 3 e)
    | .ok _ =>
      copyGo s fun s1 =>
        let (id, s2) := s1.takeId
        .next (s2.newCopy c f id none).advance

/-- CPY (R400). -/
def execCpy (f : FTR) (s : State) : Out := copyIssue (.cpy f) ⟨.copy, false, false, false⟩ f s

/-- CPY.2d (R400). -/
def execCpy2d (f : FTR) (s : State) : Out := copyIssue (.cpy2d f) ⟨.copy, true, true, false⟩ f s

/-- CPY.mig (R408). -/
def execCpyMig (f : FTR) (s : State) : Out := copyIssue (.cpyMig f) ⟨.copy, false, false, true⟩ f s

/-- WSIG.num (R403). -/
def execWsigNum (f : FTR) (s : State) : Out := copyIssue (.wsigNum f) ⟨.wsigNum, false, true, false⟩ f s

/-- WSIG.add (R403). -/
def execWsigAdd (f : FTR) (s : State) : Out := copyIssue (.wsigAdd f) ⟨.wsigAdd, false, true, false⟩ f s

/-- CFILL (R398). -/
def execCfill (f : FTR) (s : State) : Out := copyIssue (.cfill f) ⟨.fill, false, false, false⟩ f s

/-! ## CPYM and its follow-on (R404) -/

/-- The instruction that follows by R58, fetched and decoded, with its line and the PC after it; rows 1 to 9 of R85 and the
check of R83 are made on it with source CE (R399). The sequencer keeps the line of the CPYM meanwhile (R61). -/
def State.followOn (s : State) : Except Out (State × Instr × LineBits × Word) :=
  let pc := s.nextPc
  let line : Except Out (State × LineBits) := match s.core.line with
    | some (b, l) => if b = pcLine pc then .ok (s, l) else s.readCode (pcLine pc)
    | none => s.readCode (pcLine pc)
  match line with
  | .error o => .error o
  | .ok (s1, l) =>
    if !LineBits.legal l then .error (.next (s1.raise 1 0))
    else
      match decodeSlot .ce l (pcSlot pc) with
      | none => .error (.next (s1.raise 2 0))
      | some i =>
        let ok := match i with
          | .mmas _ => true
          | .mmaf _ => true
          | .mzero _ => true
          | _ => false
        if !ok then .error (.next (s1.raise 2 0))
        else if !i.reservedOk then .error (.next (s1.raise 3 0))
        else .ok (s1.modCore fun x => { x with line := s.core.line }, i, l, Machine.nextPc (LineBits.heads l) pc)

/-- A follow-on's own checks and its command, which is the copy's second half (R404). -/
def State.prepareFollow (s : State) (i : Instr) (copy : Nat) : Except AccFault (State × MxCmd) :=
  match i with
  | .mmas g => s.prepareMma g true (some copy)
  | .mmaf g => s.prepareMma g false (some copy)
  | .mzero g => s.prepareZero g (some copy)
  | _ => failed 2

/-- CPYM and CPYM.2d at issue. Checks 1 to 5 of R399 on the CPYM come before those of its follow-on, an order that no rule gives
(DESIGN CHOICE, log entry 99). The pair issues once the sources of both in wait mode are full; then a source of the follow-on
in :x mode is judged (R65, R404). -/
def copyPair (i : Instr) (c : CopyForm) (f : FTR) (s : State) : Out :=
  checked i s fun s =>
    match s.copyCheck c f with
    | .error e => .next (s.raiseAcc 3 e)
    | .ok _ =>
      match s.followOn with
      | .error o => o
      | .ok (s1, j, line, pc) =>
        if s1.operandsWait j then .next s1
        else if j.operands.gs.any fun r => r.2 && s1.core.bank.isEmpty r.1 then .next (s1.raise 6 0)
        else
          match markOf j.operands s1.core with
          | some m => .next (s1.raiseMark m)
          | none =>
            match s1.prepareFollow j 0 with
            | .error e => .next (s1.raiseAcc 2 e)
            | .ok (_, m) =>
              if m.device then .fault .deviceRegisters
              else
              copyGo s1 fun s2 =>
                let (id, s3) := s2.takeId
                match s3.prepareFollow j id with
                | .error e => .next (s3.raiseAcc 2 e)
                | .ok (s4, m) =>
                  let s5 := (s4.newCopy c f id (some m.id)).modCore fun x =>
                    { x with line := some (pcLine s.nextPc, line) }
                  .next (s5.jump pc)

/-- CPYM (R404). -/
def execCpym (f : FTR) (s : State) : Out := copyPair (.cpym f) ⟨.copyM, false, false, false⟩ f s

/-- CPYM.2d (R404). -/
def execCpym2d (f : FTR) (s : State) : Out := copyPair (.cpym2d f) ⟨.copyM, true, true, false⟩ f s

/-! ## Chunks (R397, R400) -/

/-- The bytes a command moves. -/
def CpCmd.total (c : CpCmd) : Nat := c.rows * c.width

/-- A linear copy whose ranges overlap with the destination above runs its chunks in descending order (R400). -/
def CpCmd.descends (c : CpCmd) : Bool :=
  c.kind != .fill && !c.block && c.ssp == c.dsp && c.dst != c.source && decide ((c.dst - c.source).toNat < c.width)

/-- A chunk: its offset in copy order, its length, its destination and its source (R397). -/
structure Chunk where
  off : Nat
  n : Nat
  d : Word
  s : Word
  deriving DecidableEq, Repr

/-- The bytes from an address to the next 4 KiB boundary. -/
def toBoundary (a : Word) : Nat := 4096 - a.toNat % 4096

/-- The next chunk of a command. -/
def CpCmd.next (c : CpCmd) : Chunk :=
  if c.descends then
    let e := c.width - c.moved
    let last (a : Word) : Nat := (a + BitVec.ofNat 64 (e - 1)).toNat % 4096 + 1
    let n := Nat.min e (Nat.min (last c.dst) (last c.source))
    { off := e - n, n := n, d := c.dst + BitVec.ofNat 64 (e - n), s := c.source + BitVec.ofNat 64 (e - n) }
  else
    let r := c.moved / c.width
    let b := c.moved % c.width
    let d := c.dst + BitVec.ofNat 64 (r * c.dpitch + b)
    let s := c.source + BitVec.ofNat 64 (r * c.spitch + b)
    let n := Nat.min (c.width - b) (toBoundary d)
    { off := c.moved, n := if c.kind = .fill then n else Nat.min n (toBoundary s), d := d, s := s }

/-- Bytes on their way, each with whether it came with an uncorrectable error. -/
abbrev Moved := List (Byte × Bool)

/-- Bytes read at their home slices (R400). -/
def State.readLive (s : State) : List (Nat × Nat) → State × Moved
  | [] => (s, [])
  | (pa, n) :: r =>
    let (s1, v, p) := s.readHome pa n
    let (s2, l) := s1.readLive r
    (s2, ((numBytes n v).map fun b => (b, p.isSome)) ++ l)

/-- The path by which the hardware of a context's die sends what a copy command writes on another die. -/
def State.copyPath (s : State) (q : SeqId) : Nat := 96 + s.dieOf q

/-- Bytes written at their home slices, a line an action; a line that receives data with an error is poisoned (R401,
R406). A line of another die is written by a transaction (R401, R413), checked through a context at a virtual address where the
command translates. -/
def State.writeLive (s : State) (q : SeqId) (ctx : Option Nat) : Word → List (Nat × Nat) → Moved → State
  | _, [], _ => s
  | va, (pa, n) :: r, l =>
    let la := lineOf pa
    let (d, m) := placeAt (pa % 64) n (bytesNum ((l.take n).map fun b => b.1))
    let bad := (l.take n).any fun b => b.2
    let s1 :=
      if s.homeDie la = s.dieOf q then
        let s2 := (s.forceLine la).homeWrite la d m false
        if bad then s2.poisonLine la else s2
      else
        s.sendFor ctx none q (s.copyPath q) la va 64 (.publish d m [] bad false) (s.dieOf q) (s.homeDie la) (s.homeOf la)
    s1.writeLive q ctx (va + BitVec.ofNat 64 n) r (l.drop n)

/-- A write or the signal of a context's copy command is on its way to another die: it is not yet acknowledged (R402). -/
def State.copyWrites (s : State) (q : SeqId) : Bool :=
  let mine (m : Msg) : Bool := m.src == q && m.path == s.copyPath q && m.reply.isNone && match m.body with
    | .publish .. => true
    | .access .. => true
    | _ => false
  s.net.msgs.any mine || s.net.held.any fun h => mine h.msg

/-- Bytes read from scratchpads of the cluster. -/
def State.readPads (s : State) (w : WKey) (a : Word) (n : Nat) : Moved :=
  (List.range n).map fun k => (BitVec.ofNat 8 (s.padNum w 2 (a + BitVec.ofNat 64 k) 1), false)

/-- Bytes written to scratchpads of the cluster. -/
def State.writePads (s : State) (w : WKey) (a : Word) : Moved → State
  | [] => s
  | b :: r => (s.padPut w 2 a b.1 (BitVec.allOnes 8)).writePads w (a + 1) r

/-- The bytes of a pattern (R398). -/
def fillBytes (c : CpCmd) (k : Chunk) : Moved :=
  (List.range k.n).map fun j => (c.source.extractLsb' (8 * ((k.off + j) % 8)) 8, false)

/-- The worker whose context a copy command moves bytes for. -/
def CpCmd.owner (c : CpCmd) : WKey := (ownerOf c.src).getD default

/-- The lowest byte of a stretch outside the scratchpads a worker may reach (R189). -/
def State.padFault (s : State) (w : WKey) (a : Word) (n : Nat) : Option Word :=
  ((List.range n).find? fun k => (s.padByte w 2 (a + BitVec.ofNat 64 k)).isNone).map fun k => a + BitVec.ofNat 64 k

/-- A page of a copy's source or destination breaks the second row of R405; the first has checked its KIND. -/
def State.copyPageFault (s : State) (p : Leaf × Word × Nat) : Option AccFault :=
  let pa := p.1.pa p.2.1
  let kind := pteKind p.1.val
  if !(s.codedOk pa kind && s.codedOk (pa + p.2.2 - 1) kind) then some ⟨18, p.2.1, false⟩
  else if !s.inplaceOk p.1 pa then some ⟨32, p.2.1, false⟩
  else none

/-- The checks of a chunk (R405): the pages of its source and of its destination, each empty for a scratchpad. R462 names copy
chunks both among what is checked page by page and among what has a table of its own: the model takes the table, with CODED-REGION
and NB-PARTITION of every page after the row above (DESIGN CHOICE, log entry 100), and the pages of the source before those of the
destination (DESIGN CHOICE, log entry 101). -/
def State.chunkCheck (s : State) (c : CpCmd) (k : Chunk) : Except AccFault (Leaves × Leaves) :=
  let a := s.accessor c.src
  let side (on : Bool) (want : Want) (va : Word) : Except AccFault Leaves :=
    if on then s.checkAccess a want va k.n else .ok []
  match side (c.kind != .fill && !c.ssp) ⟨true, false, false, 0, true⟩ k.s with
  | .error e => .error e
  | .ok src =>
    match side (!c.dsp) ⟨false, true, false, 1, true⟩ k.d with
    | .error e => .error e
    | .ok dst =>
      match (src.findSome? s.copyPageFault).or (dst.findSome? s.copyPageFault) with
      | some e => .error e
      | none =>
        let outside := (if c.kind != .fill && c.ssp then s.padFault c.owner k.s k.n else none).or
          (if c.dsp then s.padFault c.owner k.d k.n else none)
        match outside with
        | some va => .error ⟨45, va, false⟩
        | none => .ok (src, dst)

/-- A command fails (R405): it is reported, its follow-on is not made, and it completes as failed. -/
def State.failCopy (s : State) (c : CpCmd) (off : Nat) (e : AccFault) : State :=
  let s1 := s.reportCopy c (64 * (if e.mem then 5 else 3) + e.cond) off e.eaddr
  let s2 : State := match c.follow with
    | some i => { s1 with mxCmds := s1.mxCmds.filter fun x => x.id != i }
    | none => s1
  s2.endCopy c true

/-- Changes a copy command. -/
def State.modCopy (s : State) (i : Nat) (f : CpCmd → CpCmd) : State :=
  { s with cpCmds := mapIf s.cpCmds (fun c => c.id == i) f }

/-- A chunk has left; once the last one is acknowledged a plain copy or fill is complete (R402). -/
def State.chunkDone (s : State) (c : CpCmd) (n : Nat) : State :=
  let whole := decide (c.total ≤ c.moved + n) && !s.copyWrites c.src
  if whole && (c.kind == .copy || c.kind == .fill) then s.endCopy c false
  else
    s.modCopy c.id fun x => { x with moved := x.moved + n, chunk := if n = 0 then x.chunk else c.next.off, copied := whole }

/-- A chunk of a translated command: checked, read whole, written. -/
def State.moveChunk (s : State) (c : CpCmd) (k : Chunk) (ue : Bool) : Out :=
  match s.chunkCheck c k with
  | .error e => .next (s.failCopy c k.off e)
  | .ok (src, dst) =>
    if reachesDevice src || reachesDevice dst then .fault .deviceRegisters
    else if (linesFrom src ++ linesFrom dst).any fun p => s.lineWaits (lineOf p.1) then .next s
    else
      let s0 := (s.markAll src false).markAll dst true
      let s1 := match ue, linesFrom src with
        | true, p :: _ => s0.poisonLine (lineOf p.1)
        | _, _ => s0
      let (s2, data) :=
        if c.kind = .fill then (s1, fillBytes c k)
        else if c.ssp then (s1, s1.readPads c.owner k.s k.n)
        else s1.readLive (linesFrom src)
      let s3 := if c.dsp then s2.writePads c.owner k.d data
        else s2.writeLive c.src (some (s2.ctxOf c.src)) k.d (linesFrom dst) data
      .next (s3.chunkDone c k.n)

/-- The first of some lines that a migration copy cannot reach: one of the aperture that no window covers (R328), or one
lost with its die (R418). -/
def State.migFault (s : State) (l : List (Nat × Nat)) : Option AccFault :=
  l.findSome? fun p =>
    if s.uncovered (lineOf p.1) then some ⟨18, BitVec.ofNat 64 p.1, false⟩
    else if s.lineLost p.1 then some ⟨28, BitVec.ofNat 64 p.1, true⟩ else none

/-- The fills a migration copy has made are not counted (R441). -/
def State.uncounted (s : State) (fills : List Nat) : State := s.modMem fun m => { m with fills := fills }

/-- A chunk of a migration copy (R408): physical addresses, and an abort on a poisoned source line. -/
def State.migrateChunk (s : State) (c : CpCmd) (k : Chunk) (ue : Bool) : Out :=
  let from_ := chunksOf k.s.toNat k.n
  let dst := chunksOf k.d.toNat k.n
  if (from_ ++ dst).any fun p => decide (2 ^ 50 ≤ p.1) then .fault .deviceRegisters
  else
    match (s.migFault from_).or (s.migFault dst) with
    | some e => .next (s.failCopy c k.off e)
    | none =>
      if (from_ ++ dst).any fun p => s.lineWaits (lineOf p.1) then .next s
      else
        let s1 := if ue then s.poisonLine (lineOf k.s.toNat) else s
        let (s2, data) := s1.readLive from_
        match data.findIdx? fun b => b.2 with
        | some j => .next ((s2.uncounted s.mem.fills).failCopy c k.off ⟨17, k.s + BitVec.ofNat 64 j, false⟩)
        | none => .next (((s2.writeLive c.src none k.d dst data).uncounted s.mem.fills).chunkDone c k.n)

/-- The oldest command of a context, which is the one that executes (R396). -/
def State.copyOf (s : State) (q : SeqId) : Option CpCmd := s.cpCmds.find? fun c => c.src == q

/-- The commands of a cluster with chunks remaining, one a context (R397). -/
def State.copiesOn (s : State) (cluster : Nat) : List CpCmd :=
  s.cpCmds.filter fun c => c.cluster == cluster && !c.copied && s.copyOf c.src == some c

/-- CHUNK (R397): the CE moves one chunk of a command of some context, whose turn is free, once what the command has
written before is acknowledged (R401). `ue` is an uncorrectable error found in its first source line (R313). -/
def execChunk (cluster : Nat) (ue : Bool) (s : State) : Out :=
  let l := s.copiesOn cluster
  let (k, s1) := s.takeFree
  match l[Config.freeChoice k 0 % l.length]? with
  | none => .next s
  | some c =>
    if s.copyWrites c.src then .next s1
    else if c.total ≤ c.moved then .next (s1.chunkDone c 0)
    else if c.mig then s1.migrateChunk c c.next ue
    else s1.moveChunk c c.next ue

/-! ## Signals and follow-ons -/

/-- The operation of a WSIG's signal (R403): the number stored, or 1 added. -/
def CpCmd.signalOp (c : CpCmd) (pa : Nat) : MemOp :=
  if c.kind = .wsigNum then
    let (d, m) := placeAt (pa % 64) 8 c.num
    .store d m
  else .amo .add 8 1

/-- The signal of a WSIG leaves for its flag, or is made there at once on its own die (R403, R413). -/
def State.signalAt (s : State) (c : CpCmd) (pa : Nat) : State :=
  if s.homeDie pa = s.dieOf c.src then
    (if c.kind = .wsigNum then s.writeHome pa 8 c.num
     else
       let (s1, v, _) := s.readHome pa 8
       s1.writeHome pa 8 (v + 1)).endCopy c false
  else
    (s.sendFor (some (s.ctxOf c.src)) none c.src (s.copyPath c.src) pa c.flag 8 (.access (c.signalOp pa) .shared .none none)
      (s.dieOf c.src) (s.homeDie pa) (s.homeOf pa)).modCopy c.id fun x => { x with handed := true }

/-- SIGNAL (R403): once a release at system scope is complete, the flag is checked and the signal made; the command is
complete when it has been applied (R402). -/
def execSignal (q : SeqId) (s : State) : Out :=
  match s.copyOf q with
  | none => .next s
  | some c =>
    if !(c.kind == .wsigNum || c.kind == .wsigAdd) || !c.copied || s.copyWrites q then .next s
    else if c.handed then .next (s.endCopy c false)
    else
      let (s1, done) := s.release q 4
      if !done then .next s1
      else
        match s1.checkAccess (s1.accessor q) ⟨false, true, false, 2, false⟩ c.flag 8 with
        | .error e => .next (s1.failCopy c c.total e)
        | .ok l =>
          if reachesDevice l then .fault .deviceRegisters
          else
            match piecesOf l with
            | (pa, _, _) :: _ => .next ((s1.markAll l true).signalAt c pa)
            | [] => .next s1

/-- FOLLOW_ON (R404): the completed copy of a CPYM hands its matrix command to the MX. -/
def execFollowOn (q : SeqId) (s : State) : Out :=
  match s.copyOf q with
  | none => .next s
  | some c =>
    match c.follow with
    | some i =>
      if c.copied && !c.handed then .next ((s.modCopy c.id fun x => { x with handed := true }).acceptCmd i) else .next s
    | none => .next s

end Sys2Proof.Machine
end

