-- ==== Sys2Proof/Machine/Pawns.lean ====
section
/-! DEFINITION. Pawn jobs: NBGO, NBPART, the dispatch of a job, its column accesses and its completion (R374 to
R391). -/

namespace Sys2Proof.Machine

/-! ## The parameter block (R377 to R379) -/

/-- A word of a block. -/
def pbWord (b : List Word) (k : Nat) : Word := b.getD k 0

/-- A bit of PBCTL. -/
def pbBit (b : List Word) (k : Nat) : Bool := (pbWord b 0).getLsbD k

/-- A field of PBCTL. -/
def pbField (b : List Word) (lo n : Nat) : Nat := ((pbWord b 0).extractLsb' lo n).toNat

/-- DEQEN. -/
def pbDeq (b : List Word) : Bool := pbBit b 0

/-- MULEN. -/
def pbMul (b : List Word) : Bool := pbBit b 1

/-- REDEN. -/
def pbRed (b : List Word) : Bool := pbBit b 2

/-- S1EN. -/
def pbS1 (b : List Word) : Bool := pbBit b 8

/-- MSRC. -/
def pbMsrc (b : List Word) : Bool := pbBit b 9

/-- M3. -/
def pbM3 (b : List Word) : Nat := pbField b 10 2

/-- ACT. -/
def pbAct (b : List Word) : Nat := pbField b 12 2

/-- FIN. -/
def pbFin (b : List Word) : Nat := pbField b 24 4

/-- WT. -/
def pbWt (b : List Word) : Nat := pbField b 28 4

/-- F3. -/
def pbF3 (b : List Word) : Nat := pbField b 32 4

/-- FOUT. -/
def pbFout (b : List Word) : Nat := pbField b 36 4

/-- N. -/
def pbN (b : List Word) : Nat := ((pbWord b 1).extractLsb' 0 24).toNat + 1

/-- S0N: the elements of S0 (R377). -/
def pbS0n (b : List Word) : Nat := if pbM3 b = 2 then ((pbWord b 1).extractLsb' 24 24).toNat + 1 else pbN b

/-- L. -/
def pbL (b : List Word) : Nat := ((pbWord b 1).extractLsb' 48 16).toNat + 1

/-- nout. -/
def pbNout (b : List Word) : Nat := if pbRed b then pbN b / pbL b else pbN b

/-- The multiplier is the input vector. -/
def pbIv (b : List Word) : Bool := pbMul b && !pbMsrc b

/-- The bytes of an element type in which a base must lie. -/
def etBytes (t : Nat) : Nat := if t = 8 then 1 else etWidth t / 8

/-- A parameter block is well formed (R379). -/
def pbOk (b : List Word) : Bool :=
  let w := pbWord b 0
  let m3 := pbM3 b
  let wt := pbWt b
  let lo := fdecode 14 (pbWord b 7).toNat
  let hi := fdecode 14 (pbWord b 8).toNat
  w.extractLsb' 56 8 == 1#8 && w.extractLsb' 40 16 == 0#16 && w.extractLsb' 14 10 == 0#10 && w.extractLsb' 3 5 == 0#5 &&
    (List.range 7).all (fun k => pbWord b (9 + k) == 0) && [8, 9, 12, 13, 14].contains (pbFin b) &&
    [13, 14].contains wt && [12, 13, 14].contains (pbFout b) && decide (m3 ≤ 2) && decide (pbAct b ≤ 2) &&
    (if m3 = 1 then [8, 9, 12, 13, 14].contains (pbF3 b) else if m3 = 2 then pbF3 b == 6 else pbF3 b == 0) &&
    (pbDeq b || pbFin b == wt) && (pbMul b || (!pbMsrc b && m3 != 1)) && (pbMsrc b == (m3 == 1)) &&
    (!pbIv b || decide (pbL b * (etWidth wt / 8) ≤ 4096)) && (!pbRed b || pbN b % pbL b == 0) &&
    (if pbAct b = 2 then !lo.isNaN && !hi.isNaN && decide (fcompare lo hi ≤ 0) else pbWord b 7 == 0 && pbWord b 8 == 0) &&
    (pbIv b || pbWord b 6 == 0) && (m3 != 0 || pbWord b 5 == 0) && (pbS1 b || pbWord b 3 == 0) &&
    (m3 == 2 || (pbWord b 1).extractLsb' 24 24 == 0#24) &&
    (pbWord b 2).toNat % etBytes (pbFin b) == 0 && (pbWord b 3).toNat % etBytes wt == 0 &&
    (pbWord b 4).toNat % etBytes (pbFout b) == 0 && (m3 == 0 || (pbWord b 5).toNat % etBytes (pbF3 b) == 0) &&
    (pbWord b 6).toNat % etBytes wt == 0

/-- A stream of a job: its base, element type and elements; none where the job has no such stream. -/
def pbStream (b : List Word) (x : PawnStream) : Option (Word × Nat × Nat) :=
  match x with
  | .s0 => some (pbWord b 2, pbFin b, pbS0n b)
  | .s1 => if pbS1 b then some (pbWord b 3, pbWt b, pbNout b) else none
  | .s2 => some (pbWord b 4, pbFout b, pbNout b)
  | .s3 => if pbM3 b = 0 then none else some (pbWord b 5, pbF3 b, pbN b)
  | .iv => if pbIv b then some (pbWord b 6, pbWt b, pbL b) else none

/-- The streams in the order of R384. -/
def pawnStreams : List PawnStream := [.s0, .s1, .s2, .s3, .iv]

/-- The bytes of n elements of a type, packed. -/
def packedBytes (t n : Nat) : Nat := ceilDiv (n * etWidth t) 8

/-- The 4 KiB pages the streams of a block touch, summed over them (R384). -/
def pbPages (b : List Word) : Nat :=
  (pawnStreams.map fun x =>
    match pbStream b x with
    | some (base, t, n) => pagesOf base (packedBytes t n)
    | none => 0).sum

/-! ## NBGO (R383 to R385) -/

/-- Check 5 of R384 on every stream, in order: the leaves of each, or the first failure. -/
def State.pawnCheck (s : State) (a : Accessor) (b : List Word) :
    List PawnStream → Except AccFault (List (PawnStream × Leaf × Word × Nat))
  | [] => .ok []
  | x :: r =>
    match pbStream b x with
    | none => s.pawnCheck a b r
    | some (base, t, n) =>
      let w : Want := if x = .s2 then ⟨false, true, false, 0, true⟩ else ⟨true, false, false, 0, true⟩
      match s.checkAccess a w base (packedBytes t n) with
      | .error f => .error f
      | .ok l =>
        match s.pawnCheck a b r with
        | .error f => .error f
        | .ok m => .ok (l.map (fun p => (x, p)) ++ m)

/-- Checks 6 to 8 of R384: the first page that fails one. -/
def State.pawnPlaces (s : State) (l : List (PawnStream × Leaf × Word × Nat)) : Option AccFault :=
  match l.find? (fun p => pteKind p.2.1.val != .inplace) with
  | some p => some ⟨12, p.2.2.1, false⟩
  | none =>
    match l.find? (fun p => s.fmtAt (p.2.1.pa p.2.2.1) == 1 || s.fmtAt (p.2.1.pa p.2.2.1 + p.2.2.2 - 1) == 1) with
    | some p => some ⟨18, p.2.2.1, false⟩
    | none =>
      match l.find? (fun p => !s.inplaceOk p.2.1 (p.2.1.pa p.2.2.1)) with
      | some p => some ⟨32, p.2.2.1, false⟩
      | none => none

/-- The base dies whose stacks hold a page of a job. -/
def pinDies (l : List (PawnStream × PageMap)) : List Nat :=
  (List.range 4).filter fun d => l.any fun p => 4096 * p.2.ppn / 2 ^ 21 % 4 == d

/-- LO or HI of a block in the working type (R380). -/
def pbBound (b : List Word) (k : Nat) : BitVec 64 :=
  BitVec.ofNat 64 (ftofV (pbWt b) 0 (fdecode 14 (pbWord b k).toNat)).1

/-- A checked block becomes a job, numbered on TLN (R384); none while a sequencer it needs is full (R385). -/
def State.startJob (s : State) (b : List Word) (gate : Option (Nat × Word)) (l : List (PawnStream × Leaf × Word × Nat)) :
    Option (State × Nat) :=
  let pins := l.map fun p => (p.1, p.2.1.page p.2.2.1)
  let dies := pinDies pins
  if dies.any fun d => decide (1024 ≤ (s.jobs.filter fun j => j.dies.contains d).length) then none
  else
    let (i, s1) := s.takeId
    let n := s1.core.tln.issued + 1
    let j : Job :=
      { id := i, src := s1.cur, ctx := s1.curCtx, num := n, block := b, lo := pbBound b 7, hi := pbBound b 8,
        gate := gate, pins := pins, dies := dies, started := [], refused := [], iv := [], read := [], written := [],
        indices := [], faults := [], lost := false }
    some ({ s1 with jobs := s1.jobs ++ [j], core := { s1.core with tln := s1.core.tln.take } }, n)

/-- The words of a block of bytes. -/
def bytesWords (bs : List Byte) (n : Nat) : List Word := (List.range n).map fun k => BitVec.ofNat 64 (wordAt bs k)

/-- NBGO once its block has been read (R384): checks 3 to 8, then the job. -/
def nbgoBody (f : FTR) (gated : Bool) (b : List Word) (s : State) : Out :=
  let ga := s.g f.ga
  let a := s.accessor s.cur
  if gated ∧ 128 ≤ (s.g f.gb).toNat then .next (s.raiseFrom 4 20 0)
  else if !pbOk b || decide (4096 < pbPages b) then .next (s.raiseFrom 4 33 ga)
  else
    match s.pawnCheck a b pawnStreams with
    | .error e => .next (s.raiseAcc 4 e)
    | .ok l =>
      match s.pawnPlaces l with
      | some e => .next (s.raiseAcc 4 e)
      | none =>
        let s1 := l.foldl (fun (acc : State) p => acc.markUsed p.2.1 (p.1 == .s2)) s
        match s1.startJob b (if gated then some ((s.g f.gb).toNat, s.g f.gc) else none) l with
        | none => .next s
        | some (s2, n) => .next (s2.put (hReg f.h) (BitVec.ofNat 64 n))

/-- NBGO (R383, R384): checks 1 and 2, then the block as a scalar load of 128 bytes. -/
def nbgoAccess (f : FTR) (gated : Bool) (s : State) : Out :=
  let ga := s.g f.ga
  if ga.toNat % 64 ≠ 0 then .next (s.raiseFrom 4 9 ga)
  else
    match s.checkAccess (s.accessor s.cur) wantLoad ga 128 with
    | .error e => .next (s.raiseAcc 4 e)
    | .ok l =>
      if reachesDevice l then .fault .deviceRegisters
      else
        let lines := l.flatMap fun p => chunksOf (p.1.pa p.2.1) p.2.2
        if s.ordering s.cur || lines.any (fun c => s.linePending s.cur (lineOf c.1) || s.overlapsQueue c.1 c.2) then .next s
        else
          let (s1, bs, m) := (s.markAll l false).readPieces (s.cacheOf s.cur) (s.dieOf s.cur) (piecesOf l)
          match m with
          | some x => .next (s1.raiseMark (x.at_ ga))
          | none => nbgoBody f gated (bytesWords bs 16) s1

/-- NBGO (R383). -/
def execNbgo (f : FTR) (s : State) : Out := checked (.nbgo f) s (nbgoAccess f false)

/-- NBGO.sg (R383, R385). -/
def execNbgoSg (f : FTR) (s : State) : Out := checked (.nbgoSg f) s (nbgoAccess f true)

/-! ## A job's data -/

/-- The physical byte of a stream's byte offset, through the job's pins. -/
def Job.pa (j : Job) (x : PawnStream) (off : Nat) : Nat :=
  match pbStream j.block x with
  | none => 0
  | some (base, _, _) =>
    let va := base + BitVec.ofNat 64 off
    match j.pins.find? (fun p => p.1 == x && p.2.vpn == va.toNat / 4096) with
    | some p => 4096 * p.2.ppn + va.toNat % 4096
    | none => 0

/-- The 32-byte column of a physical byte. -/
def columnOf (pa : Nat) : Nat := pa / 32

/-- The channel of a physical byte (R374). -/
def channelOf (pa : Nat) : Nat := pa / 2 ^ 15 % 256

/-- The bank of a physical byte, PA<22:11> (R391). -/
def bankOf (pa : Nat) : Nat := pa / 2 ^ 11 % 4096

/-- The bytes an element of a stream touches: the offset of the first and how many. -/
def elemBytes (t i : Nat) : Nat × Nat :=
  let b := i * etWidth t
  (b / 8, ceilDiv (b % 8 + etWidth t) 8)

/-- The columns an element of a stream lies in. -/
def Job.columns (j : Job) (x : PawnStream) (i : Nat) : List Nat :=
  match pbStream j.block x with
  | none => []
  | some (_, t, _) =>
    let (o, n) := elemBytes t i
    ((List.range n).map fun k => columnOf (j.pa x (o + k))).eraseDups

/-- The channel of the first byte of an element (R382). -/
def Job.channel (j : Job) (x : PawnStream) (i : Nat) : Nat :=
  match pbStream j.block x with
  | none => 0
  | some (_, t, _) => channelOf (j.pa x (elemBytes t i).1)

/-- What a job knows of an element: not read yet; not to be had, its part refused or lost; or its value, and whether it
was read with an error. -/
inductive Got where
  | missing
  | refused
  | val (n : Nat) (bad : Bool)
  deriving DecidableEq, Repr

/-- A channel's part does not run: refused for NB-PARTITION, or on a resigned die (R389, R391). -/
def State.partOff (s : State) (j : Job) (ch : Nat) : Bool := j.refused.contains ch || !s.inService (ch / 64)

/-- A byte a job has read. -/
def Job.byteRead (j : Job) (pa : Nat) : Got :=
  match assocFind j.read (columnOf pa) with
  | none => .missing
  | some none => .val 0 true
  | some (some c) => .val (c.extractLsb' (8 * (pa % 32)) 8).toNat false

/-- The bits of an element of a stream, from the columns read. -/
def State.elem (s : State) (j : Job) (x : PawnStream) (i : Nat) : Got :=
  match pbStream j.block x with
  | none => .missing
  | some (_, t, _) =>
    let (o, n) := elemBytes t i
    let raw := (List.range n).foldl (fun (acc : Got) k =>
      let pa := j.pa x (o + k)
      if s.partOff j (channelOf pa) then (match acc with
        | .missing => .missing
        | _ => .refused)
      else
        match acc, j.byteRead pa with
        | .missing, _ => .missing
        | .refused, _ => .refused
        | _, .missing => .missing
        | _, .refused => .refused
        | .val v b, .val y c => .val (v + y * 2 ^ (8 * k)) (b || c)) (.val 0 false)
    match raw with
    | .val v b => .val (v / 2 ^ (i * etWidth t % 8) % 2 ^ etWidth t) b
    | g => g

/-- The scale of an lg6 element: SCALE of the lg6-tagged range that covers its first byte (R380). -/
def State.pawnScale (s : State) (j : Job) (x : PawnStream) (i : Nat) : Int :=
  match pbStream j.block x with
  | none => 0
  | some (_, t, _) =>
    match s.governing (j.pa x (elemBytes t i).1) with
    | none => 0
    | some n => if (s.range n).fmt = 2 then signedOf 8 ((s.range n).ctl.extractLsb' 8 8).toNat else 0

/-- deq of R380: an element of type t in the working type. -/
def pawnDeq (wt t v : Nat) (sc : Int) : Nat :=
  if t = 8 then (lgToF wt 0 v sc).1 else (ftofV wt 0 (fdecode t v)).1

/-! ## The pipeline (R380) -/

/-- The state of a run: the accumulator, and whether the output is poisoned; none where data is missing. -/
abbrev RunAcc := Option (Option Nat × Bool)

/-- The bytes of element i of the input vector: the first, and how many. -/
def Job.ivBytes (j : Job) (i : Nat) : Nat × Nat :=
  let n := etWidth (pbWt j.block) / 8
  (j.pa .iv (i % pbL j.block * n), n)

/-- An element of the input vector as a channel has loaded it; an error in any column of its copy spoils the whole of it
(R381, R389). -/
def Job.ivElem (j : Job) (ch i : Nat) : Nat × Bool :=
  let (a, n) := j.ivBytes i
  if j.iv.any fun x => x.1.1 == ch && x.2.isNone then (0, true)
  else
    match assocFind j.iv (ch, columnOf a) with
    | some (some c) => ((c.extractLsb' (8 * (a % 32)) (8 * n)).toNat, false)
    | _ => (0, true)

/-- Element i of a run. -/
def State.pawnStep (s : State) (j : Job) (i : Nat) (acc : Option Nat × Bool) : RunAcc :=
  let b := j.block
  let wt := pbWt b
  let skip : RunAcc := some (acc.1, true)
  let idx : Got := if pbM3 b = 2 then s.elem j .s3 i else .val i false
  match idx with
  | .missing => none
  | .refused => skip
  | .val k bi =>
    if pbM3 b = 2 ∧ pbS0n b ≤ k then skip
    else if bi then skip
    else
      match s.elem j .s0 k with
      | .missing => none
      | .refused => skip
      | .val v bv =>
        let x := if pbDeq b then pawnDeq wt (pbFin b) v (s.pawnScale j .s0 k) else v
        let m : Got := if !pbMul b then .val 0 false
          else if pbMsrc b then
            (match s.elem j .s3 i with
              | .val y by_ => .val (pawnDeq wt (pbF3 b) y (s.pawnScale j .s3 i)) by_
              | g => g)
          else
            let r := j.ivElem (j.channel .s0 k) i
            .val r.1 r.2
        match m with
        | .missing => none
        | .refused => skip
        | .val y by_ =>
          let p := if pbMul b then (fmulV wt 0 (fdecode wt x) (fdecode wt y)).1 else x
          let a := match acc.1 with
            | none => p
            | some z => (faddV wt 0 (fdecode wt z) (fdecode wt p)).1
          some (some a, acc.2 || bv || by_)

/-- A run of n elements from i, in ascending order. -/
def State.pawnRun (s : State) (j : Job) : Nat → Nat → Option Nat × Bool → RunAcc
  | 0, _, acc => some acc
  | n + 1, i, acc =>
    match s.pawnStep j i acc with
    | none => none
    | some a => s.pawnRun j n (i + 1) a

/-- ACT and the final rounding (R380). -/
def pawnFinish (j : Job) (acc : Nat) : Nat :=
  let b := j.block
  let wt := pbWt b
  let v := fdecode wt acc
  let r :=
    if v.isNaN then canonNaN wt
    else if pbAct b = 1 then (if v.neg then 0 else acc)
    else if pbAct b = 2 then (fminmax wt false (fminmax wt true acc j.lo.toNat).1 j.hi.toNat).1
    else acc
  (ftofV (pbFout b) 0 (fdecode wt r)).1

/-- Output o: its bits and whether it is poisoned; none where data is still missing. -/
def State.output (s : State) (j : Job) (o : Nat) : Option (Nat × Bool) :=
  let b := j.block
  let first := if pbRed b then o * pbL b else o
  let cnt := if pbRed b then pbL b else 1
  let start : RunAcc := if pbS1 b then
      (match s.elem j .s1 o with
        | .missing => none
        | .refused => some (none, true)
        | .val v bad => some (some v, bad))
    else some (none, false)
  match start with
  | none => none
  | some a =>
    match s.pawnRun j cnt first a with
    | none => none
    | some (acc, bad) => some (pawnFinish j (acc.getD 0), bad)

/-! ## Column accesses (R382, R387 to R390) -/

/-- The elements of a stream that meet a column. -/
def Job.inColumn (j : Job) (x : PawnStream) (col : Nat) : List Nat :=
  match pbStream j.block x with
  | none => []
  | some (_, _, n) => (List.range n).filter fun i => (j.columns x i).contains col

/-- A column holds input of a job. -/
def Job.isInput (j : Job) (col : Nat) : Bool :=
  !((j.inColumn .s0 col).isEmpty && (j.inColumn .s1 col).isEmpty && (j.inColumn .s3 col).isEmpty)

/-- A fault met in a bank: the first of a bank is reported, further ones are counted; a full window takes its place
(R391). -/
def Job.addFault (j : Job) (bank cond lo hi : Nat) : Job :=
  match j.faults.find? (fun f => f.bank == bank) with
  | none => { j with faults := j.faults ++ [{ bank := bank, cond := cond, lo := lo, hi := hi, more := 0 }] }
  | some _ =>
    { j with faults := mapIf j.faults (fun f => f.bank == bank) fun f =>
        let more := Nat.min (2 ^ 32 - 1) (f.more + 1)
        if f.hi < hi ∧ hi = 2 ^ 32 - 1 then { f with cond := cond, lo := lo, hi := hi, more := more }
        else { f with more := more } }

/-- Changes a job. -/
def State.modJob (s : State) (i : Nat) (f : Job → Job) : State := { s with jobs := mapIf s.jobs (fun j => j.id == i) f }

/-- The window reported for access k of a bank: it contains k, and HI − LO is at most 15; which one it is is free (R390). -/
def State.faultWindow (s : State) (k : Nat) : (Nat × Nat) × State :=
  let (n, s1) := s.takeFree
  let lo := k - Config.freeChoice n 0 % (Nat.min k 15 + 1)
  ((lo, k + Config.freeChoice n 1 % (lo + 16 - k)), s1)

/-- A pawn writes an output into the arrays: only its bytes, with a poison mark where it is poisoned (R387, R389). -/
def State.writeOutput (s : State) (j : Job) (o v : Nat) (bad : Bool) : State :=
  let w := etWidth (pbFout j.block) / 8
  let pa := j.pa .s2 (o * w)
  s.modMem fun m =>
    { m with
      arrays := cellsPutNum m.arrays pa w v
      bad := if bad then assocPut m.bad (lineOf pa) false else m.bad }

/-- An output written in a fault window holds a free value, which may be poisoned (R390). -/
def State.writeFree (s : State) (j : Job) (o : Nat) : State :=
  let (n, s1) := s.takeFree
  s1.writeOutput j o (Config.windowValue n) (Config.windowPoison n)

/-- An access index lies in the window its bank reports. -/
def Job.windowed (j : Job) (bank k : Nat) : Bool :=
  j.faults.any fun f => f.bank == bank && decide (f.lo ≤ k) && decide (k ≤ f.hi)

/-- A fault is met at access k of a bank; outputs already written in its window become free values (R390). -/
def State.meetFault (s : State) (i bank cond : Nat) (k : Option Nat) : State :=
  let ((lo, hi), s1) := match k with
    | some n => s.faultWindow n
    | none => ((0, 2 ^ 32 - 1), s)
  let s2 := s1.modJob i fun j => j.addFault bank cond lo hi
  match s2.jobs.find? (fun j => j.id == i) with
  | none => s2
  | some j =>
    (j.written.filter fun p => bankOf (p.1 * 32) == bank && j.windowed bank p.2 &&
        decide (lo ≤ p.2) && decide (p.2 ≤ hi)).foldl (fun (acc : State) p =>
      (j.inColumn .s2 p.1).foldl (fun (a : State) o => a.writeFree j o) acc) s2

/-- The next index of a bank, taken (R390). -/
def State.takeIndex (s : State) (j : Job) (bank : Nat) : Nat × State :=
  let k := assocGet j.indices bank 0
  (k, s.modJob j.id fun x => { x with indices := assocPut x.indices bank (k + 1) })

/-- A pawn reads a column in one action (R387); an index read from S3 may lie out of range (R380, R389). -/
def State.readColumn (s : State) (j : Job) (col : Nat) (ue : Bool) : State :=
  let pa := col * 32
  let bank := bankOf pa
  let (k, s1) := s.takeIndex j bank
  let bad := ue || (s.badAt (lineOf pa)).isSome
  let bits := BitVec.ofNat 256 (cellsNum s.mem.arrays pa 32)
  let s2 := s1.modJob j.id fun x => { x with read := (col, if bad then none else some bits) :: x.read }
  if bad then s2.meetFault j.id bank 17 (some k)
  else if pbM3 j.block = 2 then
    let j2 := { j with read := (col, some bits) :: j.read }
    (j.inColumn .s3 col).foldl (fun (acc : State) i =>
      match acc.elem j2 .s3 i with
      | .val v _ => if pbS0n j.block ≤ v then acc.meetFault j.id bank 33 (some k) else acc
      | _ => acc) s2
  else s2

/-- The outputs of a column, once the data of each is there. -/
def State.columnOutputs (s : State) (j : Job) : List Nat → Option (List (Nat × Nat × Bool))
  | [] => some []
  | o :: r =>
    match s.output j o, s.columnOutputs j r with
    | some v, some l => some ((o, v) :: l)
    | _, _ => none

/-- A pawn writes the outputs of a column; those of an access in its bank's window are free values (R390). -/
def State.writeColumn (s : State) (j : Job) (col : Nat) (l : List (Nat × Nat × Bool)) : State :=
  let bank := bankOf (col * 32)
  let (k, s1) := s.takeIndex j bank
  let s2 := s1.modJob j.id fun x => { x with written := (col, k) :: x.written }
  l.foldl (fun (acc : State) p =>
    if j.windowed bank k then acc.writeFree j p.1 else acc.writeOutput j p.1 p.2.1 p.2.2) s2

/-! ## Parts of a job (R381, R382, R385, R389) -/

/-- The channels of a die in which a job has data, and whose part it may have to run. -/
def Job.dieChannels (j : Job) (die : Nat) : List Nat :=
  ((j.pins.filter fun p => p.1 == .s0 || p.1 == .s2).map fun p => channelOf (4096 * p.2.ppn)).eraseDups.filter
    fun ch => ch / 64 == die

/-- The columns of the input vector. -/
def Job.ivColumns (j : Job) : List Nat :=
  if pbIv j.block then ((List.range (pbL j.block)).map fun i => columnOf (j.ivBytes i).1).eraseDups else []

/-- The banks of a channel that hold data of a job: its elements and outputs, and its input vector (R389). -/
def Job.banksIn (j : Job) (ch : Nat) : List Nat :=
  let streams := [PawnStream.s0, .s1, .s2, .s3].flatMap fun x =>
    match pbStream j.block x with
    | none => []
    | some (_, _, n) => (List.range n).flatMap fun i => j.columns x i
  (((streams ++ j.ivColumns).filter fun c => channelOf (c * 32) == ch).map fun c => bankOf (c * 32)).eraseDups

/-- A job is dispatched on a die: parts in channels of mode 0 are refused. -/
def State.dispatchJob (s : State) (j : Job) (die : Nat) : State :=
  let off := (j.dieChannels die).filter fun c => !s.channels.getLsbD c
  let s1 := s.modJob j.id fun x => { x with started := die :: x.started, refused := off ++ x.refused }
  off.foldl (fun (acc : State) c => (j.banksIn c).foldl (fun (a : State) b => a.meetFault j.id b 32 none) acc) s1

/-- The channels whose part of a job has been dispatched and runs. -/
def State.partsOn (s : State) (j : Job) : List Nat :=
  (j.started.flatMap j.dieChannels).filter fun ch => !s.partOff j ch

/-- A column of the input vector lies on a resigned die: no channel can load it (R418). -/
def State.ivLost (s : State) (col : Nat) : Bool := !s.inService (channelOf (col * 32) / 64)

/-- A channel has loaded the whole input vector: its part may start (R381). -/
def State.ivLoaded (s : State) (j : Job) (ch : Nat) : Bool :=
  j.ivColumns.all fun c => s.ivLost c || (assocFind j.iv (ch, c)).isSome

/-- A channel loads a column of the input vector from the settled image (R381); an error is reported by the column's bank,
with a full window (R389, R390). -/
def State.loadIv (s : State) (j : Job) (ch col : Nat) (ue : Bool) : State :=
  let pa := col * 32
  let bank := bankOf pa
  let bad := ue || (s.badAt (lineOf pa)).isSome
  let bits := BitVec.ofNat 256 (cellsNum s.mem.arrays pa 32)
  let s1 := (s.takeIndex j bank).2.modJob j.id fun x => { x with iv := ((ch, col), if bad then none else some bits) :: x.iv }
  if bad then s1.meetFault j.id bank 17 none else s1

/-- What a pawn may do at a column of a job: let a channel load it as input vector, read it, or write it. -/
inductive PawnAct where
  | load (ch : Nat)
  | read
  | write (l : List (Nat × Nat × Bool))

/-- What may be done at a column now. A channel that holds a part of the job waits for its input vector (R381); the pawns
of any other channel have addends and S3 elements alone to read, and load none (R382). -/
def State.columnActs (s : State) (j : Job) (col : Nat) : List PawnAct :=
  let ch := channelOf (col * 32)
  let runs := j.started.contains (ch / 64) && !s.partOff j ch &&
    (!(j.dieChannels (ch / 64)).contains ch || s.ivLoaded j ch)
  let loads := if j.ivColumns.contains col && s.inService (ch / 64) then
      ((s.partsOn j).filter fun c => (assocFind j.iv (c, col)).isNone).map PawnAct.load else []
  let read := if runs && j.isInput col && (assocFind j.read col).isNone then [PawnAct.read] else []
  let outs := j.inColumn .s2 col
  let write := if runs && !outs.isEmpty && !j.written.any (fun p => p.1 == col) then
      match s.columnOutputs j outs with
      | some l => [PawnAct.write l]
      | none => [] else []
  loads ++ read ++ write

/-- COLUMN_ACCESS (R382): a channel loads a column of the input vector, or a pawn reads an input column that its job has not
read, or writes an output column whose data is there. Where several are possible, which comes first is free (R388). The
channel does not act while it retrains (R449), or while its share is held (R448). -/
def execColumnAccess (job column : Nat) (ue : Bool) (s : State) : Out :=
  match s.jobs.find? (fun j => j.id == job) with
  | none => .next s
  | some j =>
    if s.trains (channelOf (column * 32)) || s.shareHeld .inPlace then .next s
    else
      let acts := s.columnActs j column
      let (n, s1) := s.takeFree
      .next (match acts[Config.freeChoice n 0 % acts.length]? with
        | none => s
        | some (.load ch) => s1.loadIv j ch column ue
        | some .read => s1.readColumn j column ue
        | some (.write l) => s1.writeColumn j column l)

/-! ## Dispatch and completion (R385, R386, R389, R391) -/

/-- The gate of a job is met (R385). -/
def State.gateMet (s : State) (j : Job) : Bool :=
  match j.gate with
  | none => true
  | some (k, n) => n.ule (s.region j.ctx k).scnt

/-- JOB_DISPATCH (R385): the oldest queued job of a die whose gate is met. -/
def execJobDispatch (die : Nat) (s : State) : Out :=
  if !s.inService die then .next s
  else
    match s.jobs.find? (fun j => j.dies.contains die && !j.started.contains die && s.gateMet j) with
    | some j => .next (s.dispatchJob j die)
    | none => .next s

/-- The output columns of a job. -/
def Job.outColumns (j : Job) : List Nat :=
  ((List.range (pbNout j.block)).flatMap fun o => j.columns .s2 o).eraseDups

/-- Every part of a job has ended: dispatched on each die in service, each output written, refused or lost (R386,
R391). -/
def State.jobDone (s : State) (j : Job) : Bool :=
  (j.dies.all fun d => j.started.contains d || !s.inService d) &&
    j.outColumns.all fun c => j.written.any (fun p => p.1 == c) || s.partOff j (channelOf (c * 32))

/-- The body of the report of a faulted bank (R391). -/
def PawnFault.words (f : PawnFault) (num : Nat) : List Nat :=
  [num, 2 ^ 32 * f.bank, 4 * 64 + f.cond + 2 ^ 32 * (f.lo % 2 ^ 32), f.hi % 2 ^ 32 + 2 ^ 32 * (f.more % 2 ^ 32)]

/-- JOB_COMPLETION (R386, R391): the reports of its banks are logged and counted, its pins go, and TLN counts it. A job
whose parts were lost with a die has failed; of a bank on a resigned die there is no report. -/
def execJobCompletion (job : Nat) (s : State) : Out :=
  match s.jobs.find? (fun j => j.id == job) with
  | none => .next s
  | some j =>
    if !s.jobDone j then .next s
    else
      let lost := j.lost || j.dies.any fun d => !s.inService d
      let s1 := { s with jobs := s.jobs.filter fun x => x.id != job }
      let s2 := (j.faults.filter fun f => s.inService (f.bank / 1024)).foldl (fun (acc : State) f =>
        acc.reportFault j.src j.ctx (4 * 64 + f.cond) (f.words j.num)) s1
      .next (s2.completeOp j.src 3 j.num (lost || !j.faults.isEmpty))

/-! ## NBPART (R376) -/

/-- An element of an output's run that has still to be read lies on a channel, or may: an index still to be read may name
any of the elements there. -/
def State.elementDue (s : State) (j : Job) (ch i : Nat) : Bool :=
  let due (x : PawnStream) (k : Nat) : Bool := (j.columns x k).any fun c =>
    channelOf (c * 32) == ch && (assocFind j.read c).isNone
  let k : Got := if pbM3 j.block = 2 then s.elem j .s3 i else .val i false
  due .s3 i || match k with
    | .val n _ => due .s0 n
    | .missing => j.pins.any fun p => p.1 == .s0 && channelOf (4096 * p.2.ppn) == ch
    | .refused => false

/-- An output is still to be written. -/
def Job.outputDue (j : Job) (o : Nat) : Bool := (j.columns .s2 o).any fun c => !j.written.any fun p => p.1 == c

/-- A dispatched job part runs on a channel: one of its outputs there is still to be written, or data there is to be read
for an output that is (R376). -/
def State.channelBusy (s : State) (ch : Nat) : Bool :=
  s.jobs.any fun j => (s.partsOn j).contains ch && (List.range (pbNout j.block)).any fun o => j.outputDue o &&
    ((j.columns .s2 o).any (fun c => channelOf (c * 32) == ch) ||
      (j.columns .s1 o).any (fun c => channelOf (c * 32) == ch && (assocFind j.read c).isNone) ||
      (List.range (if pbRed j.block then pbL j.block else 1)).any fun k =>
        s.elementDue j ch (if pbRed j.block then o * pbL j.block + k else o))

/-- NBPART (R376). A channel due for retraining retrains first (R449). -/
def execNbpart (f : FTR) (s : State) : Out :=
  checked (.nbpart f) s fun s =>
    let c := (s.g f.ga).toNat
    let m := s.g f.gb
    if 256 ≤ c ∨ 1 < m.toNat then .next (s.raise 3 0)
    else if !s.inService (c / 64) then .next (s.put (hReg f.h) (BitVec.allOnes 64))
    else if s.channelBusy c || (s.dueAt c).isSome || s.trains c then .next s
    else
      let old : Word := if s.channels.getLsbD c then 1 else 0
      let bit := BitVec.twoPow 256 c
      .next ({ s with channels := if m = 1 then s.channels ||| bit else s.channels &&& ~~~bit }.put (hReg f.h) old)

end Sys2Proof.Machine
end

