-- ==== Sys2Proof/Machine/Links.lean ====
section
/-! DEFINITION. The die links (R409 to R412), transactions (R413, R414), device time (R415) and resigned dies (R417,
R418, R176). A link is one direction of one module: directed pair × 6 + module. -/

namespace Sys2Proof.Machine

/-! ## Links -/

/-- A link. -/
def State.link (s : State) (k : Nat) : Link := assocGet s.links k Link.reset

/-- Changes a link. -/
def State.modLink (s : State) (k : Nat) (f : Link → Link) : State :=
  { s with links := assocPut s.links k (f (s.link k)) }

/-- The directed pair of a link. -/
def linkPair (k : Nat) : Nat := k / 6

/-- The other direction of a link's module. -/
def linkBack (k : Nat) : Nat := (if linkPair k % 2 = 0 then linkPair k + 1 else linkPair k - 1) * 6 + k % 6

/-- The die a directed pair leads from. -/
def hopStart (h : Nat) : Nat := if h % 2 = 0 then h / 2 else (h / 2 + 1) % 4

/-- A link carries flits: its module is trained and up, and neither die is fenced (R412, R418). -/
def State.linkUp (s : State) (k : Nat) : Bool :=
  decide (k < 48) && !(s.link k).training && !(s.link k).down && s.inService (hopStart (linkPair k)) &&
    s.inService (hopEnd (linkPair k))

/-- The links of a directed pair. -/
def pairLinks (h : Nat) : List Nat := (List.range 6).map fun m => h * 6 + m

/-! ## Records and tags (R410, R413) -/

/-- An operation that changes memory or a sync register carries a tag (R413). -/
def Body.tagged (b : Body) : Bool :=
  match b with
  | .access .load .. => false
  | .access (.link ..) .. => false
  | .access .. => true
  | .publish .. => true
  | .mxPartial .. => true
  | .sync .. => true
  | _ => false

/-- A staged operation and a holder record of a line of the same die leave no die; a message waits on a directed pair
when its next hop is that pair. -/
def Msg.waitsOn (m : Msg) (h : Nat) : Bool :=
  (match m.body with
    | .staged .. => false
    | _ => true) && m.hops.head? == some h

/-- The distance from one number to another, modulo 2^16 or 4,096. -/
def ahead (m a b : Nat) : Nat := (b + m - a % m) % m

/-- The lowest tag outstanding from an origin to a destination, which the next request of it carries as TFLOOR (R413):
the one furthest behind the next tag. -/
def State.floorOf (s : State) (o d next : Nat) : Nat :=
  (s.net.tags.filter fun t => t.1 == o && t.2.1 == d).foldl (fun f t =>
    if ahead 65536 f next < ahead 65536 t.2.2 next then t.2.2 else f) next

/-- The next tag of an origin for a destination. -/
def State.tagFor (s : State) (o d : Nat) : Nat :=
  match s.net.nextTag.find? fun t => t.1 == o && t.2.1 == d with
  | some t => t.2.2
  | none => 0

/-- A request may leave: it waits for no release, and it has its tag, needs none, or its tag lies less than 1,024 above the floor
(R413). -/
def State.mayLeave (s : State) (m : Msg) : Bool :=
  m.rel.isNone && (m.tag.isSome || m.reply.isSome || !m.body.tagged ||
    decide (ahead 65536 (s.floorOf m.origin m.dest (s.tagFor m.origin m.dest)) (s.tagFor m.origin m.dest) < 1024))

/-- A request takes its tag, and its floor as it is sent or sent again (R413). -/
def State.giveTag (s : State) (m : Msg) : State :=
  if m.reply.isSome || !m.body.tagged then s
  else
    let o := m.origin
    let next := s.tagFor o m.dest
    let s1 : State := match m.tag with
      | some _ => s
      | none =>
        { s with net := { s.net with
            tags := s.net.tags ++ [(o, m.dest, next)]
            nextTag := (o, m.dest, (next + 1) % 65536) ::
              s.net.nextTag.filter fun t => !(t.1 == o && t.2.1 == m.dest) } }
    let tag := m.tag.getD next
    let floor := s1.floorOf o m.dest (s1.tagFor o m.dest)
    { s1 with net := { s1.net with msgs := mapIf s1.net.msgs (fun x => x.id == m.id) fun x =>
      { x with tag := some tag, floor := floor } } }

/-- TYPE of the flit that carries a record: a request, a response or device time (R410). -/
def Msg.flitType (m : Msg) : Nat :=
  match m.body with
  | .time => 3
  | .reply .. => 2
  | _ => if m.reply.isSome then 2 else 1

/-- The record the sender packs next: the oldest that waits on the pair, is in no flit of the pair not yet
acknowledged nor in the one being formed, and may leave; with `type`, of the same flit type. -/
def State.readyRecord (s : State) (h : Nat) (type : Option Nat) (formed : List Nat) : Option Msg :=
  let packed := formed ++ (pairLinks h).flatMap fun k => (s.link k).buffer.flatMap fun f => f.msgs
  s.net.msgs.find? fun m => m.waitsOn h && !packed.contains m.id && s.mayLeave m &&
    (type.isNone || type == some m.flitType)

/-- The records a flit takes, up to a number, each with its tag: the type of the flit and their numbers (R410, R413). -/
def State.packRecords (s : State) (h : Nat) : Nat → Option Nat → List Nat → State × Nat × List Nat
  | 0, t, l => (s, t.getD 0, l)
  | n + 1, t, l =>
    match s.readyRecord h t l with
    | none => (s, t.getD 0, l)
    | some m => (s.giveTag m).packRecords h n (some m.flitType) (l ++ [m.id])

/-! ## Flits (R410, R411) -/

/-- The header of a flit (R410). -/
def Flit.header (f : Flit) : BitVec 96 :=
  let kind := match f.ack with
    | none => 0
    | some (true, _) => 1
    | some (false, _) => 2
  let seq := match f.ack with
    | none => 0
    | some (_, n) => n
  BitVec.ofNat 96 (f.seq % 4096 + 2 ^ 12 * f.type + 2 ^ 16 * (seq % 4096) + 2 ^ 28 * kind + 2 ^ 32 * (f.credit % 65536))

/-- A flit's fields as a header gives them, with the records of the flit. -/
def Flit.withHeader (f : Flit) (h : BitVec 96) : Flit :=
  let acked := (h.extractLsb' 16 12).toNat
  { seq := (h.extractLsb' 0 12).toNat, type := (h.extractLsb' 12 4).toNat, msgs := f.msgs,
    ack := match (h.extractLsb' 28 4).toNat with
      | 1 => some (true, acked)
      | 2 => some (false, acked)
      | _ => none
    credit := (h.extractLsb' 32 16).toNat }

/-- A header holds a reserved value (R410). -/
def reservedHeader (h : BitVec 96) : Bool :=
  h.extractLsb' 48 48 != 0#48 || decide (2 < (h.extractLsb' 28 4).toNat) || decide (4 < (h.extractLsb' 12 4).toNat)

/-- One bit of a CRC-32C: polynomial 0x1EDC6F41, bits of each byte lowest first (R410). -/
def crcBit (c : BitVec 32) (b : Bool) : BitVec 32 :=
  if c.getLsbD 0 != b then (c >>> 1) ^^^ 0x82F63B78#32 else c >>> 1

/-- The remainder of the bits of bytes 0 to 251, from a register of zeros: what noise on those bits adds to a CRC-32C,
which is linear. -/
def crcOf (x : BitVec 2048) : BitVec 32 := (List.range 2016).foldl (fun c k => crcBit c (x.getLsbD k)) 0

/-- Noise on a flit makes its CRC fail (R410, R411). -/
def crcFails (noise : BitVec 2048) : Bool := crcOf noise != noise.extractLsb' 2016 32

/-- A flit is lost: its CRC fails, or its header holds a reserved value (R410, R411). Noise on the payload that the CRC
does not show counts as shown. -/
def flitLost (f : Flit) (noise : BitVec 2048) : Bool :=
  noise != 0 && (crcFails noise || reservedHeader (f.header ^^^ noise.setWidth 96) || noise.extractLsb' 96 1920 != 0#1920)

/-- The flit as its receiver reads it. -/
def Flit.received (f : Flit) (noise : BitVec 2048) : Flit :=
  if noise = 0 then f else f.withHeader (f.header ^^^ noise.setWidth 96)

/-- What the receiver at the die of a sender owes the other direction, taken by the flit that carries it (R411). -/
def State.takeDue (s : State) (k : Nat) : State × Option (Bool × Nat) × Nat :=
  let b := s.link (linkBack k)
  (s.modLink (linkBack k) fun l => { l with ackDue := none, credit := 0 }, b.ackDue, b.credit)

/-- A sender forms a flit: what records are ready, or a control flit, of which the spec gives no content, unless 512
flits are unacknowledged; else an idle one (R410, R411). -/
def State.formFlit (s : State) (k : Nat) (form : FlitForm) : State × Flit :=
  let (s1, ack, credit) := s.takeDue k
  let idle : Flit := { seq := 0, type := 0, msgs := [], ack := ack, credit := credit }
  let l := s1.link k
  let keep (s2 : State) (f : Flit) : State × Flit :=
    (s2.modLink k fun x => { x with next := (x.next + 1) % 4096, buffer := x.buffer ++ [f] }, f)
  if 512 ≤ l.buffer.length then (s1, idle)
  else
    match form with
    | .idle => (s1, idle)
    | .control => keep s1 { idle with seq := l.next, type := 4 }
    | .records n =>
      match s1.packRecords (linkPair k) n none [] with
      | (s2, t, ids) => if ids.isEmpty then (s1, idle) else keep s2 { idle with seq := l.next, type := t, msgs := ids }

/-- A lost flit: one NAK for each loss, and the 4 µs timer starts (R411). -/
def Link.lose (l : Link) (now : Nat) : Link :=
  if l.recovery then l
  else { l with ackDue := some (false, (l.expected + 4095) % 4096), recovery := true, timer := now + 4000 }

/-- The records of an accepted flit have crossed the pair. -/
def State.crossed (s : State) (f : Flit) (h : Nat) : State :=
  let msgs := mapIf s.net.msgs (fun m => f.msgs.contains m.id && m.hops.head? == some h)
    (fun m => { m with hops := m.hops.drop 1 })
  { s with net := { s.net with msgs := msgs } }

/-- Records whose response was lost are sent again as requests, with their tags (R412). -/
def State.resend (s : State) (ids : List Nat) (h : Nat) : State :=
  let msgs := mapIf s.net.msgs (fun m => ids.contains m.id && m.reply.isSome && m.hops.head? == some h)
    (fun m => { m with reply := none, hops := s.route m.origin m.destDie })
  { s with net := { s.net with msgs := msgs } }

/-- A module begins to retrain (R412): the flits held in both directions are discarded, its receivers' recovery is
cleared, and requests without a response are sent again. -/
def State.startRetrain (s : State) (k : Nat) (narrow : Bool) : State :=
  let one (acc : State) (j : Nat) : State :=
    let ids := (acc.link j).buffer.flatMap fun f => f.msgs
    (acc.resend ids (linkPair j)).modLink j fun l =>
      { l with buffer := [], wire := [], recovery := false, ackDue := none, replays := [], narrow := narrow,
               training := true }
  one (one s k) (linkBack k)

/-- A replay is counted; the eighth within 1 ms retrains the module at x32 (R412). -/
def State.countReplay (s : State) (k : Nat) (now : Word) : State :=
  let s1 := s.modLink k fun l => { l with lastReplay := now, replays := l.replays ++ [now] }
  let n := (((s1.link k).replays ++ (s1.link (linkBack k)).replays).filter fun t =>
    decide (now.toNat < t.toNat + 1000000)).length
  if 8 ≤ n then s1.startRetrain k true else s1

/-- The sender of a link takes an ACK or NAK (R411): acknowledged flits leave the replay buffer, and a NAK sends the
others again, in order. -/
def State.takeAck (s : State) (k : Nat) (ack : Option (Bool × Nat)) (now : Word) : State :=
  match ack with
  | none => s
  | some (good, seq) =>
    let s1 := s.modLink k fun l => { l with buffer := l.buffer.filter fun f => !decide (ahead 4096 f.seq seq ≤ 512) }
    if good then s1
    else
      (s1.modLink k fun l => { l with wire := l.wire ++ l.buffer }).countReplay k now

/-- The sender at the receiver's die takes the ACK and CREDIT fields of a flit (R410, R411). -/
def State.takeFields (s : State) (k : Nat) (f : Flit) (now : Word) : State :=
  (s.modLink (linkBack k) fun l => { l with freed := l.freed + f.credit }).takeAck (linkBack k) f.ack now

/-- A receiver handles a flit (R411). `lost` says that it fails its CRC or holds a reserved value. -/
def State.receiveFlit (s : State) (k : Nat) (f : Flit) (lost : Bool) : State :=
  let now := (s.die (hopEnd (linkPair k))).time
  let l := s.link k
  if lost then s.modLink k fun l => l.lose now.toNat
  else if f.type = 0 then s.takeFields k f now
  else if f.seq = l.expected then
    let s1 := (s.crossed f (linkPair k)).modLink k fun x =>
      { x with expected := (x.expected + 1) % 4096, recovery := false, ackDue := some (true, f.seq),
               credit := x.credit + 1 }
    s1.takeFields k f now
  else if ahead 4096 f.seq l.expected ≤ 512 then s
  else s.modLink k fun l => l.lose now.toNat

/-- The next flit of a link: one that is sent again, with the ACK and CREDIT of the moment, or a new one. -/
def State.nextFlit (s : State) (k : Nat) (form : FlitForm) : State × Flit :=
  match (s.link k).wire with
  | f :: _ =>
    let (s1, ack, credit) := (s.modLink k fun l => { l with wire := l.wire.drop 1 }).takeDue k
    (s1, { f with ack := ack, credit := credit })
  | [] => s.formFlit k form

/-- FLIT (R411): a receiver takes the next flit of a link, as noise on the way leaves it. -/
def execFlit (link : Nat) (turn : FlitTurn) (s : State) : Out :=
  if !s.linkUp link then .next s
  else
    let (s1, f) := s.nextFlit link turn.form
    .next (s1.receiveFlit link (f.received turn.noise) (flitLost f turn.noise))

/-- RECOVERY_TIMER (R411): the NAK is sent again, and the timer starts again. -/
def execRecoveryTimer (link : Nat) (s : State) : Out :=
  let l := s.link link
  let now := (s.die (hopEnd (linkPair link))).time.toNat
  if s.linkUp link && l.recovery && decide (l.timer ≤ now) then
    .next (s.modLink link fun x => { x with ackDue := some (false, (x.expected + 4095) % 4096), timer := now + 4000 })
  else .next s

/-- WIDTH_RETRY (R412): a degraded module tries x64 again after 60 s without a replay; the next degradation is then
final. -/
def execWidthRetry (link : Nat) (s : State) : Out :=
  let l := s.link link
  let b := s.link (linkBack link)
  let now := (s.die (hopEnd (linkPair link))).time.toNat
  let quiet := Nat.max l.lastReplay.toNat b.lastReplay.toNat + 60000000000
  if s.linkUp link && l.narrow && !l.stuck && decide (quiet ≤ now) then
    let s1 := s.startRetrain link false
    .next ((s1.modLink link fun x => { x with stuck := true }).modLink (linkBack link) fun x => { x with stuck := true })
  else .next s

/-! ## Transactions (R413, R414, R421) -/

/-- A request carries its answer back, and the destination's filter keeps it (R414). -/
def State.acknowledge (s : State) (m : Msg) : State :=
  let f : FilterEntry := { origin := m.origin, dest := m.dest, tag := m.tag.getD 0, result := 0, poison := none }
  { s with net := { s.net with
    msgs := (s.net.msgs.filter fun x => x.id != m.id) ++
      [{ m with reply := some (0, none), hops := s.route m.destDie m.origin }]
    filter := s.net.filter ++ [f] } }

/-- The entries of an origin below the floor are freed (R414). -/
def State.freeFilter (s : State) (m : Msg) : State :=
  { s with net := { s.net with filter := s.net.filter.filter fun f =>
      !(f.origin == m.origin && f.dest == m.dest && decide (1 ≤ ahead 65536 f.tag m.floor) &&
        decide (ahead 65536 f.tag m.floor ≤ 32768)) } }

/-- The operation of a request that is not in the filter is applied once; none while it has to wait at its home. -/
def State.applyOnce (s : State) (m : Msg) : Option State :=
  match m.body with
  | .access .. => if s.atHome m then some (s.arrive m false) else none
  | .publish d mask reds p _ =>
    if s.atHome m then some (((s.dropMsg m.id).applyPublish m.pa m.path d mask reds p).acknowledge m) else none
  | .mxPartial .. => (s.takePartial m false).map fun t => t.acknowledge m
  | .sync i op v gd group pc =>
    if s.syncArrived m i then some ((s.acknowledge m).applySync m i op v gd group pc) else none
  | _ => none

/-- The answer of a request may be the last that its command or operation waits for (R174, R277). -/
def State.settleAnswer (s : State) (m : Msg) : State :=
  match m.body with
  | .mxPartial i _ => s.settlePartials i
  | .sync .. => s.settleSyncs
  | _ => s

/-- TRANSACTION_REQUEST (R414): a tagged request at its destination is applied once, or answered from the filter. -/
def execTransactionRequest (m : Nat) (s : State) : Out :=
  match s.msg? m with
  | none => .next s
  | some x =>
    match x.tag with
    | none => .next s
    | some t =>
      if !x.hops.isEmpty || x.reply.isSome then .next s
      else
        let s1 := s.freeFilter x
        match s1.net.filter.find? fun f => f.origin == x.origin && f.dest == x.dest && f.tag == t with
        | some f =>
          let back := { x with reply := some (f.result, f.poison), hops := s1.route x.destDie x.origin }
          .next ({ s1 with net := { s1.net with msgs := mapIf s1.net.msgs (fun y => y.id == m) fun _ => back } }.settleAnswer x)
        | none =>
          match s1.applyOnce x with
          | some s2 => .next s2
          | none => .next s

/-- TRANSACTION_RESPONSE (R413, R421): the response reaches its origin; the result goes where it is wanted, and the tag
is no longer outstanding. -/
def execTransactionResponse (m : Nat) (s : State) : Out :=
  match s.msg? m with
  | none => .next s
  | some x =>
    match x.reply, x.tag with
    | some (v, p), some t =>
      if !x.hops.isEmpty then .next s
      else
        let s1 := s.dropMsg m
        .next (({ s1 with net := { s1.net with
          tags := s1.net.tags.filter fun y => y != (x.origin, x.dest, t) } }.deliver x v.toNat p).settleAnswer x)
    | _, _ => .next s

/-! ## Device time (R415, R454) -/

/-- The time-source die: BD0, or the lowest-numbered die in service (R417, R454). -/
def State.timeSource (s : State) : Nat := ((List.range 4).find? fun d => s.inService d).getD 0

/-- Device time on its way to a die (R415). -/
def Msg.timeFor (m : Msg) (d : Nat) : Bool := m.body == .time && m.dest == 768 + d

/-- The time source sends device time to every other die in service (R415). -/
def State.sendTime (s : State) (src : Nat) : State :=
  let now := (s.die src).time
  ((List.range 4).filter fun d => d != src && s.inService d).foldl
    (fun (acc : State) d => acc.send (.cc (8 * src)) (96 + src) 0 now 0 .time src d (768 + d))
    (s.modDie src fun x => { x with timeSent := now })

/-- TIME_FLIT (R415): the time source sends time flits, 1 µs after the last; and one that has reached another die sets
what that die's copy has still to slew. What a flit takes on its way is known and added. -/
def execTimeFlit (die : Nat) (s : State) : Out :=
  let src := s.timeSource
  if !s.inService die then .next s
  else if die = src then
    if (s.die src).timeSent.toNat + 1000 ≤ (s.die src).time.toNat then .next (s.sendTime src) else .next s
  else
    match s.net.msgs.find? fun m => m.timeFor die && m.hops.isEmpty with
    | some m =>
      .next ((s.dropMsg m.id).modDie die fun d =>
        { d with slew := ((s.die m.origin).time.toNat : Int) - (d.time.toNat : Int) })
    | none => .next s

/-! ## Resigned dies (R417, R418) -/

/-- A page of a leaf holds a line homed on a die (R297, R327). -/
def State.leafMeets (s : State) (pa bytes d : Nat) : Bool :=
  if rangeOf pa = 4 then (List.range (bytes / 64)).any fun k => s.homeDie (pa + 64 * k) == d
  else decide (2 ^ 23 ≤ bytes) || s.homeDie pa == d

/-- A table maps a page with a line homed on a die. `fuel` is the number of levels left. -/
def State.tableMeets (s : State) (d : Nat) : Nat → Nat → Nat → Bool
  | 0, _, _ => false
  | fuel + 1, table, level =>
    (List.range 512).any fun i =>
      let e := s.peekWord (table + 8 * i)
      if !pteValid e then false
      else if ptePointer e then
        level != 4 && !pteBit e 10 && insideOne (ptePfn e) 4096 && s.tableMeets d fuel (ptePfn e) (level + 1)
      else s.leafOk e (table + 8 * i) level && s.leafMeets (ptePfn e) (pageBytes level) d

/-- A context is touched by the resignation of a die (R418). -/
def State.touched (s : State) (c d : Nat) : Bool :=
  let g := (s.ctx c).csrgrant
  let first := (g.extractLsb' 0 14).toNat
  let count := (g.extractLsb' 16 15).toNat
  s.workers.any (fun p => p.1.ctx == c && p.2.run != .saved && p.2.w.place.die == d) ||
    s.windows.any (fun w => w.ctx == c && w.lines.any fun la => s.homeDie la == d) ||
    decide (first < 4096 * d + 4096 ∧ 4096 * d < first + count ∧ 0 < count) ||
    s.jobs.any (fun j => j.ctx == c && j.dies.contains d) ||
    s.tableMeets d 4 (ptePfn (s.ctx c).root) 1

/-- One launch of a touched context is torn down with STATUS 0x05; DIE-LOST is posted, and logged unless the log is
homed on the die (R418). -/
def State.loseLaunch (s : State) (l : Launch) : State :=
  let leaving := match l.phase with
    | .tearing _ => true
    | .ended _ => true
    | _ => false
  if leaving then s
  else
    let x := s.ctx l.ctx
    let s1 := (s.modLaunch l.ctx l.slot fun y => { y with phase := .tearing 5 }).postHardware 28 l.ctx l.slot none
    if s.lineLost (x.cflbase.toNat + 64 * (x.logged % 2 ^ x.cfllog.toNat)) then s1
    else s1.logUnstated l.ctx l.slot 348 (s.die l.lead).time

/-- Where a message is: the die its next hop starts from, or the one it has reached. -/
def Msg.at_ (m : Msg) : Nat :=
  match m.hops with
  | h :: _ => hopStart h
  | [] => if m.reply.isSome then m.origin else m.destDie

/-- A message ends with a die: the die issued it, or is to act on it. -/
def Msg.lostWith (m : Msg) (d : Nat) : Bool := m.origin == d || m.destDie == d

/-- A message on its way finds a new way: from where it is, or, where that was the resigned die, from its start. -/
def State.reroute (s : State) (m : Msg) : Msg :=
  if m.hops.isEmpty then m
  else
    let (start, goal) := if m.reply.isSome then (m.destDie, m.origin) else (m.origin, m.destDie)
    { m with hops := s.route (if s.inService m.at_ then m.at_ else start) goal }

/-- Every message finds its way anew. A staged operation has none. -/
def State.rerouteAll (s : State) : State :=
  let travels (m : Msg) : Bool := match m.body with
    | .staged .. => false
    | _ => true
  let msgs := mapIf s.net.msgs travels s.reroute
  { s with net := { s.net with msgs := msgs } }

/-- A g register whose value never comes is full again, unwritten (R176). -/
def State.refill (s : State) (q : SeqId) (gd : Option (BitVec 5)) : State :=
  match gd with
  | some r => s.modSeq q fun x => { x with bank := { x.bank with empty := x.bank.empty &&& ~~~(BitVec.twoPow 32 r.toNat) } }
  | none => s

/-- A sync operation whose home has resigned (R176): a control core traps DIE-LOST; a worker's never completes. -/
def State.loseSync (s : State) (q : SeqId) (reg : Nat) (gd : Option (BitVec 5)) (pc : Word) : State :=
  match q with
  | .cc _ =>
    (s.refill q gd).raiseOn q
      { source := 5, cond := 28, epc := pc, eaddr := BitVec.ofNat 64 reg, eidx := 0, save := pc, vstart := none }
  | _ => s

/-- A write or the signal of a copy command lost with its die fails the command (R418): the one of its context that executes. -/
def State.loseCopy (s : State) (m : Msg) (signal : Bool) : State :=
  match s.copyOf m.src with
  | some c =>
    if decide (m.path < 96) || (if signal then !c.handed else c.moved == 0) then s
    else s.failCopy c (if signal then c.total else c.chunk) ⟨28, m.va, true⟩
  | none => s

/-- An access lost with the die it was on its way to (R418): what would have returned data fills its destination with a
mark; what would have changed memory is discarded, and a copy command that waited for it fails. A sync operation that has been
applied is lost with its register. -/
def State.loseMsg (s : State) (m : Msg) : State :=
  match m.body with
  | .access _ _ (.g ..) _ => s.deliver m 0 (some false)
  | .access _ _ (.elems ..) _ => s.deliver m 0 (some false)
  | .access _ _ (.mask ..) _ => s.deliver m 1 none
  | .access .. => s.loseCopy m true
  | .publish .. => s.loseCopy m false
  | .sync i _ _ gd _ pc => if m.reply.isSome then s else s.loseSync m.src i gd pc
  | _ => s

/-- Messages and held accesses that end with a die are fenced off, and the others go round it (R418). -/
def State.fence_ (s : State) (d : Nat) : State :=
  let all := s.net.msgs ++ s.net.held.map fun h => h.msg
  let gone := all.filter fun m => m.lostWith d
  let s1 := { s with net := { s.net with
    msgs := s.net.msgs.filter fun m => !m.lostWith d
    held := s.net.held.filter fun h => !h.msg.lostWith d
    tags := s.net.tags.filter fun t => t.1 != d && !gone.any fun m => m.tag == some t.2.2 && m.dest == t.2.1 && m.origin == t.1
    filter := s.net.filter.filter fun f => f.origin != d } }
  let s2 := (gone.filter fun m => m.origin != d).foldl (fun (acc : State) m => acc.loseMsg m) s1
  s2.rerouteAll

/-- The holders of a die are gone: held accesses no longer wait for them. -/
def State.dropHolders (s : State) (d : Nat) : State :=
  (List.range 16).foldl (fun (acc : State) c =>
    (acc.net.held.map fun h => lineOf h.msg.pa).eraseDups.foldl (fun (a : State) la => a.answered la (16 * d + c)) acc) s

/-- The lines, entries and translations a die's slices, buffers and cores held are gone (R418). -/
def State.dropDie (s : State) (d : Nat) : State :=
  s.modMem fun m =>
    { m with
      lines := m.lines.filter fun l => l.die != d && s.homeDie l.addr != d
      caches := m.caches.filter fun c => cacheDie c.owner != d && s.homeDie c.addr != d
      stage := m.stage.filter fun e => e.cluster / 16 != d && s.homeDie e.addr != d
      dir := (m.dir.filter fun e => e.die != d).map fun e => { e with holders := e.holders &&&
        ~~~(BitVec.ofNat 64 (65535 * 2 ^ (16 * d))) }
      resv := m.resv.filter fun r => s.homeDie r.word != d
      tlb := m.tlb.filter fun t => t.holder != d && !(decide (4 + 8 * d ≤ t.holder) && decide (t.holder < 12 + 8 * d)) &&
        !(decide (36 + 512 * d ≤ t.holder) && decide (t.holder < 548 + 512 * d)) }

/-- The die's mirrors apply nothing more: sync operations do not wait for them, and those of its registers are lost. -/
def State.dropSyncs (s : State) (d : Nat) : State :=
  let lost := s.net.syncs.filter fun o => syncDie o.reg == d
  let s1 := { s with net := { s.net with syncs := s.net.syncs.filter fun o => syncDie o.reg != d } }
  let s2 := lost.foldl (fun (acc : State) o => acc.loseSync o.src o.reg o.gd o.pc) s1
  (s2.net.syncs.map fun o => o.id).foldl (fun (acc : State) i => acc.syncApplied i d) s2

/-- Sweeps and jobs lose what lies on the die, and fail (R391, R418). -/
def State.dropWork (s : State) (d : Nat) : State :=
  let sweep (w : Sweep) : Sweep :=
    let left := w.left.filter fun la => s.homeDie la != d
    { w with left := left, failed := w.failed || left.length != w.left.length }
  let job (j : Job) : Job :=
    let refused := j.refused ++ (List.range 64).map fun k => 64 * d + k
    let dies := j.dies.filter fun x => x != d
    { j with lost := true, refused := refused, dies := dies, faults := j.faults.filter fun f => f.bank / 1024 != d }
  { s with sweeps := s.sweeps.map sweep, jobs := mapIf s.jobs (fun j => j.dies.contains d) job }

/-- The control cores of a die stop (R418). They keep their privilege and bank until they restart. -/
def State.stopCores (s : State) (d : Nat) : State :=
  let s1 := (List.range 8).foldl (fun (acc : State) k =>
    acc.modSeq (.cc (8 * d + k)) fun x => { x with run := .halted, trap := none }) s
  { s1 with regs := { s1.regs with ccrun := s1.regs.ccrun &&& ~~~(BitVec.ofNat 32 (255 * 2 ^ (8 * d))) } }

/-- The contexts that exist: those named and those of launches. -/
def State.ctxNumbers (s : State) : List Nat :=
  ((s.ctxs.map fun p => p.1) ++ s.launches.map fun l => l.ctx).eraseDups

/-- A die resigns and is fenced (R418): its contexts are torn down, the resignation is posted with the die's number, and
nothing waits for it any longer. -/
def State.resign (s : State) (d : Nat) : State :=
  let hit := s.ctxNumbers.filter fun c => s.touched c d
  let s1 := s.modDie d fun x => { x with resigned := true }
  let s2 := hit.foldl (fun (acc : State) c => acc.modCtx c fun x => { x with lost := true }) s1
  let s3 := (s2.launches.filter fun l => hit.contains l.ctx).foldl (fun (acc : State) l => acc.loseLaunch l) s2
  let s4 := s3.postHardware 28 0 0 (some (BitVec.ofNat 64 d))
  (((((s4.stopCores d).dropSyncs d).fence_ d).dropHolders d).dropDie d).dropWork d

/-- A path from a die to another over pairs that are not lost and dies in service. -/
def State.joined (s : State) (a b : Nat) : Bool :=
  let up := routeUp a ((b + 4 - a) % 4)
  let down := routeDown a ((a + 4 - b) % 4)
  a == b || s.routeWorks up || s.routeWorks down

/-- Both pairs of a die are lost (R417). -/
def State.bothLost (s : State) (d : Nat) : Bool := s.lost.contains d && s.lost.contains ((d + 3) % 4)

/-- A die must resign: both its pairs are lost, or it has no path to the time source (R417). -/
def State.mustResign (s : State) (d : Nat) : Bool :=
  s.inService d && (s.bothLost d || !s.joined d s.timeSource)

/-- Every die of which a condition holds resigns. -/
def State.resignAll (s : State) (due : Nat → Bool) : State :=
  ((List.range 4).filter due).foldl (fun (acc : State) d => acc.resign d) s

/-- Every die that must resign does: those without a pair first, so that the others are held against the time source
that is then in service (R417). -/
def State.settleDies (s : State) : State :=
  let s1 := s.resignAll fun d => s.inService d && s.bothLost d
  s1.resignAll fun d => s1.mustResign d

/-- A pair is lost (R417): LINK-DOWN is posted, and its traffic goes the other way. -/
def State.losePair (s : State) (p : Nat) : State :=
  (({ s with lost := p :: s.lost }.postHardware 29 0 0 none).rerouteAll).settleDies

/-- RETRAIN_COMPLETION (R412): a retrained module starts its sequences afresh; one that fails at x64 goes on at x32; one
that fails at x32 is down, and with the last of its pair the pair is lost (R417). -/
def execRetrainCompletion (link : Nat) (trained : Bool) (s : State) : Out :=
  let l := s.link link
  if !l.training || decide (48 ≤ link) then .next s
  else
    let both (f : Link → Link) : State := (s.modLink link f).modLink (linkBack link) f
    if trained then
      .next (both fun x => { Link.reset with narrow := x.narrow, stuck := x.stuck, lastReplay := x.lastReplay })
    else if !l.narrow then .next (both fun x => { x with narrow := true })
    else
      let s1 := both fun x => { x with training := false, down := true }
      let h := linkPair link
      if (pairLinks h).all (fun k => (s1.link k).down) && !s1.lost.contains (h / 2) then .next (s1.losePair (h / 2))
      else .next s1

/-- RESIGNATION (R417, R418): a die resigns; where neither its links nor its path ask for it, it has met an error it
cannot contain, and MACHINE-CHECK is posted first (R443). -/
def execResignation (die : Nat) (s : State) : Out :=
  if die < 4 ∧ s.inService die = true then
    .next (if s.mustResign die then s.settleDies else ((s.postHardware 46 0 0 none).resign die).settleDies)
  else .next s

end Sys2Proof.Machine
end

