-- ==== Sys2Proof/Machine/Special.lean ====
section
/-! DEFINITION. Special and system registers: SRD, and the SWR of each register (R134 to R136, R168, R189, R253,
R257, R322 to R324, R332, R427 to R429, R445). -/

namespace Sys2Proof.Machine

/-! ## Reading -/

/-- WLOC of a worker (R189). -/
def Worker.wloc (w : Worker) : Word :=
  BitVec.ofNat 64 (2 ^ 48 * w.moves.toNat + 2 ^ 22 * w.place.die + 2 ^ 18 * w.place.cluster + 2 ^ 13 * w.place.core +
    2 ^ 12 * w.place.slot + 2 ^ 9 * w.spadCode)

/-- SSTAT (R253). -/
def Worker.sstat (w : Worker) : Word :=
  BitVec.ofNat 64 (256 * w.rcount.toNat + (if w.vsaved then 2 else 0) + (if w.ins then 1 else 0))

/-- KSTAT (R428). -/
def CoreRegs.kstat (c : CoreRegs) : Word :=
  BitVec.ofNat 64 (c.uctx.toNat * 4 + (if c.ink then 2 else 0) + (if c.ppriv then 1 else 0))

/-- The sum of the four dies' counts of a codec counter, saturating (R332). -/
def State.codecCount (s : State) (pick : Die → Vector Word 32) (n : Nat) : Word :=
  BitVec.ofNat 64 (Nat.min (2 ^ 64 - 1) ((List.range 4).foldl (fun t d => t + ((pick (s.die d)).getD n 0).toNat) 0))

/-- A worker-side special register (R134). -/
def State.readWorkerSr (s : State) (n : Nat) : Word :=
  let w := s.core.w
  match n with
  | 0x000 => w.vl.setWidth 64
  | 0x001 => w.vlmax.setWidth 64
  | 0x002 => BitVec.ofNat 64 (vnregOf w.vncode)
  | 0x003 => w.vmt.setWidth 64
  | 0x004 => w.vstart.setWidth 64
  | 0x005 => w.vrm.setWidth 64
  | 0x006 => w.xsel.setWidth 64
  | 0x014 => w.wloc
  | 0x033 => s.core.eidx.setWidth 64
  | 0x040 => w.svec
  | _ => w.sstat

/-- A special register that every sequencer has (R134); a write-only one, KPOST, reads as zero (R9). -/
def State.readCommonSr (s : State) (n : Nat) : Word :=
  match n with
  | 0x007 => s.core.bank.xf.setWidth 64
  | 0x010 => BitVec.ofNat 64 (((ownerOf s.cur).map fun w => w.wid).getD 0)
  | 0x011 => BitVec.ofNat 64 (s.ownerSeq s.cur).w.stage
  | 0x012 => BitVec.ofNat 64 s.curCtx
  | 0x013 => s.timeOf s.cur
  | 0x020 => BitVec.ofNat 64 s.core.tlv.count
  | 0x021 => BitVec.ofNat 64 s.core.tlm.count
  | 0x022 => BitVec.ofNat 64 s.core.tlc.count
  | 0x023 => BitVec.ofNat 64 s.core.tln.count
  | 0x030 => s.core.cause.setWidth 64
  | 0x031 => s.core.epc
  | 0x032 => s.core.eaddr
  | _ => 0

/-- A range register by its number (R322). -/
def State.readRange (s : State) (n : Nat) : Word :=
  let k := n - 0x800
  let r := s.range (k / 4)
  if k % 4 = 0 then r.base else if k % 4 = 1 then r.len else if k % 4 = 2 then r.store else r.ctl

/-- A per-context register of the context that CTXSEL names (R427). -/
def State.readCtxSr (s : State) (n : Nat) : Word :=
  let c := s.core.cc.ctxsel.toNat
  let x := s.ctx c
  match n with
  | 0x891 => if s.enabled c then 1 else 0
  | 0x892 => x.croot
  | 0x893 => x.cfbase
  | 0x894 => x.cfn.setWidth 64
  | 0x895 => x.cqgrant.getD 0 0
  | 0x896 => x.cqgrant.getD 1 0
  | 0x897 => x.cqgrant.getD 2 0
  | 0x898 => x.cqgrant.getD 3 0
  | 0x899 => (x.cwquota.getD 0 0).setWidth 64
  | 0x89A => (x.cwquota.getD 1 0).setWidth 64
  | 0x89B => (x.cwquota.getD 2 0).setWidth 64
  | 0x89C => (x.cwquota.getD 3 0).setWidth 64
  | 0x89D => x.csrgrant
  | 0x89E => x.cflbase
  | 0x89F => x.cfllog.setWidth 64
  | 0x8A0 => x.cfllost
  | 0x8A1 => x.cdbp.getD 0 0
  | 0x8A2 => x.cdbp.getD 1 0
  | 0x8A3 => x.cdbp.getD 2 0
  | 0x8A4 => x.cdbp.getD 3 0
  | _ => x.csvec

/-- A system register of the module or of the core (R427, R445). -/
def State.readSystemSr (s : State) (n : Nat) : Word :=
  let r := s.regs
  match n with
  | 0x880 => s.core.cc.kvec
  | 0x881 => s.core.cc.kstat
  | 0x882 => r.ccrun.setWidth 64
  | 0x890 => s.core.cc.ctxsel.setWidth 64
  | 0x8B0 => (r.accpart.getD 0 0).setWidth 64
  | 0x8B1 => (r.accpart.getD 1 0).setWidth 64
  | 0x8B2 => (r.accpart.getD 2 0).setWidth 64
  | 0x8B3 => (r.accpart.getD 3 0).setWidth 64
  | 0x8B4 => r.kfqbase
  | 0x8B5 => r.kfqlog.setWidth 64
  | 0x8B6 => r.mnqbase
  | 0x8B7 => r.mctbase
  | 0x8B8 => r.mthresh.setWidth 64
  | 0x8D0 => r.cdrel.setWidth 64
  | _ => r.lqprio.getD (n - 0x8C0) 0

/-- A special or system register (R134, R322, R332, R427, R445). -/
def State.readSr (s : State) (n : Nat) : Word :=
  if n < 0x007 ∨ n = 0x014 ∨ n = 0x033 ∨ n = 0x040 ∨ n = 0x041 then s.readWorkerSr n
  else if n < 0x100 then s.readCommonSr n
  else if n < 0x120 then s.codecCount (fun d => d.loss) (n - 0x100)
  else if n < 0x140 then s.codecCount (fun d => d.clamp) (n - 0x120)
  else if n < 0x160 then s.codecCount (fun d => d.spec) (n - 0x140)
  else if n < 0x880 then s.readRange n
  else if 0x891 ≤ n ∧ n ≤ 0x8A5 then s.readCtxSr n
  else s.readSystemSr n

/-- SRD (R134, R135, R168). SRD of XF waits for the vector unit. -/
def execSrd (f : FIM) (s : State) : Out :=
  checked (.srd f) s fun s =>
    let n := f.srNum.toNat
    if n = 7 ∧ s.waitsVector then .next s else .next (s.put (hReg f.h) (s.readSr n))

/-! ## Writing -/

/-- A field of `w` bits at `lo` is all that a value may have set. -/
def onlyBits (v : Word) (lo w : Nat) : Bool := v.toNat % 2 ^ lo == 0 && decide (v.toNat < 2 ^ (lo + w))

/-- Bytes lie wholly inside one populated range of R11: not the coded aperture, not the device registers. -/
def insideMemory (a n : Nat) : Bool := insideOne a n && decide (rangeOf a ≤ 3)

/-- A worker-side register takes a value (R134, R136, R253); none for a value it refuses. -/
def Worker.writeSr (w : Worker) (n : Nat) (v : Word) : Option Worker :=
  match n with
  | 0x000 => if v.toNat ≤ 21845 then some { w with vl := v.setWidth 15 } else none
  | 0x003 => if v.toNat ≤ 2 then some { w with vmt := v.setWidth 2 } else none
  | 0x004 => if onlyBits v 0 15 then some { w with vstart := v.setWidth 15 } else none
  | 0x005 => if onlyBits v 0 2 then some { w with vrm := v.setWidth 2 } else none
  | 0x006 => if v.toNat ≤ 8 then some { w with xsel := v.setWidth 4 } else none
  | _ => if (v &&& ~~~0xFF03#64) = 0 then some { w with rcount := v.extractLsb' 8 8 } else none

/-- A per-context register takes a value (R427, R428). A CFLLOG whose ring would leave its populated range is refused like a
base that would, and a base is held to 64 bytes while its LOG is 0 (DESIGN CHOICE, log entry 102). -/
def Context.writeSr (x : Context) (n : Nat) (v : Word) : Option Context :=
  match n with
  | 0x892 => if onlyBits v 12 40 && insideMemory v.toNat 4096 then some { x with croot := v } else none
  | 0x893 => if v.extractLsb' 0 16 = 0#16 then some { x with cfbase := v } else none
  | 0x894 => if onlyBits v 0 16 then some { x with cfn := v.setWidth 16 } else none
  | 0x895 => some { x with cqgrant := x.cqgrant.setIfInBounds 0 v }
  | 0x896 => some { x with cqgrant := x.cqgrant.setIfInBounds 1 v }
  | 0x897 => some { x with cqgrant := x.cqgrant.setIfInBounds 2 v }
  | 0x898 => some { x with cqgrant := x.cqgrant.setIfInBounds 3 v }
  | 0x899 => if onlyBits v 0 20 then some { x with cwquota := x.cwquota.setIfInBounds 0 (v.setWidth 20) } else none
  | 0x89A => if onlyBits v 0 20 then some { x with cwquota := x.cwquota.setIfInBounds 1 (v.setWidth 20) } else none
  | 0x89B => if onlyBits v 0 20 then some { x with cwquota := x.cwquota.setIfInBounds 2 (v.setWidth 20) } else none
  | 0x89C => if onlyBits v 0 20 then some { x with cwquota := x.cwquota.setIfInBounds 3 (v.setWidth 20) } else none
  | 0x89D => if (v &&& ~~~0x7FFF3FFF#64) = 0 then some { x with csrgrant := v } else none
  | 0x89E => if v.extractLsb' 0 6 = 0#6 && insideMemory v.toNat (64 * 2 ^ x.cfllog.toNat) then some { x with cflbase := v }
    else none
  | 0x89F => if decide (4 ≤ v.toNat ∧ v.toNat ≤ 20) && insideMemory x.cflbase.toNat (64 * 2 ^ v.toNat) then
      some { x with cfllog := v.setWidth 5 } else none
  | 0x8A0 => some { x with cfllost := v }
  | 0x8A1 => some { x with cdbp := x.cdbp.setIfInBounds 0 v }
  | 0x8A2 => some { x with cdbp := x.cdbp.setIfInBounds 1 v }
  | 0x8A3 => some { x with cdbp := x.cdbp.setIfInBounds 2 v }
  | 0x8A4 => some { x with cdbp := x.cdbp.setIfInBounds 3 v }
  | _ => some { x with csvec := v }

/-- A module register takes a value (R427, R428). KFQLOG and KFQBASE are refused as CFLLOG and CFLBASE are (DESIGN CHOICE, log
entry 102). -/
def ModuleRegs.writeSr (r : ModuleRegs) (n : Nat) (v : Word) : Option ModuleRegs :=
  match n with
  | 0x8B4 => if v.extractLsb' 0 6 = 0#6 && insideMemory v.toNat (64 * 2 ^ r.kfqlog.toNat) then some { r with kfqbase := v }
    else none
  | 0x8B5 => if decide (4 ≤ v.toNat ∧ v.toNat ≤ 16) && insideMemory r.kfqbase.toNat (64 * 2 ^ v.toNat) then
      some { r with kfqlog := v.setWidth 5 } else none
  | 0x8B6 => if v.extractLsb' 0 6 = 0#6 && insideMemory v.toNat 65536 then some { r with mnqbase := v } else none
  | 0x8B7 =>
    if v.extractLsb' 0 6 = 0#6 && insideMemory v.toNat (4 * (23437500 + cxlSize / 65536)) then
      some { r with mctbase := v } else none
  | 0x8B8 => if onlyBits v 0 16 then some { r with mthresh := v.setWidth 16 } else none
  | _ =>
    if n < 0x8B4 then
      if v.toNat ≤ 524288 then some { r with accpart := r.accpart.setIfInBounds (n - 0x8B0) (v.setWidth 20) } else none
    else if v &&& 0x8888888888888888#64 = 0 then some { r with lqprio := r.lqprio.setIfInBounds (n - 0x8C0) v }
    else none

/-- A special or system register with no behaviour of its own takes a value; none for a value it refuses. A non-zero RES
bit of a value is one: R9 has writes of RES fields ignored and R168 has them refused, and the model takes R168’s, which
speaks of SWR (DEDUCED, log entry 73). -/
def State.writeSr (s : State) (n : Nat) (v : Word) : Option State :=
  if n < 0x007 ∨ n = 0x041 then (s.core.w.writeSr n v).map fun w => s.modCore fun x => { x with w := w }
  else if n = 0x030 then
    if onlyBits v 0 9 then some (s.modCore fun x => { x with cause := v.setWidth 9 }) else none
  else if n = 0x031 then some (s.modCore fun x => { x with epc := v })
  else if n = 0x032 then some (s.modCore fun x => { x with eaddr := v })
  else if n = 0x033 then
    if onlyBits v 0 15 then some (s.modCore fun x => { x with eidx := v.setWidth 15 }) else none
  else if n = 0x880 then some (s.modCore fun x => { x with cc := { x.cc with kvec := v } })
  else if n = 0x881 then
    if onlyBits v 0 11 then some (s.modCore fun x => { x with cc := { x.cc with ppriv := v.getLsbD 0 } }) else none
  else if n = 0x890 then
    if onlyBits v 0 9 then some (s.modCore fun x => { x with cc := { x.cc with ctxsel := v.setWidth 9 } }) else none
  else if 0x892 ≤ n ∧ n ≤ 0x8A5 then
    let c := s.core.cc.ctxsel.toNat
    ((s.ctx c).writeSr n v).map fun x => s.modCtx c fun _ => x
  else (s.regs.writeSr n v).map fun r => { s with regs := r }

/-- SWR of a register with no behaviour of its own (R168, R136, R427): a refused value raises RESERVED-FIELD. -/
def execSwr (f : FIM) (s : State) : Out :=
  checked (.swr f) s fun s =>
    match s.writeSr f.srNum.toNat (s.g (hReg f.h)) with
    | some t => .next t.advance
    | none => .next (s.raise 3 0)

/-- SWR of XF (R135, R136): it waits for the vector unit, then replaces the flags. -/
def execXfWrite (f : FIM) (s : State) : Out :=
  checked (.xfWrite f) s fun s =>
    if s.waitsVector then .next s
    else
      let v := s.g (hReg f.h)
      if onlyBits v 0 8 then
        .next (s.modCore fun x => { x with bank := { x.bank with xf := v.setWidth 8 } }).advance
      else .next (s.raise 3 0)

/-- SWR to KPOST at S (R257): the vector state is saved, RELEASE and KPOSTED are written, a record is posted, and the
worker parks. -/
def execKpost (f : FIM) (s : State) : Out :=
  checked (.kpost f) s fun s =>
    if s.waitsVector || s.framePending s.cur then .next s
    else
      match s.cur with
      | .worker w =>
        match s.postWorker w (s.g (hReg f.h)) false false with
        | some t => .next t
        | none => .next (s.frameFault w)
      | _ => .next (s.raise 3 0)

/-- A control core at K, on the K bank (R425). -/
def Seq.atK (x : Seq) : Seq :=
  if x.priv = .k then x else { x with priv := .k, bank := x.other, other := x.bank }

/-- A halted control core of a die in service restarts at K, on the K bank, at EPC (R155, R418, R425). -/
def State.restartCore (s : State) (n : Nat) : State :=
  let x := s.seqD (.cc n)
  if x.run = .halted ∧ s.inService (n / 8) = true then
    let s1 := s.setSeq (.cc n) { x.atK with run := .running, pc := x.epc, line := none }
    { s1 with regs := { s1.regs with ccrun := s1.regs.ccrun ||| BitVec.twoPow 32 n } }
  else s

/-- SWR to CCRUN (R427): each bit written as 1 restarts a halted core; 0 has no effect. -/
def execCcrun (f : FIM) (s : State) : Out :=
  checked (.ccrun f) s fun s =>
    let v := s.g (hReg f.h)
    if onlyBits v 0 32 then
      .next ((List.range 32).foldl (fun (acc : State) n => if v.getLsbD n then acc.restartCore n else acc) s.advance)
    else .next (s.raise 3 0)

/-- A context is in use: it holds a launch, or is the U context of a control core (R429). -/
def State.ctxBusy (s : State) (c : Nat) : Bool :=
  s.launches.any (fun l => l.ctx == c) ||
  s.allSeqs.any fun p => match p.1 with
    | .cc _ => p.2.cc.uctx.toNat == c
    | _ => false

/-- SWR to CCTL (R429): ENABLE := 1 creates the context that CTXSEL names; ENABLE := 0 disables it unless it is in
use. Context 0 ignores the write. -/
def execCctl (f : FIM) (s : State) : Out :=
  checked (.cctl f) s fun s =>
    let v := s.g (hReg f.h)
    let c := s.core.cc.ctxsel.toNat
    if !onlyBits v 0 1 then .next (s.raise 3 0)
    else if c = 0 then .next s.advance
    else if v = 1 then
      if s.enabled c then .next s.advance
      else .next (s.modCtx c fun _ => { Context.reset with enable := true }).advance
    else if s.ctxBusy c then .next (s.raise 3 0)
    else .next (s.modCtx c fun x => { x with enable := false }).advance

/-- The storage of an FMT-1 window lies wholly inside one populated range (R324, R326). -/
def RangeReg.storageOk (r : RangeReg) (bud : Nat) : Bool :=
  insideMemory r.store.toNat ((r.len.toNat / 64 + budLines bud - 1) / budLines bud * 64)

/-- What a write of CWCTL must satisfy (R324). -/
def RangeReg.ctlOk (r : RangeReg) (v : Word) : Bool :=
  let fmt := (v.extractLsb' 0 2).toNat
  let bud := (v.extractLsb' 4 3).toNat
  let scale := v.extractLsb' 8 8
  let a := r.base.toNat
  let n := r.len.toNat
  (v &&& ~~~0xFF73#64) == 0 && fmt != 3 && decide (bud ≤ 4) &&
  match fmt with
  | 0 => true
  | 1 => scale == 0 && n != 0 && decide (2 ^ 49 ≤ a ∧ a + n ≤ 2 ^ 50) && r.storageOk bud
  | _ => bud == 0 && r.store == 0 && n != 0 && insideMemory a n

/-- A range register takes a value (R323, R324); none for a write that R324 refuses. -/
def RangeReg.write (r : RangeReg) (k : Nat) (v : Word) : Option RangeReg :=
  match k with
  | 0 => if onlyBits v 16 34 && r.fmt == 0 then some { r with base := v } else none
  | 1 => if onlyBits v 16 28 && r.fmt == 0 then some { r with len := v } else none
  | 2 => if onlyBits v 6 44 && r.fmt == 0 then some { r with store := v } else none
  | _ => if r.ctlOk v then some { r with ctl := v } else none

/-- SWR to a range register (R322 to R324): checked, then written on every base die that is not resigned. -/
def execRangeRegisterWrite (f : FIM) (s : State) : Out :=
  checked (.rangeRegisterWrite f) s fun s =>
    let n := f.srNum.toNat - 0x800
    match (s.range (n / 4)).write (n % 4) (s.g (hReg f.h)) with
    | some r => .next ({ s with ranges := s.ranges.setIfInBounds (n / 4) r }).advance
    | none => .next (s.raise 3 0)

/-- A codec counter with BD0's count set and the others zero (R332). A resigned die's count keeps its value. -/
def State.setCodecCount (s : State) (n : Nat) (v : Word) : State :=
  (List.range 4).foldl (fun (acc : State) d =>
    if (acc.die d).resigned then acc
    else
      acc.modDie d fun x =>
        let c := if d = 0 then v else 0
        if n < 0x120 then { x with loss := x.loss.setIfInBounds (n - 0x100) c }
        else if n < 0x140 then { x with clamp := x.clamp.setIfInBounds (n - 0x120) c }
        else { x with spec := x.spec.setIfInBounds (n - 0x140) c }) s

/-- SWR to a codec counter (R332). -/
def execCdloss (f : FIM) (s : State) : Out :=
  checked (.cdloss f) s fun s => .next (s.setCodecCount f.srNum.toNat (s.g (hReg f.h))).advance

/-- A compute die is released: step 7 of R444 begins for it. -/
def State.releaseDie (s : State) (d : Nat) : State :=
  if (s.die d).released then s
  else
    let s1 := s.modDie d fun x => { x with released := true }
    { s1 with mgmt := { s1.mgmt with rising := s1.mgmt.rising ++ [(d, s1.timeOf s1.cur)] } }

/-- SWR to CDREL (R445): each newly set bit releases its compute die; clearing a set bit raises RESERVED-FIELD. -/
def execCdrel (f : FIM) (s : State) : Out :=
  checked (.cdrel f) s fun s =>
    let v := s.g (hReg f.h)
    if !onlyBits v 0 4 || (s.regs.cdrel.setWidth 64 &&& ~~~v) != 0 then .next (s.raise 3 0)
    else
      let s1 := { s with regs := { s.regs with cdrel := v.setWidth 4 } }
      .next ((List.range 4).foldl (fun (acc : State) d =>
        if v.getLsbD d then acc.releaseDie d else acc) s1).advance

end Sys2Proof.Machine
end

