-- ==== Sys2Proof/Machine/Mgmt.lean ====
section
/-! DEFINITION. The management controller: bring-up (R444), environment (R3, R446 to R448), retraining in service (R449),
firmware and measurements (R450, R451) and the side-band port (R452 to R454). -/

namespace Sys2Proof.Machine

/-- Changes the management controller. -/
def State.modMgmt (s : State) (f : Mgmt → Mgmt) : State := { s with mgmt := f s.mgmt }

/-- The side-band port answers. -/
def State.reply (s : State) (a : Answer) : State := s.modMgmt fun m => { m with answers := m.answers ++ [a] }

/-- A die that commands of the side-band port find up (R444, R452). -/
def State.dieUp (s : State) (d : Nat) : Bool := decide (5 ≤ s.mgmt.step) && s.inService d

/-! ## Images (R450, R451) -/

/-- A little-endian field of an image's bytes. -/
def imageNum (b : List Byte) (at_ n : Nat) : Nat :=
  ((b.drop at_).take n).foldr (fun x acc => x.toNat + 256 * acc) 0

/-- TARGET of an image. -/
def imageTarget (b : List Byte) : Nat := imageNum b 0x06 2

/-- The body of an image. -/
def imageBody (b : List Byte) : List Byte := (b.drop 128).take (imageNum b 0 4)

/-- The bytes of a digest, the first the lowest. -/
def digestBytes (d : BitVec 512) : List Byte := (List.range 64).map fun k => d.extractLsb' (8 * k) 8

/-- The four checks of R450, with the lengths of its layout. -/
def imageOk (b : List Byte) : Bool :=
  let len := imageNum b 0 4
  decide (b.length = 128 + len + 4627) &&
    ((b.drop 0x48).take 56).all (fun x => x == 0) &&
    decide (imageTarget b ≤ 2) &&
    ((b.drop 8).take 64 == digestBytes (Config.sha3 (imageBody b))) &&
    decide (Config.svnMinimum (imageTarget b) ≤ imageNum b 4 2) &&
    Config.mldsaVerify (Config.sha3 (b.take (128 + len))) (b.drop (128 + len))

/-- An accepted image is measured, with its die and the TIME of its load (R451). -/
def State.measureImage (s : State) (d : Nat) (b : List Byte) : State :=
  s.modMgmt fun m => { m with log := m.log ++ [{ digest := Config.sha3 b, die := d, time := (s.die 0).time }] }

/-- The image that the next power-on of a part takes: the one an update has stored, else the module's. Part 0 is the
management controller, part d + 1 base die d. -/
def State.imageFor (s : State) (part : Nat) : List Byte := assocGet s.mgmt.images part (Config.bootImage part)

/-! ## Bring-up (R444) -/

/-- Step 2 verifies the base-die images; the die of a rejected one stays out of service (R450). -/
def State.takeBaseImages (s : State) : State :=
  (List.range 4).foldl (fun (acc : State) d =>
    if imageOk (acc.imageFor (d + 1)) then acc.measureImage d (acc.imageFor (d + 1))
    else acc.modDie d fun x => { x with resigned := true }) s

/-- Step 6: control core 0 boots at K at the entry PC; CCRUN holds only bit 0. -/
def State.boot (s : State) : State :=
  let s1 := s.modSeq (.cc 0) fun x => { x with run := .running, priv := .k, pc := s.entryPc }
  { s1 with regs := { s1.regs with ccrun := 1 } }

/-- Bring-up stops where it is. -/
def State.stopBringup (s : State) : State := s.modMgmt fun m => { m with failed := true }

/-- The step in progress of bring-up ends (R444). A rejected image is not run. -/
def State.endStep (s : State) : State :=
  let k := s.mgmt.step + 1
  let s1 := s.modMgmt fun m => { m with step := k }
  if k = 1 then
    if imageOk (s.imageFor 0) then s1.measureImage 0 (s.imageFor 0) else s.stopBringup
  else if k = 2 then (s1.modMgmt fun m => { m with rails := true }).takeBaseImages
  else if k = 5 then if s1.inService 0 then s1 else s.stopBringup
  else if k = 6 then s1.boot
  else s1

/-- The released compute die that comes up next does; step 7 is over when none is left (R444). The next one's limit
starts then. -/
def State.raiseDie (s : State) : State :=
  match s.mgmt.rising with
  | [] => s
  | (d, _) :: rest =>
    (s.modDie d fun x => { x with up := true }).modMgmt fun m =>
      { m with step := if rest.isEmpty then 7 else m.step, rising := rest.map fun p => (p.1, (s.die 0).time) }

/-- The module is switched off and on: everything is as at power-on but the images an UPDATE has stored (R454). What the
model counts goes on. -/
def State.repower (s : State) : State :=
  { State.reset with
    mgmt := { Mgmt.reset with images := s.mgmt.images }
    entryPc := s.entryPc
    agenda := s.agenda
    turn := s.turn
    fresh := s.fresh
    nextId := s.nextId }

/-- The step in progress has exceeded its limit (R444): step 7, when a compute die has not come up 1 ms after its turn
began. Before it no device time runs, and steps 5 and 6 have no limit. -/
def State.overLimit (s : State) (step : Nat) : Bool :=
  if step = 7 then decide (6 ≤ s.mgmt.step) && match s.mgmt.rising with
    | (_, t) :: _ => decide (t.toNat + 1000000 < (s.die 0).time.toNat)
    | [] => false
  else decide (step = s.mgmt.step + 1 ∧ step ≤ 4)

/-- A step of bring-up ends, `ok` when it has met its ends; the next then starts (R444). -/
def State.powerStep (s : State) (ok : Bool) : State :=
  if s.mgmt.failed then s
  else if 6 ≤ s.mgmt.step then
    if s.mgmt.rising.isEmpty then s else if ok && !s.overLimit 7 then s.raiseDie else s.stopBringup
  else if ok then s.endStep else s.stopBringup

/-- POWER_ON (R444, R454): the step of bring-up in progress ends, the module is switched on again, or the management
controller restarts a halted control core (R155), once the cores run (step 6 of R444). -/
def execPowerOn (act : PowerAct) (s : State) : Out :=
  match act with
  | .step ok => .next (s.powerStep ok)
  | .module => .next s.repower
  | .core n => if n < 32 ∧ 6 ≤ s.mgmt.step then .next (s.restartCore n) else .next s

/-- BRINGUP_TIMEOUT (R444): the step in progress exceeds its limit, and bring-up stops there. -/
def execBringupTimeout (step : Nat) (s : State) : Out :=
  if !s.mgmt.failed && s.overLimit step then .next s.stopBringup else .next s

/-! ## Environment (R3, R446 to R449) -/

/-- DROOP_TRIP (R447): a cluster's clock is stretched; only rates change (R2). The moment is kept. -/
def execDroopTrip (die cluster : Nat) (s : State) : Out :=
  .next (s.modMgmt fun m => { m with droop := assocPut m.droop (die * 16 + cluster) (s.die die).time.toNat })

/-- THERMAL_TRIP (R448): a compute die's clusters stop issuing, and THERMAL-TRIP is posted. -/
def execThermalTrip (die : Nat) (s : State) : Out :=
  if die < 4 ∧ (s.die die).held = false then
    .next ((s.modDie die fun x => { x with held := true }).postHardware 47 0 0 none)
  else .next s

/-- THERMAL_RESUME (R448): issue resumes. -/
def execThermalResume (die : Nat) (s : State) : Out := .next (s.modDie die fun x => { x with held := false })

/-- THROTTLING (R3, R446, R448): a share is throttled, or no longer: its clocks are lowered, or, with `hold`, its issue is
held as by a thermal trip, which is so once POWER-LIMIT has been posted for it (R448). No result changes. The moment the
throttling began is kept. -/
def execThrottling (consumer : Consumer) (throttle : Throttle) (s : State) : Out :=
  .next (s.modMgmt fun m =>
    if throttle.on then
      if m.throttling.any fun t => t.1 == consumer then
        { m with throttling := mapIf m.throttling (fun t => t.1 == consumer) fun t => (t.1, t.2.1, throttle.hold || t.2.2.2, t.2.2.2) }
      else { m with throttling := m.throttling ++ [(consumer, (s.die 0).time, throttle.hold, false)] }
    else { m with throttling := m.throttling.filter fun t => t.1 != consumer })

/-- POWER_LIMIT (R443, R448): a share that has throttled for 1 ms without pause posts POWER-LIMIT, once, and its issue is held
while it throttles. -/
def execPowerLimit (consumer : Consumer) (s : State) : Out :=
  let due (t : Consumer × Word × Bool × Bool) : Bool :=
    t.1 == consumer && !t.2.2.2 && decide (t.2.1.toNat + 1000000 ≤ (s.die 0).time.toNat)
  if s.mgmt.throttling.any due then
    .next ((s.modMgmt fun m =>
      { m with throttling := mapIf m.throttling due fun t => (t.1, t.2.1, true, true) }).postHardware 48 0 0 none)
  else .next s

/-- CHANNEL_RETRAINING (R449): a channel becomes due by temperature, starts to retrain, or has retrained. Once it has
started, what needs the channel waits; no result changes. -/
def execChannelRetraining (r : Retraining) (s : State) : Out :=
  let now := (s.die 0).time
  match r.phase with
  | .drift =>
    if (assocFind s.mgmt.due r.channel).isSome || s.trains r.channel then .next s
    else .next (s.modMgmt fun m => { m with due := m.due ++ [(r.channel, now)] })
  | .start =>
    if s.mayTrain r.channel then
      .next (s.modMgmt fun m => { m with due := assocDrop m.due r.channel, training := m.training ++ [(r.channel, now)] })
    else .next s
  | .finish =>
    match s.mgmt.training.find? fun t => t.1 == r.channel with
    | some t => .next (s.modMgmt fun m => m.endTraining t now)
    | none => .next s

/-- CXL_ERROR (R443): CXL-ERROR is posted, its EADDR the address the device reported, which no rule states (DESIGN CHOICE, log
entry 107). -/
def execCxlError (addr : BitVec 64) (s : State) : Out := .next (s.postHardware 53 0 0 (some addr))

/-! ## The side-band port (R452 to R454) -/

/-- DYNAMIC_ADDRESS_ASSIGNMENT (R452). -/
def execDynamicAddressAssignment (addr : BitVec 7) (s : State) : Out :=
  .next (s.modMgmt fun m => { m with address := some addr })

/-- MCTP_CONTROL (R452): the port answers as the MCTP standard says. -/
def execMctpControl (msg : List (BitVec 8)) (s : State) : Out := .next (s.reply (.mctp (Config.mctpReply msg)))

/-- STATUS (R453): rails, bring-up step, die states, temperatures and module power; what the sensors read is free. -/
def execStatus (s : State) : Out :=
  let (n, s1) := s.takeFree
  let m := s.mgmt
  let step := if m.failed then Nat.min 7 (m.step + 1) else m.step
  .next (s1.reply (.status m.rails step m.failed ((List.range 4).map s.dieUp) (Config.sensors n)))

/-- The bytes that MEASURE signs: the log and the nonce (R451). -/
def measuredBytes (log : List Measurement) (nonce : BitVec 256) : List Byte :=
  (log.flatMap fun m => digestBytes m.digest ++ [BitVec.ofNat 8 m.die] ++
    (List.range 8).map fun k => m.time.extractLsb' (8 * k) 8) ++
    (List.range 32).map fun k => nonce.extractLsb' (8 * k) 8

/-- MEASURE (R451): the measurement log and the requester's 32-byte nonce, signed. -/
def execMeasure (nonce : BitVec 256) (s : State) : Out :=
  let log := s.mgmt.log
  .next (s.reply (.measured log nonce (Config.mldsaSign (measuredBytes log nonce))))

/-- NOTICE (R453): PREEMPT-NOTICE is posted for a die with its deadline; BUSY until the die is up. -/
def execNotice (die : Nat) (deadline : BitVec 64) (s : State) : Out :=
  if s.dieUp die then
    .next ((((s.modMgmt fun m => { m with notices := m.notices ++ [(die, deadline)] }).postHardware 49 0 0
      (some deadline))).reply .done)
  else .next (s.reply .busy)

/-- CAP (R453): the module limit is lowered; the shares of R3 scale with it, which changes rates only. -/
def execCap (watts : Nat) (s : State) : Out :=
  .next ((if 800 ≤ watts ∧ watts ≤ 1600 then s.modMgmt fun m => { m with limit := watts } else s).reply .done)

/-- UNSUPPORTED (R453): a code outside the table of R453 is answered UNSUPPORTED and has no other effect. -/
def execUnsupported (code : BitVec 8) (s : State) : Out :=
  if 1 ≤ code.toNat ∧ code.toNat ≤ 5 then .next s else .next (s.reply .unsupported)

/-- A die's stack holds an address (R11). -/
def inStack (d a : Nat) : Bool := decide (a < 2 ^ 38) && a / 2 ^ 21 % 4 == d

/-- A die's stack holds a line: at its address, or where its window stores it (R326). -/
def State.lineInStack (s : State) (d la : Nat) : Bool :=
  match (if rangeOf la = 4 then s.governing la else none) with
  | some n => inStack d ((s.range n).storage la).1
  | none => inStack d la

/-- Step 2 of R419: every line of the stack's memory is zero with a valid CRC. -/
def State.zeroStack (s : State) (d : Nat) : State :=
  s.modMem fun m =>
    { m with arrays := m.arrays.filter fun c => !inStack d c.1, bad := m.bad.filter fun b => !s.lineInStack d b.1 }

/-- Step 3 of R419: sync registers, mirrors and filters of the die start empty or zero. -/
def State.zeroDie (s : State) (d : Nat) : State :=
  { s with
    syncHome := s.syncHome.filter fun p => syncDie p.1 != d
    syncMirror := s.syncMirror.filter fun p => p.1 / 16384 != d && syncDie (p.1 % 16384) != d
    regUpdates := s.regUpdates.filter fun p => syncDie p.1 != d
    net := { s.net with filter := s.net.filter.filter fun f => destDie f.dest != d } }

/-- The neighbour whose time a rejoining die takes. -/
def State.neighbour (s : State) (d : Nat) : Nat := if s.inService ((d + 1) % 4) then (d + 1) % 4 else (d + 3) % 4

/-- Step 5 of R419: the die's modules train, and its pairs are no longer lost. -/
def State.trainDie (s : State) (d : Nat) : State :=
  { s with
    links := s.links.filter fun l => hopStart (linkPair l.1) != d && hopEnd (linkPair l.1) != d
    lost := s.lost.filter fun p => p != d && p != (d + 3) % 4 }

/-- Step 2 of R419 retrains the channels of the stack: none is due, and the 30 minutes of each run from now (R449). -/
def State.retrainStack (s : State) (d : Nat) : State :=
  let elsewhere (l : List (Nat × Word)) : List (Nat × Word) := l.filter fun p => channelStack p.1 != d
  s.modMgmt fun m =>
    { m with
      due := elsewhere m.due
      training := elsewhere m.training
      retrained := elsewhere m.retrained ++ (stackChannels d).map fun c => (c, (s.die 0).time) }

/-- A resigned die rejoins (R419): its slices, directories and buffers start empty. The range registers are held alike by every
die (R322), so step 4 copies nothing. -/
def State.rejoinDie (s : State) (d : Nat) (image : List Byte) : State :=
  let now := (s.die (s.neighbour d)).time
  let s1 := ((((s.measureImage d image).retrainStack d).dropDie d).zeroStack d).zeroDie d
  ((s1.trainDie d).modDie d fun x =>
    { x with resigned := false, time := now, slew := 0, slewLeft := 0 }).rerouteAll

/-- Every die but one is up and in service (R454). -/
def State.othersUp (s : State) (d : Nat) : Bool := (List.range 4).all fun x => x == d || s.dieUp x

/-- An update that waits is taken once no notice for its die runs and no channel of the die retrains (R453, R454): the die
resigns and rejoins with the image, or BUSY is answered if another die has gone out of service meanwhile. -/
def State.takeUpdate (s : State) (u : Nat × List Byte) : State :=
  if s.noticeRuns u.1 || s.stackTrains u.1 then s
  else
    let s1 := s.modMgmt fun m => { m with updates := m.updates.filter fun x => x != u }
    if s1.othersUp u.1 then
      let s2 := if s1.inService u.1 then s1.resign u.1 else s1
      let s3 := s2.modMgmt fun m => { m with notices := m.notices.filter fun n => n.1 != u.1 }
      (s3.rejoinDie u.1 u.2).reply .done
    else s1.reply .busy

/-- The updates that wait are taken. -/
def State.takeUpdates (s : State) : State := s.mgmt.updates.foldl State.takeUpdate s

/-- UPDATE (R453, R454): refused with BUSY while another die is out of service or when the image fails R450. The
controller's own image is measured and waits for the next power-on; a die resigns at its notice deadline, or at once,
and rejoins with the image. -/
def execUpdate (die : Nat) (image : List (BitVec 8)) (s : State) : Out :=
  if !decide (die < 4) || !s.othersUp die || !imageOk image then .next (s.reply .busy)
  else if imageTarget image = 0 then
    .next (((s.measureImage 0 image).modMgmt fun m => { m with images := assocPut m.images 0 image }).reply .done)
  else .next ((s.modMgmt fun m => { m with updates := m.updates ++ [(die, image)] }).takeUpdate (die, image))

end Sys2Proof.Machine
end

