-- ==== Sys2Proof/Machine/Scalar.lean ====
section
/-! DEFINITION. Scalar integer instructions (R93, R156 to R161): each is one operation on 64-bit operands, and writes
gd and goes on by R58. -/

namespace Sys2Proof.Machine

/-- An instruction of the ALU and bit groups: gd := the operation of ga and gb (R156, R160). -/
def aluRG (i : Instr) (f : FRG) (op : Word → Word → Word) (s : State) : Out :=
  checked i s fun s => .next (s.put f.gd (op (s.g f.ga) (s.g f.gb)))

/-- A division: a zero divisor raises INT-DIVIDE-ZERO (R93). -/
def divRG (i : Instr) (f : FRG) (op : Word → Word → Word) (s : State) : Out :=
  checked i s fun s =>
    if s.g f.gb = 0 then .next (s.raise 42 0) else .next (s.put f.gd (op (s.g f.ga) (s.g f.gb)))

/-- An immediate operation: gd := the operation of ga and the sign-extended immediate (R157). -/
def aluIM (i : Instr) (f : FIM) (op : Word → Word → Word) (s : State) : Out :=
  checked i s fun s => .next (s.put (hReg f.h) (op (s.g f.ga) (f.imm.signExtend 64)))

/-- One bit as a word. -/
def boolWord (b : Bool) : Word := if b then 1 else 0

/-- The low six bits of a shift count (R156). -/
def shiftCount (b : Word) : Nat := (b.extractLsb' 0 6).toNat

/-- Bits 127:64 of the exact product of two signed words (R156). -/
def mulHigh (a b : Word) : Word := ((a.signExtend 128 * b.signExtend 128).extractLsb' 64 64)

/-- Bits 127:64 of the exact product of two unsigned words (R156). -/
def mulHighN (a b : Word) : Word := ((a.setWidth 128 * b.setWidth 128).extractLsb' 64 64)

/-- The signed quotient, truncated toward zero; −2^63 by −1 gives −2^63 (R93). -/
def quot (a b : Word) : Word := BitVec.ofInt 64 (Int.tdiv a.toInt b.toInt)

/-- The signed remainder, with the sign of the dividend; −2^63 by −1 gives 0 (R93). -/
def remainder (a b : Word) : Word := BitVec.ofInt 64 (Int.tmod a.toInt b.toInt)

/-- Leading zero bits of a word; 64 for 0 (R160). -/
def leadingZeros (a : Word) : Word := BitVec.ofNat 64 (if a = 0 then 64 else 63 - a.toNat.log2)

/-- Trailing zero bits of a word; 64 for 0 (R160). -/
def trailingZeros (a : Word) : Word :=
  BitVec.ofNat 64 (((List.range 64).find? fun k => a.getLsbD k).getD 64)

/-- One bits of a word (R160). -/
def oneBits (a : Word) : Word :=
  BitVec.ofNat 64 ((List.range 64).foldl (fun n k => if a.getLsbD k then n + 1 else n) 0)

/-- ADD (R156). -/
def execAdd (f : FRG) (s : State) : Out := aluRG (.add f) f (fun a b => a + b) s

/-- SUB (R156). -/
def execSub (f : FRG) (s : State) : Out := aluRG (.sub f) f (fun a b => a - b) s

/-- AND (R156). -/
def execAnd (f : FRG) (s : State) : Out := aluRG (.and f) f (fun a b => a &&& b) s

/-- OR (R156). -/
def execOr (f : FRG) (s : State) : Out := aluRG (.or f) f (fun a b => a ||| b) s

/-- XOR (R156). -/
def execXor (f : FRG) (s : State) : Out := aluRG (.xor f) f (fun a b => a ^^^ b) s

/-- SHL (R156). -/
def execShl (f : FRG) (s : State) : Out := aluRG (.shl f) f (fun a b => a <<< shiftCount b) s

/-- SHR (R156). -/
def execShr (f : FRG) (s : State) : Out := aluRG (.shr f) f (fun a b => a >>> shiftCount b) s

/-- SRA (R156). -/
def execSra (f : FRG) (s : State) : Out := aluRG (.sra f) f (fun a b => a.sshiftRight (shiftCount b)) s

/-- MUL (R156). -/
def execMul (f : FRG) (s : State) : Out := aluRG (.mul f) f (fun a b => a * b) s

/-- MULH (R156). -/
def execMulh (f : FRG) (s : State) : Out := aluRG (.mulh f) f (fun a b => mulHigh a b) s

/-- MULHN (R156). -/
def execMulhn (f : FRG) (s : State) : Out := aluRG (.mulhn f) f (fun a b => mulHighN a b) s

/-- DIV (R93, R156). -/
def execDiv (f : FRG) (s : State) : Out := divRG (.div f) f (fun a b => quot a b) s

/-- DIVN (R93, R156). -/
def execDivn (f : FRG) (s : State) : Out := divRG (.divn f) f (fun a b => a / b) s

/-- REM (R93, R156). -/
def execRem (f : FRG) (s : State) : Out := divRG (.rem f) f (fun a b => remainder a b) s

/-- REMN (R93, R156). -/
def execRemn (f : FRG) (s : State) : Out := divRG (.remn f) f (fun a b => a % b) s

/-- MIN (R156). -/
def execMin (f : FRG) (s : State) : Out := aluRG (.min f) f (fun a b => if b.slt a then b else a) s

/-- MAX (R156). -/
def execMax (f : FRG) (s : State) : Out := aluRG (.max f) f (fun a b => if a.slt b then b else a) s

/-- MINN (R156). -/
def execMinn (f : FRG) (s : State) : Out := aluRG (.minn f) f (fun a b => if b.ult a then b else a) s

/-- MAXN (R156). -/
def execMaxn (f : FRG) (s : State) : Out := aluRG (.maxn f) f (fun a b => if a.ult b then b else a) s

/-- SLT (R156). -/
def execSlt (f : FRG) (s : State) : Out := aluRG (.slt f) f (fun a b => boolWord (a.slt b)) s

/-- SLTN (R156). -/
def execSltn (f : FRG) (s : State) : Out := aluRG (.sltn f) f (fun a b => boolWord (a.ult b)) s

/-- ADDI (R157). -/
def execAddi (f : FIM) (s : State) : Out := aluIM (.addi f) f (fun a b => a + b) s

/-- ANDI (R157). -/
def execAndi (f : FIM) (s : State) : Out := aluIM (.andi f) f (fun a b => a &&& b) s

/-- ORI (R157). -/
def execOri (f : FIM) (s : State) : Out := aluIM (.ori f) f (fun a b => a ||| b) s

/-- XORI (R157). -/
def execXori (f : FIM) (s : State) : Out := aluIM (.xori f) f (fun a b => a ^^^ b) s

/-- SHLI (R157). -/
def execShli (f : FIM) (s : State) : Out := aluIM (.shli f) f (fun a b => a <<< shiftCount b) s

/-- SHRI (R157). -/
def execShri (f : FIM) (s : State) : Out := aluIM (.shri f) f (fun a b => a >>> shiftCount b) s

/-- SRAI (R157). -/
def execSrai (f : FIM) (s : State) : Out := aluIM (.srai f) f (fun a b => a.sshiftRight (shiftCount b)) s

/-- SLTI (R157). -/
def execSlti (f : FIM) (s : State) : Out := aluIM (.slti f) f (fun a b => boolWord (a.slt b)) s

/-- SLTNI (R157). -/
def execSltni (f : FIM) (s : State) : Out := aluIM (.sltni f) f (fun a b => boolWord (a.ult b)) s

/-- CLZ (R160). -/
def execClz (f : FRG) (s : State) : Out := aluRG (.clz f) f (fun a _ => leadingZeros a) s

/-- CTZ (R160). -/
def execCtz (f : FRG) (s : State) : Out := aluRG (.ctz f) f (fun a _ => trailingZeros a) s

/-- POPC (R160). -/
def execPopc (f : FRG) (s : State) : Out := aluRG (.popc f) f (fun a _ => oneBits a) s

/-- SEXT.8 (R160). -/
def execSext8 (f : FRG) (s : State) : Out := aluRG (.sext8 f) f (fun a _ => (a.extractLsb' 0 8).signExtend 64) s

/-- SEXT.16 (R160). -/
def execSext16 (f : FRG) (s : State) : Out := aluRG (.sext16 f) f (fun a _ => (a.extractLsb' 0 16).signExtend 64) s

/-- SEXT.32 (R160). -/
def execSext32 (f : FRG) (s : State) : Out := aluRG (.sext32 f) f (fun a _ => (a.extractLsb' 0 32).signExtend 64) s

/-- ZEXT.8 (R160). -/
def execZext8 (f : FRG) (s : State) : Out := aluRG (.zext8 f) f (fun a _ => (a.extractLsb' 0 8).setWidth 64) s

/-- ZEXT.16 (R160). -/
def execZext16 (f : FRG) (s : State) : Out := aluRG (.zext16 f) f (fun a _ => (a.extractLsb' 0 16).setWidth 64) s

/-- ZEXT.32 (R160). -/
def execZext32 (f : FRG) (s : State) : Out := aluRG (.zext32 f) f (fun a _ => (a.extractLsb' 0 32).setWidth 64) s

/-- LI (R158): the 48-bit immediate, sign-extended. -/
def execLi (f : FWI) (s : State) : Out := checked (.li f) s fun s => .next (s.put (hReg f.h) (f.imm.signExtend 64))

/-- LIH (R158): bits 63:48 from the constant, the rest kept. -/
def execLih (f : FKS) (s : State) : Out :=
  checked (.lih f) s fun s => .next (s.put (hReg f.h) (f.imm ++ (s.g (hReg f.h)).extractLsb' 0 48))

/-- LEA (R159): ga + gb · scale + imm18. -/
def execLea (f : FLEA) (s : State) : Out :=
  checked (.lea f) s fun s =>
    .next (s.put (hReg f.h) (s.g f.ga + (s.g f.gb <<< f.scale.toNat) + f.imm.signExtend 64))

/-- SEL (R161): ga if gc is not zero, else gb. -/
def execSel (f : FTR) (s : State) : Out :=
  checked (.sel f) s fun s => .next (s.put (hReg f.h) (if s.g f.gc ≠ 0 then s.g f.ga else s.g f.gb))

end Sys2Proof.Machine
end

