-- ==== Sys2Proof/Machine/Dispatch.lean ====
section
/-! DEFINITION. One arm per row of the opcode table: each is one call of that row's meaning. -/

namespace Sys2Proof.Machine

/-- What an instruction or an event does to the machine. -/
def exec (i : Instr) (s : State) : Host.Outcome State Fault Refusal :=
  match i with
  | .nop f => Sys2Proof.Machine.execNop f s
  | .br f => Sys2Proof.Machine.execBr f s
  | .bcc c f => Sys2Proof.Machine.execBcc c f s
  | .jal f => Sys2Proof.Machine.execJal f s
  | .jr f => Sys2Proof.Machine.execJr f s
  | .loop f => Sys2Proof.Machine.execLoop f s
  | .endl f => Sys2Proof.Machine.execEndl f s
  | .lidx f => Sys2Proof.Machine.execLidx f s
  | .trap f => Sys2Proof.Machine.execTrap f s
  | .eret f => Sys2Proof.Machine.execEret f s
  | .eretK f => Sys2Proof.Machine.execEretK f s
  | .halt f => Sys2Proof.Machine.execHalt f s
  | .srd f => Sys2Proof.Machine.execSrd f s
  | .swr f => Sys2Proof.Machine.execSwr f s
  | .xfWrite f => Sys2Proof.Machine.execXfWrite f s
  | .kpost f => Sys2Proof.Machine.execKpost f s
  | .ccrun f => Sys2Proof.Machine.execCcrun f s
  | .cctl f => Sys2Proof.Machine.execCctl f s
  | .rangeRegisterWrite f => Sys2Proof.Machine.execRangeRegisterWrite f s
  | .cdloss f => Sys2Proof.Machine.execCdloss f s
  | .cdrel f => Sys2Proof.Machine.execCdrel f s
  | .fence f => Sys2Proof.Machine.execFence f s
  | .waitt f => Sys2Proof.Machine.execWaitt f s
  | .waittExpiry q => Sys2Proof.Machine.execWaittExpiry q s
  | .waitm f => Sys2Proof.Machine.execWaitm f s
  | .waitmWake q => Sys2Proof.Machine.execWaitmWake q s
  | .waitmDeadline q => Sys2Proof.Machine.execWaitmDeadline q s
  | .add f => Sys2Proof.Machine.execAdd f s
  | .sub f => Sys2Proof.Machine.execSub f s
  | .and f => Sys2Proof.Machine.execAnd f s
  | .or f => Sys2Proof.Machine.execOr f s
  | .xor f => Sys2Proof.Machine.execXor f s
  | .shl f => Sys2Proof.Machine.execShl f s
  | .shr f => Sys2Proof.Machine.execShr f s
  | .sra f => Sys2Proof.Machine.execSra f s
  | .mul f => Sys2Proof.Machine.execMul f s
  | .mulh f => Sys2Proof.Machine.execMulh f s
  | .mulhn f => Sys2Proof.Machine.execMulhn f s
  | .div f => Sys2Proof.Machine.execDiv f s
  | .divn f => Sys2Proof.Machine.execDivn f s
  | .rem f => Sys2Proof.Machine.execRem f s
  | .remn f => Sys2Proof.Machine.execRemn f s
  | .min f => Sys2Proof.Machine.execMin f s
  | .max f => Sys2Proof.Machine.execMax f s
  | .minn f => Sys2Proof.Machine.execMinn f s
  | .maxn f => Sys2Proof.Machine.execMaxn f s
  | .slt f => Sys2Proof.Machine.execSlt f s
  | .sltn f => Sys2Proof.Machine.execSltn f s
  | .addi f => Sys2Proof.Machine.execAddi f s
  | .andi f => Sys2Proof.Machine.execAndi f s
  | .ori f => Sys2Proof.Machine.execOri f s
  | .xori f => Sys2Proof.Machine.execXori f s
  | .shli f => Sys2Proof.Machine.execShli f s
  | .shri f => Sys2Proof.Machine.execShri f s
  | .srai f => Sys2Proof.Machine.execSrai f s
  | .slti f => Sys2Proof.Machine.execSlti f s
  | .sltni f => Sys2Proof.Machine.execSltni f s
  | .li f => Sys2Proof.Machine.execLi f s
  | .lih f => Sys2Proof.Machine.execLih f s
  | .lea f => Sys2Proof.Machine.execLea f s
  | .clz f => Sys2Proof.Machine.execClz f s
  | .ctz f => Sys2Proof.Machine.execCtz f s
  | .popc f => Sys2Proof.Machine.execPopc f s
  | .sext8 f => Sys2Proof.Machine.execSext8 f s
  | .sext16 f => Sys2Proof.Machine.execSext16 f s
  | .sext32 f => Sys2Proof.Machine.execSext32 f s
  | .zext8 f => Sys2Proof.Machine.execZext8 f s
  | .zext16 f => Sys2Proof.Machine.execZext16 f s
  | .zext32 f => Sys2Proof.Machine.execZext32 f s
  | .sel f => Sys2Proof.Machine.execSel f s
  | .ld f => Sys2Proof.Machine.execLd f s
  | .st f => Sys2Proof.Machine.execSt f s
  | .amo op f => Sys2Proof.Machine.execAmo op f s
  | .cas f => Sys2Proof.Machine.execCas f s
  | .red op f => Sys2Proof.Machine.execRed op f s
  | .pref f => Sys2Proof.Machine.execPref f s
  | .srts f => Sys2Proof.Machine.execSrts f s
  | .srfa f => Sys2Proof.Machine.execSrfa f s
  | .srrd f => Sys2Proof.Machine.execSrrd f s
  | .srrdHome f => Sys2Proof.Machine.execSrrdHome f s
  | .srwr f => Sys2Proof.Machine.execSrwr f s
  | .syncRegisterUpdate m => Sys2Proof.Machine.execSyncRegisterUpdate m s
  | .mirrorUpdate m => Sys2Proof.Machine.execMirrorUpdate m s
  | .forkMx f => Sys2Proof.Machine.execForkMx f s
  | .forkCe f => Sys2Proof.Machine.execForkCe f s
  | .rdv f => Sys2Proof.Machine.execRdv f s
  | .rdvWake q => Sys2Proof.Machine.execRdvWake q s
  | .endProg f => Sys2Proof.Machine.execEndProg f s
  | .qpop f => Sys2Proof.Machine.execQpop f s
  | .qpopWake q => Sys2Proof.Machine.execQpopWake q s
  | .qpush f => Sys2Proof.Machine.execQpush f s
  | .qpushWake q => Sys2Proof.Machine.execQpushWake q s
  | .twait f => Sys2Proof.Machine.execTwait f s
  | .twaitWake q => Sys2Proof.Machine.execTwaitWake q s
  | .tread f => Sys2Proof.Machine.execTread f s
  | .bar f => Sys2Proof.Machine.execBar f s
  | .launch f => Sys2Proof.Machine.execLaunch f s
  | .preempt f => Sys2Proof.Machine.execPreempt f s
  | .resume f => Sys2Proof.Machine.execResume f s
  | .restore w => Sys2Proof.Machine.execRestore w s
  | .abort f => Sys2Proof.Machine.execAbort f s
  | .tlbinvPage f => Sys2Proof.Machine.execTlbinvPage f s
  | .tlbinvCtx f => Sys2Proof.Machine.execTlbinvCtx f s
  | .tlbinvAll f => Sys2Proof.Machine.execTlbinvAll f s
  | .ctxsv f => Sys2Proof.Machine.execCtxsv f s
  | .ctxld f => Sys2Proof.Machine.execCtxld f s
  | .ctxsvV f => Sys2Proof.Machine.execCtxsvV f s
  | .ctxldV f => Sys2Proof.Machine.execCtxldV f s
  | .ctxsvVK f => Sys2Proof.Machine.execCtxsvVK f s
  | .ctxldVK f => Sys2Proof.Machine.execCtxldVK f s
  | .settle f => Sys2Proof.Machine.execSettle f s
  | .settlePoint sweep line => Sys2Proof.Machine.execSettlePoint sweep line s
  | .settleCompletion sweep => Sys2Proof.Machine.execSettleCompletion sweep s
  | .renew f => Sys2Proof.Machine.execRenew f s
  | .renewPoint sweep line => Sys2Proof.Machine.execRenewPoint sweep line s
  | .renewCompletion sweep => Sys2Proof.Machine.execRenewCompletion sweep s
  | .rgset f => Sys2Proof.Machine.execRgset f s
  | .rgrd f => Sys2Proof.Machine.execRgrd f s
  | .nbgo f => Sys2Proof.Machine.execNbgo f s
  | .nbgoSg f => Sys2Proof.Machine.execNbgoSg f s
  | .nbpart f => Sys2Proof.Machine.execNbpart f s
  | .vsetl f => Sys2Proof.Machine.execVsetl f s
  | .vdecl f => Sys2Proof.Machine.execVdecl f s
  | .qset f => Sys2Proof.Machine.execQset f s
  | .qadv f => Sys2Proof.Machine.execQadv f s
  | .walkAhead w q slot => Sys2Proof.Machine.execWalkAhead w q slot s
  | .vld f => Sys2Proof.Machine.execVld f s
  | .vst f => Sys2Proof.Machine.execVst f s
  | .vgath f => Sys2Proof.Machine.execVgath f s
  | .vscat f => Sys2Proof.Machine.execVscat f s
  | .vldl f => Sys2Proof.Machine.execVldl f s
  | .vstc f => Sys2Proof.Machine.execVstc f s
  | .vamo op f => Sys2Proof.Machine.execVamo op f s
  | .vwait c f => Sys2Proof.Machine.execVwait c f s
  | .vwaitWake w => Sys2Proof.Machine.execVwaitWake w s
  | .vfence f => Sys2Proof.Machine.execVfence f s
  | .vred op f => Sys2Proof.Machine.execVred op f s
  | .vacc f => Sys2Proof.Machine.execVacc f s
  | .vget f => Sys2Proof.Machine.execVget f s
  | .vput f => Sys2Proof.Machine.execVput f s
  | .vbcast f => Sys2Proof.Machine.execVbcast f s
  | .vadd f => Sys2Proof.Machine.execVadd f s
  | .vsub f => Sys2Proof.Machine.execVsub f s
  | .vmul f => Sys2Proof.Machine.execVmul f s
  | .vmulh f => Sys2Proof.Machine.execVmulh f s
  | .vand f => Sys2Proof.Machine.execVand f s
  | .vor f => Sys2Proof.Machine.execVor f s
  | .vxor f => Sys2Proof.Machine.execVxor f s
  | .vshl f => Sys2Proof.Machine.execVshl f s
  | .vshr f => Sys2Proof.Machine.execVshr f s
  | .vsra f => Sys2Proof.Machine.execVsra f s
  | .vmin f => Sys2Proof.Machine.execVmin f s
  | .vmax f => Sys2Proof.Machine.execVmax f s
  | .vabs f => Sys2Proof.Machine.execVabs f s
  | .vsadd f => Sys2Proof.Machine.execVsadd f s
  | .vssub f => Sys2Proof.Machine.execVssub f s
  | .vmac f => Sys2Proof.Machine.execVmac f s
  | .vpmac f => Sys2Proof.Machine.execVpmac f s
  | .vsrar f => Sys2Proof.Machine.execVsrar f s
  | .vcmp c f => Sys2Proof.Machine.execVcmp c f s
  | .vmerge f => Sys2Proof.Machine.execVmerge f s
  | .mand f => Sys2Proof.Machine.execMand f s
  | .mor f => Sys2Proof.Machine.execMor f s
  | .mxor f => Sys2Proof.Machine.execMxor f s
  | .mnot f => Sys2Proof.Machine.execMnot f s
  | .mpop f => Sys2Proof.Machine.execMpop f s
  | .mfirst f => Sys2Proof.Machine.execMfirst f s
  | .mset f => Sys2Proof.Machine.execMset f s
  | .viota f => Sys2Proof.Machine.execViota f s
  | .vicvt src f => Sys2Proof.Machine.execVicvt src f s
  | .vfadd f => Sys2Proof.Machine.execVfadd f s
  | .vfsub f => Sys2Proof.Machine.execVfsub f s
  | .vfmul f => Sys2Proof.Machine.execVfmul f s
  | .vfdiv f => Sys2Proof.Machine.execVfdiv f s
  | .vfsqrt f => Sys2Proof.Machine.execVfsqrt f s
  | .vfmin f => Sys2Proof.Machine.execVfmin f s
  | .vfmax f => Sys2Proof.Machine.execVfmax f s
  | .vfabs f => Sys2Proof.Machine.execVfabs f s
  | .vfneg f => Sys2Proof.Machine.execVfneg f s
  | .vfma f => Sys2Proof.Machine.execVfma f s
  | .vfms f => Sys2Proof.Machine.execVfms f s
  | .vfnma f => Sys2Proof.Machine.execVfnma f s
  | .vfnms f => Sys2Proof.Machine.execVfnms f s
  | .vfcmp c f => Sys2Proof.Machine.execVfcmp c f s
  | .vfclass f => Sys2Proof.Machine.execVfclass f s
  | .vfcvt src f => Sys2Proof.Machine.execVfcvt src f s
  | .vlgmul f => Sys2Proof.Machine.execVlgmul f s
  | .vlgdot f => Sys2Proof.Machine.execVlgdot f s
  | .vslideup f => Sys2Proof.Machine.execVslideup f s
  | .vslidedn f => Sys2Proof.Machine.execVslidedn f s
  | .vperm f => Sys2Proof.Machine.execVperm f s
  | .vtlu f => Sys2Proof.Machine.execVtlu f s
  | .vcomp f => Sys2Proof.Machine.execVcomp f s
  | .vexp f => Sys2Proof.Machine.execVexp f s
  | .vbfx f => Sys2Proof.Machine.execVbfx f s
  | .vreds op f => Sys2Proof.Machine.execVreds op f s
  | .vdot f => Sys2Proof.Machine.execVdot f s
  | .mopenLoad f => Sys2Proof.Machine.execMopenLoad f s
  | .mopenZero f => Sys2Proof.Machine.execMopenZero f s
  | .windowPin cmd line => Sys2Proof.Machine.execWindowPin cmd line s
  | .mclose f => Sys2Proof.Machine.execMclose f s
  | .mcloseCompletion cmd => Sys2Proof.Machine.execMcloseCompletion cmd s
  | .mzero f => Sys2Proof.Machine.execMzero f s
  | .mpred f => Sys2Proof.Machine.execMpred f s
  | .mfmt f => Sys2Proof.Machine.execMfmt f s
  | .mmas f => Sys2Proof.Machine.execMmas f s
  | .mmaf f => Sys2Proof.Machine.execMmaf f s
  | .mxCommandStart cluster => Sys2Proof.Machine.execMxCommandStart cluster s
  | .partialApplication m ue => Sys2Proof.Machine.execPartialApplication m ue s
  | .cpy f => Sys2Proof.Machine.execCpy f s
  | .cpy2d f => Sys2Proof.Machine.execCpy2d f s
  | .cpyMig f => Sys2Proof.Machine.execCpyMig f s
  | .cpym f => Sys2Proof.Machine.execCpym f s
  | .cpym2d f => Sys2Proof.Machine.execCpym2d f s
  | .wsigNum f => Sys2Proof.Machine.execWsigNum f s
  | .wsigAdd f => Sys2Proof.Machine.execWsigAdd f s
  | .cfill f => Sys2Proof.Machine.execCfill f s
  | .chunk cluster ue => Sys2Proof.Machine.execChunk cluster ue s
  | .signal q => Sys2Proof.Machine.execSignal q s
  | .followOn q => Sys2Proof.Machine.execFollowOn q s
  | .landing k => Sys2Proof.Machine.execLanding k s
  | .vectorDispatch w lane => Sys2Proof.Machine.execVectorDispatch w lane s
  | .trapEntry w => Sys2Proof.Machine.execTrapEntry w s
  | .kernelTrapEntry cc => Sys2Proof.Machine.execKernelTrapEntry cc s
  | .release w => Sys2Proof.Machine.execRelease w s
  | .workerSwitch vc => Sys2Proof.Machine.execWorkerSwitch vc s
  | .eligibility ctx slot => Sys2Proof.Machine.execEligibility ctx slot s
  | .admissionChecks die => Sys2Proof.Machine.execAdmissionChecks die s
  | .admission die => Sys2Proof.Machine.execAdmission die s
  | .workerCreation ctx slot => Sys2Proof.Machine.execWorkerCreation ctx slot s
  | .launchEnd ctx slot => Sys2Proof.Machine.execLaunchEnd ctx slot s
  | .watchdog ctx slot => Sys2Proof.Machine.execWatchdog ctx slot s
  | .homeSliceAccess m ue => Sys2Proof.Machine.execHomeSliceAccess m ue s
  | .stage m combine => Sys2Proof.Machine.execStage m combine s
  | .check m => Sys2Proof.Machine.execCheck m s
  | .publish m ue => Sys2Proof.Machine.execPublish m ue s
  | .directoryMerge die slice base => Sys2Proof.Machine.execDirectoryMerge die slice base s
  | .reductionUpdate m ue => Sys2Proof.Machine.execReductionUpdate m ue s
  | .earlyClean die slice => Sys2Proof.Machine.execEarlyClean die slice s
  | .jobDispatch die => Sys2Proof.Machine.execJobDispatch die s
  | .columnAccess job column ue => Sys2Proof.Machine.execColumnAccess job column ue s
  | .jobCompletion job => Sys2Proof.Machine.execJobCompletion job s
  | .flit link turn => Sys2Proof.Machine.execFlit link turn s
  | .recoveryTimer link => Sys2Proof.Machine.execRecoveryTimer link s
  | .retrainCompletion link trained => Sys2Proof.Machine.execRetrainCompletion link trained s
  | .widthRetry link => Sys2Proof.Machine.execWidthRetry link s
  | .transactionRequest m => Sys2Proof.Machine.execTransactionRequest m s
  | .transactionResponse m => Sys2Proof.Machine.execTransactionResponse m s
  | .timeFlit die => Sys2Proof.Machine.execTimeFlit die s
  | .resignation die => Sys2Proof.Machine.execResignation die s
  | .powerOn act => Sys2Proof.Machine.execPowerOn act s
  | .bringupTimeout step => Sys2Proof.Machine.execBringupTimeout step s
  | .droopTrip die cluster => Sys2Proof.Machine.execDroopTrip die cluster s
  | .thermalTrip die => Sys2Proof.Machine.execThermalTrip die s
  | .thermalResume die => Sys2Proof.Machine.execThermalResume die s
  | .powerLimit consumer => Sys2Proof.Machine.execPowerLimit consumer s
  | .channelRetraining r => Sys2Proof.Machine.execChannelRetraining r s
  | .mctpControl msg => Sys2Proof.Machine.execMctpControl msg s
  | .status => Sys2Proof.Machine.execStatus s
  | .measure nonce => Sys2Proof.Machine.execMeasure nonce s
  | .notice die deadline => Sys2Proof.Machine.execNotice die deadline s
  | .update die image => Sys2Proof.Machine.execUpdate die image s
  | .cap watts => Sys2Proof.Machine.execCap watts s
  | .unsupported code => Sys2Proof.Machine.execUnsupported code s
  | .pageWalk ctx va use holder => Sys2Proof.Machine.execPageWalk ctx va use holder s
  | .holderRecord m => Sys2Proof.Machine.execHolderRecord m s
  | .checkReply m => Sys2Proof.Machine.execCheckReply m s
  | .elementGroupLanding k => Sys2Proof.Machine.execElementGroupLanding k s
  | .kSlice cluster array ue => Sys2Proof.Machine.execKSlice cluster array ue s
  | .backInvalidation w => Sys2Proof.Machine.execBackInvalidation w s
  | .cxlError addr => Sys2Proof.Machine.execCxlError addr s
  | .throttling consumer t => Sys2Proof.Machine.execThrottling consumer t s
  | .dynamicAddressAssignment addr => Sys2Proof.Machine.execDynamicAddressAssignment addr s

end Sys2Proof.Machine
end

