-- ==== Sys2Proof/Machine/Turn.lean ====
section
/-! DEFINITION. What the hardware does beside every turn: launches torn down (R48), pre-emption (R52), QPUSHes that have gone on
(R31), posts that wait (R437) and the access counters (R441); and an instruction placed where the next step fetches it. -/

namespace Sys2Proof.Machine

/-! ## What the hardware does beside every turn -/

/-- The place of the access-counter entry of a second-tier line (R441). -/
def State.counterAt (s : State) (la : Nat) : Nat :=
  s.regs.mctbase.toNat + 4 * (if rangeOf la = 2 then (la - 2 ^ 40) / 65536 else 23437500 + (la - 2 ^ 42) / 65536)

/-- The slot of the next migration notice, if it is free (R437, R441). -/
def State.noticeSlot (s : State) : Option Nat :=
  let pa := s.regs.mnqbase.toNat + s.mnqPosted % 4096 * 16
  if (s.peekWord (pa + 8)).getLsbD 63 then none else some pa

/-- A migration notice (R441). -/
def State.postNotice (s : State) (pa unit count : Nat) (summary : Bool) : State :=
  { s.writeRecord pa [unit, 2 ^ 63 + (if summary then 2 ^ 62 else 0) + count] with mnqPosted := s.mnqPosted + 1 }

/-- One SUMMARY notice once a slot has freed after an OVF (R441). -/
def State.settleOwed (s : State) : State :=
  if s.mnqOwed then
    match s.noticeSlot with
    | some pa => { s.postNotice pa 0 0 true with mnqOwed := false }
    | none => s
  else s

/-- A counter is written. The fill of its own line is not counted (DESIGN CHOICE, log entry 110). -/
def State.putCounter (s : State) (at_ v : Nat) : State := (s.writeHome at_ 4 v).uncounted s.mem.fills

/-- A fill of a second-tier line is counted (R441). -/
def State.countFill (s : State) (la : Nat) : State :=
  if s.regs.mthresh = 0 then s
  else
    let at_ := s.counterAt la
    let e := (s.readHome at_ 4).2.1
    let c := Nat.min 65535 (e % 65536 + 1)
    let crossed := decide (e % 65536 < s.regs.mthresh.toNat) && decide (s.regs.mthresh.toNat ≤ c)
    let base := e - e % 65536 + c
    if !crossed || e / 2 ^ 31 = 1 then s.putCounter at_ base
    else
      let s1 := s.settleOwed
      match (if s1.mnqOwed then none else s1.noticeSlot) with
      | some pa => (s1.postNotice pa (65536 * (la / 65536)) c false).putCounter at_ (base ||| 2 ^ 31)
      | none =>
        ({ s1.putCounter at_ (base ||| 2 ^ 30) with mnqOwed := true }).postHardware 50 0 0 none

/-- What the hardware does beside every turn. -/
def State.housekeep (s : State) : State :=
  let s1 := s.mem.fills.foldl State.countFill (s.uncounted [])
  let s2 := s1.settleOwed.settlePushes.serveLaunches.sweepTorn.settleEnded.endDrops.takeUpdates
  s2.drainPosts s2.kfqWaiting.length

/-- A turn's outcome with what the hardware does beside it. -/
def finish (o : Out) : Out :=
  match o with
  | .next s => .next s.housekeep
  | .fault r => .fault r
  | .refused r => .refused r

/-! ## An instruction placed where the next step fetches -/

/-- A pointer entry of a page table (R431). -/
def pointerEntry (pa : Nat) : Nat := pa + 1

/-- A leaf with V, R, W, X and U, of KIND SHARED, accessed and dirty (R431). -/
def leafEntry (pa : Nat) : Nat := pa + 0x1DF

/-- Page tables at physical address 0 that map virtual page 4 to physical page 4, as words. -/
def bootTables : List (Nat × Nat) :=
  [(0x0000, pointerEntry 0x1000), (0x1000, pointerEntry 0x2000), (0x2000, pointerEntry 0x3000),
    (0x3020, leafEntry 0x4000)]

/-- The bytes placed: the page tables and, at 0x4000, the line that holds one instruction. -/
def bootCells (line : LineBits) : List Host.Cell :=
  cellsPutNum (bootTables.foldl (fun acc p => cellsPutNum acc p.1 8 p.2) []) 0x4000 64 line.toNat

/-- The sequencer that is given an instruction: a control core where it executes it, else a worker, a forked MX, a
forked CE (R82). -/
def seqFor (head : BitVec 16) (tail : BitVec 48) : SeqId :=
  let w : WKey := ⟨0, 0, 0⟩
  let fits (k : SeqKind) : Bool :=
    match decode k head tail with
    | some i => i.runsOn k
    | none => false
  if fits .cc then .cc 0 else if fits .vc then .worker w else if fits .mx then .mx w 0 else if fits .ce then .ce w 0
  else .cc 0

/-- A module that is up, with one sequencer at one instruction and its turn next. -/
def State.placed (s : State) (head : BitVec 16) (tail : BitVec 48) : State :=
  let q := seqFor head tail
  let x : Seq :=
    { Seq.reset with
      pc := 0x4001
      run := .running
      priv := match q with
        | .cc _ => .k
        | _ => .u
      w := { Worker.reset with onCore := true } }
  { s with
    cur := q
    core := x
    seqs := []
    mem := { Mem.reset with arrays := bootCells (oneInstrLine head tail) }
    dies := s.dies.map fun d => { d with released := true, up := true }
    mgmt := { s.mgmt with step := 7, rails := true }
    regs := { s.regs with ccrun := s.regs.ccrun ||| 1, cdrel := 15 }
    agenda := [⟨0, .issue q⟩] }

end Sys2Proof.Machine
end

