-- ==== Sys2Proof/Machine/Step.lean ====
section
/-! DEFINITION. One step of the module: the turn of one party (R2, R12), and the placing of an instruction where the
next step fetches. -/

namespace Sys2Proof.Machine

/-- One turn: a sequencer fetches and executes one instruction, or one event of spec/95 comes about; then what the
hardware does beside it. -/
def step (s : State) : Host.Outcome State Fault Refusal :=
  match s.takeTurn with
  | (.issue q, s1) =>
    match s1.issue q with
    | .stop o => finish o
    | .run i s2 => finish (exec i s2)
  | (.event e, s1) => if e.isEvent then finish (exec e s1) else finish (.next s1)

/-- `s` with the instruction of a table number where the next step fetches it: the module up, page tables and the
instruction's line in memory, and the turn of a sequencer that executes it next (log entry 2). -/
def State.withFetchWord (s : State) (nbits w : Nat) : State :=
  s.placed (tableHeadTail nbits w).1 (tableHeadTail nbits w).2

end Sys2Proof.Machine
end

