-- ==== Sys2Proof/Safety.lean ====
section
/-! DEFINITION. What claims speak of: when an instruction reaches its effect, what goes on, and when the memory a
state holds is in its canonical form. -/

namespace Sys2Proof

/-- A step goes on: it neither faults nor refuses. -/
def Continues (o : Machine.Out) : Prop := ∃ s, o = .next s

/-- A run of n steps goes on to a state. -/
def Runs : Nat → Machine.State → Machine.State → Prop
  | 0, s, t => s = t
  | n + 1, s, t => ∃ u, Machine.step s = .next u ∧ Runs n u t

/-- An instruction of the current sequencer reaches its effect: it passes each row of R85 from row 4 on (the sequencer,
the privilege, the reserved fields, the element type, the segment, the declared registers, full trap-mode sources),
R254 does not bar it, its g sources and its g destination are full (R119, R120), the queue it enters has a free entry
(R140), no source carries a poison mark (R121, R202), and no release that a fence asked for holds it (R169). -/
def Instr.ready (i : Instr) (s : Machine.State) : Bool :=
  let k := Machine.kindOf s.cur
  let o := i.operands
  i.runsOn k && i.privOk k s.core.priv && i.reservedOk && i.kindOk k s.core.priv && i.typeOk && i.segmentOk &&
    (k != .vc || o.vregs.all fun r => decide (r < Machine.vnregOf s.core.w.vncode)) &&
    (o.vs.all fun r => !r.2 || !s.vEmpty s.cur r.1.toNat) &&
    !(k == .vc && s.core.w.ins && barredInSupervisor i.form.1.toNat s.core.w.vsaved) &&
    (o.gs.all fun r => !s.core.bank.isEmpty r.1) &&
    (match o.gd with
      | some r => !s.core.bank.isEmpty r
      | none => true) &&
    !s.issueWaits i && (Machine.markOf o s.core).isNone && !(i.storesLater && s.core.relDue.isSome)

/-- The byte the arrays hold at an address (R444: 0 where nothing has been written). -/
def Machine.State.byteAt (s : Machine.State) (a : Nat) : Byte := Machine.cellsGet s.mem.arrays a

end Sys2Proof
end

