-- ==== Sys2Proof/Certificates/Slice0/Obligations.lean ====
section
/-! DEFINITION. The statements for the provers. -/

open Sys2Proof Sys2Proof.Machine

/-! ## What the statements share -/

namespace Sys2Proof.Claims

/-- The instruction writes one register and goes on by R58. -/
def Gives (i : Instr) (s : State) (r : BitVec 5) (v : Word) : Prop := exec i s = .next (s.put r v)

/-- The instruction raises a condition of its sequencer. -/
def Raises (i : Instr) (s : State) (cond : Nat) (eaddr : Word) : Prop := exec i s = .next (s.raise cond eaddr)

/-- A word shifted right with copies of bit 63. -/
def sar (a : Word) (n : Nat) : Word := BitVec.ofInt 64 (a.toInt / 2 ^ n)

/-- How many bits of a word are zero above its highest one. -/
def LeadingZeros (a : Word) (n : Nat) : Prop :=
  n ≤ 64 ∧ (∀ k, k < n → a.getLsbD (63 - k) = false) ∧ (n < 64 → a.getLsbD (63 - n) = true)

/-- How many bits of a word are zero below its lowest one. -/
def TrailingZeros (a : Word) (n : Nat) : Prop :=
  n ≤ 64 ∧ (∀ k, k < n → a.getLsbD k = false) ∧ (n < 64 → a.getLsbD n = true)

end Sys2Proof.Claims

open Sys2Proof.Claims

/-! ## Scalar instructions -/

/-- R156: the ALU group but for division, over signed and unsigned integers. -/
def Sys2Proof.Claims.AluResults : Prop :=
  ∀ (f : FRG) (s : State),
    let a := s.g f.ga
    let b := s.g f.gb
    ((Instr.add f).ready s → Gives (.add f) s f.gd (BitVec.ofNat 64 (a.toNat + b.toNat))) ∧
    ((Instr.sub f).ready s → Gives (.sub f) s f.gd (BitVec.ofInt 64 (a.toInt - b.toInt))) ∧
    ((Instr.and f).ready s → Gives (.and f) s f.gd (a &&& b)) ∧
    ((Instr.or f).ready s → Gives (.or f) s f.gd (a ||| b)) ∧
    ((Instr.xor f).ready s → Gives (.xor f) s f.gd (a ^^^ b)) ∧
    ((Instr.shl f).ready s → Gives (.shl f) s f.gd (BitVec.ofNat 64 (a.toNat * 2 ^ (b.toNat % 64)))) ∧
    ((Instr.shr f).ready s → Gives (.shr f) s f.gd (BitVec.ofNat 64 (a.toNat / 2 ^ (b.toNat % 64)))) ∧
    ((Instr.sra f).ready s → Gives (.sra f) s f.gd (sar a (b.toNat % 64))) ∧
    ((Instr.mul f).ready s → Gives (.mul f) s f.gd (BitVec.ofInt 64 (a.toInt * b.toInt))) ∧
    ((Instr.mulh f).ready s → Gives (.mulh f) s f.gd (BitVec.ofInt 64 (a.toInt * b.toInt / 2 ^ 64))) ∧
    ((Instr.mulhn f).ready s → Gives (.mulhn f) s f.gd (BitVec.ofNat 64 (a.toNat * b.toNat / 2 ^ 64))) ∧
    ((Instr.min f).ready s → Gives (.min f) s f.gd (BitVec.ofInt 64 (min a.toInt b.toInt))) ∧
    ((Instr.max f).ready s → Gives (.max f) s f.gd (BitVec.ofInt 64 (max a.toInt b.toInt))) ∧
    ((Instr.minn f).ready s → Gives (.minn f) s f.gd (BitVec.ofNat 64 (min a.toNat b.toNat))) ∧
    ((Instr.maxn f).ready s → Gives (.maxn f) s f.gd (BitVec.ofNat 64 (max a.toNat b.toNat))) ∧
    ((Instr.slt f).ready s → Gives (.slt f) s f.gd (if a.toInt < b.toInt then 1 else 0)) ∧
    ((Instr.sltn f).ready s → Gives (.sltn f) s f.gd (if a.toNat < b.toNat then 1 else 0))

/-- R93: the four divisions with a divisor that is not zero, and INT-DIVIDE-ZERO (condition 42) with the sequencer's
source where it is. -/
def Sys2Proof.Claims.DivisionResults : Prop :=
  ∀ (f : FRG) (s : State),
    let a := s.g f.ga
    let b := s.g f.gb
    ((Instr.div f).ready s → b ≠ 0 → Gives (.div f) s f.gd (BitVec.ofInt 64 (a.toInt.tdiv b.toInt))) ∧
    ((Instr.divn f).ready s → b ≠ 0 → Gives (.divn f) s f.gd (BitVec.ofNat 64 (a.toNat / b.toNat))) ∧
    ((Instr.rem f).ready s → b ≠ 0 → Gives (.rem f) s f.gd (BitVec.ofInt 64 (a.toInt.tmod b.toInt))) ∧
    ((Instr.remn f).ready s → b ≠ 0 → Gives (.remn f) s f.gd (BitVec.ofNat 64 (a.toNat % b.toNat))) ∧
    ((Instr.div f).ready s → b = 0 → Raises (.div f) s 42 0) ∧
    ((Instr.divn f).ready s → b = 0 → Raises (.divn f) s 42 0) ∧
    ((Instr.rem f).ready s → b = 0 → Raises (.rem f) s 42 0) ∧
    ((Instr.remn f).ready s → b = 0 → Raises (.remn f) s 42 0) ∧
    ((Instr.div f).ready s → a.toInt = -2 ^ 63 → b.toInt = -1 → Gives (.div f) s f.gd a) ∧
    ((Instr.rem f).ready s → a.toInt = -2 ^ 63 → b.toInt = -1 → Gives (.rem f) s f.gd 0)

/-- R157: the immediate operations. The immediate of a shift is its six low bits, the others being zero. -/
def Sys2Proof.Claims.ImmediateResults : Prop :=
  ∀ (f : FIM) (s : State),
    let a := s.g f.ga
    let n := f.imm.toNat % 64
    ((Instr.addi f).ready s → Gives (.addi f) s (hReg f.h) (BitVec.ofInt 64 (a.toInt + f.imm.toInt))) ∧
    ((Instr.andi f).ready s → Gives (.andi f) s (hReg f.h) (a &&& f.imm.signExtend 64)) ∧
    ((Instr.ori f).ready s → Gives (.ori f) s (hReg f.h) (a ||| f.imm.signExtend 64)) ∧
    ((Instr.xori f).ready s → Gives (.xori f) s (hReg f.h) (a ^^^ f.imm.signExtend 64)) ∧
    ((Instr.shli f).ready s → Gives (.shli f) s (hReg f.h) (BitVec.ofNat 64 (a.toNat * 2 ^ n))) ∧
    ((Instr.shri f).ready s → Gives (.shri f) s (hReg f.h) (BitVec.ofNat 64 (a.toNat / 2 ^ n))) ∧
    ((Instr.srai f).ready s → Gives (.srai f) s (hReg f.h) (sar a n)) ∧
    ((Instr.slti f).ready s → Gives (.slti f) s (hReg f.h) (if a.toInt < f.imm.toInt then 1 else 0)) ∧
    ((Instr.sltni f).ready s →
      Gives (.sltni f) s (hReg f.h) (if a.toNat < (f.imm.signExtend 64).toNat then 1 else 0)) ∧
    ((Instr.shli f).ready s ∨ (Instr.shri f).ready s ∨ (Instr.srai f).ready s → f.imm.toNat < 64)

/-- R160: the bit group. -/
def Sys2Proof.Claims.BitResults : Prop :=
  ∀ (f : FRG) (s : State),
    let a := s.g f.ga
    ((Instr.clz f).ready s → ∃ n, LeadingZeros a n ∧ Gives (.clz f) s f.gd (BitVec.ofNat 64 n)) ∧
    ((Instr.ctz f).ready s → ∃ n, TrailingZeros a n ∧ Gives (.ctz f) s f.gd (BitVec.ofNat 64 n)) ∧
    ((Instr.popc f).ready s →
      Gives (.popc f) s f.gd (BitVec.ofNat 64 ((List.range 64).filter fun k => a.getLsbD k).length)) ∧
    ((Instr.sext8 f).ready s → Gives (.sext8 f) s f.gd (BitVec.ofInt 64 (Int.bmod a.toNat (2 ^ 8)))) ∧
    ((Instr.sext16 f).ready s → Gives (.sext16 f) s f.gd (BitVec.ofInt 64 (Int.bmod a.toNat (2 ^ 16)))) ∧
    ((Instr.sext32 f).ready s → Gives (.sext32 f) s f.gd (BitVec.ofInt 64 (Int.bmod a.toNat (2 ^ 32)))) ∧
    ((Instr.zext8 f).ready s → Gives (.zext8 f) s f.gd (BitVec.ofNat 64 (a.toNat % 2 ^ 8))) ∧
    ((Instr.zext16 f).ready s → Gives (.zext16 f) s f.gd (BitVec.ofNat 64 (a.toNat % 2 ^ 16))) ∧
    ((Instr.zext32 f).ready s → Gives (.zext32 f) s f.gd (BitVec.ofNat 64 (a.toNat % 2 ^ 32)))

/-- R158, R159: LI, LIH and LEA. -/
def Sys2Proof.Claims.ConstantAndAddressResults : Prop :=
  (∀ (f : FWI) (s : State), (Instr.li f).ready s → Gives (.li f) s (hReg f.h) (BitVec.ofInt 64 f.imm.toInt)) ∧
  (∀ (f : FKS) (s : State), (Instr.lih f).ready s →
    Gives (.lih f) s (hReg f.h)
      (BitVec.ofNat 64 (f.imm.toNat * 2 ^ 48 + (s.g (hReg f.h)).toNat % 2 ^ 48))) ∧
  ∀ (f : FLEA) (s : State), (Instr.lea f).ready s →
    Gives (.lea f) s (hReg f.h)
      (BitVec.ofInt 64 ((s.g f.ga).toInt + (s.g f.gb).toInt * 2 ^ f.scale.toNat + f.imm.toInt))

/-- R161: SEL is major opcode 0x1B in F-TR with minor and IMM10 zero, and gives ga where gc is not zero, else gb. -/
def Obligations.SelPicksASource : Prop :=
  (∀ (f : FTR) (s : State), (Instr.sel f).ready s →
    (s.g f.gc ≠ 0 → Gives (.sel f) s (hReg f.h) (s.g f.ga)) ∧
    (s.g f.gc = 0 → Gives (.sel f) s (hReg f.h) (s.g f.gb))) ∧
  (∀ f : FTR, WellFormed (.sel f) = true ↔ f.h.toNat < 32 ∧ f.imm = 0) ∧
  ∀ (k : SeqKind) (f : FTR), decode k (0x3700#16 + f.h.setWidth 16)
    ((f.imm ++ 0#4 ++ BitVec.ofBool f.mc ++ f.gc ++ BitVec.ofBool f.mb ++ f.gb ++ BitVec.ofBool f.ma ++ f.ga).setWidth 48)
      = some (.sel f)

/-- Any 64-bit constant comes from an LI and an LIH to one register other than g0 (R158), whatever the state, where
both reach their effect. -/
def Sys2Proof.Claims.TwoInstructionsLoadAnyConstant : Prop :=
  ∀ (h : BitVec 7) (v : Word) (s : State),
    let i := Instr.li { h := h, imm := v.extractLsb' 0 48 }
    let j := Instr.lih { h := h, imm := v.extractLsb' 48 16 }
    hReg h ≠ 0 → i.ready s → ∃ t, exec i s = .next t ∧ j.ready t ∧ ∃ u, exec j t = .next u ∧ u.g (hReg h) = v

/-- What writing a register and going on leaves (R58, R64, R120, R121): the one register, never g0, is written, full and
unmarked; the PC goes to the next slot, or to slot 1 of the next line after the last head; nothing else changes but the
ply mark of R13. -/
def Obligations.PutWritesOneRegister : Prop :=
  ∀ (s : State) (r r' : BitVec 5) (v : Word),
    ((s.put r v).g 0 = 0) ∧
    (r ≠ 0 → (s.put r v).g r = v) ∧
    (r' ≠ r → (s.put r v).g r' = s.g r') ∧
    ((s.put r v).core.bank.isEmpty r = false) ∧
    ((s.put r v).core.bank.mark r = none) ∧
    (r' ≠ r → (s.put r v).core.bank.isEmpty r' = s.core.bank.isEmpty r' ∧
      (s.put r v).core.bank.mark r' = s.core.bank.mark r') ∧
    ((s.put r v).core.pc =
      if (s.core.pc.extractLsb' 0 6).toNat < s.core.heads then s.core.pc + 1
      else (s.core.pc.extractLsb' 6 58 ++ 0#6) + 65) ∧
    (s.put r v).core =
      { s.core with
        bank := { s.core.bank with
          g := (s.put r v).core.bank.g, empty := (s.put r v).core.bank.empty, marks := (s.put r v).core.bank.marks },
        pc := (s.put r v).core.pc, ply := s.core.bank.loops.isEmpty } ∧
    { s.put r v with core := s.core } = s

/-! ## Control transfer and loops -/

namespace Sys2Proof.Claims

/-- The line address of a PC (R57). -/
def lineAddr (pc : Word) : Word := pc.extractLsb' 6 58 ++ 0#6

/-- The PC that R58 gives in a line of n heads. -/
def following (n : Nat) (pc : Word) : Word := if pc.toNat % 64 < n then pc + 1 else lineAddr pc + 65

/-- The target PC of a 31-bit field (R59): the signed line offset DELTA and the slot. -/
def target (pc : Word) (t : BitVec 31) : Word :=
  BitVec.ofInt 64 (((lineAddr pc).toNat : Int) + (t.extractLsb' 5 26).toInt * 64 + (t.toNat % 32 : Nat))

/-- The state with the current sequencer at another PC; that boundary is a ply boundary while the loop stack is empty
(R13). -/
def goesTo (s : State) (pc : Word) : State :=
  { s with core := { s.core with pc := pc, ply := s.core.bank.loops.isEmpty } }

/-- A condition of R149. -/
def Taken (c : Cond) (a b : Word) : Prop :=
  match c with
  | .eq => a = b
  | .ne => a ≠ b
  | .lt => a.toInt < b.toInt
  | .ge => b.toInt ≤ a.toInt
  | .ltn => a.toNat < b.toNat
  | .gen => b.toNat ≤ a.toNat

end Sys2Proof.Claims

/-- R146: NOP is major opcode 0x00 in F-N with H = 0, so that a head of 0x0000 is a NOP, and has no effect but to go
on by R58. -/
def Obligations.NopHasNoEffect : Prop :=
  (∀ (f : FN) (s : State), (Instr.nop f).ready s →
    exec (.nop f) s = .next (goesTo s (following s.core.heads s.core.pc))) ∧
  (∀ (k : SeqKind) (t : BitVec 48), decode k 0x0000 t = some (.nop { h := 0 })) ∧
  ∀ f : FN, WellFormed (.nop f) = true ↔ f.h = 0

/-- R59, R147 to R149: the transfers of control, with the PC each reaches and the link it forms before the target is
read into PC. -/
def Sys2Proof.Claims.TransfersReachTheirTargets : Prop :=
  (∀ (f : FJP) (s : State), (Instr.br f).ready s → exec (.br f) s = .next (goesTo s (target s.core.pc f.target))) ∧
  (∀ (f : FJP) (s : State), (Instr.jal f).ready s →
    exec (.jal f) s =
      .next (goesTo (s.setG (hReg f.h) (following s.core.heads s.core.pc)) (target s.core.pc f.target))) ∧
  (∀ (f : FRG) (s : State), (Instr.jr f).ready s →
    exec (.jr f) s = .next (goesTo (s.setG f.gd (following s.core.heads s.core.pc)) (s.g f.ga))) ∧
  ∀ (c : Cond) (f : FCJ) (s : State), (Instr.bcc c f).ready s →
    (Taken c (s.g f.ga) (s.g f.gb) → exec (.bcc c f) s = .next (goesTo s (target s.core.pc f.target))) ∧
    (¬Taken c (s.g f.ga) (s.g f.gb) →
      exec (.bcc c f) s = .next (goesTo s (following s.core.heads s.core.pc)))

/-- R57, R59: a fetch at a PC whose slot is 0 or above the heads of its legal line raises BAD-PC (condition 4) with
EPC at that PC, whoever led there. -/
def Sys2Proof.Claims.FetchAtABadPcTraps : Prop :=
  ∀ (s t : State) (l : LineBits),
    s.core.w.pending = none → s.breaks = false → s.fetchLineOf = .ok (t, l) → LineBits.legal l →
    (t.core.pc.toNat % 64 = 0 ∨ LineBits.heads l < t.core.pc.toNat % 64) →
    s.fetch = .stop (.next (t.raise 4 0)) ∧ (t.trapAt (sourceOf t.cur) 4 0).epc = t.core.pc

/-- R151: ENDL is major opcode 0x06 in F-N with H = 0. With no loop entry it raises LOOP-UNDERFLOW; else it counts the
innermost one down and goes back to its body, or pops it and falls through. The boundary after it is a ply boundary.
Where the spec leaves a point open the model’s own reading is log entry 82. The address 0 (EADDR) of its traps, for
which no rule gives one, is the model’s choice (DESIGN CHOICE, log entry 82). -/
def Obligations.EndlActsOnTheInnermostEntry : Prop :=
  (∀ (k : SeqKind) (t : BitVec 48), decode k 0x0C00 t = some (.endl { h := 0 })) ∧
  (∀ f : FN, WellFormed (.endl f) = true ↔ f.h = 0) ∧
  ∀ (f : FN) (s : State), (Instr.endl f).ready s →
    (s.core.bank.loops = [] → Raises (.endl f) s 41 0) ∧
    ∀ top rest, s.core.bank.loops = top :: rest →
      (top.rem ≠ 1 → exec (.endl f) s = .next { s with core := { s.core with
        bank := { s.core.bank with loops := { top with rem := top.rem - 1, idx := top.idx + 1 } :: rest }
        pc := top.body, ply := true } }) ∧
      (top.rem = 1 → exec (.endl f) s = .next { s with core := { s.core with
        bank := { s.core.bank with loops := rest }
        pc := following s.core.heads s.core.pc, ply := true } })

/-- R150, R152: LOOP pushes an entry, goes to its exit when the count is zero, and overflows at six entries; LIDX
reads the index of an entry, and underflows where it is not there. Where the spec leaves a point open the model’s own
reading is log entries 71 and 82. -/
def Obligations.LoopsAreEnteredAndRead : Prop :=
  (∀ (f : FIM) (s : State), (Instr.loop f).ready s →
    let n := s.g (hReg f.h)
    let exit := BitVec.ofInt 64
      (((lineAddr s.core.pc).toNat : Int) + (f.imm.extractLsb' 5 19).toInt * 64 + (f.imm.toNat % 32 : Nat))
    let next := following s.core.heads s.core.pc
    (n = 0 → exec (.loop f) s = .next (goesTo s exit)) ∧
    (n ≠ 0 → 6 ≤ s.core.bank.loops.length → Raises (.loop f) s 40 0) ∧
    (n ≠ 0 → s.core.bank.loops.length < 6 → ∃ t, exec (.loop f) s = .next t ∧
      t.core.bank = { s.core.bank with loops := { body := next, rem := n, idx := 0 } :: s.core.bank.loops } ∧
      t.core.pc = next ∧ t.core.ply = false ∧
      { t with core := { t.core with bank := s.core.bank, pc := s.core.pc, ply := s.core.ply } } = s)) ∧
  ∀ (f : FIM) (s : State), (Instr.lidx f).ready s →
    (s.core.bank.loops.length ≤ f.imm.toNat → Raises (.lidx f) s 41 0) ∧
    ∀ e, s.core.bank.loops[f.imm.toNat]? = some e → Gives (.lidx f) s (hReg f.h) e.idx

/-! ## Exceptions and returns -/

namespace Sys2Proof.Claims

/-- What R425 leaves when core n, as it was in `s`, has taken trap `t`. -/
def CoreEntered (s u : State) (n : Nat) (t : Trap) : Prop :=
  let x := s.seqD (.cc n)
  let y := u.seqD (.cc n)
  y.cause = BitVec.ofNat 9 (t.source * 64 + t.cond) ∧ y.epc = t.epc ∧ y.eaddr = t.eaddr ∧ y.trap = none ∧
  y.priv = .k ∧ (y.cc.ppriv = true ↔ x.priv = .k) ∧ (y.cc.ink = true ↔ x.cc.ink = true ∨ x.priv ≠ .k) ∧
  (x.priv = .k → y.bank = x.bank ∧ y.other = x.other) ∧ (x.priv ≠ .k → y.bank = x.other ∧ y.other = x.bank) ∧
  (x.cc.kvec ≠ 0 → y.pc = x.cc.kvec ∧ y.run = .running ∧ u.regs = s.regs) ∧
  (x.cc.kvec = 0 → y.run = .halted ∧ u.regs = { s.regs with ccrun := s.regs.ccrun &&& ~~~(1#32 <<< n) }) ∧
  y.cc.kvec = x.cc.kvec ∧ y.cc.uctx = x.cc.uctx ∧ u.mem = s.mem ∧ u.net = s.net

/-- The trap of an instruction at the PC of the current sequencer: source, condition and EADDR; EPC and the saved PC are
the PC. -/
def trapHere (s : State) (source cond : Nat) (eaddr : Word) : Trap :=
  { source := source, cond := cond, epc := s.core.pc, eaddr := eaddr, eidx := 0, save := s.core.pc, vstart := none }

/-- The trap that a worker takes where `t` was raised: that of a vector instruction that met an error before it, if
there is one (R86, R202). -/
def trapTaken (x : Seq) (t : Trap) : Trap :=
  match x.w.pending with
  | none => t
  | some p => { source := p.source, cond := if p.mark.accum then 16 else 17, epc := t.save, eaddr := p.mark.addr,
                eidx := p.elem, save := t.save, vstart := t.vstart }

/-- The state without that error. -/
def errorTaken (s : State) (w : WKey) : State :=
  match (s.seqD (.worker w)).w.pending with
  | none => s
  | some _ => s.modSeq (.worker w) fun x => { x with w := { x.w with pending := none } }

/-- A worker's record as R252 step 5 writes it for trap `t`. -/
def trapRecord (s : State) (w : WKey) (t : Trap) : List Byte :=
  let x := (s.seqD (.worker w)).noteTrap t
  wordsBytes (recordWords x t.save x.bank.loops false true 0)

/-- Trap `t` of worker w goes to the supervisor routine (R252): not nested, SVEC set, neither RECOMPUTE-MISMATCH nor
DEBUG-BREAK, and the record can be written, which gives `v`. -/
def ToSupervisor (s : State) (w : WKey) (t : Trap) (v : State) : Prop :=
  let x := s.seqD (.worker w)
  x.w.ins = false ∧ x.w.svec ≠ 0 ∧ t.source * 64 + t.cond ≠ 94 ∧ t.cond < 64 ∧ t.cond ≠ 31 ∧
  ((s.modSeq (.worker w) fun y => y.noteTrap t).clearResv w).frameWrite w 0 (trapRecord s w t) = some v

/-- What R252 leaves of the worker when it has entered the supervisor routine, `v` being the state in which its record
was written. -/
def SupervisorEntered (s v u : State) (w : WKey) (t : Trap) : Prop :=
  let x := s.seqD (.worker w)
  let y := u.seqD (.worker w)
  y.cause = BitVec.ofNat 9 (t.source * 64 + t.cond) ∧ y.epc = t.epc ∧ y.eaddr = t.eaddr ∧
  y.eidx = BitVec.ofNat 15 t.eidx ∧ y.priv = .s ∧ y.run = .running ∧ y.pc = x.w.svec ∧ y.w.ins = true ∧ y.bank.loops = [] ∧
  y.bank.xf = x.bank.xf ∧ y.bank.read 1 = v.frameVa w ∧ y.bank.read 2 = y.cause.setWidth 64 ∧
  (∀ r : BitVec 5, 3 ≤ r.toNat → y.bank.read r = 0) ∧ (∀ r, y.bank.isEmpty r = false ∧ y.bank.mark r = none) ∧
  y.w.v = x.w.v ∧ y.w.m = x.w.m ∧ y.w.q = x.w.q ∧ y.w.win = x.w.win ∧ y.w.vl = x.w.vl ∧ y.w.vmt = x.w.vmt ∧
  y.w.vrm = x.w.vrm ∧ y.w.xsel = x.w.xsel ∧ (t.vstart = none → y.w.vstart = x.w.vstart) ∧ u.mem = v.mem

end Sys2Proof.Claims

/-- R425: a trap of a control core is entered once its stores and landings are complete. -/
def Sys2Proof.Claims.KernelTrapEntryFollowsR425 : Prop :=
  ∀ (s : State) (n : Nat) (t : Trap),
    (s.getSeq (.cc n)).isSome → (s.seqD (.cc n)).trap = some t → s.coreDrained (.cc n) →
    ∃ u, exec (.kernelTrapEntry n) s = .next u ∧ CoreEntered s u n t

/-- R153, R154, R155, R426: TRAP and HALT at U enter the kernel with USER-TRAP (condition 7), HALT at K stops the core
with EPC at the instruction after it, and ERET at K returns to PPRIV at EPC on that privilege's bank. -/
def Sys2Proof.Claims.CoreTrapHaltAndReturn : Prop :=
  (∀ (f : FIM) (s : State) (n : Nat), (Instr.trap f).ready s → s.cur = .cc n → s.coreDrained (.cc n) →
    ∃ u, exec (.trap f) s = .next u ∧
      CoreEntered s u n { trapHere s 0 7 (f.imm.setWidth 64) with save := following s.core.heads s.core.pc }) ∧
  (∀ (f : FN) (s : State) (n : Nat), (Instr.halt f).ready s → s.cur = .cc n → s.core.priv ≠ .k →
    s.coreDrained (.cc n) → ∃ u, exec (.halt f) s = .next u ∧ CoreEntered s u n (trapHere s 0 7 0x1000000)) ∧
  (∀ (f : FN) (s : State) (n : Nat), (Instr.halt f).ready s → s.cur = .cc n → s.core.priv = .k →
    exec (.halt f) s = .next { s with
      core := { s.core with epc := following s.core.heads s.core.pc, run := .halted, line := none }
      regs := { s.regs with ccrun := s.regs.ccrun &&& ~~~(1#32 <<< n) } }) ∧
  ∀ (f : FN) (s : State), (Instr.eretK f).ready s → s.gPending s.cur = false →
    ∃ u, exec (.eretK f) s = .next u ∧ u.core.pc = s.core.epc ∧ u.core.cc = { s.core.cc with ink := false } ∧
      (s.core.cc.ppriv = true → u.core.priv = .k ∧ u.core.bank = s.core.bank ∧ u.core.other = s.core.other) ∧
      (s.core.cc.ppriv = false → u.core.priv = .u ∧ u.core.bank = s.core.other ∧ u.core.other = s.core.bank) ∧
      u.core.line = none ∧ { u with core := s.core } = s

/-- R86, R252: a worker's trap enters the supervisor routine once its queue has drained and its landings are complete;
one of a vector instruction that the drain found takes its place. -/
def Sys2Proof.Claims.TrapEntryFollowsR252 : Prop :=
  ∀ (s v : State) (w : WKey) (t : Trap),
    let t' := trapTaken (s.seqD (.worker w)) t
    let s' := errorTaken s w
    (s.getSeq (.worker w)).isSome → (s.seqD (.worker w)).trap = some t → s.drained (.worker w) →
    ToSupervisor s' w t' v → ∃ u, exec (.trapEntry w) s = .next u ∧ SupervisorEntered s' v u w t'

/-- R39, R252: TRAP of a worker enters its supervisor routine with the code in EADDR and the next PC in the record,
unless the drain has found an error before it (R86); TRAP of a forked sequencer stops it. -/
def Sys2Proof.Claims.TrapOfWorkersAndForks : Prop :=
  (∀ (f : FIM) (s v : State) (w : WKey),
    let t := { trapHere s 0 7 (f.imm.setWidth 64) with save := following s.core.heads s.core.pc }
    let t' := trapTaken s.core t
    let s' := errorTaken (s.modCore fun x => { x with trap := some t }) w
    (Instr.trap f).ready s → s.cur = .worker w → s.drained (.worker w) → ToSupervisor s' w t' v →
    ∃ u, exec (.trap f) s = .next u ∧ SupervisorEntered s' v u w t') ∧
  ∀ (f : FIM) (s : State), (Instr.trap f).ready s →
    kindOf s.cur = .mx ∨ kindOf s.cur = .ce →
    ∃ u, exec (.trap f) s = .next u ∧ u.core.run = .ending ∧ u.core.cause = BitVec.ofNat 9 (sourceOf s.cur * 64 + 7) ∧
      u.core.epc = s.core.pc ∧ u.core.eaddr = f.imm.setWidth 64

/-- R256: ERET of a worker whose vector state is not saved takes what its record holds; the line at the return PC is
fetched again. -/
def Sys2Proof.Claims.WorkerReturnTakesTheRecord : Prop :=
  ∀ (f : FN) (s s2 s3 : State) (w : WKey) (r : List Byte),
    (Instr.eret f).ready s → s.cur = .worker w → s.returnWaits s.cur = false → s.core.w.vsaved = false →
    s.frameRead w 0 0x1F8 = some (s2, r) → recordBad r = false →
    s2.frameModify w 8 (2 ^ 17 + 2 ^ 18) 0 = some s3 →
    let st := BitVec.ofNat 64 (wordAt r 1)
    ∃ u, exec (.eret f) s = .next u ∧ u.core.priv = .u ∧ u.core.pc = BitVec.ofNat 64 (wordAt r 0) ∧
      u.core.line = none ∧ u.core.w.ins = false ∧ u.core.w.vl = BitVec.ofNat 15 (wordAt r 2) ∧
      u.core.w.vstart = BitVec.ofNat 15 (wordAt r 3) ∧ u.core.w.vlmax = BitVec.ofNat 15 (wordAt r 4) ∧
      u.core.bank.xf = st.extractLsb' 32 8 ∧ u.core.w.xsel = st.extractLsb' 28 4 ∧
      u.core.w.vrm = st.extractLsb' 26 2 ∧ u.core.w.vmt = st.extractLsb' 24 2 ∧
      u.core.bank.loops.length = (st.extractLsb' 19 3).toNat ∧
      (∀ k : BitVec 5, k ≠ 0 → u.core.bank.read k = BitVec.ofNat 64 (wordAt r (12 + k.toNat)) ∧
        u.core.bank.isEmpty k = false ∧
        ((u.core.bank.mark k).isSome = true ↔ (wordAt r 9).testBit k.toNat = true)) ∧
      u.mem = s3.mem

/-! ## Special and system registers -/

namespace Sys2Proof.Claims

/-- SRD of register number n gives a value (R134, R168). -/
def Reads (n : Nat) (v : State → Word) : Prop :=
  ∀ (f : FIM) (s : State), (Instr.srd f).ready s → f.imm.toNat = n → Gives (.srd f) s (hReg f.h) (v s)

/-- SWR of register number n: a value it takes gives a state, in which the sequencer goes on; another raises
RESERVED-FIELD (condition 3) (R136, R168, R427). -/
def Takes (n : Nat) (ok : State → Word → Prop) (upd : State → Word → State) : Prop :=
  ∀ (f : FIM) (s : State), (Instr.swr f).ready s → f.imm.toNat = n →
    let v := s.g (hReg f.h)
    (ok s v → exec (.swr f) s = .next (goesTo (upd s v) (following s.core.heads s.core.pc))) ∧
    (¬ok s v → Raises (.swr f) s 3 0)

/-- The context that CTXSEL names (R427). -/
def chosen (s : State) : Context := s.ctx s.core.cc.ctxsel.toNat

/-- A change of that context. -/
def setChosen (s : State) (f : Context → Context) : State := s.modCtx s.core.cc.ctxsel.toNat f

/-- A table, queue or log of n bytes lies wholly inside one populated range of R11 other than the coded aperture and the
device registers. -/
def Placed (a n : Nat) : Prop := n = 0 ∨ (rangeOf a = rangeOf (a + n - 1) ∧ 1 ≤ rangeOf a ∧ rangeOf a ≤ 3)

/-- The sum of the four dies' counts, saturating (R332). -/
def countSum (s : State) (pick : Die → Vector Word 32) (n : Nat) : Word :=
  BitVec.ofNat 64 (min (2 ^ 64 - 1) (((pick (s.die 0)).getD n 0).toNat + ((pick (s.die 1)).getD n 0).toNat +
    ((pick (s.die 2)).getD n 0).toNat + ((pick (s.die 3)).getD n 0).toNat))

end Sys2Proof.Claims

/-- R134, R189, R253: SRD of the registers of workers and of every sequencer; KPOST, which is write-only, reads as zero
(R9). SRD of XF waits for the vector unit (R135). -/
def Sys2Proof.Claims.SpecialRegistersRead : Prop :=
  Reads 0x000 (fun s => s.core.w.vl.setWidth 64) ∧ Reads 0x001 (fun s => s.core.w.vlmax.setWidth 64) ∧
  Reads 0x002 (fun s => BitVec.ofNat 64 (8 * 2 ^ s.core.w.vncode.toNat)) ∧
  Reads 0x003 (fun s => s.core.w.vmt.setWidth 64) ∧ Reads 0x004 (fun s => s.core.w.vstart.setWidth 64) ∧
  Reads 0x005 (fun s => s.core.w.vrm.setWidth 64) ∧ Reads 0x006 (fun s => s.core.w.xsel.setWidth 64) ∧
  Reads 0x010 (fun s => BitVec.ofNat 64 (((ownerOf s.cur).map fun w => w.wid).getD 0)) ∧
  Reads 0x011 (fun s => BitVec.ofNat 64 (s.ownerSeq s.cur).w.stage) ∧
  Reads 0x012 (fun s => BitVec.ofNat 64 s.curCtx) ∧ Reads 0x013 (fun s => (s.die (s.dieOf s.cur)).time) ∧
  Reads 0x014 (fun s => BitVec.ofNat 64 (2 ^ 48 * s.core.w.moves.toNat + 2 ^ 22 * s.core.w.place.die +
    2 ^ 18 * s.core.w.place.cluster + 2 ^ 13 * s.core.w.place.core + 2 ^ 12 * s.core.w.place.slot +
    2 ^ 9 * s.core.w.spadCode)) ∧
  Reads 0x020 (fun s => BitVec.ofNat 64 s.core.tlv.count) ∧ Reads 0x021 (fun s => BitVec.ofNat 64 s.core.tlm.count) ∧
  Reads 0x022 (fun s => BitVec.ofNat 64 s.core.tlc.count) ∧ Reads 0x023 (fun s => BitVec.ofNat 64 s.core.tln.count) ∧
  Reads 0x030 (fun s => s.core.cause.setWidth 64) ∧ Reads 0x031 (fun s => s.core.epc) ∧
  Reads 0x032 (fun s => s.core.eaddr) ∧ Reads 0x033 (fun s => s.core.eidx.setWidth 64) ∧
  Reads 0x040 (fun s => s.core.w.svec) ∧ Reads 0x042 (fun _ => 0) ∧
  Reads 0x041 (fun s => BitVec.ofNat 64 (256 * s.core.w.rcount.toNat + (if s.core.w.vsaved then 2 else 0) +
    (if s.core.w.ins then 1 else 0))) ∧
  ∀ (f : FIM) (s : State), (Instr.srd f).ready s → f.imm.toNat = 0x007 →
    (s.vecIdle s.cur = true → Gives (.srd f) s (hReg f.h) (s.core.bank.xf.setWidth 64)) ∧
    (s.vecIdle s.cur = false → exec (.srd f) s = .next s)

/-- R322, R332, R427, R428, R445: SRD of the codec counters, the range registers and the system registers. -/
def Sys2Proof.Claims.SystemRegistersRead : Prop :=
  (∀ n, n < 32 → Reads (0x100 + n) (fun s => countSum s Die.loss n) ∧
    Reads (0x120 + n) (fun s => countSum s Die.clamp n) ∧ Reads (0x140 + n) (fun s => countSum s Die.spec n) ∧
    Reads (0x800 + 4 * n) (fun s => (s.range n).base) ∧ Reads (0x801 + 4 * n) (fun s => (s.range n).len) ∧
    Reads (0x802 + 4 * n) (fun s => (s.range n).store) ∧ Reads (0x803 + 4 * n) (fun s => (s.range n).ctl)) ∧
  Reads 0x880 (fun s => s.core.cc.kvec) ∧
  Reads 0x881 (fun s => BitVec.ofNat 64 (4 * s.core.cc.uctx.toNat + (if s.core.cc.ink then 2 else 0) +
    (if s.core.cc.ppriv then 1 else 0))) ∧
  Reads 0x882 (fun s => s.regs.ccrun.setWidth 64) ∧ Reads 0x890 (fun s => s.core.cc.ctxsel.setWidth 64) ∧
  Reads 0x891 (fun s => if s.core.cc.ctxsel = 0 ∨ (chosen s).enable then 1 else 0) ∧
  Reads 0x892 (fun s => (chosen s).croot) ∧ Reads 0x893 (fun s => (chosen s).cfbase) ∧
  Reads 0x894 (fun s => (chosen s).cfn.setWidth 64) ∧
  (∀ d, d < 4 → Reads (0x895 + d) (fun s => (chosen s).cqgrant.getD d 0) ∧
    Reads (0x899 + d) (fun s => ((chosen s).cwquota.getD d 0).setWidth 64) ∧
    Reads (0x8A1 + d) (fun s => (chosen s).cdbp.getD d 0) ∧
    Reads (0x8B0 + d) (fun s => (s.regs.accpart.getD d 0).setWidth 64)) ∧
  Reads 0x89D (fun s => (chosen s).csrgrant) ∧ Reads 0x89E (fun s => (chosen s).cflbase) ∧
  Reads 0x89F (fun s => (chosen s).cfllog.setWidth 64) ∧ Reads 0x8A0 (fun s => (chosen s).cfllost) ∧
  Reads 0x8A5 (fun s => (chosen s).csvec) ∧ Reads 0x8B4 (fun s => s.regs.kfqbase) ∧
  Reads 0x8B5 (fun s => s.regs.kfqlog.setWidth 64) ∧ Reads 0x8B6 (fun s => s.regs.mnqbase) ∧
  Reads 0x8B7 (fun s => s.regs.mctbase) ∧ Reads 0x8B8 (fun s => s.regs.mthresh.setWidth 64) ∧
  (∀ i, i < 16 → Reads (0x8C0 + i) (fun s => s.regs.lqprio.getD i 0)) ∧ Reads 0x8D0 (fun s => s.regs.cdrel.setWidth 64)

/-- R134, R136, R168, R253, R428: SWR of the vector control registers, SSTAT, the trap registers, KVEC, KSTAT and
CTXSEL. -/
def Sys2Proof.Claims.SpecialRegistersTakeValues : Prop :=
  Takes 0x000 (fun _ v => v.toNat ≤ 21845)
    (fun s v => s.modCore fun x => { x with w := { x.w with vl := v.setWidth 15 } }) ∧
  Takes 0x003 (fun _ v => v.toNat ≤ 2)
    (fun s v => s.modCore fun x => { x with w := { x.w with vmt := v.setWidth 2 } }) ∧
  Takes 0x004 (fun _ v => v.toNat < 2 ^ 15)
    (fun s v => s.modCore fun x => { x with w := { x.w with vstart := v.setWidth 15 } }) ∧
  Takes 0x005 (fun _ v => v.toNat < 4)
    (fun s v => s.modCore fun x => { x with w := { x.w with vrm := v.setWidth 2 } }) ∧
  Takes 0x006 (fun _ v => v.toNat ≤ 8)
    (fun s v => s.modCore fun x => { x with w := { x.w with xsel := v.setWidth 4 } }) ∧
  Takes 0x030 (fun _ v => v.toNat < 2 ^ 9) (fun s v => s.modCore fun x => { x with cause := v.setWidth 9 }) ∧
  Takes 0x031 (fun _ _ => True) (fun s v => s.modCore fun x => { x with epc := v }) ∧
  Takes 0x032 (fun _ _ => True) (fun s v => s.modCore fun x => { x with eaddr := v }) ∧
  Takes 0x033 (fun _ v => v.toNat < 2 ^ 15) (fun s v => s.modCore fun x => { x with eidx := v.setWidth 15 }) ∧
  Takes 0x041 (fun _ v => v &&& 0xFFFFFFFFFFFF00FC = 0)
    (fun s v => s.modCore fun x => { x with w := { x.w with rcount := v.extractLsb' 8 8 } }) ∧
  Takes 0x880 (fun _ _ => True) (fun s v => s.modCore fun x => { x with cc := { x.cc with kvec := v } }) ∧
  Takes 0x881 (fun _ v => v.toNat < 2 ^ 11)
    (fun s v => s.modCore fun x => { x with cc := { x.cc with ppriv := v.getLsbD 0 } }) ∧
  Takes 0x890 (fun _ v => v.toNat < 2 ^ 9)
    (fun s v => s.modCore fun x => { x with cc := { x.cc with ctxsel := v.setWidth 9 } })

/-- R427: SWR of the per-context and the module registers. That a write of 0 to CFLLOG or KFQLOG is refused is the
model's reading (log entry 21). -/
def Sys2Proof.Claims.SystemRegistersTakeValues : Prop :=
  Takes 0x892 (fun _ v => v.toNat % 2 ^ 12 = 0 ∧ v.toNat < 2 ^ 52 ∧ Placed v.toNat 4096)
    (fun s v => setChosen s fun x => { x with croot := v }) ∧
  Takes 0x893 (fun _ v => v.toNat % 2 ^ 16 = 0) (fun s v => setChosen s fun x => { x with cfbase := v }) ∧
  Takes 0x894 (fun _ v => v.toNat < 2 ^ 16) (fun s v => setChosen s fun x => { x with cfn := v.setWidth 16 }) ∧
  (∀ d, d < 4 →
    Takes (0x895 + d) (fun _ _ => True)
      (fun s v => setChosen s fun x => { x with cqgrant := x.cqgrant.setIfInBounds d v }) ∧
    Takes (0x899 + d) (fun _ v => v.toNat < 2 ^ 20)
      (fun s v => setChosen s fun x => { x with cwquota := x.cwquota.setIfInBounds d (v.setWidth 20) }) ∧
    Takes (0x8A1 + d) (fun _ _ => True)
      (fun s v => setChosen s fun x => { x with cdbp := x.cdbp.setIfInBounds d v }) ∧
    Takes (0x8B0 + d) (fun _ v => v.toNat ≤ 524288)
      (fun s v => { s with regs := { s.regs with accpart := s.regs.accpart.setIfInBounds d (v.setWidth 20) } })) ∧
  Takes 0x89D (fun _ v => v &&& 0xFFFFFFFF8000C000 = 0) (fun s v => setChosen s fun x => { x with csrgrant := v }) ∧
  Takes 0x89E (fun s v => v.toNat % 64 = 0 ∧ Placed v.toNat (64 * 2 ^ (chosen s).cfllog.toNat))
    (fun s v => setChosen s fun x => { x with cflbase := v }) ∧
  Takes 0x89F (fun s v => 4 ≤ v.toNat ∧ v.toNat ≤ 20 ∧ Placed (chosen s).cflbase.toNat (64 * 2 ^ v.toNat))
    (fun s v => setChosen s fun x => { x with cfllog := v.setWidth 5 }) ∧
  Takes 0x8A0 (fun _ _ => True) (fun s v => setChosen s fun x => { x with cfllost := v }) ∧
  Takes 0x8A5 (fun _ _ => True) (fun s v => setChosen s fun x => { x with csvec := v }) ∧
  Takes 0x8B4 (fun s v => v.toNat % 64 = 0 ∧ Placed v.toNat (64 * 2 ^ s.regs.kfqlog.toNat))
    (fun s v => { s with regs := { s.regs with kfqbase := v } }) ∧
  Takes 0x8B5 (fun s v => 4 ≤ v.toNat ∧ v.toNat ≤ 16 ∧ Placed s.regs.kfqbase.toNat (64 * 2 ^ v.toNat))
    (fun s v => { s with regs := { s.regs with kfqlog := v.setWidth 5 } }) ∧
  Takes 0x8B6 (fun _ v => v.toNat % 64 = 0 ∧ Placed v.toNat 65536)
    (fun s v => { s with regs := { s.regs with mnqbase := v } }) ∧
  Takes 0x8B7 (fun _ v => v.toNat % 64 = 0 ∧ Placed v.toNat (4 * (23437500 + cxlSize / 65536)))
    (fun s v => { s with regs := { s.regs with mctbase := v } }) ∧
  Takes 0x8B8 (fun _ v => v.toNat < 2 ^ 16) (fun s v => { s with regs := { s.regs with mthresh := v.setWidth 16 } }) ∧
  ∀ i, i < 16 → Takes (0x8C0 + i) (fun _ v => v &&& 0x8888888888888888 = 0)
    (fun s v => { s with regs := { s.regs with lqprio := s.regs.lqprio.setIfInBounds i v } })

/-- R135, R136: SWR of XF waits for the vector unit and replaces the flags; a value above eight bits raises
RESERVED-FIELD. -/
def Sys2Proof.Claims.FlagsAreReplaced : Prop :=
  ∀ (f : FIM) (s : State), (Instr.xfWrite f).ready s →
    let v := s.g (hReg f.h)
    (s.vecIdle s.cur = false → exec (.xfWrite f) s = .next s) ∧
    (s.vecIdle s.cur = true → v.toNat < 256 → exec (.xfWrite f) s =
      .next (goesTo { s with core := { s.core with bank := { s.core.bank with xf := v.setWidth 8 } } }
        (following s.core.heads s.core.pc))) ∧
    (s.vecIdle s.cur = true → 256 ≤ v.toNat → Raises (.xfWrite f) s 3 0)

namespace Sys2Proof.Claims

/-- The writes of CWCTL that R324 refuses, for the register as it stands. -/
def ControlRefused (r : RangeReg) (v : Word) : Prop :=
  let fmt := (v.extractLsb' 0 2).toNat
  let bud := (v.extractLsb' 4 3).toNat
  let scale := v.extractLsb' 8 8
  let a := r.base.toNat
  let n := r.len.toNat
  v &&& 0xFFFFFFFFFFFF008C ≠ 0 ∨ fmt = 3 ∨ 5 ≤ bud ∨
  (fmt = 1 ∧ (scale ≠ 0 ∨ n = 0 ∨ a < 2 ^ 49 ∨ 2 ^ 50 < a + n ∨ r.storageOk bud = false)) ∨
  (fmt = 2 ∧ (bud ≠ 0 ∨ r.store ≠ 0 ∨ n = 0 ∨ ¬Placed a n))

end Sys2Proof.Claims

/-- R323, R324: SWR of the range registers. Base, length and storage are taken with FMT 0 and their RES bits zero; a
write that R324 refuses raises RESERVED-FIELD; one that it does not refuse is taken. Where the spec leaves a point
open the model’s own reading is log entry 82. The address 0 (EADDR) of its traps, for which no rule gives one, is the
model’s choice (DESIGN CHOICE, log entry 82). -/
def Obligations.RangeRegistersTakeValues : Prop :=
  ∀ (f : FIM) (s : State) (n : Nat), (Instr.rangeRegisterWrite f).ready s → n < 32 →
    let v := s.g (hReg f.h)
    let r := s.range n
    let i := Instr.rangeRegisterWrite f
    let writes (x : RangeReg) : Prop := exec i s = .next (goesTo
      { s with ranges := s.ranges.setIfInBounds n x } (following s.core.heads s.core.pc))
    let plain := (r.ctl.extractLsb' 0 2).toNat = 0
    (f.imm.toNat = 0x800 + 4 * n →
      (plain ∧ v.toNat % 2 ^ 16 = 0 ∧ v.toNat < 2 ^ 50 → writes { r with base := v }) ∧
      (¬(plain ∧ v.toNat % 2 ^ 16 = 0 ∧ v.toNat < 2 ^ 50) → Raises i s 3 0)) ∧
    (f.imm.toNat = 0x801 + 4 * n →
      (plain ∧ v.toNat % 2 ^ 16 = 0 ∧ v.toNat < 2 ^ 44 → writes { r with len := v }) ∧
      (¬(plain ∧ v.toNat % 2 ^ 16 = 0 ∧ v.toNat < 2 ^ 44) → Raises i s 3 0)) ∧
    (f.imm.toNat = 0x802 + 4 * n →
      (plain ∧ v.toNat % 2 ^ 6 = 0 ∧ v.toNat < 2 ^ 50 → writes { r with store := v }) ∧
      (¬(plain ∧ v.toNat % 2 ^ 6 = 0 ∧ v.toNat < 2 ^ 50) → Raises i s 3 0)) ∧
    (f.imm.toNat = 0x803 + 4 * n →
      (¬ControlRefused r v → writes { r with ctl := v }) ∧ (ControlRefused r v → Raises i s 3 0))

/-- R332, R427, R429, R445: SWR of the codec counters, CCRUN, CCTL and CDREL. A core that CCRUN restarts runs at K, on
the K bank (R425); a die that CDREL releases begins step 7 of R444. -/
def Sys2Proof.Claims.ControlWritesAct : Prop :=
  (∀ (f : FIM) (s : State) (n : Nat), (Instr.cdloss f).ready s → n < 32 →
    let v := s.g (hReg f.h)
    (∀ d, d < 4 → (s.die d).resigned = false) →
    ∃ t, exec (.cdloss f) s = .next t ∧ t.core.pc = following s.core.heads s.core.pc ∧ t.mem = s.mem ∧
      (f.imm.toNat = 0x100 + n → (t.die 0).loss.getD n 0 = v ∧ ∀ d, 0 < d → d < 4 → (t.die d).loss.getD n 0 = 0) ∧
      (f.imm.toNat = 0x120 + n → (t.die 0).clamp.getD n 0 = v ∧ ∀ d, 0 < d → d < 4 → (t.die d).clamp.getD n 0 = 0) ∧
      (f.imm.toNat = 0x140 + n → (t.die 0).spec.getD n 0 = v ∧ ∀ d, 0 < d → d < 4 → (t.die d).spec.getD n 0 = 0)) ∧
  (∀ (f : FIM) (s : State), (Instr.ccrun f).ready s →
    let v := s.g (hReg f.h)
    (2 ^ 32 ≤ v.toNat → Raises (.ccrun f) s 3 0) ∧
    (v.toNat < 2 ^ 32 → ∃ t, exec (.ccrun f) s = .next t ∧ ∀ n, n < 32 → s.cur ≠ .cc n →
      let x := s.seqD (.cc n)
      let y := t.seqD (.cc n)
      let restarts := v.getLsbD n = true ∧ x.run = .halted ∧ (s.die (n / 8)).resigned = false
      (restarts → y.run = .running ∧ y.priv = .k ∧ y.pc = x.epc ∧
        y.bank = (if x.priv = .k then x.bank else x.other) ∧ t.regs.ccrun.getLsbD n = true) ∧
      (¬restarts → y = x ∧ t.regs.ccrun.getLsbD n = s.regs.ccrun.getLsbD n))) ∧
  (∀ (f : FIM) (s : State), (Instr.cctl f).ready s →
    let v := s.g (hReg f.h)
    let c := s.core.cc.ctxsel.toNat
    let next := following s.core.heads s.core.pc
    (2 ≤ v.toNat → Raises (.cctl f) s 3 0) ∧
    (v.toNat < 2 → c = 0 → exec (.cctl f) s = .next (goesTo s next)) ∧
    (v = 1 → c ≠ 0 → (s.ctx c).enable = false →
      exec (.cctl f) s = .next (goesTo (s.modCtx c fun _ => { Context.reset with enable := true }) next)) ∧
    (v = 0 → c ≠ 0 → s.ctxBusy c = true → Raises (.cctl f) s 3 0) ∧
    (v = 0 → c ≠ 0 → s.ctxBusy c = false →
      exec (.cctl f) s = .next (goesTo (s.modCtx c fun x => { x with enable := false }) next))) ∧
  ∀ (f : FIM) (s : State), (Instr.cdrel f).ready s →
    let v := s.g (hReg f.h)
    let clears := s.regs.cdrel.setWidth 64 &&& ~~~v ≠ 0
    (16 ≤ v.toNat ∨ clears → Raises (.cdrel f) s 3 0) ∧
    (v.toNat < 16 → ¬clears → ∃ t, exec (.cdrel f) s = .next t ∧ t.regs = { s.regs with cdrel := v.setWidth 4 } ∧
      ∀ d, d < 4 → t.die d = { s.die d with released := (s.die d).released || v.getLsbD d } ∧
        (v.getLsbD d = true → (s.die d).released = false → (d, s.timeOf s.cur) ∈ t.mgmt.rising))

/-- R257: SWR of KPOST at S, the vector state being saved: RELEASE is cleared, KPOSTED set, the record posted with the
worker's trap registers, and the worker parks. -/
def Sys2Proof.Claims.KpostParksTheWorker : Prop :=
  ∀ (f : FIM) (s s2 s3 : State) (w : WKey),
    (Instr.kpost f).ready s → s.cur = .worker w → s.vecIdle s.cur = true → s.framePending s.cur = false →
    s.core.w.vsaved = true → s.frameWrite w 0x1F8 (List.replicate 8 0) = some s2 →
    s2.frameModify w 8 (2 ^ 18) (2 ^ 18) = some s3 →
    ∃ u, exec (.kpost f) s = .next u ∧ u.core = { s.core with run := .parked .kpost } ∧ u.mem = s3.mem ∧
      u.kfqWaiting = s3.kfqWaiting ++ [{
        frame := s3.frameVa w, operand := s.g (hReg f.h), cause := s.core.cause, epc := s.core.epc,
        eaddr := s.core.eaddr, eidx := s.core.eidx.toNat, ctx := w.ctx, slot := w.slot, wid := w.wid,
        nested := false, direct := false }]

/-! ## Scalar memory -/

namespace Sys2Proof.Claims

/-- The access of n bytes at va may be made now (R117, R163): it is aligned, every check of its page passes, it reaches
no device register, and nothing of the sequencer comes before it. It is at pa of a page of a kind, and `u` is the state
with the page's bits of use set (R432). -/
def Opens (s : State) (w : Want) (va : Word) (n pa : Nat) (kind : PageKind) (u : State) : Prop :=
  va.toNat % n = 0 ∧ ∃ l k rest, s.checkAccess (s.accessor s.cur) w va n = .ok l ∧ reachesDevice l = false ∧
    piecesOf l = (pa, kind, k) :: rest ∧ s.ordering s.cur = false ∧ s.overlapsQueue pa n = false ∧
    u = s.markAll l w.wr

/-- The message of the current sequencer for n bytes at va and pa, on the way to their home slice (R297, R409). It
leaves once the release `rel`, if there is one, of a scope and of what came before a moment, is complete (R164, R169).
-/
def toHomeAfter (s : State) (rel : Option (Nat × Nat)) (va : Word) (pa n : Nat) (body : Body) : Msg :=
  { id := s.nextId, src := s.cur, path := s.pathOf s.cur, ctx := some (s.core.ctxOn s.cur), rel := rel, pa := pa, va := va,
    len := n, body := body, hops := s.route (s.dieOf s.cur) (s.homeDie pa), dest := s.homeOf pa, tag := none,
    floor := 0, reply := none }

/-- The same where it waits for no release. -/
def toHome (s : State) (va : Word) (pa n : Nat) (body : Body) : Msg := toHomeAfter s none va pa n body

/-- The state with one more message under way. -/
def withMsg (s : State) (m : Msg) : State :=
  { s with net := { s.net with msgs := s.net.msgs ++ [m] }, nextId := s.nextId + 1 }

/-- The current sequencer's register r is empty from now on; g0 never is (R118). -/
def emptied (s : State) (r : BitVec 5) : State :=
  { s with core := { s.core with bank := { s.core.bank with
      empty := if r = 0 then s.core.bank.empty else s.core.bank.empty ||| BitVec.twoPow 32 r.toNat } } }

/-- The PC of R58 after the current instruction of `s`. -/
def onward (s u : State) : State := goesTo u (following s.core.heads s.core.pc)

/-- The word that `size` bytes extend to, with or without sign (R162, R164). -/
def extended (size : Nat) (sign : Bool) (v : Nat) : Word :=
  if sign then BitVec.ofInt 64 (Int.bmod v (2 ^ (8 * size))) else BitVec.ofNat 64 (v % 2 ^ (8 * size))

/-- The effective address of LD and ST (R162). -/
def effective (s : State) (f : FIM) : Word := BitVec.ofInt 64 ((s.g f.ga).toInt + (f.imm.extractLsb' 4 20).toInt)

/-- SIZE of LD and ST (R162). -/
def bytesOf (f : FIM) : Nat := 2 ^ (f.imm.extractLsb' 2 2).toNat

/-- The bytes of one line that n bytes from a physical address take, the lowest address lowest (R7): the data and the
mask of their bits. -/
def InLine (pa n : Nat) (v : Word) (d m : LineBits) : Prop :=
  ∀ k, k < 64 →
    (pa % 64 ≤ k ∧ k < pa % 64 + n →
      m.extractLsb' (8 * k) 8 = 0xFF#8 ∧ d.extractLsb' (8 * k) 8 = BitVec.ofNat 8 (v.toNat / 2 ^ (8 * (k - pa % 64)))) ∧
    (¬(pa % 64 ≤ k ∧ k < pa % 64 + n) → m.extractLsb' (8 * k) 8 = 0#8 ∧ d.extractLsb' (8 * k) 8 = 0#8)

end Sys2Proof.Claims

/-- R118, R162, R163: LD is sent to its home slice with its destination empty until the value lands; a misaligned
address raises MISALIGNED (condition 9). -/
def Sys2Proof.Claims.LoadIsSent : Prop :=
  ∀ (f : FIM) (s : State), (Instr.ld f).ready s →
    let va := effective s f
    (va.toNat % bytesOf f ≠ 0 → Raises (.ld f) s 9 va) ∧
    ∀ pa kind u, Opens s wantLoad va (bytesOf f) pa kind u →
      exec (.ld f) s = .next (onward s (emptied (withMsg u (toHome u va pa (bytesOf f)
        (.access .load kind (.g (hReg f.h) (bytesOf f) (f.imm.getLsbD 1)) none))) (hReg f.h)))

/-- R162, R303, R344: ST of a worker to a SHARED or INPLACE page goes to its cluster's stage buffer, that of another
sequencer to the home slice, and a store to a PRIVATE page into the core's cache; the bytes are the low ones of gs. -/
def Sys2Proof.Claims.StoreGoesWhereItIsHeld : Prop :=
  ∀ (f : FIM) (s : State), (Instr.st f).ready s →
    let va := effective s f
    let v := s.g (hReg f.h)
    (va.toNat % bytesOf f ≠ 0 → Raises (.st f) s 9 va) ∧
    ∀ pa kind u, Opens s wantStore va (bytesOf f) pa kind u → ∃ d m, InLine pa (bytesOf f) v d m ∧
      (kind = .shared ∨ kind = .inplace →
        (kindOf s.cur = .vc → exec (.st f) s =
          .next (onward s (withMsg u (toHome u va pa (bytesOf f) (.staged (.store d m) 0))))) ∧
        (kindOf s.cur ≠ .vc → exec (.st f) s =
          .next (onward s (withMsg u (toHome u va pa (bytesOf f) (.access (.store d m) kind .none none)))))) ∧
      (kind = .priv ∨ kind = .readonly → u.linePending s.cur (64 * (pa / 64)) = false → exec (.st f) s =
        .next (onward s (u.writeCached (u.cacheOf s.cur) (u.pathOf s.cur) (u.dieOf s.cur) (64 * (pa / 64)) d m)))

namespace Sys2Proof.Claims

/-- The line of pa is the home slice's alone as far as this sequencer's cluster goes: it has no staged entry for it, and
no staged store of the sequencer to it is under way (R305). -/
def NothingStaged (s : State) (pa : Nat) : Prop :=
  (∀ m ∈ s.net.msgs, m.src = s.cur → lineOf m.pa = lineOf pa → ∀ op e, m.body ≠ .staged op e) ∧
  ∀ c, s.clusterOf s.cur = some c → s.staged c (lineOf pa) = none

/-- The release that an AMO or CAS waits for before it acts: none, or one at its scope of all that came before (R164).
-/
def ownRelease (u : State) (f : FTR) : Option (Nat × Nat) :=
  if f.imm.getLsbD 1 then some ((f.imm.extractLsb' 2 3).toNat, u.nextId) else none

/-- The bytes W gives AMO and CAS (R164). -/
def wordBytes (f : FTR) : Nat := if f.imm.getLsbD 5 then 8 else 4

end Sys2Proof.Claims

/-- R164, R165, R166: AMO, CAS and RED are sent to the home slice, AMO and CAS with their destination empty and, where
they release, with the wait for their release; a .co or .cl reduction of a worker goes to its cluster's stage buffer.
-/
def Sys2Proof.Claims.AtomicsAreSent : Prop :=
  (∀ (op : AmoOp) (f : FTR) (s : State), (Instr.amo op f).ready s →
    let va := s.g f.ga
    let n := wordBytes f
    (va.toNat % n ≠ 0 → Raises (.amo op f) s 9 va) ∧
    ∀ pa kind u, Opens s wantAtomic va n pa kind u → NothingStaged u pa →
      exec (.amo op f) s = .next (onward s (emptied (withMsg u (toHomeAfter u (ownRelease u f) va pa n
        (.access (.amo op n (s.g f.gb)) kind (.g (hReg f.h) n (op != .minn && op != .maxn))
          (if f.imm.getLsbD 0 then some (f.imm.extractLsb' 2 3) else none)))) (hReg f.h)))) ∧
  (∀ (f : FTR) (s : State), (Instr.cas f).ready s →
    let va := s.g f.ga
    let n := wordBytes f
    (va.toNat % n ≠ 0 → Raises (.cas f) s 9 va) ∧
    ∀ pa kind u, Opens s wantAtomic va n pa kind u → NothingStaged u pa →
      exec (.cas f) s = .next (onward s (emptied (withMsg u (toHomeAfter u (ownRelease u f) va pa n
        (.access (.cas n (s.g f.gb) (s.g f.gc)) kind (.g (hReg f.h) n true)
          (if f.imm.getLsbD 0 then some (f.imm.extractLsb' 2 3) else none)))) (hReg f.h)))) ∧
  ∀ (op : RedOp) (f : FTR) (s : State), (Instr.red op f).ready s →
    let va := s.g f.ga
    let et := (f.imm.extractLsb' 5 4).toNat
    let n := etWidth et / 8
    let scope := (f.imm.extractLsb' 2 3).toNat
    (va.toNat % n ≠ 0 → Raises (.red op f) s 9 va) ∧
    ∀ pa kind u, Opens s wantAtomic va n pa kind u →
      (scope ≤ 1 ∧ kindOf s.cur = .vc →
        exec (.red op f) s = .next (onward s (withMsg u (toHome u va pa n (.staged (.red op et (s.g f.gb)) 0))))) ∧
      (¬(scope ≤ 1 ∧ kindOf s.cur = .vc) → NothingStaged u pa →
        exec (.red op f) s =
          .next (onward s (withMsg u (toHome u va pa n (.access (.red op et (s.g f.gb)) kind .none none)))))

namespace Sys2Proof.Claims

/-- A copy of a PRIVATE page in the L1 of a sequencer. -/
def privateIn (s : State) (q : SeqId) (c : CacheLine) : Bool := s.cacheOf q == some c.owner && !c.readonly

/-- What an acquire at a scope leaves (R301, R343, R347): from cluster scope, of the copies of PRIVATE pages in the
sequencer's L1, the clean ones are gone and the dirty ones hold only the bytes the core has written; from device scope
the guest lines of its die are gone; nothing else changes. -/
def acquired (s : State) (q : SeqId) (scope : Nat) : State :=
  { s with mem := { s.mem with
      caches := if 1 ≤ scope then
          (s.mem.caches.filter fun c => !(privateIn s q c && c.mask == 0)).map fun c =>
            if privateIn s q c then { c with stale := true } else c
        else s.mem.caches
      lines := if 3 ≤ scope then s.mem.lines.filter fun l => !(l.kind == .guest && l.die == s.dieOf q)
        else s.mem.lines } }

end Sys2Proof.Claims

/-- R167, R169: PREF has no effect. A fence that acquires completes once its release, if it has one, is complete and
its earlier loads have their values, and then acquires. One that only releases completes at once: its release, with
any that an earlier fence still owes, is begun, and a later store of a worker to a SHARED or INPLACE page goes on with
the wait for it; a message that waits leaves no sooner than its release, and those of the queue before it, are
complete. -/
def Sys2Proof.Claims.FencesComplete : Prop :=
  (∀ (f : FIM) (s : State), (Instr.pref f).ready s → exec (.pref f) s = .next (onward s s)) ∧
  (∀ (f : FIM) (s u : State), (Instr.fence f).ready s → s.waitsVector = false → s.ordering s.cur = false →
    let scope := (f.imm.extractLsb' 2 3).toNat
    (f.imm.getLsbD 0 = false → f.imm.getLsbD 1 = false → exec (.fence f) s = .next (onward s s)) ∧
    (f.imm.getLsbD 0 = true → (if f.imm.getLsbD 1 then s.release s.cur scope = (u, true) else s = u) →
      u.loadsPending s.cur = false → exec (.fence f) s = .next (onward s (acquired u s.cur scope))) ∧
    ∀ done, f.imm.getLsbD 0 = false → f.imm.getLsbD 1 = true →
      let owed := match s.core.relDue with
        | some (k, _) => max k scope
        | none => scope
      State.release { s with core := { s.core with relDue := some (owed, s.nextId) } } s.cur owed = (u, done) →
      exec (.fence f) s =
        .next (onward s (if done then { u with core := { u.core with relDue := none } } else u))) ∧
  (∀ (f : FIM) (s v : State) (scope n : Nat), (Instr.st f).ready { s with core := { s.core with relDue := none } } →
    s.core.relDue = some (scope, n) → s.releaseBelow s.cur scope n = (v, false) → kindOf s.cur = .vc →
    let va := effective s f
    ∀ pa kind u, kind = .shared ∨ kind = .inplace → Opens v wantStore va (bytesOf f) pa kind u →
      ∃ d m, InLine pa (bytesOf f) (s.g (hReg f.h)) d m ∧ exec (.st f) s =
        .next (onward s (withMsg u (toHomeAfter u (some (scope, n)) va pa (bytesOf f) (.staged (.store d m) 0))))) ∧
  ∀ (s u : State) (m scope n : Nat) (x : Msg) (op : MemOp) (e : Nat) (kind : PageKind) (dest : Dest) (acq : Option (BitVec 3))
      (done : Bool), s.msg? m = some x → x.rel = some (scope, n) →
    (if ∃ y ∈ (s.seqD x.src).w.queue, y.touches ∧ y.id < n then (s, false) else s.releaseBelow x.src scope n) = (u, done) →
    let t := if done then { u with net := { u.net with
      msgs := u.net.msgs.map fun y => if y.id = m then { y with rel := none } else y } } else u
    (x.body = .staged op e → exec (.stage m true) s = .next t ∧ exec (.stage m false) s = .next t) ∧
    (x.body = .access op kind dest acq → (∀ o et v, op ≠ .red o et v) → exec (.homeSliceAccess m false) s = .next t)

/-- R343: what a complete release leaves. Every access of the issuer is performed; from cluster scope no copy in its
L1 holds a written byte; from die scope its cluster's stage buffer holds nothing and no publish of it is under way;
from device scope no write of a control core is; at system scope every written CXL line outside windows is with its
device. -/
def Sys2Proof.Claims.ReleaseIsComplete : Prop :=
  ∀ (s u : State) (q : SeqId) (scope : Nat), s.release q scope = (u, true) →
    s.unperformed q = false ∧
    (1 ≤ scope → ∀ c ∈ u.mem.caches, s.cacheOf q = some c.owner → c.mask = 0) ∧
    (2 ≤ scope → ∀ k, s.clusterOf q = some k → u.unpublished k = false) ∧
    (3 ≤ scope → s.clusterOf q = none → u.writesOnWay (s.pathOf q) = false) ∧
    (4 ≤ scope → ∀ l ∈ u.mem.lines, l.kind = .home → rangeOf l.addr = 3 → l.window = none → l.dirty = none) ∧
    u.core = s.core ∧ u.seqs = s.seqs

/-- R170: WAITT returns TIME once it has reached ga, and parks until then; the expiry returns it. -/
def Sys2Proof.Claims.TimedWaits : Prop :=
  (∀ (f : FRG) (s : State), (Instr.waitt f).ready s →
    let now := (s.die (s.dieOf s.cur)).time
    ((s.g f.ga).toNat ≤ now.toNat → Gives (.waitt f) s f.gd now) ∧
    (now.toNat < (s.g f.ga).toNat →
      exec (.waitt f) s = .next { s with core := { s.core with run := .parked (.waitt f.gd (s.g f.ga)) } })) ∧
  ∀ (q : SeqId) (s : State) (gd : BitVec 5) (till : Word), (s.seqD q).run = .parked (.waitt gd till) →
    let now := (s.die (s.dieOf q)).time
    till.toNat ≤ now.toNat → exec (.waittExpiry q) s = .next ((s.wake q).put gd now)

namespace Sys2Proof.Claims

/-- What WAITM does with the word it reads (R171): `s` is the state before the read, `v` the one after it. It completes,
with its acquire, where the condition holds; completes without one from the deadline on; or parks. -/
def Compared (f : FTR) (pa : Nat) (s : State) (o : Host.Outcome State Fault Refusal) : Prop :=
  ∀ v x c, s.readHome pa 8 = (v, x, none) → Cond.ofCode (f.imm.extractLsb' 5 3) = some c →
    let w := BitVec.ofNat 64 x
    let late := s.g f.gc ≠ 0 ∧ (s.g f.gc).toNat ≤ (s.timeOf s.cur).toNat
    (Taken c w (s.g f.gb) → f.imm.getLsbD 0 = false → o = .next (v.put (hReg f.h) w)) ∧
    (Taken c w (s.g f.gb) → f.imm.getLsbD 0 = true →
      o = .next ((acquired v s.cur (f.imm.extractLsb' 2 3).toNat).put (hReg f.h) w)) ∧
    (¬Taken c w (s.g f.gb) → late → o = .next (v.put (hReg f.h) w)) ∧
    (¬Taken c w (s.g f.gb) → ¬late → o = .next { v with core := { v.core with run := .parked (.waitm f pa) } })

end Sys2Proof.Claims

/-- R171: WAITM compares the word at its home slice; a write to its line, or the deadline, has it compared again, unless
its line or its context has been lost with a die, which raises DIE-LOST (condition 28) with source MEM (R418). -/
def Sys2Proof.Claims.WaitmComparesTheWord : Prop :=
  (∀ (f : FTR) (s u : State) (pa : Nat) (kind : PageKind), (Instr.waitm f).ready s → s.waitsVector = false →
    Opens s wantWaitm (s.g f.ga) 8 pa kind u → u.linePending s.cur (lineOf pa) = false →
    Compared f pa u (exec (.waitm f) s)) ∧
  ∀ (f : FTR) (s : State) (q : SeqId) (pa : Nat), (s.seqD q).run = .parked (.waitm f pa) →
    let v := s.wake q
    let gone := v.inService (v.homeDie pa) = false ∨ ((v.ctx v.curCtx).lost = true ∧ v.core.priv ≠ .k)
    let late := (s.seqD q).bank.read f.gc
    (¬gone → Compared f pa v (exec (.waitmWake q) s)) ∧
    (gone → exec (.waitmWake q) s = .next (v.raiseFrom 5 28 (v.g f.ga))) ∧
    (late ≠ 0 → late.toNat ≤ (s.timeOf q).toNat → (¬gone → Compared f pa v (exec (.waitmDeadline q) s)) ∧
      (gone → exec (.waitmDeadline q) s = .next (v.raiseFrom 5 28 (v.g f.ga))))

/-! ## Memory-side parts -/

namespace Sys2Proof.Claims

/-- The bytes of a line at its home: the slice's copy, or what a fill of it brings (R335). -/
def lineData (s : State) (la : Nat) : LineBits :=
  match s.homeCopy la with
  | some l => l.data
  | none => (s.fetchLine la).1

/-- The line is not poisoned at its home (R313). -/
def Sound (s : State) (la : Nat) : Prop :=
  match s.homeCopy la with
  | some l => l.poison = false
  | none => (s.fetchLine la).2.1 = none

/-- Message x is an access of a SHARED or INPLACE page that may be taken at its home slice, with number m; no holder
but its own cluster is to be checked, its cluster has no data of its own for the line, and no transaction tag (R307); no
access reaches a line of the coded aperture that no window covers (R11, R328). -/
def Arrives (s : State) (m : Nat) (x : Msg) (op : MemOp) (dest : Dest) (acq : Option (BitVec 3)) : Prop :=
  s.msg? m = some x ∧ s.atHome x = true ∧ x.tag = none ∧ s.toCheck x = [] ∧
  (∃ kind, (kind = .shared ∨ kind = .inplace) ∧ x.body = .access op kind dest acq) ∧
  (∀ c, x.cluster = some c → s.ownBytes c (lineOf x.pa) = []) ∧ Sound s (lineOf x.pa) ∧
  s.uncovered (lineOf x.pa) = false

/-- A value is on its way into a register of the issuer of x (R118). -/
def Lands (s t : State) (x : Msg) (reg : BitVec 5) (v : Word) (acq : Option (BitVec 3)) : Prop :=
  t.net.landings = s.net.landings ++ [{ id := s.nextId, src := x.src, reg := reg, val := v, poison := none, acq := acq }]

/-- The message has been taken, and nothing it reads changed but its line, which is now `d`. -/
def LineBecomes (s t : State) (x : Msg) (d : LineBits) : Prop :=
  lineData t (lineOf x.pa) = d ∧ t.core = s.core ∧ t.seqs = s.seqs ∧ t.net.msgs = s.net.msgs.filter fun y => y.id != x.id

/-- An AMO's new value of `8 * n` bits (R164). -/
def amoNew (op : AmoOp) (n old b : Nat) : Nat :=
  let a := old % 2 ^ (8 * n)
  let c := b % 2 ^ (8 * n)
  match op with
  | .add => (a + c) % 2 ^ (8 * n)
  | .and => a &&& c
  | .or => a ||| c
  | .xor => a ^^^ c
  | .swap => c
  | .min => if Int.bmod a (2 ^ (8 * n)) ≤ Int.bmod c (2 ^ (8 * n)) then a else c
  | .max => if Int.bmod a (2 ^ (8 * n)) ≤ Int.bmod c (2 ^ (8 * n)) then c else a
  | .minn => min a c
  | .maxn => max a c

end Sys2Proof.Claims

/-- R164, R165, R344: at the home slice a load fixes its value; a store merges its bits; an AMO and a CAS read the old
value and write in one action. The value is on its way to the issuer's register. -/
def Sys2Proof.Claims.HomeSlicePerformsAccesses : Prop :=
  ∀ (s : State) (m : Nat) (x : Msg),
    let la := lineOf x.pa
    let off := x.pa % 64
    let ev := Instr.homeSliceAccess m false
    let old (n : Nat) : Nat := ((lineData s la).extractLsb' (8 * off) (8 * n)).toNat
    (∀ reg sign acq, Arrives s m x .load (.g reg x.len sign) acq → ∃ t, exec ev s = .next t ∧
      Lands s t x reg (extended x.len sign (old x.len)) acq ∧ LineBecomes s t x (lineData s la)) ∧
    (∀ d k, Arrives s m x (.store d k) .none none → ∃ t, exec ev s = .next t ∧
      t.net.landings = s.net.landings ∧ LineBecomes s t x ((lineData s la &&& ~~~k) ||| (d &&& k))) ∧
    (∀ op n b reg sign acq, n = 4 ∨ n = 8 → Arrives s m x (.amo op n b) (.g reg n sign) acq →
      ∃ t d k, exec ev s = .next t ∧ Lands s t x reg (extended n sign (old n)) acq ∧
        InLine off n (BitVec.ofNat 64 (amoNew op n (old n) b.toNat)) d k ∧
        LineBecomes s t x ((lineData s la &&& ~~~k) ||| (d &&& k))) ∧
    ∀ n a b reg sign acq, n = 4 ∨ n = 8 → Arrives s m x (.cas n a b) (.g reg n sign) acq →
      ∃ t d k, exec ev s = .next t ∧ Lands s t x reg (extended n sign (old n)) acq ∧ InLine off n b d k ∧
        LineBecomes s t x (if old n = a.toNat % 2 ^ (8 * n) then (lineData s la &&& ~~~k) ||| (d &&& k)
          else lineData s la)

/-- R307: an access to a line with other holders is held, and each of them is sent a check. -/
def Sys2Proof.Claims.OtherHoldersAreChecked : Prop :=
  ∀ (s : State) (m : Nat) (x : Msg) (op : MemOp) (kind : PageKind) (dest : Dest) (acq : Option (BitVec 3)),
    s.msg? m = some x → s.atHome x = true → x.tag = none → x.body = .access op kind dest acq →
    kind = .shared ∨ kind = .inplace → (∀ o e v, op ≠ .red o e v) → s.toCheck x ≠ [] →
    ∃ t, exec (.homeSliceAccess m false) s = .next t ∧
      t.net.held = s.net.held ++ [{ msg := x, waiting := s.toCheck x }] ∧ t.net.landings = s.net.landings ∧
      (∀ c ∈ s.toCheck x, ∃ y ∈ t.net.msgs, y.body = .check c m ∧ y.pa = lineOf x.pa ∧ y.dest = 256 + c) ∧
      t.core = s.core ∧ t.seqs = s.seqs

/-- R166, R310: a reduction of integers is applied to its word once, at the home slice. -/
def Sys2Proof.Claims.ReductionsApplyOnce : Prop :=
  ∀ (s : State) (m : Nat) (x : Msg) (op : RedOp) (et : Nat) (b : Word),
    Arrives s m x (.red op et b) .none none → et = 2 ∨ et = 3 ∨ et = 6 ∨ et = 7 →
    let n := etWidth et / 8
    let off := x.pa % 64
    let la := lineOf x.pa
    let old := ((lineData s la).extractLsb' (8 * off) (8 * n)).toNat
    let new := amoNew (match op, decide (et ≤ 3) with
      | .add, _ => .add
      | .min, true => .min
      | .min, false => .minn
      | .max, true => .max
      | .max, false => .maxn) n old b.toNat
    ∃ t d k, exec (.reductionUpdate m false) s = .next t ∧ InLine off n (BitVec.ofNat 64 new) d k ∧
      LineBecomes s t x ((lineData s la &&& ~~~k) ||| (d &&& k))

/-- R118, R121: a landing fills its register; one with an error leaves a mark in it; one that acquires does it then. -/
def Sys2Proof.Claims.LandingFillsTheRegister : Prop :=
  ∀ (s : State) (k : Nat) (l : Landing) (y : Seq),
    s.net.landings.find? (fun x => x.id == k) = some l → s.getSeq l.src = some y → ∃ t, exec (.landing k) s = .next t ∧
      t.net = { s.net with landings := s.net.landings.filter fun x => x.id != k } ∧
      (t.seqD l.src).bank.isEmpty l.reg = false ∧
      (l.reg ≠ 0 → (t.seqD l.src).bank.mark l.reg = l.poison ∧
        (l.poison = none → (t.seqD l.src).bank.read l.reg = l.val)) ∧
      (∀ r, r ≠ l.reg → (t.seqD l.src).bank.read r = y.bank.read r ∧
        (t.seqD l.src).bank.isEmpty r = y.bank.isEmpty r ∧ (t.seqD l.src).bank.mark r = y.bank.mark r) ∧
      { t.seqD l.src with bank := y.bank } = y ∧
      t.mem = match l.acq with
        | none => s.mem
        | some sc => (acquired s l.src sc.toNat).mem

/-- R303, R304, R344: a worker's store enters its cluster's stage buffer, which sends the holder record of a line that
enters; a store to a line already there is merged; a reduction is kept pending on its word, and may combine. -/
def Sys2Proof.Claims.StageBufferTakesStores : Prop :=
  ∀ (s : State) (m e : Nat) (x : Msg) (comb : Bool), s.msg? m = some x → x.rel = none → s.stageBehind x = false →
    let c := x.path
    let la := lineOf x.pa
    let entering (y : StageEntry) : State :=
      { s with
        mem := { s.mem with stage := s.mem.stage ++ [y] }
        net := { s.net with msgs := (s.net.msgs.filter fun z => z.id != m) ++ [{
          id := s.nextId, src := x.src, path := c, ctx := x.ctx, rel := none, pa := la, va := x.va, len := 64, body := .record,
          hops := s.route (c / 16) (s.homeDie la), dest := s.homeOf la, tag := none, floor := 0, reply := none }] }
        nextId := s.nextId + 1 }
    let room := (s.mem.stage.filter fun y => y.cluster == c).length < 1024
    (∀ d k, x.body = .staged (.store d k) e → s.staged c la = none → room → exec (.stage m comb) s = .next
      (entering { cluster := c, addr := la, data := d &&& k, mask := k, reds := [], poison := false })) ∧
    (∀ d k y, x.body = .staged (.store d k) e → s.staged c la = some y → y.reds = [] →
      ∃ t, exec (.stage m comb) s = .next t ∧ t.core = s.core ∧ t.mem.arrays = s.mem.arrays ∧
        t.staged c la = some { y with data := (y.data &&& ~~~k) ||| (d &&& k), mask := y.mask ||| k }) ∧
    (∀ op et v, x.body = .staged (.red op et v) e → s.staged c la = none → room → exec (.stage m comb) s = .next
      (entering { cluster := c, addr := la, data := 0, mask := 0, poison := false,
                  reds := [{ off := x.pa % 64, op := op, et := et, val := v }] })) ∧
    ∀ v y r, x.body = .staged (.red .add 3 v) e → comb = true → s.staged c la = some y → y.mask = 0 → y.reds = [r] →
      r.off = x.pa % 64 → r.op = .add → r.et = 3 →
      ∃ t, exec (.stage m comb) s = .next t ∧ t.staged c la = some { y with reds := [{ r with val := r.val + v }] }

namespace Sys2Proof.Claims

/-- The directory names no cluster but c as a holder of a line (R306). -/
def OnlyFrom (s : State) (c la : Nat) : Prop :=
  ∀ e, s.dirEntry la = some e → ∀ k, k < 64 → k ≠ c → e.holders.getLsbD k = false

/-- The state without a message. -/
def withoutMsg (s : State) (m : Nat) : State :=
  { s with net := { s.net with msgs := s.net.msgs.filter fun z => z.id != m } }

/-- The entries of the directory of the slice of a line (R306). -/
def dirSize (s : State) (la : Nat) : Nat :=
  (s.mem.dir.filter fun y => y.die == s.homeDie la && y.slice == sliceOf la).length

/-- What a publish of a line from cluster c, or its answer, leaves of the directory (R306): its bit clears once it has
no staged data in the entry's span, there or on its way, and an entry without holders is freed. -/
def Cleared (s t : State) (c la : Nat) : Prop :=
  (s.dirEntry la = none → t.mem.dir = s.mem.dir) ∧
  ∀ e, s.dirEntry la = some e →
    let h := e.holders &&& ~~~(BitVec.twoPow 64 c)
    let still := s.holdsIn c e = true ∨ s.onWayTo c e = true
    (still → t.mem.dir = s.mem.dir) ∧
    (¬still → (h = 0 → t.mem.dir = s.mem.dir.filter fun y => y != e) ∧
      (h ≠ 0 → t.mem.dir = s.mem.dir.map fun y => if y = e then { y with holders := h } else y))

end Sys2Proof.Claims

/-- R305, R306, R307, R344: a holder record enters the directory, whose new entry covers 64 KiB or what of it no other
entry tracks; a publish is applied to its line as one action; a holder that is checked publishes its entry or answers
that it has none; an access held for the last answer is then performed. -/
def Sys2Proof.Claims.HoldersPublishAndAnswer : Prop :=
  ∀ (s : State) (m : Nat) (x : Msg), s.msg? m = some x →
    let s0 := withoutMsg s m
    let rest := s0.net.msgs
    let now := (s.die (s.homeDie x.pa)).time.toNat
    (x.body = .record → s.atHome x = true → OnlyFrom s x.path x.pa → ∃ t, exec (.holderRecord m) s = .next t ∧
      (∀ e, s.dirEntry x.pa = some e → t.mem = { s.mem with dir := s.mem.dir.map fun y => if y = e then
        { y with holders := y.holders ||| BitVec.twoPow 64 x.path, touched := now } else y } ∧ t.net.msgs = rest) ∧
      (s.dirEntry x.pa = none → dirSize s x.pa < 4096 →
        ∃ n, 6 ≤ n ∧ n ≤ 16 ∧ (n = 6 ∨ s.untracked x.pa n = true) ∧
          (∀ k, n < k → k ≤ 16 → s.untracked x.pa k = false) ∧ t.net.msgs = rest ∧
          t.mem = { s.mem with dir := {
            die := s.homeDie x.pa, slice := sliceOf x.pa, base := 2 ^ n * (x.pa / 2 ^ n), size := n,
            holders := BitVec.twoPow 64 x.path, touched := now } :: s.mem.dir })) ∧
    (∀ d k chk, x.body = .publish d k [] false chk → s.atHome x = true → x.tag = none → s.net.held = [] →
      OnlyFrom s x.path x.pa → s.uncovered x.pa = false →
      ∃ t, exec (.publish m false) s = .next t ∧ lineData t x.pa = (lineData s x.pa &&& ~~~k) ||| (d &&& k) ∧
        t.net.msgs = rest ∧ t.core = s.core ∧ Cleared s0 t x.path x.pa) ∧
    (∀ c h, x.body = .check c h → x.hops = [] → ∃ t y, exec (.check m) s = .next t ∧ t.net.msgs = rest ++ [y] ∧
      y.path = c ∧ y.pa = x.pa ∧ y.dest = s.homeOf x.pa ∧ t.staged c x.pa = none ∧ t.core = s.core ∧
      (∀ e, s.staged c x.pa = some e → y.body = .publish e.data e.mask e.reds e.poison true) ∧
      (s.staged c x.pa = none → y.body = .reply c)) ∧
    ∀ c h d k kind, x.body = .reply c → s.atHome x = true → s.net.held = [{ msg := h, waiting := [c] }] →
      lineOf h.pa = x.pa → h.body = .access (.store d k) kind .none none → h.tag = none → s.uncovered x.pa = false →
      ∃ t, exec (.checkReply m) s = .next t ∧ t.net.held = [] ∧ Cleared s0 t c x.pa ∧
        lineData t x.pa = (lineData s x.pa &&& ~~~k) ||| (d &&& k)

/-- R307, R346: what another cluster that the directory names has staged of a line comes home before a holder record
of the line, or a publish of it, takes effect. -/
def Sys2Proof.Claims.OthersComeHomeFirst : Prop :=
  ∀ (s : State) (m : Nat) (x : Msg) (y : StageEntry), s.msg? m = some x → s.atHome x = true →
    (s.mem.stage.filter fun e => e.addr == x.pa && e.cluster != x.path) = [y] → y.reds = [] → y.cluster < 64 →
    (∃ e, s.dirEntry x.pa = some e ∧ e.holders.getLsbD y.cluster = true) → dirSize s x.pa < 4080 →
    (∀ z ∈ s.net.msgs, z.id ≠ m → z.pa = x.pa → ∀ d k r p chk, z.body ≠ .publish d k r p chk) →
    s.uncovered x.pa = false →
    let home := (lineData s x.pa &&& ~~~y.mask) ||| (y.data &&& y.mask)
    (x.body = .record → ∃ t, exec (.holderRecord m) s = .next t ∧ lineData t x.pa = home ∧
      ∀ c, c ≠ x.path → t.staged c x.pa = none) ∧
    ∀ d k chk, x.body = .publish d k [] false chk → x.tag = none → s.net.held = [] →
      ∃ t, exec (.publish m false) s = .next t ∧ lineData t x.pa = (home &&& ~~~k) ||| (d &&& k) ∧
        ∀ c, c ≠ x.path → t.staged c x.pa = none

/-- R306, R308, R325, R432: two sibling pieces of the directory merge; the oldest dirty line of a slice is written to
the arrays, by the bytes stored where it lies in banks that pawns may use (R374, R387), and stays, clean, or is
discarded and posted where it belongs to no window of the aperture; a channel that retrains holds it (R449). -/
def Sys2Proof.Claims.SlicesActAlone : Prop :=
  (∀ (s : State) (die slice base : Nat) (e f : DirEntry),
    let other := if e.base / 2 ^ e.size % 2 = 0 then e.base + 2 ^ e.size else e.base - 2 ^ e.size
    s.mem.dir.find? (fun x => x.die == die && x.slice == slice && x.base == base) = some e →
    s.mem.dir.find? (fun x => x.die == die && x.slice == slice && x.base == other && x.size == e.size) = some f →
    f.holders = e.holders → e.size < 16 → e.touched + 65536 ≤ (s.die die).time.toNat →
    f.touched + 65536 ≤ (s.die die).time.toNat →
    exec (.directoryMerge die slice base) s = .next { s with mem := { s.mem with dir :=
      { e with base := min e.base f.base, size := e.size + 1 } :: s.mem.dir.filter fun x => x != e && x != f } }) ∧
  (∀ (s : State) (die slice : Nat), s.oldestDirty die slice = none → exec (.earlyClean die slice) s = .next s) ∧
  ∀ (s : State) (die slice : Nat) (l : SliceLine), s.oldestDirty die slice = some l →
    (s.retraining l.addr = true → exec (.earlyClean die slice) s = .next s) ∧
    (s.retraining l.addr = false → s.governing l.addr = none → rangeOf l.addr ≠ 4 → Memory.wf s.mem = true →
      ∃ t, exec (.earlyClean die slice) s = .next t ∧ l.window = none ∧
        t.mem.lines = s.mem.lines.map (fun x => if x.same l then { x with dirty := none, blocks := 0, stored := 0 } else x) ∧
        (∀ k, k < 64 → t.byteAt (l.addr + k) = if ¬(l.addr < 2 ^ 38 ∧ l.addr / 2 ^ 14 % 2 = 0) ∨ l.stored.getLsbD k = true then
          l.data.extractLsb' (8 * k) 8 else s.byteAt (l.addr + k)) ∧
        ∀ a, (∀ k, k < 64 → a ≠ l.addr + k) → t.byteAt a = s.byteAt a) ∧
    (s.retraining l.addr = false → s.governing l.addr = none → rangeOf l.addr = 4 →
      ∃ t, exec (.earlyClean die slice) s = .next t ∧ t.mem.lines = s.mem.lines.filter (fun x => !x.same l) ∧
        t.mem.arrays = s.mem.arrays ∧ ∃ p, t.kfqWaiting = s.kfqWaiting ++ [p] ∧ p.cause = 337#9 ∧
          p.eaddr = BitVec.ofNat 64 l.addr ∧ p.ctx = 0 ∧ p.slot = 0 ∧ p.frame = 0)

/-- R343: a peer's write to a CXL line drops the slice's copy, its written bytes reaching the device first, then reaches
the device itself and breaks the reservations on the words it writes; a line that a window pins keeps it waiting. -/
def Sys2Proof.Claims.PeersWriteLines : Prop :=
  ∀ (s : State) (a : Nat) (d : BitVec 512) (k : BitVec 64),
    let la := lineOf a
    let written (i : Nat) : Prop := k.getLsbD i = true
    let unbroken (r : Reservation) : Bool := !(List.range 8).any fun w =>
      k.extractLsb' (8 * w) 8 != 0#8 && r.word == la + 8 * w
    rangeOf la = 3 → s.governing la = none → Memory.wf s.mem = true →
    (s.homeCopy la = none → ∃ t, exec (.backInvalidation ⟨a, d, k⟩) s = .next t ∧ t.mem.lines = s.mem.lines ∧
      t.mem.resv = s.mem.resv.filter unbroken ∧
      ∀ i, i < 64 → t.byteAt (la + i) = if k.getLsbD i then d.extractLsb' (8 * i) 8 else s.byteAt (la + i)) ∧
    ∀ l, s.homeCopy la = some l →
      (l.window ≠ none → exec (.backInvalidation ⟨a, d, k⟩) s = .next s) ∧
      (l.window = none → ∃ t, exec (.backInvalidation ⟨a, d, k⟩) s = .next t ∧
        t.mem.lines = s.mem.lines.filter (fun x => !x.same l) ∧ t.mem.resv = s.mem.resv.filter unbroken ∧
        ∀ i, i < 64 → (written i → t.byteAt (la + i) = d.extractLsb' (8 * i) 8) ∧
          (¬written i → t.byteAt (la + i) = if l.dirty.isSome then l.data.extractLsb' (8 * i) 8
            else s.byteAt (la + i)))

/-- R432, R433: a walk delivers its translation, which the TLB it ends in then gives; where it serves the access that
a sequencer waits to make, the pages of the access are marked first: the leaf at its home slice has A set, and D for a
write. -/
def Sys2Proof.Claims.WalksDeliver : Prop :=
  (∀ (s : State) (ctx holder : Nat) (va : Word), holder < 2084 →
    (s.walk ctx va = none → exec (.pageWalk ctx va ⟨none, 0⟩ holder) s = .next s) ∧
    ∀ l, s.walk ctx va = some l → ∃ t, exec (.pageWalk ctx va ⟨none, 0⟩ holder) s = .next t ∧
      t.leafFor holder ctx va = some { l with die := holderDie holder, walked := [] } ∧ t.core = s.core) ∧
  (∀ (s : State) (q : SeqId) (ctx keep holder : Nat) (va : Word) (t : List (Leaf × Word × Nat)) (wr : Bool),
    s.waitingUse q = some (t, wr) → (∃ p ∈ t, p.1.ctx = ctx ∧ p.2.1.toNat / 4096 = va.toNat / 4096) →
    exec (.pageWalk ctx va ⟨some q, keep⟩ holder) s = exec (.pageWalk ctx va ⟨none, keep⟩ holder) (s.markAll t wr)) ∧
  ∀ (s : State) (l : Leaf) (wr : Bool),
    let v := l.walked.foldl State.walkRead s
    l.place % 8 = 0 → v.pinPending (lineOf l.place) = none → v.uncovered (lineOf l.place) = false →
    v.lineLost l.place = false → (s.markUsed l wr).core = s.core ∧
      (s.markUsed l wr).peekWord l.place = v.peekWord l.place ||| 0x80#64 ||| (if wr then 0x100#64 else 0#64)

/-! ## Sync registers and barriers -/

namespace Sys2Proof.Claims

/-- A sync operation of the current sequencer on register i, on the way to its home die (R172). -/
def syncMsg (s : State) (i op : Nat) (v : Word) (gd : Option (BitVec 5)) (group : Option Nat) : Msg :=
  { id := s.nextId, src := s.cur, path := s.pathOf s.cur, ctx := none, rel := none, pa := 0, va := BitVec.ofNat 64 i, len := 0,
    body := .sync i op v gd group s.core.pc, hops := s.route (s.dieOf s.cur) (i / 4096), dest := 512 + i / 4096,
    tag := none, floor := 0, reply := none }

/-- The index names a register granted to the context (R172, R173). -/
def SyncGranted (s : State) (ga : Word) : Prop :=
  let g := (s.ctx s.curCtx).csrgrant
  ga.toNat < 2 ^ 14 ∧ (g.extractLsb' 0 14).toNat ≤ ga.toNat ∧
    ga.toNat < (g.extractLsb' 0 14).toNat + (g.extractLsb' 16 15).toNat

/-- Every earlier access of the sequencer comes before a sync operation; its release at device scope leaves `u`
(R175). -/
def SyncOrdered (s u : State) : Prop :=
  s.ordering s.cur = false ∧ s.queueTouches = false ∧ s.release s.cur 3 = (u, true)

/-- A sync instruction with a destination acts by operation `op` at the home of its register. -/
def SyncSent (i : Instr) (s : State) (ga v : Word) (gd : BitVec 5) (op : Nat) : Prop :=
  (¬SyncGranted s ga → Raises i s 26 ga) ∧
  ∀ u, SyncGranted s ga → s.inService (ga.toNat / 4096) = true → SyncOrdered s u →
    exec i s = .next (onward s (emptied (withMsg u (syncMsg u ga.toNat op v (some gd) none)) gd))

end Sys2Proof.Claims

/-- R173, R175: the sync register instructions wait for what comes before them, and act at the register's home or read
this die's mirror; an index not granted raises SYNC-INDEX (condition 26). -/
def Sys2Proof.Claims.SyncInstructionsAct : Prop :=
  ∀ (f : FRG) (s : State),
    ((Instr.srts f).ready s → SyncSent (.srts f) s (s.g f.ga) 0 f.gd 0) ∧
    ((Instr.srfa f).ready s → SyncSent (.srfa f) s (s.g f.ga) (s.g f.gb) f.gd 1) ∧
    ((Instr.srrdHome f).ready s → SyncSent (.srrdHome f) s (s.g f.ga) 0 f.gd 2) ∧
    ((Instr.srwr f).ready s → (¬SyncGranted s (s.g f.ga) → Raises (.srwr f) s 26 (s.g f.ga)) ∧
      ∀ u, SyncGranted s (s.g f.ga) → s.inService ((s.g f.ga).toNat / 4096) = true → SyncOrdered s u →
        exec (.srwr f) s = .next (onward s (withMsg u (syncMsg u (s.g f.ga).toNat 3 (s.g f.gb) none none)))) ∧
    ((Instr.srrd f).ready s → (¬SyncGranted s (s.g f.ga) → Raises (.srrd f) s 26 (s.g f.ga)) ∧
      ∀ u, SyncGranted s (s.g f.ga) → SyncOrdered s u → ∃ t, exec (.srrd f) s = .next t ∧
        t.net.landings = u.net.landings ++ [{
          id := u.nextId, src := s.cur, reg := f.gd,
          val := (assocGet u.syncMirror (16384 * s.dieOf s.cur + (s.g f.ga).toNat) (0, 0)).2, poison := none,
          acq := some 3 }] ∧
        t.core = (onward s (emptied u f.gd)).core)

namespace Sys2Proof.Claims

/-- The home of register i has applied an update of message m: its value, its count, and the new value on its way to
the mirror of every die in service (R174). -/
def Updated (s t : State) (i m : Nat) (v : Word) (bar : Bool) : Prop :=
  assocGet t.syncHome i 0 = v ∧ (∀ j, j ≠ i → assocGet t.syncHome j 0 = assocGet s.syncHome j 0) ∧
  assocGet t.regUpdates i 0 = assocGet s.regUpdates i 0 + 1 ∧
  ∀ d, d < 4 → s.inService d = true → ∃ y ∈ t.net.msgs, y.dest = 768 + d ∧
    y.body = .mirror i v (assocGet s.regUpdates i 0 + 1) d m bar

/-- Sequencer q goes on at a PC. -/
def GoesOn (t : State) (q : SeqId) (pc : Word) : Prop := t.cur = q ∧ t.core.run = .running ∧ t.core.pc = pc

end Sys2Proof.Claims

/-- R173, R174, R246: the home applies one operation at a time and sends the value to the mirrors; SRRD at the home
lands its value; a barrier's last arrival gives the next generation and its worker goes on, an earlier one counts and
parks; a mirror takes each value, the operation completes with its last mirror, and of the waiters of its die each one
of another generation goes on, or traps BARRIER-RESET (condition 25) on an update that no BAR made. A worker that goes
on has acquired at the group's scope. -/
def Sys2Proof.Claims.SyncUpdatesAndMirrors : Prop :=
  (∀ (s : State) (m i op : Nat) (x : Msg) (v pc : Word) (gd : Option (BitVec 5)),
    s.msg? m = some x → x.body = .sync i op v gd none pc → s.syncArrived x i = true → x.tag = none →
    let old := assocGet s.syncHome i 0
    (op = 2 → (∀ o ∈ s.net.syncs, o.left ≠ []) → ∀ r, gd = some r →
      ∃ t, exec (.syncRegisterUpdate m) s = .next t ∧ Lands s t x r old (some 3) ∧
      t.syncHome = s.syncHome) ∧
    (op ≠ 2 → ∃ t, exec (.syncRegisterUpdate m) s = .next t ∧
      Updated s t i m (if op = 0 then old ||| 1 else if op = 1 then old + v else v) false ∧
      t.net.syncs = s.net.syncs ++ [{
        id := m, src := x.src, gd := gd, old := old, left := (List.range 4).filter s.inService, reg := i, pc := pc }])) ∧
  (∀ (s : State) (m i op j : Nat) (x : Msg) (v pc : Word) (gd : Option (BitVec 5)) (w : WKey) (g : Group) (y : Seq),
    s.msg? m = some x → x.body = .sync i op v gd (some j) pc → s.syncArrived x i = true → x.tag = none →
    x.src = .worker w → s.group? w j = some g → s.getSeq (.worker w) = some y → y.run = .parked (.barSent j) →
    let old := assocGet s.syncHome i 0
    let n := old.toNat % 2 ^ 13 + 1
    let gen := old.toNat / 2 ^ 48
    (g.count ≤ n → ∃ t, exec (.syncRegisterUpdate m) s = .next t ∧
      Updated s t i m (BitVec.ofNat 64 ((gen + 1) * 2 ^ 48)) true ∧ GoesOn t (.worker w) (following y.heads y.pc) ∧
      t.mem = (acquired s (.worker w) g.scope.toNat).mem) ∧
    (n < g.count → n < 2 ^ 13 → ∃ t, exec (.syncRegisterUpdate m) s = .next t ∧ Updated s t i m (old + 1) true ∧
      (t.seqD (.worker w)).run =
        .parked (.bar j gen (assocGet s.regUpdates i 0 + 1) (following y.heads y.pc)))) ∧
  ∀ (s : State) (m i d op seq : Nat) (x : Msg) (v : Word) (bar : Bool),
    s.msg? m = some x → x.body = .mirror i v seq d op bar → x.hops = [] →
    (∀ y ∈ s.net.msgs, ∀ u k o b, y.body = .mirror i u k d o b → seq ≤ k) →
    ((∀ p ∈ s.workers, ∀ j gen k n, p.2.run ≠ .parked (.bar j gen k n)) → ∃ t, exec (.mirrorUpdate m) s = .next t ∧
      assocGet t.syncMirror (16384 * d + i) (0, 0) = (seq, v) ∧
      ∀ o r, s.net.syncs = [o] → o.id = op → o.left = [d] → o.gd = some r → (∀ y ∈ s.net.msgs, y.id ≠ m → y.id ≠ op) →
        t.net.syncs = [] ∧
        t.net.landings = s.net.landings ++ [{
          id := s.nextId, src := o.src, reg := r, val := o.old, poison := none, acq := some 3 }]) ∧
    ∀ w y j gen k n g, s.getSeq (.worker w) = some y → y.run = .parked (.bar j gen k n) →
      y.w.place.die = d → s.group? w j = some g → g.sreg = i → k < seq → ∃ t, exec (.mirrorUpdate m) s = .next t ∧
      let z := t.seqD (.worker w)
      (bar = true → v.toNat / 2 ^ 48 ≠ gen → z.run = .running ∧ z.pc = n ∧
        (1 ≤ g.scope.toNat → ∀ c ∈ t.mem.caches, privateIn s (.worker w) c = true → c.mask ≠ 0 ∧ c.stale = true) ∧
        (3 ≤ g.scope.toNat → ∀ x ∈ t.mem.lines, x.kind = .guest → x.die ≠ s.dieOf (.worker w))) ∧
      (bar = true → v.toNat / 2 ^ 48 = gen → z = y) ∧
      (bar = false → y.w.pending = none → z.trap = some (trapHere { s with core := y } 0 25 0) ∨
        (z.trap = none ∧ z.cause = 25#9 ∧ z.epc = y.pc))

/-- R244, R246: BAR of a member releases at the group's scope, sends its arrival and parks; a worker that is no member
raises GROUP-NOT-MEMBER (condition 24). -/
def Sys2Proof.Claims.BarrierArrives : Prop :=
  ∀ (f : FIM) (s : State) (w : WKey), (Instr.bar f).ready s → s.cur = .worker w →
    let j := (f.imm.extractLsb' 0 8).toNat
    (s.group? w j = none → Raises (.bar f) s 24 0) ∧
    ∀ g, s.group? w j = some g →
      (g.members.getLsbD w.wid = false → Raises (.bar f) s 24 0) ∧
      ∀ u, g.members.getLsbD w.wid = true → s.waitsVector = false → s.ordering s.cur = false →
        s.release s.cur g.scope.toNat = (u, true) → ∃ t, exec (.bar f) s = .next t ∧
          t.core = { s.core with run := .parked (.barSent j) } ∧
          t.net.msgs = u.net.msgs ++ [syncMsg u g.sreg 4 0 none (some j)]

/-! ## Threads, queues and timelines -/

/-- R39, R177: FORK takes the lowest free handle of its class and starts the program at its target, with g1 to g7 and
the matrix state copied; beyond the stage's number it raises FORK-LIMIT (condition 37). -/
def Sys2Proof.Claims.ForkStartsASequencer : Prop :=
  ∀ (ce : Bool) (f : FJP) (s : State) (w : WKey),
    let i := if ce then Instr.forkCe f else Instr.forkMx f
    let held := s.core.w.held ce
    let most := if ce then min 4 (s.stageD w).cen else min 2 (s.stageD w).mxn
    i.ready s → s.cur = .worker w → s.waitsVector = false → s.ordering s.cur = false →
    (most ≤ held.length → Raises i s 37 0) ∧
    ∀ u, held.length < most → s.release s.cur 3 = (u, true) → ∃ t h, exec i s = .next t ∧ h ∉ held ∧ (∀ k, k < h → k ∈ held) ∧
      (hReg f.h ≠ 0 → t.g (hReg f.h) = BitVec.ofNat 64 h) ∧ t.core.pc = following s.core.heads s.core.pc ∧
      h ∈ t.core.w.held ce ∧
      ∃ y, t.getSeq (if ce then .ce w h else .mx w h) = some y ∧ y.pc = target s.core.pc f.target ∧ y.priv = .u ∧
        y.run = .running ∧ y.bank.loops = [] ∧ y.mx = s.core.mx ∧ y.tlv = Timeline.reset ∧ y.tlm = Timeline.reset ∧
        y.tlc = Timeline.reset ∧ y.tln = Timeline.reset ∧
        (∀ r : BitVec 5, r.toNat < 8 → y.bank.read r = s.g r ∧ y.bank.mark r = none) ∧
        ∀ r : BitVec 5, 8 ≤ r.toNat → y.bank.read r = 0

namespace Sys2Proof.Claims

/-- The forked contexts `l` of worker w have been joined (R39): they are gone with their handles, what they did is
acquired, and the worker goes on at a PC. -/
def Joined (s t : State) (w : WKey) (l : List SeqId) (pc : Word) : Prop :=
  (∀ q ∈ l, t.getSeq q = none) ∧
  (∀ h, SeqId.mx w h ∈ l → h ∉ t.core.w.held false) ∧ (∀ h, SeqId.ce w h ∈ l → h ∉ t.core.w.held true) ∧
  GoesOn t (.worker w) pc ∧ t.mem = (acquired s (.worker w) 3).mem

end Sys2Proof.Claims

/-- R39, R43, R178: RDV joins what it names once all of it has ended, raises TIMELINE-POISONED (condition 19) after
that where one of their timelines is poisoned, and parks until then; it does either too when it wakes. Where the spec
leaves a point open the model’s own reading is log entry 82. The address 0 (EADDR) of its traps, for which no rule
gives one, is the model’s choice (DESIGN CHOICE, log entry 82). -/
def Obligations.RdvJoins : Prop :=
  (∀ (f : FIM) (s : State) (w : WKey), (Instr.rdv f).ready s → s.cur = .worker w → s.waitsVector = false →
    s.core.run = .running →
    let all := f.imm.getLsbD 1
    let ce := f.imm.getLsbD 0
    let h := (s.g (hReg f.h)).toNat
    let l := rdvTargets w s.core.w all ce h
    (all = false → h ∉ s.core.w.held ce → Raises (.rdv f) s 37 0) ∧
    (all = true ∨ h ∈ s.core.w.held ce →
      ((∀ q ∈ l, s.forkEnded q = true) → (∀ q ∈ l, (s.seqD q).poisoned = false) →
        ∃ t, exec (.rdv f) s = .next t ∧ Joined s t w l (following s.core.heads s.core.pc)) ∧
      ((∀ q ∈ l, s.forkEnded q = true) → (∃ q ∈ l, (s.seqD q).poisoned = true) →
        ∃ t, exec (.rdv f) s = .next (t.raise 19 0) ∧ Joined s t w l s.core.pc) ∧
      ((∃ q ∈ l, s.forkEnded q = false) →
        exec (.rdv f) s = .next { s with core := { s.core with run := .parked (.rdv all ce h) } }))) ∧
  ∀ (s : State) (w : WKey) (y : Seq) (all ce : Bool) (h : Nat),
    let l := rdvTargets w y.w all ce h
    s.getSeq (.worker w) = some y → y.run = .parked (.rdv all ce h) → (∀ q ∈ l, s.forkEnded q = true) →
    ((∀ q ∈ l, ((s.wake (.worker w)).seqD q).poisoned = false) →
      ∃ t, exec (.rdvWake (.worker w)) s = .next t ∧ Joined s t w l (following y.heads y.pc)) ∧
    ((∃ q ∈ l, ((s.wake (.worker w)).seqD q).poisoned = true) →
      ∃ t, exec (.rdvWake (.worker w)) s = .next (t.raise 19 0) ∧ Joined s t w l y.pc)

namespace Sys2Proof.Claims

/-- What END by worker w leaves once its forked contexts are joined, in state v (R44): with its accesses and operations
complete, its flags go to its launch, it is counted, and it is gone with its reservations and its forked contexts. -/
def Ends (v : State) (w : WKey) (forks : List SeqId) (o : Host.Outcome State Fault Refusal) : Prop :=
  ∀ u l, v.release v.cur 2 = (u, true) → v.gPending v.cur = false → v.core.tlv.count = v.core.tlv.issued →
    v.core.tlm.count = v.core.tlm.issued → v.core.tln.count = v.core.tln.issued → v.launch? w.ctx w.slot = some l →
    ∃ t l', o = .next t ∧ t.launch? w.ctx w.slot = some l' ∧ l'.flags = l.flags ||| v.core.bank.xf ∧
      l'.retired = l.retired + 1 ∧ t.core.run = .ended ∧ (∀ r ∈ t.mem.resv, r.owner ≠ w) ∧
      ∀ q ∈ forks, t.getSeq q = none

end Sys2Proof.Claims

/-- R39, R44: END of a forked sequencer stops it; END of a worker joins its forked contexts, waiting until all of them
have ended, and then ends it. -/
def Sys2Proof.Claims.EndEnds : Prop :=
  (∀ (f : FN) (s : State), (Instr.endProg f).ready s → kindOf s.cur = .mx ∨ kindOf s.cur = .ce →
    exec (.endProg f) s = .next { s with core := { s.core with run := .ending, line := none } }) ∧
  (∀ (f : FN) (s : State) (w : WKey), (Instr.endProg f).ready s → s.cur = .worker w → s.waitsVector = false →
    s.ordering s.cur = false →
    let forks := rdvTargets w s.core.w true false 0
    ((∃ q ∈ forks, s.forkEnded q = false) →
      exec (.endProg f) s = .next { s with core := { s.core with run := .parked .endProg } }) ∧
    ((∀ q ∈ forks, s.forkEnded q = true) → (∀ q ∈ forks, (s.seqD q).poisoned = false) →
      Ends ((forks.foldl State.freeFork s).acquire s.cur 3) w forks (exec (.endProg f) s))) ∧
  ∀ (s : State) (w : WKey) (y : Seq), s.getSeq (.worker w) = some y → y.run = .parked .endProg →
    let forks := rdvTargets w y.w true false 0
    let v := s.wake (.worker w)
    (∀ q ∈ forks, s.forkEnded q = true) → (∀ q ∈ forks, (v.seqD q).poisoned = false) →
    Ends ((forks.foldl State.freeFork v).acquire v.cur 3) w forks (exec (.rdvWake (.worker w)) s)

namespace Sys2Proof.Claims

/-- What QPOP by worker w into gd does with launch l in state u, in which the worker's earlier record is released
(R30): `o` is its outcome, `since` the moment it asked. -/
def Pops (u : State) (w : WKey) (l : Launch) (gd : BitVec 5) (since : Nat) (pc : Word)
    (o : Host.Outcome State Fault Refusal) : Prop :=
  let k := (u.seqD (.worker w)).w.stage
  let ahead := u.aheadInStage l k since
  let first := ahead = 0 ∧ 0 < l.holds k
  let r := l.rings.getD k { given := 0, push := 0, pop := 0, owned := [] }
  (first → l.indexed k = false → k < l.rings.length → ∃ t l', o = .next t ∧ GoesOn t (.worker w) pc ∧
    (gd ≠ 0 → t.g gd = (l.stage k).sinq + BitVec.ofNat 64 (r.pop % 2 ^ (l.stage k).depthlog * (l.stage k).recsz)) ∧
    t.core.w.record = some r.pop ∧ t.mem = (acquired u (.worker w) 3).mem ∧ t.launch? w.ctx w.slot = some l' ∧
    l'.rings = l.rings.set k { r with pop := r.pop + 1, owned := r.pop :: r.owned }) ∧
  (first → l.indexed k = true → ∃ t l', o = .next t ∧ GoesOn t (.worker w) pc ∧
    (gd ≠ 0 → t.g gd = BitVec.ofNat 64 (1 + l.nextIndex)) ∧ t.mem = (acquired u (.worker w) 3).mem ∧
    t.launch? w.ctx w.slot = some l' ∧ l'.nextIndex = min (l.nextIndex + blockChunk l.block) (blockCount l.block)) ∧
  (l.holds k ≤ ahead → u.chooseFor l w = none → u.closed l k = true → l.holds k = 0 → ∃ t, o = .next t ∧
    GoesOn t (.worker w) pc ∧ (gd ≠ 0 → t.g gd = 0) ∧ t.mem = (acquired u (.worker w) 3).mem)

end Sys2Proof.Claims

/-- R30, R33, R180: QPOP releases the worker's record, then takes the next record or chunk, or returns 0 from a closed
input, each with its acquire; restarts where the choice rule names a stage; and otherwise parks. It waits for earlier
ones of its stage that have still to take records the input holds, and once parked it looks again when a record has
entered or an input has closed. -/
def Sys2Proof.Claims.QpopTakesARecord : Prop :=
  (∀ (f : FN) (s u : State) (w : WKey) (l : Launch), (Instr.qpop f).ready s → s.cur = .worker w → s.core.run = .running →
    s.waitsVector = false → s.gPending s.cur = false → u = s.releaseRecord w → u.launch? w.ctx w.slot = some l →
    l.ctx = w.ctx → l.slot = w.slot →
    let gd := hReg f.h
    let k := (u.seqD (.worker w)).w.stage
    Pops u w l gd u.nextId (following s.core.heads s.core.pc) (exec (.qpop f) s) ∧
    let ahead := u.aheadInStage l k u.nextId
    (0 < ahead → ahead < l.holds k → exec (.qpop f) s = .next u) ∧
    (l.holds k ≤ ahead →
      (∀ n, u.chooseFor l w = some n → exec (.qpop f) s = .next (u.restartWorker l w n)) ∧
      (u.chooseFor l w = none → ¬(u.closed l k = true ∧ l.holds k = 0) → exec (.qpop f) s = .next
        { u with core := { u.core with run := .parked (.qpop gd u.nextId (u.arrivals l)) }, nextId := u.nextId + 1 })) ∧
    ∀ p, s.core.w.record = some p → u.core.w.record = none) ∧
  ∀ (s : State) (w : WKey) (y : Seq) (gd : BitVec 5) (since seen : Nat) (l : Launch),
    s.getSeq (.worker w) = some y → y.run = .parked (.qpop gd since seen) → s.launch? w.ctx w.slot = some l →
    l.ctx = w.ctx → l.slot = w.slot →
    let ahead := s.aheadInStage l y.w.stage since
    (s.arrivals l = seen ∨ (0 < ahead ∧ ahead < l.holds y.w.stage) → exec (.qpopWake (.worker w)) s = .next s) ∧
    (s.arrivals l ≠ seen → ¬(0 < ahead ∧ ahead < l.holds y.w.stage) →
      Pops (s.wake (.worker w)) w l gd since (following y.heads y.pc) (exec (.qpopWake (.worker w)) s))

namespace Sys2Proof.Claims

/-- What QPUSH by worker w does once it may push, from state u (R31, R181): it parks while the next ring is full, and
otherwise is given the next slot, and goes on with its record read, which leaves for the slot once a release at device
scope is complete. -/
def Pushes (u : State) (w : WKey) (l : Launch) (src pc : Word) (o : Host.Outcome State Fault Refusal) : Prop :=
  let k := u.core.w.stage + 1
  let st := l.stage k
  let r := l.rings.getD k { given := 0, push := 0, pop := 0, owned := [] }
  let dst := st.sinq + BitVec.ofNat 64 (r.given % 2 ^ st.depthlog * st.recsz)
  (l.full k = true → o = .next { u with core := { u.core with run := .parked (.qpush src) } }) ∧
  (∀ a b v bs, l.full k = false → k < l.rings.length →
    u.checkAccess (u.accessor u.cur) wantLoad src st.recsz = .ok a →
    u.checkAccess (u.accessor u.cur) wantSlot dst st.recsz = .ok b → reachesDevice a = false → reachesDevice b = false →
    u.sourceWaits (linesFrom a) = false →
    ((u.markAll a false).markAll b true).readPieces (u.cacheOf u.cur) (u.dieOf u.cur) (piecesOf a) = (v, bs, none) →
    ∃ t l' p, o = .next t ∧ GoesOn t (.worker w) pc ∧ t.mem = v.mem ∧ t.net = v.net ∧ t.pushes = v.pushes ++ [p] ∧
      p.owner = w ∧ p.stage = k ∧ p.pieces = linesFrom b ∧ p.bytes = bs ∧ p.sent = none ∧ 3 ≤ p.rel.1 ∧ p.rel.2 = v.nextId ∧
      t.launch? w.ctx w.slot = some l' ∧ l'.rings = l.rings.set k { r with given := r.given + 1 })

end Sys2Proof.Claims

/-- R31, R181: QPUSH is given the next slot of the next stage's ring and goes on; once its release at device scope is
complete the record leaves for the slot, and once all of it is there, and the QPUSHes that were given earlier slots of
the ring have their positions, its position is taken. It parks while the ring is full, and raises QUEUE-CLOSED
(condition 23) in the last stage. -/
def Sys2Proof.Claims.QpushPushes : Prop :=
  (∀ (f : FRG) (s : State) (w : WKey) (l : Launch), (Instr.qpush f).ready s → s.cur = .worker w → s.core.run = .running →
    s.launch? w.ctx w.slot = some l → s.waitsVector = false → s.ordering s.cur = false →
    let src := s.g f.ga
    (l.stages.length ≤ s.core.w.stage + 1 → Raises (.qpush f) s 23 0) ∧
    (s.core.w.stage + 1 < l.stages.length → src.toNat % 8 ≠ 0 → Raises (.qpush f) s 9 src) ∧
    ∀ a, s.core.w.stage + 1 < l.stages.length → src.toNat % 8 = 0 →
      s.checkAccess (s.accessor s.cur) wantLoad src (l.stage (s.core.w.stage + 1)).recsz = .ok a →
      Pushes s w l src (following s.core.heads s.core.pc) (exec (.qpush f) s)) ∧
  (∀ (s u : State) (p : Push) (done : Bool), p.sent = none →
    (if ∃ y ∈ (s.seqD (.worker p.owner)).w.queue, y.touches ∧ y.id < p.rel.2 then (s, false)
      else s.releaseBelow (.worker p.owner) p.rel.1 p.rel.2) = (u, done) →
    (done = false → s.settlePush p = u) ∧
    (done = true → ∃ sent, (s.settlePush p).net.msgs = u.net.msgs ++ sent ∧ sent.length = p.pieces.length ∧
      ∀ y ∈ sent, y.src = .worker p.owner ∧ ∃ d k, y.body = .access (.store d k) .shared .none none)) ∧
  (∀ (s : State) (p : Push) (a b : Nat) (l : Launch), p.sent = some (a, b) →
    s.launch? p.owner.ctx p.owner.slot = some l → l.ctx = p.owner.ctx → l.slot = p.owner.slot → p.stage < l.rings.length →
    (s.pieceDue a b = true ∨ s.pushBefore p = true → s.settlePush p = s) ∧
    (s.pieceDue a b = false → s.pushBefore p = false → ∃ l', (s.settlePush p).launch? p.owner.ctx p.owner.slot = some l' ∧
      (s.settlePush p).pushes = s.pushes.filter (fun x => x.id != p.id) ∧
      ∀ r, l.rings[p.stage]? = some r → l'.rings = l.rings.set p.stage { r with push := r.push + 1 })) ∧
  ∀ (s : State) (w : WKey) (y : Seq) (src : Word) (l : Launch), s.getSeq (.worker w) = some y →
    y.run = .parked (.qpush src) → s.launch? w.ctx w.slot = some l → l.full (y.w.stage + 1) = false →
    Pushes (s.wake (.worker w)) w l src (following y.heads y.pc) (exec (.qpushWake (.worker w)) s)

namespace Sys2Proof.Claims

/-- The counter that TLK and OWNER select is c, and the lowest failed number on its timeline p (R41, R43, R182). -/
def CounterIs (s : State) (tlk owner : Nat) (gb : Word) (c : Nat) (p : Option Nat) : Prop :=
  (tlk < 4 ∧ owner = 0 ∧ c = (s.core.timeline tlk).count ∧ p = (s.core.timeline tlk).poison) ∨
  (tlk < 4 ∧ (owner = 1 ∨ owner = 2) ∧ ∃ w, s.cur = .worker w ∧ gb.toNat ∈ s.core.w.held (owner == 2) ∧
    let x := (s.seqD (if owner = 2 then .ce w gb.toNat else .mx w gb.toNat)).timeline tlk
    c = x.count ∧ p = x.poison) ∨
  (tlk = 4 ∧ owner = 0 ∧ gb.toNat < 128 ∧ c = (s.region s.curCtx gb.toNat).scnt.toNat ∧ p = none) ∨
  (tlk = 5 ∧ owner = 0 ∧ gb.toNat < 128 ∧ c = (s.region s.curCtx gb.toNat).rcnt.toNat ∧ p = none)

/-- What TWAIT for n does in state s (R42, R43, R182). -/
def Waits (s : State) (gd sel : BitVec 5) (n owner : Word) (o : Host.Outcome State Fault Refusal) : Prop :=
  ∀ c p, CounterIs s (sel.toNat % 8) (sel.toNat / 8) owner c p →
    (∀ k, p = some k → k ≤ n.toNat → o = .next (s.raise 19 0)) ∧
    ((∀ k, p = some k → n.toNat < k) →
      (n.toNat ≤ c → o = .next ((acquired s s.cur 3).put gd (BitVec.ofNat 64 c))) ∧
      (c < n.toNat → o = .next { s with core := { s.core with run := .parked (.twait gd sel n owner) } }))

end Sys2Proof.Claims

/-- R42, R43, R182, R183: TWAIT returns the counter once it has reached n, with an acquire at device scope, parks
until then, and traps TIMELINE-POISONED from the lowest failed number on; TREAD returns the counter at once. Where the
spec leaves a point open the model’s own reading is log entry 82. The address 0 (EADDR) of its traps, for which no
rule gives one, is the model’s choice (DESIGN CHOICE, log entry 82). -/
def Obligations.TimelineWaitsAndReads : Prop :=
  (∀ (f : FTR) (s : State), (Instr.twait f).ready s → s.waitsVector = false →
    Waits s (hReg f.h) (f.imm.extractLsb' 0 5) (s.g f.ga) (s.g f.gb) (exec (.twait f) s)) ∧
  (∀ (s : State) (q : SeqId) (gd sel : BitVec 5) (n owner : Word), (s.seqD q).run = .parked (.twait gd sel n owner) →
    Waits (s.wake q) gd sel n owner (exec (.twaitWake q) s)) ∧
  ∀ (f : FTR) (s : State) (c : Nat) (p : Option Nat), (Instr.tread f).ready s →
    CounterIs s ((f.imm.extractLsb' 0 5).toNat % 8) ((f.imm.extractLsb' 0 5).toNat / 8) (s.g f.gb) c p →
    Gives (.tread f) s (hReg f.h) (BitVec.ofNat 64 c)

/-! ## Rounding, and the codec of coded blocks -/

namespace Sys2Proof.Claims

/-- n·2^k against the exact value num/den · 2^exp. -/
def cmpRat (num den : Nat) (exp : Int) (n : Nat) (k : Int) : Ordering :=
  let q := min k exp
  compare (n * den * 2 ^ (k - q).toNat) (num * 2 ^ (exp - q).toNat)

/-- n·2^k against the square root of m·2^e. -/
def cmpRoot (m : Nat) (e : Int) (n : Nat) (k : Int) : Ordering :=
  let q := min (2 * k) e
  compare (n * n * 2 ^ (2 * k - q).toNat) (m * 2 ^ (e - q).toNat)

/-- n·2^k is what a magnitude, to which `cmp` compares numbers, is rounded to among the multiples of 2^k (R98): to the
nearest with ties to even, or down or up, as the mode 0 to 3 and the sign say. -/
def RoundsTo (rm : Nat) (neg : Bool) (cmp : Nat → Int → Ordering) (n : Nat) (k : Int) : Prop :=
  (rm = 0 → cmp (2 * n + 1) (k - 1) ≠ .lt ∧ (n ≠ 0 → cmp (2 * n - 1) (k - 1) ≠ .gt) ∧
    (cmp (2 * n + 1) (k - 1) = .eq ∨ n ≠ 0 ∧ cmp (2 * n - 1) (k - 1) = .eq → n % 2 = 0)) ∧
  (rm = 1 ∨ rm = 2 ∧ neg = false ∨ rm = 3 ∧ neg = true → cmp n k ≠ .gt ∧ cmp (n + 1) k = .gt) ∧
  (rm = 2 ∧ neg = true ∨ rm = 3 ∧ neg = false → cmp n k ≠ .lt ∧ (n ≠ 0 → cmp (n - 1) k = .lt))

/-- a·2^i lies below b·2^j. -/
abbrev lies (a : Nat) (i : Int) (b : Nat) (j : Int) : Prop :=
  a * 2 ^ (i - min i j).toNat < b * 2 ^ (j - min i j).toNat

/-- `r`, an encoding of type t and flags, is the exact value with this sign and the magnitude that `cmp` compares to,
rounded once (R94 to R101). N·2^K is the magnitude rounded with an unbounded exponent: OF (flag 2) says that it lies
above the largest finite value, and the result is then that of R99 or R101 with OF and NX. Otherwise the result is the
value rounded to a multiple of its own last place, NX (4) says that it is not exact, and UF (3) that it is not exact
and N·2^K lies below the smallest normal value. -/
def RoundedTo (t rm : Nat) (neg : Bool) (cmp : Nat → Int → Ordering) (r : Nat × BitVec 8) : Prop :=
  let f := fmtOf t
  let toInf := if rm = 0 then true else if rm = 1 then false else if rm = 2 then neg else !neg
  let least : Int := 1 - (f.bias : Int)
  ∃ N K, cmp (2 ^ f.m) K ≠ .gt ∧ cmp (2 ^ (f.m + 1)) K = .gt ∧ RoundsTo rm neg cmp N K ∧
    ∃ ML EL, fdecode t (largest t) = .fin false ML EL ∧
      (r.2.getLsbD 2 = true ↔ lies ML EL N K) ∧
      (lies ML EL N K → r.2 = 0x14 ∧
        r.1 = (if neg then f.sign else 0) + (if 11 ≤ t ∧ toInf = true then f.inf else largest t)) ∧
      (¬lies ML EL N K → r.1 < 2 * f.sign ∧ ∃ M E, fdecode t r.1 = .fin neg M E ∧ RoundsTo rm neg cmp M E ∧
        (¬lies N K 1 least → ¬lies M E N K ∧ ¬lies N K M E) ∧
        r.2 = (if cmp M E = .eq then 0 else 0x10) ||| (if cmp M E ≠ .eq ∧ lies N K 1 least then 0x08 else 0))

/-- r is round_ne of num·2^exp to a multiple of 2^k, as R330 has it. -/
def NearestEven (num : Int) (exp k r : Int) : Prop :=
  let q := min k exp
  let x := num * 2 ^ (exp - q).toNat
  let y := r * 2 ^ (k - q).toNat
  let u := 2 ^ (k - q).toNat
  2 * (x - y) ≤ u ∧ 2 * (y - x) ≤ u ∧ (2 * (x - y) = u ∨ 2 * (y - x) = u → r % 2 = 0)

/-- clamp(v, w) of R330. -/
def clamped (w : Nat) (v : Int) : Int := max (-2 ^ (w - 1)) (min v (2 ^ (w - 1) - 1))

/-- The signed field of w bits from bit lo of a block (R329). -/
def signedField (blk lo w : Nat) : Int := Int.bmod (blk / 2 ^ lo % 2 ^ w : Nat) (2 ^ w)

/-- cls of a value (R330). -/
def classOf (v : Nat) : Nat :=
  match fdecode 14 v with
  | .inf false => 1
  | .inf true => 2
  | .nan _ => 3
  | .fin _ _ _ => 0

end Sys2Proof.Claims

/-- R329, R330: encode gives a block its bits: the classes of a block with a value that is not finite; else the largest
exponent, and the four coefficients of the lifting, each rounded to the nearest even step and clamped to its field. It
says whether a clamp changed one, and lossy where the block does not decode to the values. -/
def Sys2Proof.Claims.CodecEncodes : Prop :=
  ∀ (b x0 x1 x2 x3 : Nat), b ∈ [8, 12, 16, 24, 32] → (∀ v ∈ [x0, x1, x2, x3], v < 2 ^ 64) →
    let xs := [x0, x1, x2, x3]
    let r := encodeBlock b xs
    let finite : Prop := ∀ v ∈ xs, classOf v = 0
    r.1 < 2 ^ (4 * b) ∧ (r.2.lossy = true ↔ decodeBlock b r.1 ≠ xs) ∧ (r.2.special = true ↔ ¬finite) ∧
    (¬finite → r.2.clamped = false ∧ r.1 = 2 ^ 11 + 2 ^ 12 * classOf x0 + 2 ^ 14 * classOf x1 + 2 ^ 16 * classOf x2 +
      2 ^ 18 * classOf x3) ∧
    (finite → ∃ (emax : Nat) (q0 q1 q2 q3 vs vd v0 v1 : Int),
      let coefficient (v : Nat) (q : Int) : Prop := ∃ n m e, fdecode 14 v = .fin n m e ∧
        NearestEven (if n then -(m : Int) else m) e ((emax : Int) - 1083) q
      let s0 := q1 + (q0 - q1) / 2
      let s1 := q3 + (q2 - q3) / 2
      (∀ v ∈ xs, max (v / 2 ^ 52 % 2 ^ 11) 1 ≤ emax) ∧ (∃ v ∈ xs, emax = max (v / 2 ^ 52 % 2 ^ 11) 1) ∧
      coefficient x0 q0 ∧ coefficient x1 q1 ∧ coefficient x2 q2 ∧ coefficient x3 q3 ∧
      NearestEven (s1 + (s0 - s1) / 2) 0 (62 - b) vs ∧ NearestEven (s0 - s1) 0 (67 - b) vd ∧
      NearestEven (q0 - q1) 0 (67 - b) v0 ∧ NearestEven (q2 - q3) 0 (67 - b) v1 ∧
      r.1 % 2 ^ 11 = emax ∧ r.1 / 2 ^ 11 % 2 = 0 ∧ signedField r.1 12 b = clamped b vs ∧
      signedField r.1 (12 + b) (b - 4) = clamped (b - 4) vd ∧ signedField r.1 (8 + 2 * b) (b - 4) = clamped (b - 4) v0 ∧
      signedField r.1 (4 + 3 * b) (b - 4) = clamped (b - 4) v1 ∧
      (r.2.clamped = true ↔ clamped b vs ≠ vs ∨ clamped (b - 4) vd ≠ vd ∨ clamped (b - 4) v0 ≠ v0 ∨
        clamped (b - 4) v1 ≠ v1))

/-- R331: decode gives the four values of any block: those of the classes of a block with S, and else the values of the
inverse lifting, each rounded once to the nearest f64, with +0 for a q of 0. -/
def Sys2Proof.Claims.CodecDecodes : Prop :=
  ∀ (b blk : Nat), b ∈ [8, 12, 16, 24, 32] →
    let xs := decodeBlock b blk
    xs.length = 4 ∧
    (blk / 2 ^ 11 % 2 = 1 → ∀ i, i < 4 → xs.getD i 0 =
      [0, 0x7FF0000000000000, 0xFFF0000000000000, 0x7FF8000000000000].getD (blk / 2 ^ (12 + 2 * i) % 4) 0) ∧
    (blk / 2 ^ 11 % 2 = 0 →
      let e : Int := max (blk % 2 ^ 11) 1
      let ss := signedField blk 12 b * 2 ^ (62 - b)
      let dd := signedField blk (12 + b) (b - 4) * 2 ^ (67 - b)
      let d0 := signedField blk (8 + 2 * b) (b - 4) * 2 ^ (67 - b)
      let d1 := signedField blk (4 + 3 * b) (b - 4) * 2 ^ (67 - b)
      let s1 := ss - dd / 2
      let s0 := s1 + dd
      let q3 := s1 - d1 / 2
      let q1 := s0 - d0 / 2
      let value (v : Nat) (q : Int) : Prop := (q = 0 → v = 0) ∧
        (q ≠ 0 → ∃ flags, RoundedTo 14 0 (decide (q < 0)) (cmpRat q.natAbs 1 (e - 1083)) (v, flags))
      value (xs.getD 0 0) (q1 + d0) ∧ value (xs.getD 1 0) q1 ∧ value (xs.getD 2 0) (q3 + d1) ∧ value (xs.getD 3 0) q3)

namespace Sys2Proof.Claims

/-- P and b of the BUD code of a range register (R326). -/
def budget (r : RangeReg) : Nat × Nat := [(8, 8), (5, 12), (4, 16), (2, 24), (2, 32)].getD (r.ctl.toNat / 2 ^ 4 % 2 ^ 3) (2, 32)

/-- Where the storage line of the decoded line at la begins (R326). -/
def storageLine (r : RangeReg) (la : Nat) : Nat := r.store.toNat + (la - r.base.toNat) / 64 / (budget r).1 * 64

/-- Where block j of the decoded line at la is stored (R326, R329). -/
def storedAt (r : RangeReg) (la j : Nat) : Nat :=
  storageLine r la + (la - r.base.toNat) / 64 % (budget r).1 * (budget r).2 + j * ((budget r).2 / 2)

/-- Line x of a window of FMT 1, whose register is `r`, has been written to the arrays (R326, R330, R333): its dirty
blocks are encoded, its other block keeps its bytes, as every byte outside the storage line does. -/
def Coded (m m' : Mem) (r : RangeReg) (x : SliceLine) : Prop :=
  let b := (budget r).2
  let bits (z : Mem) (j : Nat) : Nat := cellsNum z.arrays (storedAt r x.addr j) (b / 2)
  (∀ j, j < 2 → bits m' j = if x.blocks.getLsbD j = true then (encodeBlock b (blockValues x.data j)).1 else bits m j) ∧
  ∀ a, a < storageLine r x.addr ∨ storageLine r x.addr + 64 ≤ a → cellsNum m'.arrays a 1 = cellsNum m.arrays a 1

/-- How many of the dirty blocks of line x an outcome of their encodes holds for. -/
def counted (r : RangeReg) (x : SliceLine) (p : EncodeCounts → Bool) : Nat :=
  ((List.range 2).filter fun j => x.blocks.getLsbD j && p (encodeBlock (budget r).2 (blockValues x.data j)).2).length

end Sys2Proof.Claims

/-- R326, R330 to R333: a fill of a line in a window of FMT 1 decodes its stored blocks; its write-back encodes the
dirty ones into their place, and the die that writes them counts those that were lossy, clamped or special, up to 2^64
- 1. -/
def Sys2Proof.Claims.CodedLinesAreStored : Prop :=
  ∀ (s : State) (n la : Nat), s.governing la = some n → (s.range n).fmt = 1 → (s.range n).ctl.toNat / 2 ^ 4 % 2 ^ 3 ≤ 4 →
    let r := s.range n
    let b := (budget r).2
    (s.homeCopy la = none → ∀ j, j < 2 →
      blockValues (lineData s la) j = decodeBlock b (cellsNum s.mem.arrays (storedAt r la j) (b / 2))) ∧
    ∀ x : SliceLine, x.addr = la → x.die < 4 → Memory.wf s.mem = true →
      let t := s.writeBack x
      let adds (old new : Word) (p : EncodeCounts → Bool) : Prop := new.toNat = min (2 ^ 64 - 1) (old.toNat + counted r x p)
      Coded s.mem t.mem r x ∧
      adds ((s.die x.die).loss.getD n 0) ((t.die x.die).loss.getD n 0) EncodeCounts.lossy ∧
      adds ((s.die x.die).clamp.getD n 0) ((t.die x.die).clamp.getD n 0) EncodeCounts.clamped ∧
      adds ((s.die x.die).spec.getD n 0) ((t.die x.die).spec.getD n 0) EncodeCounts.special ∧
      ∀ d, d ≠ x.die → (t.die d).loss = (s.die d).loss ∧ (t.die d).clamp = (s.die d).clamp ∧ (t.die d).spec = (s.die d).spec

/-! ## Launches -/

namespace Sys2Proof.Claims

/-- The launch block at va has been read at its home slices as `b`, from state u, which leaves v (R17, R184): the block
is aligned, may be loaded and has no error, and its completion word is aligned and may be written. -/
def BlockRead (u : State) (va : Word) (v : State) (b : BitVec 4096) : Prop :=
  va.toNat % 64 = 0 ∧ ∃ l p bs, u.checkAccess (u.accessor u.cur) wantLoad va 512 = .ok l ∧ reachesDevice l = false ∧
    (u.markAll l false).readPieces none (u.dieOf u.cur) (homePieces l) = (v, bs, none) ∧
    b = BitVec.ofNat 4096 (bytesNum bs) ∧ (blockWord b 3).toNat % 8 = 0 ∧
    v.checkAccess (u.accessor u.cur) wantCword (blockWord b 3) 8 = .ok p ∧ reachesDevice p = false

end Sys2Proof.Claims

namespace Sys2Proof.Claims

/-- The n bits of a launch block from bit lo (R18). -/
def blockBits (b : BitVec 4096) (lo n : Nat) : Nat := b.toNat / 2 ^ lo % 2 ^ n

/-- The n bits of stage descriptor k of a block from bit lo of the descriptor (R18, R21). -/
def stageField (b : BitVec 4096) (k lo n : Nat) : Nat := blockBits b (512 + 448 * k + lo) n

/-- The block checks of R23, field by field as R18 to R21 lay them out: VERSION, the reserved fields of the block and of
each stage that is read, DIEMASK with the grant of QIDX on the lead die, the stages' entries, workers, contexts,
scratchpads and inputs, the sum of MAXW, the index source, and the group count. -/
def BlockSound (s : State) (c : Nat) (b : BitVec 4096) : Prop :=
  let n := blockBits b 0 3 + 1
  let indexed : Prop := blockBits b 6 1 = 1
  let st := stageField b
  blockBits b 24 8 = 1 ∧ blockBits b 32 32 = 0 ∧ blockBits b 20 4 = 0 ∧ blockBits b 14 2 = 0 ∧ blockBits b 3 3 = 0 ∧
  blockBits b 489 23 = 0 ∧
  (∃ d, d < 4 ∧ blockBits b (16 + d) 1 = 1 ∧ (∀ e, e < d → blockBits b (16 + e) 1 = 0) ∧
    ((s.ctx c).cqgrant.getD d 0).getLsbD (blockBits b 8 6) = true) ∧
  (∀ k, k < n →
    st k 273 175 = 0 ∧ st k 224 32 = 0 ∧ st k 197 11 = 0 ∧ st k 125 3 = 0 ∧ st k 96 3 = 0 ∧ st k 64 21 = 0 ∧
    1 ≤ st k 0 6 ∧ st k 0 6 ≤ 31 ∧ 1 ≤ st k 99 13 ∧ st k 99 13 ≤ st k 112 13 ∧ st k 93 3 ≤ 2 ∧ st k 90 3 ≤ 4 ∧
    st k 87 3 ≤ 4 ∧ (k ≠ 0 → st k 256 17 = 0) ∧
    (indexed ∧ k = 0 → st k 128 64 = 0 ∧ st k 192 64 = 0 ∧ st k 256 17 = 0) ∧
    (¬(indexed ∧ k = 0) → 8 ≤ st k 208 16 ∧ st k 208 16 ≤ 4096 ∧ st k 208 16 % 8 = 0 ∧ 1 ≤ st k 192 5 ∧
      st k 192 5 ≤ 16 ∧ st k 256 17 ≤ 2 ^ st k 192 5)) ∧
  ((List.range n).map fun k => st k 112 13).sum ≤ 4096 ∧
  (indexed → blockBits b 384 64 ≠ 0 ∧ blockBits b 448 32 ≠ 0) ∧
  (¬indexed → blockBits b 384 64 = 0 ∧ blockBits b 448 32 = 0) ∧
  blockBits b 480 9 ≤ 256 ∧ (blockBits b 480 9 ≠ 0 → blockBits b 128 64 ≠ 0)

end Sys2Proof.Claims

/-- R23: a launch block passes the block checks exactly where its fields meet the conditions that R23 lists for them. -/
def Sys2Proof.Claims.BlockChecksFollowR23 : Prop :=
  ∀ (s : State) (c : Nat) (b : BitVec 4096), s.blockOk c b = true ↔ BlockSound s c b

/-- R17, R23, R184: LAUNCH releases at system scope, reads the block, enters it into its queue, and returns its slot,
the lowest free one; a block that fails a check is written 0x06 in its completion word at once; with no free slot it
returns -1. -/
def Sys2Proof.Claims.LaunchEntersItsQueue : Prop :=
  ∀ (f : FIM) (s u : State), (Instr.launch f).ready s → s.ordering s.cur = false → s.release s.cur 4 = (u, true) →
    let c := s.curCtx
    let gd := hReg f.h
    (u.freeSlot c = none → exec (.launch f) s = .next (u.put gd (BitVec.ofInt 64 (-1)))) ∧
    ∀ slot v b, u.freeSlot c = some slot → BlockRead u (s.g f.ga) v b →
      slot < 64 ∧ u.launch? c slot = none ∧ (∀ k, k < slot → (u.launch? c k).isSome) ∧
      let l := newLaunch c slot v.orders b
      l.phase = .queued ∧ l.eligible = decide (blockWord b 5 = 0) ∧
      (v.blockOk c b = true → exec (.launch f) s =
        .next (({ v with launches := v.launches ++ [l], orders := v.orders + 1 } : State).put gd (BitVec.ofNat 64 slot))) ∧
      (v.blockOk c b = false → exec (.launch f) s = .next ((v.writeCword l 6).put gd (BitVec.ofNat 64 slot)))

namespace Sys2Proof.Claims

/-- The launch that ga names (R185): its context and its slot, with no other bit set. -/
def Names (s : State) (ga : Word) (l : Launch) : Prop :=
  ga.toNat < 2 ^ 15 ∧ s.launch? (ga.toNat / 64) (ga.toNat % 64) = some l

/-- Launch l in another phase. -/
def phased (s : State) (l : Launch) (p : LaunchPhase) : State :=
  s.modLaunch l.ctx l.slot fun x => { x with phase := p }

end Sys2Proof.Claims

namespace Sys2Proof.Claims

/-- Control core q, which stands at PREEMPT, RESUME or ABORT, is given its status and goes on (R185). -/
def answers (s : State) (q : SeqId) (gd : BitVec 5) (status : Nat) : State :=
  s.modSeq q fun x => { x with
    run := .running, bank := x.bank.write gd (BitVec.ofNat 64 status), pc := following x.heads x.pc, ply := x.bank.loops.isEmpty }

/-- Control core q stalls in what it stands at. -/
def stalls (s : State) (q : SeqId) (p : Park) : State := s.modSeq q fun x => { x with run := .parked p }

/-- Launch l of state s is written `v` for the last time, which gives t (R46): its word is written, and it leaves,
with the cores that wait in ABORT for it answered, unless the word is on its way to another die (R413); then it has
ended but for that. -/
def FinalWord (s : State) (l : Launch) (v : Nat) (t : State) : Prop :=
  let u := s.writeCword l v
  let carries (m : Msg) : Prop := m ∈ u.net.msgs ∧ s.nextId ≤ m.id ∧ m.path = 96 + l.lead ∧
    ∃ d k r b chk, m.body = .publish d k r b chk ∧ k ≠ 0
  t.mem = u.mem ∧
  ((∀ m, ¬carries m) → t.launch? l.ctx l.slot = none ∧
    ∀ q x gd st, s.getSeq q = some x → x.run = .parked (.abort gd l.ctx l.slot st) →
      t.seqD q = { x with run := .running, bank := x.bank.write gd (BitVec.ofNat 64 st), pc := following x.heads x.pc,
                          ply := x.bank.loops.isEmpty }) ∧
  ((∃ m, carries m) → s.launch? l.ctx l.slot = some l → ∃ l' m, t.launch? l.ctx l.slot = some l' ∧ carries m ∧
    l'.phase = .ended m.id)

/-- What the launch unit does when it takes a PREEMPT (1), RESUME (2) or ABORT (3) of control core q on launch l (R48,
R52, R53, R185). -/
def OperationsAreTaken : Prop :=
  ∀ (s : State) (q : SeqId) (gd : BitVec 5) (l : Launch),
    let idle : Prop := l.phase = .admitted ∧ s.launchWorkers l.ctx l.slot = [] ∧ s.exhausted l = true
    let runs : Prop := (l.phase = .admitted ∧ (s.launchWorkers l.ctx l.slot ≠ [] ∨ s.exhausted l = false)) ∨ l.phase = .restoring
    let leaves : Prop := (∃ n, l.phase = .tearing n) ∨ ∃ n, l.phase = .ended n
    (l.phase = .queued ∨ l.phase = .preempted ∨ leaves ∨ idle → s.takeOp q 1 gd l = answers s q gd 2) ∧
    (runs → s.takeOp q 1 gd l = phased (stalls s q (.preempt gd l.ctx l.slot)) l .preempting) ∧
    (l.phase = .preempted → s.takeOp q 2 gd l =
      answers (phased s l (if s.launchWorkers l.ctx l.slot = [] then .admitted else .restoring)) q gd 0) ∧
    (l.phase ≠ .preempted → s.takeOp q 2 gd l = answers s q gd 2) ∧
    (l.phase = .queued → FinalWord (stalls s q (.abort gd l.ctx l.slot 0)) l 3 (s.takeOp q 3 gd l)) ∧
    (leaves → s.takeOp q 3 gd l = stalls s q (.abort gd l.ctx l.slot 2)) ∧
    (idle → s.takeOp q 3 gd l = answers s q gd 2) ∧
    (runs ∨ l.phase = .preempted → s.takeOp q 3 gd l = phased (stalls s q (.abort gd l.ctx l.slot 0)) l (.tearing 3))

/-- What instruction i, a PREEMPT (1), RESUME (2) or ABORT (3) into gd, does at the launch unit (R185): 1 where ga
names no launch; it waits behind a PREEMPT of the launch that is in progress and behind operations on it that came
before; and otherwise it is taken. -/
def Asks (i : Instr) (op : Nat) (gd : BitVec 5) (ga : Word) (s : State) : Prop :=
  ((∀ l, ¬Names s ga l) → exec i s = .next (answers s s.cur gd 1)) ∧
  ∀ l, Names s ga l →
    (l.phase = .preempting ∨ s.opBefore l.ctx l.slot s.nextId = true → exec i s = .next
      (stalls { s with nextId := s.nextId + 1 } s.cur (.launchOp op gd l.ctx l.slot s.nextId))) ∧
    (l.phase ≠ .preempting → s.opBefore l.ctx l.slot s.nextId = false → exec i s = .next (s.takeOp s.cur op gd l))

end Sys2Proof.Claims

/-- R48, R52, R53, R185: PREEMPT saves each worker of the launch that stands where it may, takes the trap of one that
met an error first, goes on until all are saved, and returns 0; RESUME lets the launch be placed again; ABORT ends a
queued launch, and tears down another, whose final word it waits for. Each returns 1 where ga names no launch, and 2
where it is in another phase; what comes behind a PREEMPT of the launch waits for it, in the order of arrival. -/
def Sys2Proof.Claims.LaunchesAreStopped : Prop :=
  OperationsAreTaken ∧
  (∀ (f : FIM) (s : State),
    ((Instr.preempt f).ready s → Asks (.preempt f) 1 (hReg f.h) (s.g f.ga) s) ∧
    ((Instr.resume f).ready s → Asks (.resume f) 2 (hReg f.h) (s.g f.ga) s) ∧
    ((Instr.abort f).ready s → Asks (.abort f) 3 (hReg f.h) (s.g f.ga) s)) ∧
  (∀ (s : State) (l : Launch),
    let u := (s.launchWorkers l.ctx l.slot).foldl (fun a p => a.stopStep p.1) s
    ((∀ p ∈ u.launchWorkers l.ctx l.slot, p.2.run = .saved) → s.preemptStep l = u.modLaunch l.ctx l.slot fun x =>
      if x.phase = .preempting then { x with phase := .preempted } else x) ∧
    (¬(∀ p ∈ u.launchWorkers l.ctx l.slot, p.2.run = .saved) → s.preemptStep l = u)) ∧
  (∀ (s : State) (q : SeqId) (x : Seq) (gd : BitVec 5) (c slot : Nat), s.getSeq q = some x →
    x.run = .parked (.preempt gd c slot) →
    (s.launch? c slot = none → s.servePreempt q = answers s q gd 1) ∧
    ∀ l, s.launch? c slot = some l →
      (l.phase = .preempting → s.servePreempt q = s) ∧ (l.phase = .preempted → s.servePreempt q = answers s q gd 0) ∧
      (l.phase ≠ .preempting → l.phase ≠ .preempted → s.servePreempt q = answers s q gd 2)) ∧
  (∀ (s : State) (q : SeqId) (x : Seq) (gd : BitVec 5) (op c slot a : Nat), s.getSeq q = some x →
    x.run = .parked (.launchOp op gd c slot a) →
    (s.launch? c slot = none → s.serveOp q = answers s q gd 1) ∧
    ∀ l, s.launch? c slot = some l →
      (l.phase = .preempting ∨ s.opBefore c slot a = true → s.serveOp q = s) ∧
      (l.phase ≠ .preempting → s.opBefore c slot a = false → s.serveOp q = s.takeOp q op gd l)) ∧
  (∀ (v : State) (w : WKey),
    let x := v.seqD (.worker w)
    (x.run = .saved → v.stopStep w = v) ∧
    (x.run ≠ .saved → x.w.pending = none → v.mayStop w = true → v.stopStep w = v.saveWorker w) ∧
    (x.run ≠ .saved → x.w.pending = none → v.mayStop w = false → v.stopStep w = v) ∧
    (∀ p, x.run.stoppable = true → x.w.pending = some p → x.priv = .u → x.trap = none →
      (v.vPending (.worker w) = true → v.stopStep w = v) ∧
      (v.vPending (.worker w) = false → v.stopStep w =
        (v.modSeq (.worker w) fun y => { y with run := .running, w := { y.w with pending := none } }).raiseOn (.worker w)
          { source := p.source, cond := if p.mark.accum then 16 else 17, epc := x.pc, eaddr := p.mark.addr,
            eidx := p.elem, save := x.pc, vstart := none }))) ∧
  ∀ (v a b c d : State) (w : WKey), (v.getSeq (.worker w)).isSome →
    ((v.seqD (.worker w)).run = .parked .kpost → a = v) →
    ((v.seqD (.worker w)).run ≠ .parked .kpost → v.saveRecord w = some a) →
    a.saveWindowRegs w = some b → b.saveSpad w = some c → c.saveForks w = some d →
    let y := (v.saveWorker w).seqD (.worker w)
    y.run = .saved ∧ y.w.onCore = false ∧ ∀ k, k < 64 → (y.w.v.getD k VReg.reset).granule = 0

namespace Sys2Proof.Claims

/-- The conditions of R37 on the entries of a group table, with COUNT of at least 1 (log entry 74). -/
def GroupsSound (s : State) (l : Launch) (gs : List Group) : Prop :=
  let most := (l.stages.map fun x => x.maxw).sum
  let grant := (s.ctx l.ctx).csrgrant.toNat
  let first := grant % 2 ^ 14
  let many := grant / 2 ^ 16 % 2 ^ 15
  (∀ g ∈ gs, g.count = ((List.range 4096).filter fun k => g.members.getLsbD k).length ∧ 1 ≤ g.count ∧
    (∀ k, g.members.getLsbD k = true → k < most) ∧ g.scope.toNat ≤ 4 ∧ first ≤ g.sreg ∧ g.sreg < first + many) ∧
  (gs.map fun g => g.sreg).Nodup ∧
  ∀ w, (gs.filter fun g => g.members.getLsbD w).length ≤ 4

/-- Entry j of a group table of these bytes is `g` (R36), its reserved bits zero. -/
def IsGroup (bs : List Byte) (j : Nat) (g : Group) : Prop :=
  let e := bytesNum ((bs.drop (576 * j)).take 576)
  g.count = e % 2 ^ 13 ∧ e / 2 ^ 13 % 2 ^ 11 = 0 ∧ g.scope.toNat = e / 2 ^ 24 % 2 ^ 3 ∧ e / 2 ^ 27 % 2 ^ 3 = 0 ∧
  g.sreg = e / 2 ^ 30 % 2 ^ 14 ∧ e / 2 ^ 44 % 2 ^ 468 = 0 ∧ g.members.toNat = e / 2 ^ 512

/-- Where the workers of `ws` stand, worker i on VC `at_ i` numbered through the module: on the masked dies, each VC and
cluster within R27, each worker of a COR launch alone. -/
def Resident (mask : BitVec 4) (cor : Bool) (ws : List Stage) (at_ : Nat → Nat) : Prop :=
  let here (p : Nat → Bool) : List Stage := (ws.zipIdx.filter fun x => p (at_ x.2)).map fun x => x.1
  (∀ i, i < ws.length → at_ i < 2048 ∧ mask.getLsbD (at_ i / 512) = true) ∧
  (∀ v, (here fun a => a == v).length ≤ (if cor then 1 else 2) ∧ ((here fun a => a == v).map fun x => x.spad).sum ≤ 4) ∧
  ∀ c, ((here fun a => a / 32 == c).map fun x => x.mxn).sum ≤ 8 ∧
    ((here fun a => a / 32 == c).map fun x => x.cen).sum ≤ 16

end Sys2Proof.Claims

/-- R23, R27: the residency test passes exactly where some assignment of the workers to VCs of the masked dies meets the
limits: each worker at MAXW, alone on its VC, for a COR launch; else those of MINW, with frames for them all. -/
def Obligations.ResidencyAsksForAnAssignment : Prop :=
  ∀ (s : State) (l : Launch), (∀ x ∈ l.stages, x.spad ≤ 4) →
    let cor := blockCor l.block
    let ws := l.stages.flatMap fun x => List.replicate (if cor then x.maxw else x.minw) x
    (s.residencyOk l = true ↔
      (∃ at_, Resident (blockDies l.block) cor ws at_) ∧ (cor = false → ws.length ≤ (s.ctx l.ctx).cfn.toNat))

/-- R23, R36, R37: a launch passes the admission checks where every masked die is in service and released, every input
ring lies in SHARED or INPLACE pages, the residency test passes, and its group table, read at U through its
translations, is without error, with reserved fields of zero and entries that meet R37. It is then admitted with these
entries. -/
def Sys2Proof.Claims.AdmissionChecksFollowR23 : Prop :=
  (∀ (s : State) (l : Launch) (gs : List Group), s.groupsOk l gs = true ↔ GroupsSound s l gs) ∧
  ∀ (s : State) (l : Launch),
    let dies : Prop := ∀ d, d < 4 → (blockDies l.block).getLsbD d = true → s.inService d = true ∧ (s.die d).released = true
    let rings : Prop := ∀ k x, l.stages[k]? = some x → ¬(k = 0 ∧ blockIndexed l.block = true) →
      ∃ p, s.checkAccess { holder := l.lead, ctx := l.ctx, k := true } ⟨false, false, false, 0, true⟩ x.sinq
        (x.recsz * 2 ^ x.depthlog) = .ok p ∧ ∀ y ∈ p, pteKind y.1.val = .shared ∨ pteKind y.1.val = .inplace
    let n := blockGroups l.block
    let table := s.checkAccess { holder := l.lead, ctx := l.ctx, k := false } wantLoad (blockGtab l.block) (576 * n)
    (¬dies ∨ ¬rings ∨ s.residencyOk l = false → s.admissionOk l = none) ∧
    (dies → rings → s.residencyOk l = true →
      (n = 0 → s.admissionOk l = some (s, [])) ∧
      (n ≠ 0 → (∃ e, table = .error e) → s.admissionOk l = none) ∧
      ∀ p, n ≠ 0 → table = .ok p → reachesDevice p = false →
        ∀ u bs m, (s.markAll p false).readPieces none l.lead (homePieces p) = (u, bs, m) →
          (m.isSome → s.admissionOk l = none) ∧
          (m = none → ∀ gs, (gs.length = n ∧ (∀ j g, gs[j]? = some g → IsGroup bs j g) ∧ GroupsSound u l gs ↔
            s.admissionOk l = some (u, gs))))

/-- R23 to R26, R29: a queued launch becomes eligible at START; the checks are made once and a launch that fails is
written 0x06; admission writes its word as zero and creates its first workers, MINW of each stage and MAXW for a COR
launch, or nothing; later ones are created one by one, none for a COR launch; a worker begins at its stage's entry at U
with ARG in g1. -/
def Sys2Proof.Claims.LaunchesAreAdmitted : Prop :=
  (∀ (s : State) (c slot : Nat) (l : Launch), s.launch? c slot = some l → l.phase = .queued →
    (blockWord l.block 5).toNat ≤ (s.die l.lead).time.toNat →
    exec (.eligibility c slot) s = .next (s.modLaunch c slot fun x => { x with eligible := true })) ∧
  (∀ (s : State) (die : Nat) (l : Launch), s.nextLaunch die = some l → l.checked = false →
    (∀ u gs, s.admissionOk l = some (u, gs) → exec (.admissionChecks die) s =
      .next (u.modLaunch l.ctx l.slot fun x => { x with checked := true, groups := gs })) ∧
    (s.admissionOk l = none → ∃ t, exec (.admissionChecks die) s = .next t ∧ FinalWord s l 6 t)) ∧
  (∀ (s : State) (die : Nat) (l : Launch), s.nextLaunch die = some l → l.checked = true →
    let u := phased ((s.writeCword l 0).zeroGroups l.groups) l .admitted
    let first := foldOpt (fun (acc : State) k => acc.tryCreate l.ctx l.slot k) l.initial u
    (∀ t, first = some t → exec (.admission die) s = .next t) ∧ (first = none → exec (.admission die) s = .next s)) ∧
  (∀ (l : Launch) (k : Nat) (x : Stage), l.stages[k]? = some x →
    l.initial.count k = (if blockCor l.block then x.maxw else x.minw)) ∧
  (∀ l : Launch, l.initial.Pairwise (fun a b => a ≤ b) ∧ ∀ k ∈ l.initial, k < l.stages.length) ∧
  (∀ (s : State) (c slot : Nat) (l : Launch), s.launch? c slot = some l → blockCor l.block = true →
    exec (.workerCreation c slot) s = .next s) ∧
  (∀ (s : State) (c slot k n : Nat) (l : Launch) (p : Place), s.launch? c slot = some l → l.phase = .admitted →
    blockCor l.block = false → l.issued < sumMaxw l.stages → s.chooseNew l = some (k, p) → s.freeFrame c = some n →
    exec (.workerCreation c slot) s = .next (s.createWorker l k p n)) ∧
  ∀ (s : State) (l : Launch) (k n : Nat) (p : Place) (w : WKey), w = ⟨l.ctx, l.slot, l.issued⟩ →
    ∃ y, (s.createWorker l k p n).getSeq (.worker w) = some y ∧ y.pc = (l.stage k).entry ∧ y.priv = .u ∧
      y.run = .running ∧ y.bank.read 1 = blockWord l.block 1 ∧ (∀ r : BitVec 5, r ≠ 1 → y.bank.read r = 0) ∧
      y.bank.loops = [] ∧ y.w.stage = k ∧ y.w.frame = n ∧ y.w.place = p ∧ y.w.vncode = (l.stage k).vreg ∧
      y.w.spadCode = (l.stage k).spad ∧ y.w.svec = (s.ctx l.ctx).csvec ∧ y.w.ins = false

/-- R44 to R47, R51: a launch that has nothing left to do ends, with retired workers, faults, flags and status in its
completion word once everything its workers stored is released; one whose word is on its way leaves when the word has
reached its home; a watchdog that expires posts WATCHDOG (condition 27 of MEM) and tears the launch down. -/
def Sys2Proof.Claims.LaunchesEnd : Prop :=
  (∀ (s u : State) (c slot : Nat) (l : Launch), s.launch? c slot = some l → s.launchWorkers c slot = [] →
    s.launchBusy c slot = false → l.phase = .admitted → s.exhausted l = true → s.releaseLaunch l = (u, true) →
    (∀ w ∈ s.windows, ¬(w.ctx = c ∧ w.slot = slot)) →
    let word := 2 ^ 32 * (l.retired % 2 ^ 32) + 2 ^ 16 * (l.faults % 2 ^ 16) + 2 ^ 8 * l.flags.toNat +
      (if l.faults = 0 then 1 else 2)
    ∃ t, exec (.launchEnd c slot) s = .next t ∧ FinalWord u l word t) ∧
  (∀ (s u : State) (c slot st : Nat) (l : Launch), s.launch? c slot = some l → s.launchWorkers c slot = [] →
    s.launchBusy c slot = false → l.phase = .tearing st → s.releaseLaunch l = (u, true) →
    ∃ t, exec (.launchEnd c slot) s = .next t ∧
      FinalWord u l (2 ^ 32 * (l.retired % 2 ^ 32) + 2 ^ 16 * (l.faults % 2 ^ 16) + 2 ^ 8 * l.flags.toNat + st) t) ∧
  (∀ (s : State) (c slot i : Nat) (l : Launch), s.launch? c slot = some l → l.phase = .ended i →
    (∀ l' ∈ s.launches, l'.ctx = c → l'.slot = slot → l' = l) →
    ((∀ m ∈ s.net.msgs, m.id = i → m.reply.isSome = true) → s.settleEnded.launch? c slot = none) ∧
    ((∃ m ∈ s.net.msgs, m.id = i ∧ m.reply = none) → s.settleEnded.launch? c slot = some l)) ∧
  (∀ (s u : State) (l : Launch) (d c : Nat), s.releaseLaunch l = (u, true) → d < 4 → (blockDies l.block).getLsbD d = true →
    s.inService d = true → c / 16 = d → (∀ e ∈ u.mem.stage, e.cluster ≠ c) ∧ u.writesOnWay c = false) ∧
  ∀ (s : State) (c slot : Nat) (l : Launch), s.launch? c slot = some l →
    l.phase = .admitted ∨ l.phase = .restoring ∨ l.phase = .preempting →
    (blockWord l.block 4).toNat ≠ 0 → (blockWord l.block 4).toNat * 1000 ≤ l.watch →
    ∃ t l' p, exec (.watchdog c slot) s = .next t ∧ t.launch? c slot = some l' ∧ l'.phase = .tearing 4 ∧
      p ∈ t.kfqWaiting ∧ p.cause = BitVec.ofNat 9 (5 * 64 + 27) ∧ p.ctx = c ∧ p.slot = slot ∧ p.direct = true

namespace Sys2Proof.Claims

/-- What a worker takes back from the words `r` of its record (R250, R259). -/
def TakesRecord (y : Seq) (r : List Byte) : Prop :=
  let st := BitVec.ofNat 64 (wordAt r 1)
  y.priv = .u ∧ (y.run = if st.getLsbD 18 then .parked .kpost else .running) ∧ y.pc = BitVec.ofNat 64 (wordAt r 0) ∧
  y.bank.xf = st.extractLsb' 32 8 ∧ y.w.xsel = st.extractLsb' 28 4 ∧ y.w.vrm = st.extractLsb' 26 2 ∧
  y.w.vmt = st.extractLsb' 24 2 ∧ y.w.vl = BitVec.ofNat 15 (wordAt r 2) ∧ y.w.vstart = BitVec.ofNat 15 (wordAt r 3) ∧
  y.w.vlmax = BitVec.ofNat 15 (wordAt r 4) ∧ y.cause = BitVec.ofNat 9 (wordAt r 5) ∧
  y.epc = BitVec.ofNat 64 (wordAt r 6) ∧ y.eaddr = BitVec.ofNat 64 (wordAt r 7) ∧ y.eidx = BitVec.ofNat 15 (wordAt r 8) ∧
  (∀ k : BitVec 5, k ≠ 0 → y.bank.read k = BitVec.ofNat 64 (wordAt r (12 + k.toNat)) ∧
    (y.bank.mark k).isSome = (BitVec.ofNat 64 (wordAt r 9)).getLsbD k.toNat) ∧
  y.bank.loops.length = (st.extractLsb' 19 3).toNat

/-- What window register x of worker w takes from the words of its image in WREGS (R259, R267): its fields, open where
the image says so and a window of the launch has its geometry; an image of no window comes back closed (DESIGN CHOICE,
log entry 95). -/
def TakesWindow (s : State) (w : WKey) (x : WindowReg) (lo hi : Nat) : Prop :=
  let is (y : Window) : Prop := y ∈ s.windows ∧ y.ctx = w.ctx ∧ y.slot = w.slot ∧ y.base.toNat % 2 ^ 58 = lo % 2 ^ 58 ∧
    y.rows = hi / 2 ^ 16 % 2 ^ 8 ∧ y.cols = hi / 2 ^ 24 % 2 ^ 8 ∧ y.pitchl = hi / 2 ^ 12 % 2 ^ 4
  x.base.toNat = lo % 2 ^ 58 ∧ x.rows.toNat = hi / 2 ^ 16 % 2 ^ 8 ∧ x.cols.toNat = hi / 2 ^ 24 % 2 ^ 8 ∧
  x.pitchl.toNat = hi / 2 ^ 12 % 2 ^ 4 ∧ (x.isOpen = true ↔ hi / 2 ^ 32 % 2 = 1 ∧ ∃ y, is y) ∧
  (x.isOpen = true → ∃ y, is y ∧ x.window = y.id)

end Sys2Proof.Claims

/-- R49, R50, R53, R257, R259: a saved worker of a launch that is resumed is placed and takes its record back, and
with KPOSTED stays parked, its window registers with it; the workers of a COR launch are restored together or not at
all; a posted worker returns where RELEASE is 1, and ends, counted as a fault, where it is 2; a VC whose running
worker has parked switches to the standby one. -/
def Sys2Proof.Claims.WorkersReturnAndSwitch : Prop :=
  (∀ (s a e b d : State) (w : WKey) (l : Launch) (p : Place) (y : Seq) (r ws : List Byte), s.launch? w.ctx w.slot = some l →
    s.getSeq (.worker w) = some y → l.phase = .restoring → y.run = .saved → blockCor l.block = false →
    s.choosePlace l (s.stageD w) = some p → y.w.mxHeld = 0 → y.w.ceHeld = 0 →
    (let u := (s.modSeq (.worker w) fun x => { x with run := .parked .kpost, w := { x.w with
      place := p, onCore := !s.vcBusy p, moves := x.w.moves + 1, svec := (s.ctx w.ctx).csvec } }).shrinkCache p.vc
        (s.cacheLines p.vc)
     ((u.dropClean p.vc).dropGuests p.die).restoreSpad w = some a ∧ (∃ v, a.frameRead w 0x300 0x80 = some (v, ws)) ∧
       a.restoreWindowRegs w = some e ∧ e.loadVector w = some b ∧
       b.frameRead w 0 0x1F0 = some (d, r)) →
    (wordAt r 11 < 2 ^ 63 ∨ (BitVec.ofNat 64 (wordAt r 1)).getLsbD 18 = true) →
    ∃ t, exec (.restore w) s = .next t ∧ TakesRecord (t.seqD (.worker w)) r ∧
      (t.seqD (.worker w)).w.place = p ∧ (t.seqD (.worker w)).w.moves = y.w.moves + 1 ∧
      ∀ k, k < 8 → TakesWindow a w ((t.seqD (.worker w)).w.win.getD k WindowReg.reset)
        (wordAt ws (2 * k)) (wordAt ws (2 * k + 1))) ∧
  (∀ (s : State) (w : WKey) (l : Launch), s.launch? w.ctx w.slot = some l → l.phase = .restoring →
    (s.seqD (.worker w)).run = .saved → blockCor l.block = true →
    ∃ t, exec (.restore w) s = .next t ∧ (t = s ∨ ∀ v ∈ s.savedWorkers l, (t.seqD (.worker v)).run ≠ .saved)) ∧
  (∀ (s u : State) (w : WKey) (bs : List Byte), (s.seqD (.worker w)).run = .parked .kpost →
    s.frameRead w 0x1F8 8 = some (u, bs) →
    (bytesNum bs = 1 → s.returnWaits (.worker w) = false → exec (.release w) s = .next (u.returnWorker w)) ∧
    (bytesNum bs = 1 → s.returnWaits (.worker w) = true → exec (.release w) s = .next s) ∧
    ∀ l, bytesNum bs = 2 → s.pushesOf w = false → u.launch? w.ctx w.slot = some l → l.torn = false →
      ∃ t l', exec (.release w) s = .next t ∧
      (t.getSeq (.worker w) = none ∨ (t.seqD (.worker w)).run = .ended) ∧ t.launch? w.ctx w.slot = some l' ∧
      l'.faults = min 65535 (l.faults + 1)) ∧
  ∀ (s : State) (vc : Nat) (w : WKey) (y : Seq),
    let here := s.residents.filter fun p => p.2.w.place.vc == vc
    here.find? (fun p => !p.2.w.onCore && p.2.run == .running) = some (w, y) →
    (∀ p ∈ here, p.2.w.onCore = true → p.2.run.switches = true ∧ s.vecIdle (.worker p.1) = true) →
    (s.getSeq (.worker w)).isSome →
    ∃ t, exec (.workerSwitch vc) s = .next t ∧ (t.seqD (.worker w)).w.onCore = true ∧
      ∀ p ∈ here, p.1 ≠ w → (s.getSeq (.worker p.1)).isSome → (t.seqD (.worker p.1)).w.onCore = false

/-! ## The kernel's instructions -/

namespace Sys2Proof.Claims

/-- What TLBINV of form `i` does (R429, R434): once its release at device scope leaves u, the translations that meet
what it names are dropped, and the core waits in it for what still uses them, and for the new roots of the contexts
all of whose pages it names. -/
def Invalidates (i : Instr) (s : State) (gd : BitVec 5) (keeps : TlbEntry → Bool) (whole : Nat → Bool) : Prop :=
  ∀ u, s.ordering s.cur = false → s.release s.cur 3 = (u, true) →
    ∃ t ids pages, exec i s = .next t ∧ t.mem.tlb = u.mem.tlb.filter keeps ∧
      t.core = { s.core with run := .parked (.tlbinv gd u.nextId ids pages
        ((u.ctxs.filter fun p => whole p.1).map fun p => (p.1, p.2.croot))) }

/-- The bytes of virtual addresses that a TLB entry serves (R430, R431, R433): those under the table a pointer leads
to, or the page of a leaf. -/
def served (e : TlbEntry) : Nat :=
  if e.pointer then 512 * 2 ^ (12 + 9 * (4 - e.level))
  else if e.level = 4 ∧ e.leaf.getLsbD 10 = true then 65536
  else if e.level = 2 then 2 ^ 30 else if e.level = 3 then 2 ^ 21 else 4096

/-- A context number TLBINV may name: 0, or an enabled one. -/
def Named (s : State) (v : Word) : Prop := v = 0 ∨ (v.toNat ≤ 511 ∧ s.enabled v.toNat = true)

end Sys2Proof.Claims

/-- R429, R434: TLBINV.page, .ctx and .all drop every TLB entry of what they name whose page, or whose table, meets
it, return 1 for a context that is not enabled, and complete with 0 once nothing checked against a dropped translation
is still to be performed; .ctx and .all then make a new CROOT the root that walks use, which an older TLBINV that
completes later leaves (log entry 91). -/
def Sys2Proof.Claims.TlbinvDropsTranslations : Prop :=
  (∀ (f : FTR) (s : State) (n : Nat), s.cur = .cc n →
    let gd := hReg f.h
    let c := s.g f.ga
    let lo := (s.g f.gb).toNat
    let hi := lo + 4096 * (s.g f.gc).toNat
    ((Instr.tlbinvAll f).ready s → Invalidates (.tlbinvAll f) s gd (fun _ => false) fun _ => true) ∧
    ((Instr.tlbinvCtx f).ready s → Named s c → Invalidates (.tlbinvCtx f) s gd (fun e => e.ctx != c.toNat)
      fun k => k == c.toNat) ∧
    ((Instr.tlbinvPage f).ready s → Named s c → Invalidates (.tlbinvPage f) s gd
      (fun e =>
        let first := 4096 * e.vpn / served e * served e
        e.ctx != c.toNat || decide (hi ≤ first) || decide (first + served e ≤ lo))
      fun _ => false) ∧
    ∀ u, ¬Named s c → s.ordering s.cur = false → s.release s.cur 3 = (u, true) →
      ((Instr.tlbinvCtx f).ready s → exec (.tlbinvCtx f) s = .next (u.put gd 1)) ∧
      ((Instr.tlbinvPage f).ready s → exec (.tlbinvPage f) s = .next (u.put gd 1))) ∧
  (∀ (s : State) (q : SeqId) (x : Seq) (gd : BitVec 5) (num : Nat) (ids pages : List Nat) (roots : List (Nat × Word)),
    s.getSeq q = some x → x.run = .parked (.tlbinv gd num ids pages roots) → (∀ i ∈ ids, i ∉ s.busyIds) →
    s.rootsBusy roots = false → (∀ p ∈ s.allSeqs, p.1 ≠ q → ∀ g n a b c, p.2.run ≠ .parked (.tlbinv g n a b c)) →
    s.endDrops.seqD q = { x with run := .running, bank := x.bank.write gd 0, pc := following x.heads x.pc }) ∧
  (∀ (s : State) (q r : SeqId) (y : Seq) (gd gr : BitVec 5) (num n : Nat) (pages ids ps : List Nat)
      (roots rs : List (Nat × Word)), s.getSeq r = some y → r ≠ q → y.run = .parked (.tlbinv gr n ids ps rs) → n < num →
    ((s.endDrop q gd num pages roots).seqD r).run =
      .parked (.tlbinv gr n ids ps (rs.filter fun p => !(roots.map fun x => x.1).contains p.1))) ∧
  ∀ (s : State) (c : Nat) (r : Word), ((s.setRoot c r).ctx c).root = r ∧
    ((s.ctx c).root ≠ r → ∀ e ∈ (s.setRoot c r).mem.tlb, e.ctx ≠ c)

namespace Sys2Proof.Claims

/-- Bytes written into a worker's frame, one piece after another (R248). -/
def wrote (s : State) (w : WKey) (l : List (Nat × List Byte)) : Option State :=
  foldOpt (fun a p => a.frameWrite w p.1 p.2) l s

/-- The dirty granules of register k within its extent, with their places in the frame (R249, R255). -/
def dirtyGranules (x : Worker) (k : Nat) : List (Nat × List Byte) :=
  let r := x.v.getD k VReg.reset
  ((List.range ((r.extent + 2047) / 2048)).filter fun b => r.dirty.getLsbD b).map fun b =>
    (0x8000 + k * (131072 / (8 * 2 ^ x.vncode.toNat)) + 2048 * b, numBytes 2048 (r.bits.toNat / 2 ^ (16384 * b) % 2 ^ 16384))

/-- MASKS, EXTENT, QREGS and VPOISON of a worker, with their places in the frame (R249, R250, R255). `p` is VPOISON. -/
def vectorRecord (x : Worker) (p : Nat) : List (Nat × List Byte) :=
  ((List.range 8).map fun k => (0x1000 + 0xAC0 * k, numBytes 2731 (x.m.getD k 0).toNat)) ++
  [(0x380, (List.range 64).flatMap fun k => numBytes 2 (x.v.getD k VReg.reset).extent),
   (0x200, (List.range 16).flatMap fun k =>
      let q := x.q.getD k Stream.reset
      numBytes 16 ((if q.set then 2 ^ 66 else 0) + (if q.dir then 2 ^ 65 else 0) + 2 ^ 58 * q.boff.toNat + q.base.toNat)),
   (0x50, numBytes 8 p)]

/-- What CTXLD.v takes from the first 0x400 bytes `r` of the frame and its masks `ms` (R255). -/
def TakesVectors (y : Worker) (r ms : List Byte) : Prop :=
  let code := wordAt r 1 / 2 ^ 22 % 4
  let n := 8 * 2 ^ code
  y.vncode.toNat = code ∧ y.vsaved = false ∧
  (∀ k, k < 64 →
    let v := y.v.getD k VReg.reset
    let e := min (bytesNum ((r.drop (0x380 + 2 * k)).take 2)) (131072 / n)
    v.extent = (if k < n then e else 0) ∧ v.poison.isSome = (wordAt r 10).testBit k ∧ v.granule = 0 ∧ v.dirty = 0 ∧
    ∀ b, b < 8 → (v.framed.getLsbD b = true ↔ k < n ∧ 2048 * b < e)) ∧
  (∀ k, k < 8 → y.m.getD k 0 = BitVec.ofNat 21845 (bytesNum ((ms.drop (0xAC0 * k)).take 2731))) ∧
  ∀ k, k < 16 →
    let q := y.q.getD k Stream.reset
    let lo := wordAt r (64 + 2 * k)
    let hi := wordAt r (65 + 2 * k)
    q.base.toNat = lo % 2 ^ 58 ∧ q.boff.toNat = lo / 2 ^ 58 % 8 ∧ q.dir = hi.testBit 1 ∧ q.set = hi.testBit 2 ∧ q.slots = []

end Sys2Proof.Claims

/-- R128, R249, R250, R255: what CTXSV.v writes into the frame: every dirty granule within the extents, whose dirty
bits it clears, then MASKS, EXTENT, QREGS, VPOISON and VNCODE; what CTXLD.v takes from there, every block within the
extents to be reloaded; and the words of a worker record. -/
def Sys2Proof.Claims.FramesHoldVectorState : Prop :=
  (∀ (s : State) (w : WKey),
    let n := 8 * 2 ^ (s.seqD (.worker w)).w.vncode.toNat
    s.saveBlocks w = foldOpt (fun acc k => (wrote acc w (dirtyGranules (acc.seqD (.worker w)).w k)).map fun a =>
      a.modSeq (.worker w) fun x => { x with w := { x.w with
        v := x.w.v.setIfInBounds k { (acc.seqD (.worker w)).w.v.getD k VReg.reset with dirty := 0 } } }) (List.range n) s) ∧
  (∀ (s a : State) (w : WKey) (p : Nat), (s.seqD (.worker w)).w.vsaved = false → s.saveBlocks w = some a →
    p < 2 ^ 64 → (∀ k, k < 64 → p.testBit k = ((s.seqD (.worker w)).w.v.getD k VReg.reset).poison.isSome) →
    s.saveVector w = ((wrote a w (vectorRecord (a.seqD (.worker w)).w p)).bind fun b =>
      b.frameModify w 8 (3 * 2 ^ 22) (2 ^ 22 * (s.seqD (.worker w)).w.vncode.toNat)).map fun c =>
        c.modSeq (.worker w) fun x => { x with w := { x.w with vsaved := true } }) ∧
  (∀ (s a b : State) (w : WKey) (r ms : List Byte), (s.getSeq (.worker w)).isSome → s.frameRead w 0 0x400 = some (a, r) →
    a.frameRead w 0x1000 0x5600 = some (b, ms) →
    ∃ u, s.loadVector w = some u ∧ u.mem = b.mem ∧ TakesVectors (u.seqD (.worker w)).w r ms) ∧
  ∀ (x : Seq) (pc : Word) (loops : List LoopEntry) (posted trapped : Bool) (bar k : Nat), loops.length ≤ 6 →
    let ws := recordWords x pc loops posted trapped bar
    ws.length = 62 ∧ ws.getD 0 0 = pc.toNat ∧
    ws.getD 1 0 = 2 ^ 32 * x.bank.xf.toNat + 2 ^ 28 * x.w.xsel.toNat + 2 ^ 26 * x.w.vrm.toNat + 2 ^ 24 * x.w.vmt.toNat +
      2 ^ 22 * x.w.vncode.toNat + 2 ^ 19 * loops.length + (if posted then 2 ^ 18 else 0) +
      (if trapped then 2 ^ 17 else 0) ∧
    ws.getD 2 0 = x.w.vl.toNat ∧ ws.getD 3 0 = x.w.vstart.toNat ∧ ws.getD 4 0 = x.w.vlmax.toNat ∧
    ws.getD 5 0 = x.cause.toNat ∧ ws.getD 6 0 = x.epc.toNat ∧ ws.getD 7 0 = x.eaddr.toNat ∧
    ws.getD 8 0 = x.eidx.toNat ∧ (k < 32 → (ws.getD 9 0).testBit k = (x.bank.mark (BitVec.ofNat 5 k)).isSome) ∧
    (k < 64 → (ws.getD 10 0).testBit k = (x.w.v.getD k VReg.reset).poison.isSome) ∧ ws.getD 11 0 = bar ∧
    (k < 32 → ws.getD (12 + k) 0 = (x.bank.read (BitVec.ofNat 5 k)).toNat) ∧
    ∀ e, loops.reverse[k]? = some e →
      ws.getD (44 + 3 * k) 0 = e.body.toNat ∧ ws.getD (45 + 3 * k) 0 = e.rem.toNat ∧ ws.getD (46 + 3 * k) 0 = e.idx.toNat

/-- R255, R435, R436: CTXSV writes the thread record and CTXLD takes one; CTXSV.v saves a worker's vector state into its
frame and CTXLD.v takes it back, on its VC by VSAVED, and on a control core for a worker parked beside the running
one. -/
def Sys2Proof.Claims.ContextsAreSavedAndLoaded : Prop :=
  (∀ (f : FIM) (s u : State) (l : List (Nat × PageKind × Nat)), (Instr.ctxsv f).ready s →
    threadAccess (s.g f.ga) true s = .ok (u, l) → exec (.ctxsv f) s = .next
      ((u.writePieces (u.cacheOf u.cur) (u.dieOf u.cur) l (wordsBytes (threadWords s.core))).put (hReg f.h) 0)) ∧
  (∀ (x : Seq) (k : Nat), x.other.loops.length ≤ 6 →
    (threadWords x).length = 64 ∧ (threadWords x).getD 0 0 = x.epc.toNat ∧
    (threadWords x).getD 1 0 = x.cc.uctx.toNat + 512 * x.other.loops.length ∧
    (k < 32 → (threadWords x).getD (2 + k) 0 = (x.other.read (BitVec.ofNat 5 k)).toNat) ∧
    (threadWords x).getD 53 0 = x.other.xf.toNat) ∧
  (∀ (f : FIM) (s u v : State) (l : List (Nat × PageKind × Nat)) (r : List Byte), (Instr.ctxld f).ready s →
    threadAccess (s.g f.ga) false s = .ok (u, l) →
    u.readPieces (u.cacheOf u.cur) (u.dieOf u.cur) l = (v, r, none) →
    (threadOk r = false ∨ v.enabled (wordAt r 1 % 2 ^ 9) = false → exec (.ctxld f) s = .next (v.put (hReg f.h) 1)) ∧
    (threadOk r = true → v.enabled (wordAt r 1 % 2 ^ 9) = true → ∃ t, exec (.ctxld f) s = .next t ∧
      (hReg f.h ≠ 0 → t.g (hReg f.h) = 0) ∧ t.core.epc = BitVec.ofNat 64 (wordAt r 0) ∧
      t.core.cc.uctx = BitVec.ofNat 9 (wordAt r 1) ∧ t.core.other.xf = BitVec.ofNat 8 (wordAt r 53) ∧
      ∀ k : BitVec 5, k ≠ 0 → t.core.other.read k = BitVec.ofNat 64 (wordAt r (2 + k.toNat)))) ∧
  (∀ (f : FIM) (s u : State) (w : WKey), s.cur = .worker w → s.waitsVector = false → s.framePending s.cur = false →
    ((Instr.ctxsvV f).ready s → s.saveVector w = some u →
      exec (.ctxsvV f) s = .next (onward s u) ∧ u.core.w.vsaved = true) ∧
    ((Instr.ctxldV f).ready s → s.core.w.vsaved = false → exec (.ctxldV f) s = .next (onward s s)) ∧
    ((Instr.ctxldV f).ready s → s.core.w.vsaved = true → s.loadVector w = some u →
      exec (.ctxldV f) s = .next (onward s u) ∧ u.core.w.vsaved = false)) ∧
  ∀ (f : FIM) (s u : State) (w : WKey) (e : Word),
    (s.namedWorker (s.g f.ga) = .error e →
      ((Instr.ctxsvVK f).ready s → Gives (.ctxsvVK f) s (hReg f.h) e) ∧
      ((Instr.ctxldVK f).ready s → Gives (.ctxldVK f) s (hReg f.h) e)) ∧
    (s.namedWorker (s.g f.ga) = .ok w →
      ((Instr.ctxsvVK f).ready s → s.spillAll w = some u → exec (.ctxsvVK f) s = .next (u.put (hReg f.h) 0)) ∧
      ((Instr.ctxldVK f).ready s → ∃ t, exec (.ctxldVK f) s = .next t ∧ (hReg f.h ≠ 0 → t.g (hReg f.h) = 0) ∧
        t.mem = s.mem ∧ ∀ k, k < 64 → ((t.seqD (.worker w)).w.v.getD k VReg.reset).granule = 0 ∧
          ((t.seqD (.worker w)).w.v.getD k VReg.reset).dirty = 0 ∧
          ((t.seqD (.worker w)).w.v.getD k VReg.reset).framed =
            ((s.seqD (.worker w)).w.v.getD k VReg.reset).framed ||| ((s.seqD (.worker w)).w.v.getD k VReg.reset).granule))

/-! ## Regions -/

/-- R316 to R320: RGSET stores an entry of the region table and RGRD reads a field; SETTLE and RENEW begin a numbered
sweep of the region's lines that a slice can hold (R296); the settle point writes a dirty line to the arrays, coded
where a window of FMT 1 governs it (R326, R330, R333), the renew point drops a line; the completion counts, completes
the number, counts the fault of a sweep that lost lines with their die, and gives RENEW its counts. Where the spec
leaves a point open the model’s own reading is log entries 39 and 82. The address 0 (EADDR) of its traps, for which no
rule gives one, is the model’s choice (DESIGN CHOICE, log entry 82). -/
def Obligations.RegionsSettleAndRenew : Prop :=
  (∀ (f : FTR) (s u : State), (Instr.rgset f).ready s →
    let k := (s.g f.ga).toNat
    let b := s.g f.gb
    let n := s.g f.gc
    (128 ≤ k → Raises (.rgset f) s 20 0) ∧
    (k < 128 → b.toNat % 64 = 0 → n.toNat % 64 = 0 → n.toNat ≤ 2 ^ 40 → b.toNat + n.toNat ≤ 2 ^ 58 →
      s.waitsVector = false → s.ordering s.cur = false → s.release s.cur 3 = (u, true) →
      ∃ t, exec (.rgset f) s = .next t ∧ t.region s.curCtx k = { u.region s.curCtx k with base := b.setWidth 58, len := n } ∧
        t.core = (onward s s).core ∧ t.mem = u.mem)) ∧
  (∀ (f : FTR) (s : State), (Instr.rgrd f).ready s →
    let r := s.region s.curCtx (s.g f.ga).toNat
    let k := (f.imm.extractLsb' 0 2).toNat
    (128 ≤ (s.g f.ga).toNat → Raises (.rgrd f) s 20 0) ∧
    ((s.g f.ga).toNat < 128 → Gives (.rgrd f) s (hReg f.h)
      (if k = 0 then r.base.setWidth 64 else if k = 1 then r.len else if k = 2 then r.scnt else r.rcnt))) ∧
  (∀ (f : FIM) (s u : State) (l : List (Leaf × Word × Nat)),
    let k := (s.g f.ga).toNat
    let begun (renew : Bool) (t : State) : Prop :=
      t.sweeps = s.sweeps ++ [{
        id := u.nextId, src := s.cur, ctx := s.curCtx, region := k, renew := renew,
        left := (linesOf l).filter fun la => decide (la < 2 ^ 50),
        num := s.core.tlv.issued + 1, stranded := 0, pinned := 0, failed := false }] ∧
      t.core.tlv = { s.core.tlv with issued := s.core.tlv.issued + 1 }
    s.sweepWaits = false → s.ordering s.cur = false → k < 128 →
    (s.markAll l false).publishOwn = (u, true) →
    ((Instr.settle f).ready s → s.sweepCheck (s.region s.curCtx k) false = .ok l → ∃ t, exec (.settle f) s = .next t ∧
      begun false t ∧ (hReg f.h ≠ 0 → t.g (hReg f.h) = BitVec.ofNat 64 (s.core.tlv.issued + 1)) ∧
      t.core.pc = following s.core.heads s.core.pc) ∧
    ((Instr.renew f).ready s → s.sweepCheck (s.region s.curCtx k) true = .ok l → ∃ t, exec (.renew f) s = .next t ∧
      begun true t ∧ t.core.run = .renewing (hReg f.h) u.nextId ∧ t.core.pc = s.core.pc)) ∧
  (∀ (s : State) (i la : Nat) (x : SliceLine), s.sweepAt i la false = true → s.retraining la = false → s.net.msgs = [] →
    s.mem.stage = [] →
    s.pinPending la = none → s.homeCopy la = some x → x.poison = false → Memory.wf s.mem = true →
    (rangeOf la = 4 → s.governing la ≠ none) → ∃ t, exec (.settlePoint i la) s = .next t ∧
      (x.dirty.isSome → s.governing la = none → ∀ k, k < 64 → t.byteAt (la + k) =
        if ¬(la < 2 ^ 38 ∧ la / 2 ^ 14 % 2 = 0) ∨ x.stored.getLsbD k = true then x.data.extractLsb' (8 * k) 8
        else s.byteAt (la + k)) ∧
      (∀ n, x.dirty.isSome → s.governing la = some n → (s.range n).fmt = 1 → Coded s.mem t.mem (s.range n) x) ∧
      (∃ y, t.homeCopy la = some y ∧ y.data = x.data ∧ y.dirty = none) ∧
      t.sweeps = (s.sweptLine i la 0 0).sweeps) ∧
  (∀ (s : State) (i la : Nat), s.sweepAt i la true = true →
    (s.homeCopy la = none → ∃ t, exec (.renewPoint i la) s = .next t ∧ t.sweeps = (s.sweptLine i la 0 0).sweeps ∧
      t.mem.arrays = s.mem.arrays) ∧
    ∀ x, s.homeCopy la = some x → ∃ t, exec (.renewPoint i la) s = .next t ∧ t.mem.arrays = s.mem.arrays ∧
      (x.window.isSome → t.homeCopy la = some x ∧ t.sweeps = (s.sweptLine i la 0 1).sweeps) ∧
      (x.window = none → x.dirty.isSome = true ∨ x.poison = true → t.sweeps = (s.sweptLine i la 1 0).sweeps) ∧
      (x.window = none → (∀ y ∈ t.mem.lines, y.same x = false)) ∧
      (x.window = none → x.dirty = none → x.poison = false → t.sweeps = (s.sweptLine i la 0 0).sweeps)) ∧
  (∀ (s : State) (i : Nat) (w : Sweep) (y : Seq), s.sweepDone i false = some w → s.getSeq w.src = some y →
    ∃ t, exec (.settleCompletion i) s = .next t ∧ t.sweeps = s.sweeps.filter (fun x => x.id != i) ∧
      t.region w.ctx w.region = { s.region w.ctx w.region with scnt := (s.region w.ctx w.region).scnt + 1 } ∧
      (t.seqD w.src).tlv = y.tlv.complete w.num w.failed ∧ (w.failed = false → t.mem = s.mem ∧ t.launches = s.launches) ∧
      ∀ v l, w.failed = true → ownerOf w.src = some v → s.launch? v.ctx v.slot = some l → l.torn = false →
        ∃ l', t.launch? v.ctx v.slot = some l' ∧ l'.faults = min 65535 (l.faults + 1)) ∧
  ∀ (s : State) (i : Nat) (w : Sweep) (y : Seq) (gd : BitVec 5), s.sweepDone i true = some w → s.getSeq w.src = some y →
    y.run = .renewing gd i →
    ∃ t, exec (.renewCompletion i) s = .next t ∧ t.sweeps = s.sweeps.filter (fun x => x.id != i) ∧
      t.region w.ctx w.region = { s.region w.ctx w.region with rcnt := (s.region w.ctx w.region).rcnt + 1 } ∧
      (t.seqD w.src).tlv = y.tlv.complete w.num w.failed ∧ (t.seqD w.src).run = .running ∧
      (t.seqD w.src).pc = following y.heads y.pc ∧
      (gd ≠ 0 → (t.seqD w.src).bank.read gd =
        BitVec.ofNat 64 (min w.stranded (2 ^ 32 - 1) + 2 ^ 32 * min w.pinned (2 ^ 32 - 1)))

/-! ## Pawn jobs -/

namespace Sys2Proof.Claims

/-- The parameter block at va has been read as a scalar load of 128 bytes from `s`, which leaves `u` (R384): its address
is aligned, its page may be read, no access of the sequencer to its lines comes before it, and no line has an error. -/
def ParameterBlock (s : State) (va : Word) (u : State) (b : List Word) : Prop :=
  va.toNat % 64 = 0 ∧ s.ordering s.cur = false ∧
  ∃ l bs, s.checkAccess (s.accessor s.cur) wantLoad va 128 = .ok l ∧ reachesDevice l = false ∧
    (∀ p ∈ l, ∀ c ∈ chunksOf (p.1.pa p.2.1) p.2.2,
      s.linePending s.cur (lineOf c.1) = false ∧ s.overlapsQueue c.1 c.2 = false) ∧
    (s.markAll l false).readPieces (s.cacheOf s.cur) (s.dieOf s.cur) (piecesOf l) = (u, bs, none) ∧
    b = (List.range 16).map fun k => BitVec.ofNat 64 (bytesNum ((bs.drop (8 * k)).take 8))

/-- The pages of a job's streams pass checks 5 to 8 of R384 in `u`, and are those of `l`. -/
def StreamsOk (u : State) (b : List Word) (l : List (PawnStream × Leaf × Word × Nat)) : Prop :=
  u.pawnCheck (u.accessor u.cur) b pawnStreams = .ok l ∧
  ∀ p ∈ l, pteKind p.2.1.val = .inplace ∧ u.fmtAt (p.2.1.pa p.2.2.1) ≠ 1 ∧
    u.fmtAt (p.2.1.pa p.2.2.1 + p.2.2.2 - 1) ≠ 1 ∧ u.inplaceOk p.2.1 (p.2.1.pa p.2.2.1) = true

/-- The n bits of word k of a parameter block from bit lo (R377, R378). -/
def pbBits (b : List Word) (k lo n : Nat) : Nat := (b.getD k 0).toNat / 2 ^ lo % 2 ^ n

/-- The bits of an element of a pawn's type (R103, R378): lg6, e4m3, bf16, f32, f64, n32. -/
def pawnBits (t : Nat) : Nat := if t = 8 then 6 else if t = 9 then 8 else if t = 12 then 16 else if t = 14 then 64 else 32

/-- The bytes that the base of a stream of a type is a multiple of (R379). -/
def pawnAlign (t : Nat) : Nat := if t = 8 then 1 else pawnBits t / 8

/-- An f64 word's place among the numbers: its magnitude with its sign. -/
def orderOf (x : Word) : Int := if 2 ^ 63 ≤ x.toNat then -((x.toNat % 2 ^ 63 : Nat) : Int) else x.toNat

/-- A parameter block is well formed (R377 to R379). -/
def BlockFormed (b : List Word) : Prop :=
  let w (k : Nat) : Nat := (b.getD k 0).toNat
  let c := pbBits b 0
  let n := pbBits b 1 0 24 + 1
  let l := pbBits b 1 48 16 + 1
  let fin := c 24 4
  let wt := c 28 4
  let f3 := c 32 4
  let fout := c 36 4
  let m3 := c 10 2
  let iv : Prop := c 1 1 = 1 ∧ c 9 1 = 0
  c 56 8 = 1 ∧ c 40 16 = 0 ∧ c 14 10 = 0 ∧ c 3 5 = 0 ∧ (∀ k, 9 ≤ k → k < 16 → w k = 0) ∧
  fin ∈ [8, 9, 12, 13, 14] ∧ wt ∈ [13, 14] ∧ fout ∈ [12, 13, 14] ∧ m3 ≤ 2 ∧ c 12 2 ≤ 2 ∧
  (m3 = 0 → f3 = 0) ∧ (m3 = 1 → f3 ∈ [8, 9, 12, 13, 14]) ∧ (m3 = 2 → f3 = 6) ∧
  (c 0 1 = 0 → fin = wt) ∧ (c 1 1 = 0 → c 9 1 = 0 ∧ m3 ≠ 1) ∧ (c 9 1 = 1 ↔ m3 = 1) ∧
  (iv → l * (pawnBits wt / 8) ≤ 4096) ∧ (c 2 1 = 1 → n % l = 0) ∧
  (c 12 2 = 2 → w 7 % 2 ^ 63 ≤ 2047 * 2 ^ 52 ∧ w 8 % 2 ^ 63 ≤ 2047 * 2 ^ 52 ∧
    orderOf (b.getD 7 0) ≤ orderOf (b.getD 8 0)) ∧
  (c 12 2 ≠ 2 → w 7 = 0 ∧ w 8 = 0) ∧ (¬iv → w 6 = 0) ∧ (m3 = 0 → w 5 = 0) ∧ (c 8 1 = 0 → w 3 = 0) ∧
  (m3 ≠ 2 → pbBits b 1 24 24 = 0) ∧
  w 2 % pawnAlign fin = 0 ∧ w 3 % pawnAlign wt = 0 ∧ w 4 % pawnAlign fout = 0 ∧ (m3 ≠ 0 → w 5 % pawnAlign f3 = 0) ∧
  w 6 % pawnAlign wt = 0

/-- The 4 KiB pages that the streams of a block touch, summed over the five (R377, R384). -/
def pagesTouched (b : List Word) : Nat :=
  let c := pbBits b 0
  let n := pbBits b 1 0 24 + 1
  let l := pbBits b 1 48 16 + 1
  let out := if c 2 1 = 1 then n / l else n
  let pages (k t many : Nat) : Nat := ((b.getD k 0).toNat % 4096 + (many * pawnBits t + 7) / 8 + 4095) / 4096
  pages 2 (c 24 4) (if c 10 2 = 2 then pbBits b 1 24 24 + 1 else n) + (if c 8 1 = 1 then pages 3 (c 28 4) out else 0) +
    pages 4 (c 36 4) out + (if c 10 2 = 0 then 0 else pages 5 (c 32 4) n) +
    (if c 1 1 = 1 ∧ c 9 1 = 0 then pages 6 (c 28 4) l else 0)

end Sys2Proof.Claims

/-- R377 to R379, R384: a parameter block passes its check where it is well formed, and its pages are those that its
streams touch. -/
def Sys2Proof.Claims.ParameterBlocksAreChecked : Prop :=
  ∀ b : List Word, (pbOk b = true ↔ BlockFormed b) ∧ (BlockFormed b → pbPages b = pagesTouched b)

/-- R379, R383 to R385: NBGO reads its parameter block; a block that is ill-formed or too large raises NB-STREAM
(condition 33 of NB) at it and a gate index of 128 or more raises REGION-INDEX (condition 20 of NB); a page that fails
a check of its stream raises what that check gives; a block that passes every check becomes a job, queued on every
base die that holds a page of it, numbered on TLN, and its number is returned. -/
def Sys2Proof.Claims.PawnJobsAreStarted : Prop :=
  ∀ (f : FTR) (gated : Bool) (s : State),
    let i := if gated then Instr.nbgoSg f else Instr.nbgo f
    i.ready s →
    ((s.g f.ga).toNat % 64 ≠ 0 → exec i s = .next (s.raiseFrom 4 9 (s.g f.ga))) ∧
    ∀ u b, ParameterBlock s (s.g f.ga) u b →
      (gated = true ∧ 128 ≤ (s.g f.gb).toNat → exec i s = .next (u.raiseFrom 4 20 0)) ∧
      (¬(gated = true ∧ 128 ≤ (s.g f.gb).toNat) → pbOk b = false ∨ 4096 < pbPages b →
        exec i s = .next (u.raiseFrom 4 33 (s.g f.ga))) ∧
      (∀ e, ¬(gated = true ∧ 128 ≤ (s.g f.gb).toNat) → pbOk b = true → pbPages b ≤ 4096 →
        u.pawnCheck (u.accessor u.cur) b pawnStreams = .error e → exec i s = .next (u.raiseAcc 4 e)) ∧
      (∀ l e, ¬(gated = true ∧ 128 ≤ (s.g f.gb).toNat) → pbOk b = true → pbPages b ≤ 4096 →
        u.pawnCheck (u.accessor u.cur) b pawnStreams = .ok l → u.pawnPlaces l = some e →
        exec i s = .next (u.raiseAcc 4 e) ∧ e.cond ∈ [12, 18, 32] ∧ ∃ p ∈ l, e.eaddr = p.2.2.1) ∧
      ∀ l, ¬(gated = true ∧ 128 ≤ (s.g f.gb).toNat) → pbOk b = true → pbPages b ≤ 4096 → StreamsOk u b l →
        (∀ d, d < 4 → (u.jobs.filter fun j => j.dies.contains d).length < 1024) →
        ∃ t j, exec i s = .next t ∧ t.jobs = u.jobs ++ [j] ∧ j.src = s.cur ∧ j.ctx = s.curCtx ∧ j.block = b ∧
          j.num = s.core.tln.issued + 1 ∧
          j.gate = (if gated then some ((s.g f.gb).toNat, s.g f.gc) else none) ∧
          j.pins = l.map (fun p => (p.1, p.2.1.page p.2.2.1)) ∧
          (∀ d, d ∈ j.dies ↔ d < 4 ∧ ∃ p ∈ j.pins, 4096 * p.2.ppn / 2 ^ 21 % 4 = d) ∧
          j.started = [] ∧ j.read = [] ∧ j.written = [] ∧ j.faults = [] ∧
          j.lo.toNat = (ftofV (pbBits b 0 28 4) 0 (fdecode 14 (b.getD 7 0).toNat)).1 ∧
          j.hi.toNat = (ftofV (pbBits b 0 28 4) 0 (fdecode 14 (b.getD 8 0).toNat)).1 ∧
          t.core.tln.issued = s.core.tln.issued + 1 ∧
          (hReg f.h ≠ 0 → t.g (hReg f.h) = BitVec.ofNat 64 (s.core.tln.issued + 1)) ∧
          t.core.pc = following s.core.heads s.core.pc

/-- R376, R449: NBPART gives a channel its mode and returns the mode it had, returns -1 for a channel of a resigned
die, waits while a part of a dispatched job runs on the channel and while the channel is due for retraining or
retrains, and raises RESERVED-FIELD (condition 3) on another channel or mode. A job that is dispatched nowhere keeps
no channel busy. -/
def Sys2Proof.Claims.NbpartSetsTheMode : Prop :=
  (∀ (s : State) (c : Nat), (∀ j ∈ s.jobs, j.started = []) → s.channelBusy c = false) ∧
  ∀ (f : FTR) (s : State), (Instr.nbpart f).ready s →
    let c := (s.g f.ga).toNat
    let held : Prop := s.channelBusy c = true ∨ (s.dueAt c).isSome = true ∨ s.trains c = true
    let m := (s.g f.gb).toNat
    (256 ≤ c ∨ 1 < m → Raises (.nbpart f) s 3 0) ∧
    (c < 256 → m ≤ 1 → s.inService (c / 64) = false → Gives (.nbpart f) s (hReg f.h) (BitVec.ofInt 64 (-1))) ∧
    (c < 256 → m ≤ 1 → s.inService (c / 64) = true → held → exec (.nbpart f) s = .next s) ∧
    (c < 256 → m ≤ 1 → s.inService (c / 64) = true → ¬held → ∃ v, (∀ k, k < 256 →
        v.getLsbD k = if k = c then decide (m = 1) else s.channels.getLsbD k) ∧
      exec (.nbpart f) s = .next
        (State.put { s with channels := v } (hReg f.h) (if s.channels.getLsbD c then 1 else 0)))

namespace Sys2Proof.Claims

/-- Bit k of element i of a stream with elements of w bits has been read as `b`, and its channel's part runs (R382,
R389). -/
def ReadBit (s : State) (j : Job) (x : PawnStream) (w i k : Nat) (b : Bool) : Prop :=
  let pa := j.pa x ((i * w + k) / 8)
  s.partOff j (channelOf pa) = false ∧
    ∃ c : BitVec 256, assocFind j.read (pa / 32) = some (some c) ∧ c.getLsbD (8 * (pa % 32) + (i * w + k) % 8) = b

/-- An element was read with an error, or is not to be had since its part was refused or lost (R389). -/
def BadElement (g : Got) : Prop := g = .refused ∨ ∃ v, g = .val v true

/-- Element i of the job takes element k of S0 (R380). -/
def TakesElement (s : State) (j : Job) (i k : Nat) : Prop :=
  (pbBits j.block 0 10 2 ≠ 2 → k = i) ∧
  (pbBits j.block 0 10 2 = 2 → s.elem j .s3 i = .val k false ∧ k ≤ pbBits j.block 1 24 24)

/-- deq of element i of a stream of type t, whose bits are v, into the working type (R380). -/
def dequantised (s : State) (j : Job) (x : PawnStream) (wt t i v : Nat) : Nat :=
  let scale : Int := match s.governing (j.pa x (i * pawnBits t / 8)) with
    | some n => if (s.range n).fmt = 2 then ((s.range n).ctl.extractLsb' 8 8).toInt else 0
    | none => 0
  if t = 8 then (lgToF wt 0 v scale).1 else (ftofV wt 0 (fdecode t v)).1

/-- The channel whose pawns handle element k of S0 (R382). -/
def elementChannel (j : Job) (k : Nat) : Nat := channelOf (j.pa .s0 (k * pawnBits (pbBits j.block 0 24 4) / 8))

/-- IV[i mod L] of the copy that a channel has loaded without error is m (R380 to R382). -/
def IvElement (j : Job) (ch i m : Nat) : Prop :=
  let w := pawnBits (pbBits j.block 0 28 4)
  let pa := j.pa .iv (i % (pbBits j.block 1 48 16 + 1) * (w / 8))
  (∀ y ∈ j.iv, y.1.1 = ch → y.2 ≠ none) ∧
    ∃ c : BitVec 256, assocFind j.iv (ch, pa / 32) = some (some c) ∧ m = (c.extractLsb' (8 * (pa % 32)) (8 * (w / 8))).toNat

/-- Element i of the job gives its run the term p (R380). -/
def Term (s : State) (j : Job) (i p : Nat) : Prop :=
  let c := pbBits j.block 0
  let wt := c 28 4
  ∃ k v x, TakesElement s j i k ∧ s.elem j .s0 k = .val v false ∧
    x = (if c 0 1 = 1 then dequantised s j .s0 wt (c 24 4) k v else v) ∧ (c 1 1 = 0 → p = x) ∧
    (c 1 1 = 1 → ∃ m, (c 9 1 = 0 → IvElement j (elementChannel j k) i m) ∧
      (c 9 1 = 1 → ∃ y, s.elem j .s3 i = .val y false ∧ m = dequantised s j .s3 wt (c 32 4) i y) ∧
      p = (fmulV wt 0 (fdecode wt x) (fdecode wt m)).1)

/-- Element i of the job is skipped, for its index is out of range (R380). -/
def Skipped (s : State) (j : Job) (i : Nat) : Prop :=
  pbBits j.block 0 10 2 = 2 ∧ ∃ k, s.elem j .s3 i = .val k false ∧ pbBits j.block 1 24 24 < k

/-- Element i of the job spoils its run: an error in what it reads, its S3 element or its channel's copy of the input
vector, or a part that does not run (R389). -/
def Spoils (s : State) (j : Job) (i : Nat) : Prop :=
  let c := pbBits j.block 0
  (c 10 2 = 2 ∨ c 9 1 = 1) ∧ BadElement (s.elem j .s3 i) ∨
  ∃ k, TakesElement s j i k ∧ (BadElement (s.elem j .s0 k) ∨
    c 1 1 = 1 ∧ c 9 1 = 0 ∧ ∃ y ∈ j.iv, y.1.1 = elementChannel j k ∧ y.2 = none)

/-- The terms of a run summed one after another, each sum rounded to the working type (R380). -/
def runSum (wt : Nat) (start : Option Nat) (terms : List (Option Nat)) : Option Nat :=
  terms.foldl (fun a x => match a, x with
    | a, none => a
    | none, some p => some p
    | some z, some p => some (faddV wt 0 (fdecode wt z) (fdecode wt p)).1) start

/-- What an accumulator becomes as an output: ACT, then one rounding to FOUT (R380). -/
def Outputs (j : Job) (acc v : Nat) : Prop :=
  let c := pbBits j.block 0
  let val := fdecode (c 28 4)
  let lo := j.lo.toNat
  let hi := j.hi.toNat
  let r := if (val acc).isNaN = true then acc
    else if c 12 2 = 1 then (if (val acc).neg = true then 0 else acc)
    else if c 12 2 = 2 then
      let x := if fbelow (val acc) (val lo) = true then lo else acc
      if fbelow (val hi) (val x) = true then hi else x
    else acc
  v = (ftofV (c 36 4) 0 (val r)).1

end Sys2Proof.Claims

/-- R380, R382, R389: the arithmetic of a job: an element's bits come from the columns read; an output is the
sequential sum of its run, each product and sum rounded once, after ACT and the rounding to FOUT, with a poison mark
where an element was skipped, was read with an error or was refused; and an output waits for its data. -/
def Sys2Proof.Claims.PawnArithmetic : Prop :=
  ∀ (s : State) (j : Job), BlockFormed j.block → (fdecode (pbBits j.block 0 28 4) j.lo.toNat).isNaN = false →
    (fdecode (pbBits j.block 0 28 4) j.hi.toNat).isNaN = false →
    let c := pbBits j.block 0
    let many := pbBits j.block 1 48 16 + 1
    let first (o : Nat) : Nat := if c 2 1 = 1 then o * many else o
    let cnt := if c 2 1 = 1 then many else 1
    (∀ x base t n i v, pbStream j.block x = some (base, t, n) → v < 2 ^ pawnBits t →
      (∀ k, k < pawnBits t → ReadBit s j x (pawnBits t) i k (v.testBit k)) → s.elem j x i = .val v false) ∧
    (∀ (o : Nat) (start : Option Nat) (terms : List (Option Nat)), terms.length = cnt →
      (c 8 1 = 0 → start = none) → (c 8 1 = 1 → ∃ v, s.elem j .s1 o = .val v false ∧ start = some v) →
      (∀ k, k < cnt → (∀ p, terms[k]? = some (some p) → Term s j (first o + k) p) ∧
        (terms[k]? = some none → Skipped s j (first o + k))) →
      ∃ v, s.output j o = some (v, terms.any fun x => x.isNone) ∧ Outputs j ((runSum (c 28 4) start terms).getD 0) v) ∧
    (∀ (o : Nat) (r : Nat × Bool), s.output j o = some r →
      (c 8 1 = 1 ∧ BadElement (s.elem j .s1 o)) ∨ (∃ k, k < cnt ∧ Spoils s j (first o + k)) → r.2 = true) ∧
    ∀ o k, k < cnt → c 10 2 ≠ 2 → s.elem j .s0 (first o + k) = .missing → s.output j o = none

namespace Sys2Proof.Claims

/-- The one job with the number of j is j'. -/
def OnlyJob (s : State) (j j' : Job) : Prop := s.jobs.filter (fun x => x.id == j.id) = [j']

/-- A part of job j runs on the channel of a column, which neither retrains nor is held: the part is dispatched, neither
refused nor lost, and has loaded its input vector where it needs one (R381, R382, R448, R449). -/
def Runs (s : State) (j : Job) (col : Nat) : Prop :=
  let ch := channelOf (32 * col)
  ch / 64 ∈ j.started ∧ s.partOff j ch = false ∧ (ch ∈ j.dieChannels (ch / 64) → s.ivLoaded j ch = true) ∧ s.trains ch = false ∧
    s.shareHeld .inPlace = false

end Sys2Proof.Claims

/-- R374, R381, R382, R385 to R391: the oldest job of a die whose gate is met starts there, its parts in channels of
mode 0 refused; a channel loads its own copy of the input vector; a pawn reads a column whole into its job, a failure
being a fault of its bank with a window of at most 16 accesses around it; it writes an output's bytes into the arrays
and no others; and a job whose every part has ended completes its number on TLN, as failed where a bank faulted, which
is counted, and releases its pages. -/
def Sys2Proof.Claims.PawnJobsGoThrough : Prop :=
  (∀ (s : State) (die : Nat) (j : Job), s.inService die = true →
    s.jobs.find? (fun x => x.dies.contains die && !x.started.contains die && s.gateMet x) = some j →
    OnlyJob s j j → ∃ t j', exec (.jobDispatch die) s = .next t ∧ OnlyJob t j j' ∧ j'.started = die :: j.started ∧
      (∀ ch, ch ∈ j'.refused ↔ ch ∈ j.refused ∨ ch ∈ j.dieChannels die ∧ s.channels.getLsbD ch = false) ∧
      (j.written = [] → t.mem = s.mem)) ∧
  (∀ (s : State) (die : Nat), s.inService die = true → (∀ j ∈ s.jobs, ∀ k n, j.gate = some (k, n) → j.dies.contains die →
      (s.region j.ctx k).scnt.toNat < n.toNat) → (∀ j ∈ s.jobs, j.gate = none → j.dies.contains die → j.started.contains die) →
    exec (.jobDispatch die) s = .next s) ∧
  (∀ (s : State) (j : Job) (col ch : Nat), OnlyJob s j j → s.trains (channelOf (32 * col)) = false →
    s.shareHeld .inPlace = false → s.inService (channelOf (32 * col) / 64) = true → col ∈ j.ivColumns →
    j.isInput col = false → j.inColumn .s2 col = [] → s.partsOn j = [ch] → assocFind j.iv (ch, col) = none →
    s.badAt (lineOf (32 * col)) = none → Memory.wf s.mem = true →
    ∃ t j' bits, exec (.columnAccess j.id col false) s = .next t ∧ OnlyJob t j j' ∧ j'.iv = ((ch, col), some bits) :: j.iv ∧
      (∀ k, k < 32 → bits.extractLsb' (8 * k) 8 = s.byteAt (32 * col + k)) ∧ t.mem = s.mem) ∧
  (∀ (s : State) (j : Job) (col : Nat), OnlyJob s j j → Runs s j col → j.isInput col = true →
    assocFind j.read col = none → j.inColumn .s2 col = [] → col ∉ j.ivColumns → j.faults = [] → j.written = [] →
    let bank := 32 * col / 2 ^ 11 % 4096
    let k := assocGet j.indices bank 0
    ∃ t j' lo hi, exec (.columnAccess j.id col true) s = .next t ∧ OnlyJob t j j' ∧ j'.read = (col, none) :: j.read ∧
      j'.faults = [{ bank := bank, cond := 17, lo := lo, hi := hi, more := 0 }] ∧ lo ≤ k ∧ k ≤ hi ∧ hi ≤ lo + 15 ∧
      t.mem = s.mem) ∧
  (∀ (s : State) (j : Job) (col : Nat), OnlyJob s j j → Runs s j col → j.isInput col = true →
    assocFind j.read col = none → j.inColumn .s2 col = [] → col ∉ j.ivColumns →
        s.badAt (lineOf (32 * col)) = none → pbM3 j.block ≠ 2 → Memory.wf s.mem = true →
    ∃ t j' bits, exec (.columnAccess j.id col false) s = .next t ∧ OnlyJob t j j' ∧
      j'.read = (col, some bits) :: j.read ∧ (∀ k, k < 32 → bits.extractLsb' (8 * k) 8 = s.byteAt (32 * col + k)) ∧
      t.mem = s.mem) ∧
  (∀ (s : State) (j : Job) (col o v : Nat), OnlyJob s j j → Runs s j col →
    j.isInput col = false → j.inColumn .s2 col = [o] → col ∉ j.ivColumns →
    (∀ p ∈ j.written, p.1 ≠ col) → s.output j o = some (v, false) → j.faults = [] → Memory.wf s.mem = true →
    let n := etWidth (pbFout j.block) / 8
    let pa := j.pa .s2 (o * n)
    ∃ t j' k, exec (.columnAccess j.id col false) s = .next t ∧ OnlyJob t j j' ∧ j'.written = (col, k) :: j.written ∧
      (∀ i, i < n → t.byteAt (pa + i) = BitVec.ofNat 8 (v / 2 ^ (8 * i))) ∧
      ∀ a, (∀ i, i < n → a ≠ pa + i) → t.byteAt a = s.byteAt a) ∧
  (∀ (s : State) (j : Job) (y : Seq) (f : PawnFault) (v : WKey) (l : Launch), OnlyJob s j j → s.jobDone j = true →
    j.faults = [f] → s.inService (f.bank / 1024) = true → s.getSeq j.src = some y → ownerOf j.src = some v →
    s.launch? v.ctx v.slot = some l → l.torn = false →
    ∃ t l', exec (.jobCompletion j.id) s = .next t ∧ t.jobs = s.jobs.filter (fun x => x.id != j.id) ∧
      (t.seqD j.src).tln = y.tln.complete j.num true ∧ t.launch? v.ctx v.slot = some l' ∧
      l'.faults = min 65535 (l.faults + 1)) ∧
  ∀ (s : State) (j : Job) (y : Seq), OnlyJob s j j → s.jobDone j = true → j.faults = [] →
    j.lost = false → (∀ d ∈ j.dies, s.inService d = true) → s.getSeq j.src = some y →
    ∃ t y', exec (.jobCompletion j.id) s = .next t ∧ t.jobs = s.jobs.filter (fun x => x.id != j.id) ∧
      t.getSeq j.src = some y' ∧ y'.tln.poison = y.tln.poison ∧ y'.bank = y.bank ∧ t.mem = s.mem ∧
      (y.tln.count + 1 = j.num → y.tln.done = [] → y'.tln.count = j.num)

/-! ## Vector instructions: queueing and execution -/

namespace Sys2Proof.Claims

/-- VLMAX of an element type (R122): the elements one register of a VNREG code holds. -/
def vlmaxFor (code : BitVec 2) (t : Nat) : Nat := 2 ^ 20 / (8 * 2 ^ code.toNat) / etWidth t

/-- A vector instruction that touches no memory and enters the queue: its fields, and the element types whose VLMAX
bounds VL (R125). -/
def queuedForm (i : Instr) : Option (FV3 × List Nat) :=
  match i with
  | .vget f | .vput f | .mand f | .mor f | .mxor f | .mnot f | .mset f => some (f, [])
  | .vbcast f | .vadd f | .vsub f | .vmul f | .vmulh f | .vand f | .vor f | .vxor f | .vshl f | .vshr f | .vsra f
  | .vmin f | .vmax f | .vabs f | .vsadd f | .vssub f | .vcmp _ f | .vmerge f | .viota f | .vfadd f | .vfsub f
  | .vfmul f | .vfdiv f | .vfsqrt f | .vfmin f | .vfmax f | .vfabs f | .vfneg f | .vfcmp _ f | .vfclass f | .vcomp f
  | .vexp f | .vbfx f => some (f, [f.et.toNat])
  | .vmac f | .vfma f | .vfms f | .vfnma f | .vfnms f | .vslideup f | .vslidedn f | .vreds _ f | .vdot f =>
    some (f.v, [f.v.et.toNat])
  | .vpmac f => some (f.v, [1, 2])
  | .vsrar f => some (f, [f.et.toNat, f.et.toNat - 1])
  | .vicvt src f | .vfcvt src f => some (f, [f.et.toNat, src.toNat])
  | .vperm f | .vtlu f => some (f, [f.et.toNat, 5])
  | .vlgmul f => some (f, [8])
  | _ => none

/-- What the g register in VB holds where S = 1 (R211). -/
def scalarB (s : State) (f : FV3) : Word := if f.s then s.g (f.vb.extractLsb' 0 5) else 0

/-- The condition that an instruction's scalar operand breaks, if any: an index or a fill length beyond VLMAX (R209,
R233), or a field width of no bits or more than an element's (R236). -/
def operandBreaks (i : Instr) (s : State) : Option Nat :=
  match i with
  | .vget f => if vlmaxFor s.core.w.vncode f.et.toNat ≤ (scalarB s f).toNat then some 8 else none
  | .vput f => if vlmaxFor s.core.w.vncode f.et.toNat ≤ (s.g (f.va.extractLsb' 0 5)).toNat then some 8 else none
  | .vslideup f =>
    if vlmaxFor s.core.w.vncode f.v.et.toNat < ((scalarB s f.v).extractLsb' 16 15).toNat then some 8 else none
  | .vbfx f =>
    let n := ((scalarB s f).extractLsb' 0 7).toNat
    if n = 0 ∨ etWidth f.et.toNat < n then some 3 else none
  | _ => none

/-- The register of the current sequencer that is empty from now on, if any. -/
def emptiedOf (s : State) (r : Option (BitVec 5)) : Bank :=
  match r with
  | some r => (emptied s r).core.bank
  | none => s.core.bank

end Sys2Proof.Claims

/-- R114, R115, R118, R125, R209, R211, R233, R236: a vector instruction that touches no memory enters the queue with
what it captured, VSTART becomes 0 and the scalar sequencer goes on; a g destination is empty from then on. VL beyond
VLMAX raises VL-EXCEEDS (condition 8 of VEC), as an index does; a bad field width raises RESERVED-FIELD. With 32
entries in the queue the sequencer waits at the instruction, before it judges its trap-mode sources (R119, R140).
Where the spec leaves a point open the model’s own reading is log entries 29, 64 and 82. The address 0 (EADDR) of its
traps, for which no rule gives one, is the model’s choice (DESIGN CHOICE, log entry 82). -/
def Obligations.VectorInstructionsAreQueued : Prop :=
  (∀ (i : Instr) (f : FV3) (types : List Nat) (s : State) (w : WKey), queuedForm i = some (f, types) → s.cur = .worker w →
    s.checkFault i = none → 32 ≤ s.core.w.queue.length → exec i s = .next s) ∧
  ∀ (i : Instr) (f : FV3) (types : List Nat) (s : State), queuedForm i = some (f, types) → i.ready s →
    let w := s.core.w
    (∀ c, operandBreaks i s = some c → exec i s = .next (s.raiseFrom 1 c 0)) ∧
    (operandBreaks i s = none → (∃ t ∈ types, vlmaxFor w.vncode t < w.vl.toNat) →
      exec i s = .next (s.raiseFrom 1 8 0)) ∧
    (operandBreaks i s = none → (∀ t ∈ types, w.vl.toNat ≤ vlmaxFor w.vncode t) →
      ∃ t e, exec i s = .next t ∧ t.core.w.queue = w.queue ++ [e] ∧ e.instr = i ∧ e.pc = s.core.pc ∧
        e.vl = w.vl.toNat ∧ e.vstart = w.vstart.toNat ∧ e.vmt = w.vmt ∧ e.rm = w.vrm ∧ e.xsel = w.xsel ∧
        e.ga = (match i with
          | .vput _ => s.g (f.va.extractLsb' 0 5)
          | _ => 0) ∧
        e.gb = (match i with
          | .vdot _ => 0
          | _ => scalarB s f) ∧
        e.gc = (match i with
          | .vdot d => s.g (d.vc.extractLsb' 0 5)
          | _ => 0) ∧
        t.core.w.vstart = 0 ∧ t.core.w.vl = w.vl ∧ t.core.w.m = w.m ∧ t.core.w.q = w.q ∧
        (∀ k, k < 64 → { t.core.w.vreg k with poison := (w.vreg k).poison } = w.vreg k) ∧
        t.core.bank = emptiedOf s i.operands.gd ∧ t.core.pc = following s.core.heads s.core.pc ∧ t.mem = s.mem ∧
        t.net = s.net)

namespace Sys2Proof.Claims

/-- No update of the list names one position twice, and each lies in a register of 131,072 bits. -/
def Fits (w : Nat) (l : List (Nat × Nat)) : Prop := (l.map fun p => p.1).Nodup ∧ ∀ p ∈ l, w * p.1 + w ≤ 131072

/-- Register k of worker q in t is as in s but for the elements that l names. -/
def ElementsWritten (s t : State) (q : SeqId) (k w upto : Nat) (l : List (Nat × Nat)) : Prop :=
  let x := (s.seqD q).w.vreg k
  let y := (t.seqD q).w.vreg k
  (∀ p ∈ l, (y.bits.extractLsb' (w * p.1) w).toNat = p.2 % 2 ^ w) ∧
  (∀ j, (∀ p ∈ l, p.1 ≠ j) → w * j + w ≤ 131072 → y.bits.extractLsb' (w * j) w = x.bits.extractLsb' (w * j) w) ∧
  (l ≠ [] → y.extent = max x.extent (ceilDiv (w * upto) 8)) ∧ (l = [] → y = x)

end Sys2Proof.Claims

/-- R116, R118, R124, R127, R130, R137, R140, R143, R260 to R262: VECTOR_DISPATCH executes the queue entry that may run,
up to the element it may run to: it writes the elements, the mask bits and the flags its operation gives, sends a scalar
result to land or writes it, and the entry leaves the queue or waits there for its rest; every other element, register
and mask stays. A mismatch that is corrected counts in RCOUNT, and an error in a granule that it reads is noted with the
lowest element that used it. -/
def Sys2Proof.Claims.VectorDispatchRuns : Prop :=
  ∀ (s : State) (w : WKey) (y : Seq) (e : VEntry) (n : Nat) (p : VEntry → Worker → Effect) (lane : LaneCheck),
    let q := SeqId.worker w
    let o := e.instr.operands
    let now := { e with till := n }
    let ef := p now y.w
    s.getSeq q = some y → s.pickEntry q [] y.w.queue = some (e, n) →
    performOf s.fresh e.instr = some p → lane = .agree ∨ lane = .once →
    (∀ b ∈ y.w.readBlocks (now.indexReads y.w) ++ y.w.readBlocks (now.reads y.w) ++ y.w.blocksWritten ef,
      (y.w.vreg b.1).granule.getLsbD b.2 = true) →
    (∀ k v l, ef.vd = some (k, v, l) → k < 64 ∧ 0 < v ∧ Fits v l) →
    (∀ k l, ef.md = some (k, l) → k < 8 ∧ (l.map fun b => b.1).Nodup ∧ (∀ b ∈ l, b.1 < 21845) ∧
      (k = 7 → ef.capture = [])) →
    ((ef.capture.map fun b => b.1).Nodup ∧ ∀ b ∈ ef.capture, b.1 < 21845) →
    ∃ t, exec (.vectorDispatch w lane) s = .next t ∧
      (e.till ≤ n → (t.seqD q).w.queue = y.w.queue.filter fun x => x.id != e.id) ∧
      (n < e.till → ∃ sp, (t.seqD q).w.queue =
        y.w.queue.map fun x => if x.id = e.id then { e with vstart := n, spans := sp } else x) ∧
      (t.seqD q).pc = y.pc ∧ t.mem = s.mem ∧ t.launches = s.launches ∧
      (∀ k v l, ef.vd = some (k, v, l) → ElementsWritten s t q k v ef.upto l) ∧
      (∀ k, k < 64 → (∀ v l, ef.vd ≠ some (k, v, l)) → (t.seqD q).w.vreg k = y.w.vreg k) ∧
      (∀ k l, ef.md = some (k, l) → ∀ j, j < 21845 →
        (∀ b, (j, b) ∈ l → ((t.seqD q).w.m.getD k 0).getLsbD j = b) ∧
        ((∀ b, (j, b) ∉ l) → ((t.seqD q).w.m.getD k 0).getLsbD j = (y.w.m.getD k 0).getLsbD j)) ∧
      (∀ j b, (j, b) ∈ ef.capture → ((t.seqD q).w.m.getD 7 0).getLsbD j = b) ∧
      (∀ k, k < 7 → (∀ l, ef.md ≠ some (k, l)) → (t.seqD q).w.m.getD k 0 = y.w.m.getD k 0) ∧
      (ef.gd = none ∨ ef.now = false → (t.seqD q).bank = { y.bank with xf := y.bank.xf ||| ef.flags }) ∧
      (∀ r v, ef.gd = some (r, v) → ef.now = true →
        (t.seqD q).bank = Bank.write { y.bank with xf := y.bank.xf ||| ef.flags } r v) ∧
      (∀ r v, ef.gd = some (r, v) → ef.now = false → t.net = { s.net with landings := s.net.landings ++ [{
        id := s.nextId, src := q, reg := r, val := v, poison := o.vs.findSome? (fun a => (y.w.vreg a.1.toNat).poison),
        acq := none }] }) ∧
      (ef.gd = none ∨ ef.now = true → t.net = s.net) ∧
      (t.seqD q).w.rcount.toNat =
        (if lane = .once ∧ e.isChecked y.w = true then min 255 (y.w.rcount.toNat + 1) else y.w.rcount.toNat) ∧
      ∀ reg block k, y.w.pending = none →
        (∃ x ∈ now.readParts y.w, (reg, block) ∈ x.blocks ∧ x.elem = k) →
        (∀ x ∈ now.readParts y.w, (reg, block) ∈ x.blocks → k ≤ x.elem) →
        ∃ u, exec (.vectorDispatch w (.granule reg block)) s = .next u ∧ u.mem = s.mem ∧
          (∀ r, r < 64 → ((u.seqD q).w.vreg r).bits = ((t.seqD q).w.vreg r).bits) ∧
        (u.seqD q).w.pending = some { source := 1, mark := ⟨0, false⟩, elem := k, entry := e.id }

namespace Sys2Proof.Claims

/-- Two parts of a register lie in one element group of 256 bytes, that of the later one where an element spans two
(R126), or share bits (R116). -/
def Clash (p r : Part) : Prop :=
  let group (x : Part) : Nat := if x.width < 6 ∧ x.lo = 6 * x.elem then (x.lo + 5) / 2048 else (x.lo + x.width - 1) / 2048
  p.reg = r.reg ∧ (group p = group r ∨ p.lo < r.lo + r.width ∧ r.lo < p.lo + p.width)

end Sys2Proof.Claims

/-- R116, R140, R143, R261: the oldest entry runs whole where nothing is on its way to the registers; an element-wise
one runs as far as the element groups of 256 bytes that it reads and writes are available; and at a second mismatch it
and every later entry leave the queue, their g destinations are as before, and the worker traps RECOMPUTE-MISMATCH
(condition 30 of VEC) at it. -/
def Sys2Proof.Claims.VectorEntriesArePicked : Prop :=
  (∀ (s : State) (w : WKey) (y : Seq) (e : VEntry) (rest : List VEntry),
    let q := SeqId.worker w
    s.getSeq q = some y → s.flying q = [] → (∀ k, s.maskFlying q k = false) →
    (e.touches = true → s.ordering q = false ∧ s.pushMeets q e.spans = false) → e.vstart ≤ e.till →
    s.pickEntry q [] (e :: rest) = some (e, e.till)) ∧
  (∀ (s : State) (w : WKey) (y : Seq) (e : VEntry) (n : Nat),
    let q := SeqId.worker w
    let clash (x : Part) : Prop := ∃ z ∈ s.flying q, Clash x z.2
    s.getSeq q = some y → e.partwise y.w = true → (∀ f, e.instr ≠ .vst f) → s.runsTo q [] e = some n →
    (∀ x ∈ e.readParts y.w ++ e.writeParts y.w, x.elem < n → ¬clash x) ∧
    (n < e.till → ∃ x ∈ e.readParts y.w ++ e.writeParts y.w, x.elem = n ∧ clash x)) ∧
  ∀ (s : State) (w : WKey) (y : Seq) (e : VEntry) (n : Nat),
    let q := SeqId.worker w
    s.getSeq q = some y → s.pickEntry q [] y.w.queue = some (e, n) → e.isChecked y.w = true →
    (∀ x ∈ y.w.queue, s.cmd? x.cmd = none) →
    ∃ b : BitVec 32, (∀ r : BitVec 5, b.getLsbD r.toNat =
        (y.bank.empty.getLsbD r.toNat && y.w.queue.all fun x => decide (x.id < e.id) || x.instr.operands.gd != some r)) ∧
      exec (.vectorDispatch w .twice) s = .next ((s.modSeq q fun z => { z with
        bank := { z.bank with empty := b }
        w := { z.w with queue := z.w.queue.filter (fun x => decide (x.id < e.id)), vstart := 0 } }).raiseOn q
          { source := 1, cond := 30, epc := e.pc, eaddr := 0, eidx := 0, save := e.pc, vstart := some 0 })

/-! ## What queued vector instructions give -/

namespace Sys2Proof.Claims

/-- Element i of the register in VA. -/
def elA (f : FV3) (x : Worker) (w i : Nat) : BitVec w := (x.vreg f.va.toNat).bits.extractLsb' (w * i) w

/-- Element i of source b: of the register in VB, or the captured scalar (R211). -/
def elB (f : FV3) (e : VEntry) (x : Worker) (w i : Nat) : BitVec w :=
  if f.s then e.gb.setWidth w else (x.vreg f.vb.toNat).bits.extractLsb' (w * i) w

/-- Element i of the register in VC. -/
def elC (f : FV4) (x : Worker) (w i : Nat) : BitVec w := (x.vreg f.vc.toNat).bits.extractLsb' (w * i) w

/-- Element i is active (R129): from VSTART below VL, or below the end of the part that executes (R143), and not masked
off. -/
def Active (e : VEntry) (x : Worker) (mask : BitVec 3) (i : Nat) : Prop :=
  e.vstart ≤ i ∧ i < e.till ∧ (mask = 0#3 ∨ (x.m.getD mask.toNat 0).getLsbD i = true)

/-- An entry of the instruction has an element-wise result (R124, R129, R130, R137): r gives each active element of the
destination in H and the flags it raises; the flags of all are collected, and XSEL captures one into m7 where the
instruction can raise flags. -/
def EachNat (i : Instr) (e : VEntry) (x : Worker) (h : BitVec 7) (mask : BitVec 3) (w : Nat) (raises : Bool)
    (r : Nat → Nat × BitVec 8) : Prop :=
  ∀ pick, ∃ p l, performOf pick i = some p ∧ (p e x).vd = some ((hVec h).toNat, w, l) ∧
    (l.map fun b => b.1).Nodup ∧ (∀ k v, (k, v) ∈ l ↔ Active e x mask k ∧ v = (r k).1) ∧
    (l ≠ [] → (p e x).upto = e.vl) ∧ (p e x).md = none ∧ (p e x).gd = none ∧
    (∀ b, b < 8 → ((p e x).flags.getLsbD b = true ↔ ∃ k, Active e x mask k ∧ (r k).2.getLsbD b = true)) ∧
    ∀ k b, (k, b) ∈ (p e x).capture ↔ raises = true ∧ e.xsel ≠ 0 ∧ Active e x mask k ∧
      b = (r k).2.getLsbD (e.xsel.toNat - 1)

/-- The same with bit vectors for elements. -/
def Each (i : Instr) (e : VEntry) (x : Worker) (h : BitVec 7) (mask : BitVec 3) (w : Nat) (raises : Bool)
    (r : Nat → BitVec w × BitVec 8) : Prop :=
  EachNat i e x h mask w raises fun k => ((r k).1.toNat, (r k).2)

/-- An entry of the instruction writes bits of the mask register in H and nothing else: r gives the bits of the elements
that `on` holds for, and the flags each raises. -/
def EachBit (i : Instr) (e : VEntry) (x : Worker) (h : BitVec 7) (on : Nat → Prop) (raises : Bool)
    (r : Nat → Bool × BitVec 8) : Prop :=
  ∀ pick, ∃ p l, performOf pick i = some p ∧ (p e x).md = some ((hMask h).toNat, l) ∧ (l.map fun b => b.1).Nodup ∧
    (∀ k v, (k, v) ∈ l ↔ on k ∧ v = (r k).1) ∧ (p e x).vd = none ∧ (p e x).gd = none ∧
    (∀ b, b < 8 → ((p e x).flags.getLsbD b = true ↔ ∃ k, on k ∧ (r k).2.getLsbD b = true)) ∧
    ∀ k b, (k, b) ∈ (p e x).capture ↔ raises = true ∧ hMask h ≠ 7 ∧ e.xsel ≠ 0 ∧ on k ∧
      b = (r k).2.getLsbD (e.xsel.toNat - 1)

/-- The value of an element of an integer type (R91). -/
def intVal (t : Nat) {w : Nat} (v : BitVec w) : Int := if t ≤ 3 then v.toInt else v.toNat

/-- The range of an integer type (R91). -/
def lowest (t : Nat) : Int := if t ≤ 3 then -2 ^ (etWidth t - 1) else 0

/-- The greatest value of an integer type (R91). -/
def highest (t : Nat) : Int := if t ≤ 3 then 2 ^ (etWidth t - 1) - 1 else 2 ^ etWidth t - 1

/-- The nearest value of type t, with SAT (flag 5) where it differs (R92). -/
def saturated (t w : Nat) (v : Int) : BitVec w × BitVec 8 :=
  (BitVec.ofInt w (max (lowest t) (min (highest t) v)), if lowest t ≤ v ∧ v ≤ highest t then 0 else 0x20)

end Sys2Proof.Claims

/-- R91, R92, R109, R110, R211, R217 to R221: the integer vector instructions, element by element: they wrap at the
element's width, or saturate with SAT. Where the spec leaves a point open the model’s own reading is log entries 80
and 81. -/
def Obligations.VectorIntegerResults : Prop :=
  ∀ (e : VEntry) (x : Worker),
    (∀ f : FV3, f.et.toNat ≤ 7 →
      let t := f.et.toNat
      let w := etWidth t
      let a := fun i => elA f x w i
      let b := fun i => elB f e x w i
      let gives (i : Instr) (r : Nat → BitVec w) : Prop := Each i e x f.h f.mask w false fun k => (r k, 0)
      gives (.vadd f) (fun i => a i + b i) ∧
      gives (.vsub f) (fun i => a i - b i) ∧
      gives (.vmul f) (fun i => a i * b i) ∧
      gives (.vmulh f) (fun i => BitVec.ofInt w (intVal t (a i) * intVal t (b i) / 2 ^ w)) ∧
      gives (.vand f) (fun i => a i &&& b i) ∧
      gives (.vor f) (fun i => a i ||| b i) ∧
      gives (.vxor f) (fun i => a i ^^^ b i) ∧
      gives (.vshl f) (fun i => a i <<< ((b i).toNat % w)) ∧
      gives (.vshr f) (fun i => a i >>> ((b i).toNat % w)) ∧
      gives (.vsra f) (fun i => (a i).sshiftRight ((b i).toNat % w)) ∧
      gives (.vmin f) (fun i => if intVal t (b i) < intVal t (a i) then b i else a i) ∧
      gives (.vmax f) (fun i => if intVal t (a i) < intVal t (b i) then b i else a i) ∧
      gives (.vabs f) (fun i => if intVal t (a i) < 0 then -a i else a i) ∧
      Each (.vsadd f) e x f.h f.mask w true (fun i => saturated t w (intVal t (a i) + intVal t (b i))) ∧
      Each (.vssub f) e x f.h f.mask w true (fun i => saturated t w (intVal t (a i) - intVal t (b i)))) ∧
    (∀ f : FV4, f.v.et.toNat ≤ 7 →
      let w := etWidth f.v.et.toNat
      Each (.vmac f) e x f.v.h f.v.mask w false fun i =>
        (elA f.v x w i * elB f.v e x w i + elC f x w i, 0)) ∧
    (∀ f : FV4,
      let tap (k : Nat) : Int := (e.gb.extractLsb' (16 * k) 16).toInt
      let acc (i : Nat) : BitVec 32 := (x.vreg (hVec f.v.h).toNat).bits.extractLsb' (32 * i) 32
      Each (.vpmac f) e x f.v.h f.v.mask 32 true fun i =>
        saturated 2 32 ((acc i).toInt + (elA f.v x 16 i).toInt * tap 0 + (elC f x 16 i).toInt * tap 1)) ∧
    (∀ (f : FV3) (t : Nat), f.et.toNat = t → t ∈ [1, 2, 3, 5, 6, 7] →
      Each (.vsrar f) e x f.h f.mask (etWidth t / 2) true fun i =>
        let v := intVal t (elA f x (etWidth t) i)
        let n := (elB f e x (etWidth t) i).toNat % 64
        saturated (t - 1) (etWidth t / 2) (if n = 0 then v else (v + 2 ^ (n - 1)) / 2 ^ n)) ∧
    ∀ (f : FV3) (src : BitVec 5), f.et.toNat ≤ 7 → src.toNat ≤ 7 →
      let t := f.et.toNat
      let u := src.toNat
      Each (.vicvt src f) e x f.h f.mask (etWidth t) (decide (lowest u < lowest t ∨ highest t < highest u)) fun i =>
        saturated t (etWidth t) (intVal u (elA f x (etWidth u) i))

namespace Sys2Proof.Claims

/-- An entry of the instruction writes elements of the register in H, up to an element number, and raises nothing. -/
def Writes (i : Instr) (e : VEntry) (x : Worker) (h : BitVec 7) (w upto : Nat) (on : Nat → Prop) (r : Nat → BitVec w) :
    Prop :=
  ∀ pick, ∃ p l, performOf pick i = some p ∧ (p e x).vd = some ((hVec h).toNat, w, l) ∧
    (l.map fun b => b.1).Nodup ∧ (∀ k v, (k, v) ∈ l ↔ on k ∧ v = (r k).toNat) ∧ (l ≠ [] → (p e x).upto = upto) ∧
    (p e x).md = none ∧ (p e x).gd = none ∧ (p e x).flags = 0 ∧ (p e x).capture = []

/-- An entry of the instruction gives one value for the g register in H, raises flags and writes nothing else. -/
def Delivers (i : Instr) (e : VEntry) (x : Worker) (h : BitVec 7) (v : Word) (flags : BitVec 8) : Prop :=
  ∀ pick, ∃ p, performOf pick i = some p ∧ (p e x).gd = some (hReg h, v) ∧ (p e x).vd = none ∧ (p e x).md = none ∧
    (p e x).flags = flags ∧ (p e x).capture = []

/-- The active elements, in ascending order. -/
def actives (e : VEntry) (x : Worker) (mask : BitVec 3) : List Nat :=
  (List.range e.till).filter fun i => decide (e.vstart ≤ i) && (mask == 0#3 || (x.m.getD mask.toNat 0).getLsbD i)

/-- An element as a 64-bit value: sign-extended for an i type, else zero-extended (R209). -/
def asWord (t : Nat) {w : Nat} (v : BitVec w) : Word := if t ≤ 3 then v.signExtend 64 else v.setWidth 64

end Sys2Proof.Claims

/-- R209, R222 to R225, R233 to R236: moves, compares, merges, masks, slides, permutations, compression, expansion and
bit fields. Where the spec leaves a point open the model’s own reading is log entry 103. -/
def Obligations.VectorMoveResults : Prop :=
  ∀ (e : VEntry) (x : Worker),
    (∀ f : FV3,
      let t := f.et.toNat
      let w := etWidth t
      let a := fun i => elA f x w i
      let b := fun i => elB f e x w i
      let body := fun i => e.vstart ≤ i ∧ i < e.till
      let ma := fun i => (x.m.getD (f.va.extractLsb' 0 3).toNat 0).getLsbD i
      let mb := fun i => (x.m.getD (f.vb.extractLsb' 0 3).toNat 0).getLsbD i
      let bits (i : Instr) (r : Nat → Bool) : Prop := EachBit i e x f.h body false fun k => (r k, 0)
      Delivers (.vget f) e x f.h (asWord t (a e.gb.toNat)) 0 ∧
      Writes (.vput f) e x f.h w (e.ga.toNat + 1) (fun k => k = e.ga.toNat) (fun _ => e.gb.setWidth w) ∧
      Each (.vbcast f) e x f.h f.mask w false (fun _ => (e.gb.setWidth w, 0)) ∧
      (∀ c, EachBit (.vcmp c f) e x f.h (Active e x f.mask) false (fun i => (Cond.holds c w (a i) (b i), 0))) ∧
      Writes (.vmerge f) e x f.h w e.vl body
        (fun i => if (x.m.getD f.mask.toNat 0).getLsbD i then b i else a i) ∧
      bits (.mand f) (fun i => ma i && mb i) ∧ bits (.mor f) (fun i => ma i || mb i) ∧
      bits (.mxor f) (fun i => ma i != mb i) ∧ bits (.mnot f) (fun i => !ma i) ∧ bits (.mset f) (fun _ => true) ∧
      Each (.viota f) e x f.h f.mask w false
        (fun i => (BitVec.ofNat w ((List.range i).filter fun j => ma j).length, 0)) ∧
      Each (.vperm f) e x f.h f.mask w false
        (fun i =>
          let j := ((x.vreg f.vb.toNat).bits.extractLsb' (16 * i) 16).toNat
          (if j < e.vl then a j else 0, 0)) ∧
      Each (.vtlu f) e x f.h f.mask w true
        (fun i =>
          let j := ((x.vreg f.vb.toNat).bits.extractLsb' (16 * i) 16).toNat
          if j < 256 then (a j, 0) else (0, 0x80)) ∧
      (let act := actives e x f.mask
       Writes (.vcomp f) e x f.h w (e.vstart + act.length) (fun k => e.vstart ≤ k ∧ k < e.vstart + act.length)
        (fun k => a (act.getD (k - e.vstart) 0)) ∧
       Writes (.vexp f) e x f.h w e.vl (Active e x f.mask) (fun k => a (e.vstart + act.idxOf k))) ∧
      (let n := (e.gb.extractLsb' 0 7).toNat
       1 ≤ n → n ≤ w → Each (.vbfx f) e x f.h f.mask w false (fun i =>
        let v : BitVec n := (x.vreg f.va.toNat).bits.extractLsb' ((e.gb.extractLsb' 8 24).toNat + i * n) n
        (if e.gb.getLsbD 7 then v.signExtend w else v.setWidth w, 0)))) ∧
    ∀ f : FV4,
      let w := etWidth f.v.et.toNat
      let off := (e.gb.extractLsb' 0 15).toNat
      let fill := (e.gb.extractLsb' 16 15).toNat
      Each (.vslideup f) e x f.v.h f.v.mask w false (fun i =>
        (if off ≤ i then elA f.v x w (i - off) else if off ≤ fill + i then elC f x w (fill + i - off) else 0, 0)) ∧
      Each (.vslidedn f) e x f.v.h f.v.mask w false (fun i =>
        (if i + off < e.vl then elA f.v x w (i + off)
         else if i + off - e.vl < vlmaxFor x.vncode f.v.et.toNat then elC f x w (i + off - e.vl) else 0, 0))

/-! ## Floating point -/

namespace Sys2Proof.Claims

/-- The rounding mode of a vector instruction (R98): its RND field, or the captured VRM where that is 0. -/
def modeOf (e : VEntry) (rnd : BitVec 2) : Nat :=
  if rnd = 0 then e.rm.toNat else if rnd = 1 then 0 else if rnd = 2 then 1 else 2

/-- The value of element i of the register in VA. -/
def valA (f : FV3) (x : Worker) (t i : Nat) : FVal := fdecode t (elA f x (etWidth t) i).toNat

/-- The value of element i of source b. -/
def valB (f : FV3) (e : VEntry) (x : Worker) (t i : Nat) : FVal := fdecode t (elB f e x (etWidth t) i).toNat

/-- The value of element i of the register in VC. -/
def valC (f : FV4) (x : Worker) (t i : Nat) : FVal := fdecode t (elC f x (etWidth t) i).toNat

/-- A comparison of two values (R228): by order, and false for .eq, .lt, .le and .or where one is a NaN. -/
def Compares (c : FCond) (a b : FVal) : Prop :=
  let nan := a.isNaN = true ∨ b.isNaN = true
  match c with
  | .eq => ¬nan ∧ fcompare a b = 0
  | .ne => nan ∨ fcompare a b ≠ 0
  | .lt => ¬nan ∧ fcompare a b < 0
  | .le => ¬nan ∧ fcompare a b ≤ 0
  | .un => nan
  | .or => ¬nan

end Sys2Proof.Claims

/-- R98, R113, R226 to R231: the floating vector instructions, element by element, by the arithmetic of R94 to R113:
each result is rounded once in the instruction's mode and its flags are collected. -/
def Sys2Proof.Claims.VectorFloatResults : Prop :=
  ∀ (e : VEntry) (x : Worker),
    (∀ f : FV3, 11 ≤ f.et.toNat → f.et.toNat ≤ 14 →
      let t := f.et.toNat
      let w := etWidth t
      let rm := modeOf e f.rnd
      let a := fun i => valA f x t i
      let b := fun i => valB f e x t i
      let bits := fun i => elA f x w i
      let gives (i : Instr) (r : Nat → Nat × BitVec 8) : Prop := EachNat i e x f.h f.mask w true r
      gives (.vfadd f) (fun i => faddV t rm (a i) (b i)) ∧
      gives (.vfsub f) (fun i => faddV t rm (a i) (b i).negate) ∧
      gives (.vfmul f) (fun i => fmulV t rm (a i) (b i)) ∧
      gives (.vfdiv f) (fun i => fdivV t rm (a i) (b i)) ∧
      gives (.vfsqrt f) (fun i => fsqrtV t rm (a i)) ∧
      gives (.vfmin f) (fun i => fminmax t false (bits i).toNat (elB f e x w i).toNat) ∧
      gives (.vfmax f) (fun i => fminmax t true (bits i).toNat (elB f e x w i).toNat) ∧
      Each (.vfabs f) e x f.h f.mask w false (fun i => (bits i &&& ~~~(BitVec.twoPow w (w - 1)), 0)) ∧
      Each (.vfneg f) e x f.h f.mask w false (fun i => (bits i ^^^ BitVec.twoPow w (w - 1), 0)) ∧
      (∀ c, ∃ r : Nat → Bool, (∀ i, r i = true ↔ Compares c (a i) (b i)) ∧
        EachBit (.vfcmp c f) e x f.h (Active e x f.mask) true (fun i =>
          let invalid := if c = .lt ∨ c = .le then (a i).isNaN || (b i).isNaN else (a i).snan || (b i).snan
          (r i, if invalid then 1 else 0))) ∧
      EachNat (.vfclass f) e x f.h f.mask w false (fun i => (2 ^ classBit t (bits i).toNat, 0))) ∧
    (∀ f : FV4, 11 ≤ f.v.et.toNat → f.v.et.toNat ≤ 14 →
      let t := f.v.et.toNat
      let rm := modeOf e f.v.rnd
      let a := fun i => valA f.v x t i
      let b := fun i => valB f.v e x t i
      let c := fun i => valC f x t i
      let gives (i : Instr) (r : Nat → Nat × BitVec 8) : Prop := EachNat i e x f.v.h f.v.mask (etWidth t) true r
      gives (.vfma f) (fun i => ffmaV t rm (a i) (b i) (c i)) ∧
      gives (.vfms f) (fun i => ffmaV t rm (a i) (b i) (c i).negate) ∧
      gives (.vfnma f) (fun i => ffmaV t rm (a i).negate (b i) (c i).negate) ∧
      gives (.vfnms f) (fun i => ffmaV t rm (a i).negate (b i) (c i))) ∧
    (∀ (f : FV3) (src : BitVec 5),
      let t := f.et.toNat
      let u := src.toNat
      let n := fun i => elA f x (etWidth u) i
      let rm := modeOf e f.rnd
      let scale := (e.gb.extractLsb' 0 8).toInt
      let gives (raises : Bool) (r : Nat → Nat × BitVec 8) : Prop := EachNat (.vfcvt src f) e x f.h f.mask (etWidth t) raises r
      (u = 8 → 9 ≤ t → gives true (fun i => lgToF t rm (n i).toNat scale)) ∧
      (9 ≤ u → u ≤ 14 → t = 8 → gives true (fun i => fToLg (fdecode u (n i).toNat) scale)) ∧
      (u ≤ 7 → 11 ≤ t → t ≤ 14 → ∃ raises, gives raises (fun i => itofV t rm (intVal u (n i)))) ∧
      (11 ≤ u → u ≤ 14 → t ≤ 7 → gives true (fun i => ftoiV t rm (fdecode u (n i).toNat))) ∧
      (u = 9 ∨ u = 10 → 11 ≤ t → t ≤ 14 → gives false (fun i => ftofV t rm (fdecode u (n i).toNat))) ∧
      (11 ≤ u → u ≤ 14 → 9 ≤ t → gives true (fun i => ftofV t rm (fdecode u (n i).toNat)))) ∧
    ∀ f : FV3, f.et.toNat = 8 → EachNat (.vlgmul f) e x f.h f.mask 6 true fun i =>
      lgMul (elA f x 6 i).toNat (elB f e x 6 i).toNat

/-- R94, R95, R97 to R101: one rounding. A value that is not zero becomes the value of the format that its mode picks;
OF says that the value rounded with an unbounded exponent lies above the largest finite one, with the result of R99 or
R101 and NX; else NX says that the result is not exact, and UF that it is tiny as well; a result of zero keeps the
sign. -/
def Obligations.RoundingFollowsItsMode : Prop :=
  ∀ (t rm : Nat) (neg : Bool) (mant : Nat) (exp : Int), 9 ≤ t → t ≤ 14 → rm < 4 → mant ≠ 0 →
    RoundedTo t rm neg (cmpRat mant 1 exp) (fround t rm neg mant exp)

namespace Sys2Proof.Claims

/-- The exact sum of two products am·2^ae and bm·2^be with signs, rounded to `r` (R97, R98): a sum of zero is −0 where
both are zero and negative, or where they are of opposite sign in RDN, and else +0. -/
def SumRounded (t rm : Nat) (an : Bool) (am : Nat) (ae : Int) (bn : Bool) (bm : Nat) (be : Int) (r : Nat × BitVec 8) : Prop :=
  let q := min ae be
  let x := (if an then -1 else 1) * ((am : Int) * 2 ^ (ae - q).toNat)
  let y := (if bn then -1 else 1) * ((bm : Int) * 2 ^ (be - q).toNat)
  let sum := x + y
  (sum = 0 → r = (if (if an = bn then an = true else rm = 2) then (fmtOf t).sign else 0, 0)) ∧
  (sum ≠ 0 → RoundedTo t rm (decide (sum < 0)) (cmpRat sum.natAbs 1 q) r)

end Sys2Proof.Claims

/-- R96 to R102: results of finite operands. Sums, products, fused operations, quotients and square roots are the
exact value rounded once, and conversions as R101 and R102 have them: an integer is rounded in the mode, the type’s
nearest limit with NV where it is out of range. -/
def Sys2Proof.Claims.FloatResultsAreRounded : Prop :=
  ∀ (t rm : Nat) (an bn cn : Bool) (am bm cm : Nat) (ae be ce : Int), 9 ≤ t → t ≤ 14 → rm < 4 →
    let zero (n : Bool) : Nat × BitVec 8 := (if n then (fmtOf t).sign else 0, 0)
    SumRounded t rm an am ae bn bm be (faddV t rm (.fin an am ae) (.fin bn bm be)) ∧
    SumRounded t rm (an != bn) (am * bm) (ae + be) cn cm ce (ffmaV t rm (.fin an am ae) (.fin bn bm be) (.fin cn cm ce)) ∧
    (let r := fmulV t rm (.fin an am ae) (.fin bn bm be)
     (am * bm = 0 → r = zero (an != bn)) ∧ (am * bm ≠ 0 → RoundedTo t rm (an != bn) (cmpRat (am * bm) 1 (ae + be)) r)) ∧
    (bm ≠ 0 → let r := fdivV t rm (.fin an am ae) (.fin bn bm be)
     (am = 0 → r = zero (an != bn)) ∧ (am ≠ 0 → RoundedTo t rm (an != bn) (cmpRat am bm (ae - be)) r)) ∧
    (am ≠ 0 → RoundedTo t rm false (cmpRoot am ae) (fsqrtV t rm (.fin false am ae))) ∧
    (let r := ftofV t rm (.fin an am ae)
     (am = 0 → r = zero an) ∧ (am ≠ 0 → RoundedTo t rm an (cmpRat am 1 ae) r)) ∧
    ftofV t rm (.inf an) = (if t = 9 then ((if an then 0x80 else 0) + 0x7E, 0x14) else (infOf t an, 0)) ∧
    (∀ g, ftofV t rm (.nan g) = (canonNaN t, if g then 0x01 else 0)) ∧
    (∀ v : Int, (v = 0 → itofV t rm v = (0, 0)) ∧
      (v ≠ 0 → RoundedTo t rm (decide (v < 0)) (cmpRat v.natAbs 1 0) (itofV t rm v))) ∧
    ∀ u, u ≤ 7 →
      let w := etWidth u
      let least : Int := if u ≤ 3 then -2 ^ (w - 1) else 0
      let most : Int := if u ≤ 3 then 2 ^ (w - 1) - 1 else 2 ^ w - 1
      let code (v : Int) : Nat := (v % 2 ^ w).toNat
      (∃ k, RoundsTo rm an (cmpRat am 1 ae) k 0 ∧
        let v : Int := if an then -(k : Int) else k
        ftoiV u rm (.fin an am ae) =
          if v < least then (code least, 0x01) else if most < v then (code most, 0x01)
          else (code v, if cmpRat am 1 ae k 0 = .eq then 0 else 0x10)) ∧
      ftoiV u rm (.inf an) = (if an then code least else code most, 0x01) ∧ ∀ g, ftoiV u rm (.nan g) = (0, 0x01)

/-- R94, R96, R97, R100: the values that no rounding gives: NaNs, infinities, zeros and division by zero, with NV
(flag 0) and DZ (flag 1). -/
def Sys2Proof.Claims.FloatSpecialValues : Prop :=
  ∀ (t rm : Nat) (a b c : FVal),
    let invalid := (canonNaN t, 0x01#8)
    (a.isNaN = true ∨ b.isNaN = true →
      let r := (canonNaN t, if a.snan = true ∨ b.snan = true then 0x01#8 else 0)
      faddV t rm a b = r ∧ fmulV t rm a b = r ∧ fdivV t rm a b = r) ∧
    (∀ n, faddV t rm (.inf n) (.inf !n) = invalid ∧ faddV t rm (.inf n) (.inf n) = (infOf t n, 0)) ∧
    (∀ n m k e, fmulV t rm (.inf n) (.fin k 0 e) = invalid ∧ fmulV t rm (.fin k 0 e) (.inf n) = invalid ∧
      fdivV t rm (.inf n) (.inf m) = invalid ∧
      fdivV t rm (.fin k 0 e) (.fin m 0 e) = invalid ∧
      fmulV t rm (.inf n) (.inf m) = (infOf t (n != m), 0)) ∧
    (∀ n k e k' e' m, m ≠ 0 → fdivV t rm (.fin n m e) (.fin k 0 e') = (infOf t (n != k), 0x02#8) ∧
      fsqrtV t rm (.fin true m e) = invalid ∧ fsqrtV t rm (.fin k' 0 e) = (if k' then (fmtOf t).sign else 0, 0)) ∧
    fsqrtV t rm (.inf true) = invalid ∧ fsqrtV t rm (.inf false) = (infOf t false, 0) ∧
    (∀ n m e, m ≠ 0 → faddV t rm (.fin n m e) (.fin (!n) m e) = (if rm = 2 then (fmtOf t).sign else 0, 0)) ∧
    (∀ n e k, faddV t rm (.fin n 0 e) (.fin n 0 k) = (if n then (fmtOf t).sign else 0, 0)) ∧
    (∀ n e, ffmaV t rm (.inf n) (.fin false 0 e) c = invalid ∧ ffmaV t rm (.fin false 0 e) (.inf n) c = invalid) ∧
    (a.isNaN = true ∨ b.isNaN = true ∨ c.isNaN = true → (ffmaV t rm a b c).1 = canonNaN t)

/-- R111 to R113, R237: reductions and dot products start from the scalar and take the active elements in ascending
order; a free sum takes some tree; a minimum or maximum of no element is the scalar, or the canonical NaN; the result
is extended into the g register, and the flags of every step are collected. -/
def Sys2Proof.Claims.ReductionResults : Prop :=
  ∀ (e : VEntry) (x : Worker) (f : FV4),
    let t := f.v.et.toNat
    let w := etWidth t
    let rm := modeOf e f.v.rnd
    let act := actives e x f.v.mask
    let l := act.map fun i => elA f.v x w i
    let start : BitVec w := e.gb.setWidth w
    let sums (add : Nat → Nat → Nat × BitVec 8) (init : Nat) (l : List Nat) : Nat × BitVec 8 :=
      l.foldl (fun acc v => ((add acc.1 v).1, acc.2 ||| (add acc.1 v).2)) (init, 0)
    let add := fun a b => faddV t rm (fdecode t a) (fdecode t b)
    (t ≤ 7 →
      (∀ op, op = .osum ∨ op = .fsum →
        Delivers (.vreds op f) e x f.v.h (asWord t (l.foldl (fun a v => a + v) start)) 0) ∧
      Delivers (.vreds .max f) e x f.v.h
        (asWord t (l.foldl (fun a v => if intVal t a < intVal t v then v else a) start)) 0 ∧
      Delivers (.vreds .min f) e x f.v.h
        (asWord t (l.foldl (fun a v => if intVal t v < intVal t a then v else a) start)) 0 ∧
      Delivers (.vreds .and f) e x f.v.h (asWord t (l.foldl (fun a v => a &&& v) start)) 0 ∧
      Delivers (.vreds .or f) e x f.v.h (asWord t (l.foldl (fun a v => a ||| v) start)) 0 ∧
      Delivers (.vreds .xor f) e x f.v.h (asWord t (l.foldl (fun a v => a ^^^ v) start)) 0 ∧
      Delivers (.vdot f) e x f.v.h
        (asWord t (act.foldl (fun a i => a + elA f.v x w i * elB f.v e x w i) (e.gc.setWidth w))) 0) ∧
    (11 ≤ t → t ≤ 14 →
      (let r := sums add start.toNat (l.map BitVec.toNat)
       Delivers (.vreds .osum f) e x f.v.h (BitVec.ofNat 64 r.1) r.2) ∧
      (∀ pick, ∃ p choice, performOf pick (.vreds .fsum f) = some p ∧
        let r := freeSum add choice l.length (start.toNat :: l.map BitVec.toNat) 0
        (p e x).gd = some (hReg f.v.h, BitVec.ofNat 64 r.1) ∧ (p e x).flags = r.2) ∧
      (∀ op big, op = .max ∧ big = true ∨ op = .min ∧ big = false → l ≠ [] →
        let r := sums (fminmax t big) start.toNat (l.map BitVec.toNat)
        Delivers (.vreds op f) e x f.v.h (BitVec.ofNat 64 r.1) r.2) ∧
      (∀ op, op = .max ∨ op = .min → l = [] →
        let a := fdecode t start.toNat
        Delivers (.vreds op f) e x f.v.h (BitVec.ofNat 64 (if a.isNaN then canonNaN t else start.toNat))
          (if a.snan then 0x01 else 0)) ∧
      let r := act.foldl (fun (acc : Nat × BitVec 8) i =>
        let s := ffmaV t rm (valA f.v x t i) (valB f.v e x t i) (fdecode t acc.1)
        (s.1, acc.2 ||| s.2)) ((e.gc.setWidth w).toNat, 0)
      Delivers (.vdot f) e x f.v.h (BitVec.ofNat 64 r.1) r.2)

/-- R224, R232: MPOP and MFIRST wait for the vector unit and complete at once. VLGDOT waits for the vector unit too and
takes its scale from the register it writes, which stays full; the sequencer issues nothing until the vector unit has
written the rounded f32 sum with its flags. -/
def Sys2Proof.Claims.MaskCountsAndLgDot : Prop :=
  ∀ (f : FV3) (s : State),
    let x := s.core.w
    let set := (List.range x.vl.toNat).filter fun i =>
      decide (x.vstart.toNat ≤ i) && (x.m.getD (f.va.extractLsb' 0 3).toNat 0).getLsbD i
    let begun (u : State) : State := { u with core := { u.core with w := { u.core.w with vstart := 0 } } }
    ((Instr.mpop f).ready s → s.waitsVector = false →
      exec (.mpop f) s = .next ((begun s).put (hReg f.h) (BitVec.ofNat 64 set.length))) ∧
    ((Instr.mfirst f).ready s → s.waitsVector = false →
      (set = [] → exec (.mfirst f) s = .next ((begun s).put (hReg f.h) (BitVec.ofInt 64 (-1)))) ∧
      ∀ k rest, set = k :: rest → exec (.mfirst f) s = .next ((begun s).put (hReg f.h) (BitVec.ofNat 64 k))) ∧
    ((Instr.vlgdot f).ready s → ∀ w, s.cur = .worker w →
      (vlmaxFor x.vncode 8 < x.vl.toNat → exec (.vlgdot f) s = .next (s.raiseFrom 1 8 0)) ∧
      (x.vl.toNat ≤ vlmaxFor x.vncode 8 → s.waitsVector = true → exec (.vlgdot f) s = .next s) ∧
      (x.vl.toNat ≤ vlmaxFor x.vncode 8 → s.waitsVector = false →
        ∃ t e, exec (.vlgdot f) s = .next t ∧ t.core.w.queue = [e] ∧ e.instr = .vlgdot f ∧ e.gc = s.g (hReg f.h) ∧
          e.vl = x.vl.toNat ∧ e.vstart = x.vstart.toNat ∧ e.rm = x.vrm ∧ t.core.w.vstart = 0 ∧
          t.core.bank = s.core.bank ∧ t.core.pc = following s.core.heads s.core.pc ∧ t.mem = s.mem ∧
          (s.getSeq (.worker w) = some s.core → t.mayIssue (.worker w) = false))) ∧
    ∀ (e : VEntry) (y : Worker) (pick : Nat), ∃ p, performOf pick (.vlgdot f) = some p ∧
      let r := lgSum (modeOf e f.rnd) (e.gc.extractLsb' 0 16).toInt
        ((actives e y f.mask).map fun i => ((elA f y 6 i).toNat, (elB f e y 6 i).toNat))
      (p e y).gd = some (hReg f.h, BitVec.ofNat 64 r.1) ∧ (p e y).now = true ∧ (p e y).flags = r.2 ∧
        (p e y).vd = none ∧ (p e y).md = none

/-! ## Vector memory -/

/-- R187, R188, R197 to R199: where the elements of a vector memory instruction lie, and what each is checked for: its
alignment (condition 9), and its page, or a byte of the scratchpad of its space (conditions 44 and 45). -/
def Sys2Proof.Claims.ElementsLieWhereTheFormSays : Prop :=
  (∀ (f : FVM) (e : VEntry) (i : Nat),
    let b := etWidth f.et.toNat / 8
    let vd := (hVec f.h).toNat
    let base := e.base.setWidth 64
    let one (r : Nat) (va : Word) : Piece :=
      { elem := i, reg := r, lo := etWidth f.et.toNat * i, va := va, n := b, shift := 0, w := etWidth f.et.toNat }
    let bit := e.boff.toNat + 6 * i
    (f.mode = 0 → f.et ≠ 8 → computedPieces f e i = [one vd (base + BitVec.ofNat 64 (i * b))]) ∧
    (f.mode = 0 → f.et = 8 → computedPieces f e i = [{
      elem := i, reg := vd, lo := 6 * i, va := base + BitVec.ofNat 64 (bit / 8), n := if bit % 8 ≤ 2 then 1 else 2,
      shift := bit % 8, w := 6 }]) ∧
    (f.mode = 1 → computedPieces f e i = [one vd (base + BitVec.ofNat 64 i * e.gc)]) ∧
    (f.mode = 2 → computedPieces f e i = (List.range (f.nf1.toNat + 1)).map fun k =>
      one (vd + k) (base + BitVec.ofNat 64 ((i * (f.nf1.toNat + 1) + k) * b))) ∧
    ∀ (x : Worker) (idx reg : Nat), indexedPiece e x idx reg (etWidth f.et.toNat) i =
      one reg (base + (x.vreg idx).bits.extractLsb' (64 * i) 64)) ∧
  ∀ (s : State) (w : WKey) (e : VEntry) (want : Want) (spaces : Bool) (p : Piece),
    let check := s.checkPiece w e want spaces p
    let out (k : Nat) : Prop := s.padByte w e.vmt (p.va + BitVec.ofNat 64 k) = none
    (p.w ≠ 6 → p.va.toNat % p.n ≠ 0 ∨ e.boff ≠ 0 → check = .error ⟨9, p.va, false⟩) ∧
    (p.w = 6 ∨ p.va.toNat % p.n = 0 ∧ e.boff = 0 →
      (e.vmt = 0 → check = s.checkAccess (s.accessor (.worker w)) want p.va p.n) ∧
      (e.vmt ≠ 0 → (∀ k, k < p.n → ¬out k) → spaces = true → check = .ok []) ∧
      ∀ k, k < p.n → out k → (∀ j, j < k → ¬out j) →
        (e.vmt = 1 → check = .error ⟨44, p.va + BitVec.ofNat 64 k, false⟩) ∧
        (e.vmt = 2 → check = .error ⟨45, p.va + BitVec.ofNat 64 k, false⟩)) ∧
    ∀ a, s.padByte w 1 a =
      if a.toNat < spadBytes (s.seqD (.worker w)).w.spadCode then some (w, a.toNat) else none

namespace Sys2Proof.Claims

/-- The entry of a vector memory instruction with what it captured (R194): the stream's place and the stride. -/
def capturedEntry (s : State) (i : Instr) (f : FVM) : VEntry :=
  let r := s.core.w.q.getD f.q.toNat Stream.reset
  { s.entryFor i s.nextId with base := r.base, boff := r.boff, gc := s.g f.sreg }

/-- Entry e joins the queue of the current sequencer, and VSTART becomes 0. -/
def Queued (s t : State) (e : VEntry) : Prop :=
  t.core.w.queue = s.core.w.queue ++ [e] ∧ t.core.w.vstart = 0 ∧ t.core.w.q = s.core.w.q ∧ t.core.w.m = s.core.w.m ∧
  t.core.bank = s.core.bank

end Sys2Proof.Claims

/-- R132, R163, R194, R199 to R201: a computed form is checked at issue and queued, with the bytes it touches, and
with its stop where an element fails; then it traps with that element's number in EIDX and VSTART. An indexed form is
queued unchecked, and VACC with the lines of its row. An unset stream raises STREAM-UNSET (condition 22), VL beyond
VLMAX condition 8. -/
def Sys2Proof.Claims.VectorMemoryIsQueued : Prop :=
  (∀ (f : FVM) (store : Bool) (s : State) (w : WKey),
    let i := if store then Instr.vst f else Instr.vld f
    let want := if store then wantStore else wantLoad
    let e := capturedEntry s i f
    let beyond := vlmaxFor s.core.w.vncode f.et.toNat < s.core.w.vl.toNat
    let pieces := (actives e s.core.w f.mask).flatMap fun k => computedPieces f e k
    let v := s.takeId.2
    let passes (p : Piece) : Prop := ∃ l, v.checkPiece w e want true p = .ok l ∧ reachesDevice l = false
    i.ready s → s.cur = .worker w →
    ((s.stream f.q).set = false → exec i s = .next (s.raiseFrom 1 22 0)) ∧
    ((s.stream f.q).set = true → beyond → exec i s = .next (s.raiseFrom 1 8 0)) ∧
    ((s.stream f.q).set = true → ¬beyond →
      ((∀ p ∈ pieces, passes p) → ∃ t pages spans, exec i s = .next t ∧
        Queued s t { e with pages := pages, spans := spans } ∧ t.core.pc = following s.core.heads s.core.pc ∧
        (e.vmt = 0 → spans = (pieces.flatMap Piece.cut).map fun p => ((VEntry.place { e with pages := pages } p.va).1, p.n))) ∧
      ∀ a p b flt, pieces = a ++ p :: b → (∀ q ∈ a, passes q) → v.checkPiece w e want true p = .error flt →
        ∃ t pages spans,
          Queued s t { e with pages := pages, fault := some ⟨p.elem, flt.cond, flt.eaddr⟩, spans := spans } ∧
          t.core.pc = s.core.pc ∧
          exec i s = .next (t.raiseOn s.cur {
            source := if flt.cond = 28 then 5 else 1, cond := flt.cond, epc := s.core.pc, eaddr := flt.eaddr,
            eidx := p.elem, save := s.core.pc, vstart := some p.elem }))) ∧
  (∀ (i : Instr) (f : FVM) (s : State),
    (i = .vgath f ∨ i = .vscat f ∨ i = .vldl f ∨ i = .vstc f ∨ (∃ op g, i = .vamo op g ∧ g.m = f) ∨
      ∃ op g, i = .vred op g ∧ g.m = f) → i.ready s →
    let beyond := vlmaxFor s.core.w.vncode f.et.toNat < s.core.w.vl.toNat ∨ vlmaxFor s.core.w.vncode 3 < s.core.w.vl.toNat
    ((s.stream f.q).set = false → exec i s = .next (s.raiseFrom 1 22 0)) ∧
    ((s.stream f.q).set = true → beyond → exec i s = .next (s.raiseFrom 1 8 0)) ∧
    ((s.stream f.q).set = true → ¬beyond → ∃ t, exec i s = .next t ∧
      Queued s t { capturedEntry s i f with gc := 0 } ∧ t.core.pc = following s.core.heads s.core.pc)) ∧
  ∀ (f : FTR) (s : State), (Instr.vacc f).ready s →
    let r := s.winReg (f.imm.extractLsb' 0 3)
    let row := (s.g f.ga).toNat
    let vl := s.core.w.vl.toNat
    (r.isOpen = false → exec (.vacc f) s = .next (s.raiseFrom 2 14 0)) ∧
    (r.isOpen = true → r.rows.toNat ≤ row ∨ r.cols.toNat < vl → exec (.vacc f) s = .next (s.raiseFrom 2 38 0)) ∧
    (r.isOpen = true → row < r.rows.toNat → vl ≤ r.cols.toNat → vlmaxFor s.core.w.vncode 13 < vl →
      exec (.vacc f) s = .next (s.raiseFrom 1 8 0)) ∧
    ∀ win, r.isOpen = true → row < r.rows.toNat → vl ≤ r.cols.toNat → vl ≤ vlmaxFor s.core.w.vncode 13 →
      s.window? r.window = some win → ∃ t e, exec (.vacc f) s = .next t ∧
        Queued s t e ∧ e.instr = .vacc f ∧ e.cmd = win.id ∧ e.vl = vl ∧
        e.gb = win.base + BitVec.ofNat 64 (64 * win.pitchl * row) ∧ t.core.pc = following s.core.heads s.core.pc

namespace Sys2Proof.Claims

/-- A message of a vector instruction: the physical and virtual address, the length and what it asks. -/
structure Ask where
  pa : Nat
  va : Word
  len : Nat
  body : Body

/-- The accesses of worker q that `t` has sent since `s`, in order (R297, R409): nothing else on its way changed. -/
def Sent (s t : State) (q : SeqId) (l : List Ask) : Prop :=
  t.net = { s.net with msgs := s.net.msgs ++ l.zipIdx.map fun r => {
    id := s.nextId + r.2, src := q, path := s.pathOf q, ctx := some ((s.seqD q).ctxOn q), rel := none,
    pa := r.1.pa, va := r.1.va, len := r.1.len, body := r.1.body,
    hops := s.route (s.dieOf q) (s.homeDie r.1.pa), dest := s.homeOf r.1.pa, tag := none, floor := 0, reply := none } }

/-- Entry e of worker w's queue may run up to element n, in space 0, with no stop found and no release asked for by a
fence. -/
def MayRun (s : State) (w : WKey) (e : VEntry) (n : Nat) : Prop :=
  let x := s.seqD (.worker w)
  s.pickEntry (.worker w) [] x.w.queue = some (e, n) ∧ e.vmt = 0 ∧ e.fault = none ∧ x.relDue = none

/-- The blocks that the instruction reads, and those by which the registers `dst` grow, have granules. -/
def Backed (s : State) (w : WKey) (e : VEntry) (dst : List Nat) (width : Nat) : Prop :=
  let x := (s.seqD (.worker w)).w
  ∀ b ∈ x.readBlocks (e.indexOf x) ++ x.readBlocks (e.readParts x) ++
    dst.flatMap (fun r => x.growth r (bytesFor width e.vl)), (x.vreg b.1).granule.getLsbD b.2 = true

/-- VECTOR_DISPATCH of worker w leads to t, where entry e has left the queue, or waits there for what follows element n
(R143). -/
def Dispatches (s t : State) (w : WKey) (e : VEntry) (n : Nat) : Prop :=
  let l := (s.seqD (.worker w)).w.queue
  exec (.vectorDispatch w .agree) s = .next t ∧
  (e.till ≤ n → (t.seqD (.worker w)).w.queue = l.filter fun x => x.id != e.id) ∧
  (n < e.till → ∃ sp, (t.seqD (.worker w)).w.queue =
    l.map fun x => if x.id = e.id then { e with vstart := n, spans := sp } else x)

/-- The access by which entry e loads elements. -/
def loadOf (e : VEntry) (op : MemOp) (whole : Bool) (acq : Option (BitVec 3)) (r : Reading) : Ask :=
  { pa := r.pa, va := r.va, len := r.len, body := .access op r.kind (.elems e.id whole r.parts) acq }

/-- The access of one piece of an element alone. -/
def oneOf (e : VEntry) (p : Piece) : Reading :=
  { pa := (e.place p.va).1, va := p.va, len := p.n, kind := (e.place p.va).2,
    parts := [{ reg := p.reg, lo := p.lo, width := p.w, shift := p.shift, elem := p.elem }] }

/-- The load of e writes the whole valid extents of the registers `dst` unmasked (R202). -/
def Whole (x : Worker) (e : VEntry) (dst : List Nat) (mask : BitVec 3) (width : Nat) (b : Bool) : Prop :=
  b = true ↔ mask = 0 ∧ e.first = 0 ∧ e.vstart = 0 ∧ e.fault = none ∧
    ∀ r ∈ dst, (x.vreg r).extent ≤ bytesFor width e.vl

/-- Piece p of entry e has bit j of a line under its mask, and lies in the line and page kind of an address. -/
def Covers (e : VEntry) (va : Word) (p : Piece) (j : Nat) : Prop :=
  let lo := 8 * ((e.place p.va).1 % 64) + p.shift
  lineOf (e.place p.va).1 = lineOf (e.place va).1 ∧ (e.place p.va).2 = (e.place va).2 ∧ lo ≤ j ∧ j < lo + p.w

/-- The stores of the pieces l by entry e: one for each line, with the bits of its registers in place, those of the last
piece where several have a bit (R203, R303, R305). -/
def StoresOf (e : VEntry) (x : Worker) (l : List Piece) (r : List Ask) : Prop :=
  (r.map fun m => (lineOf (e.place m.va).1, (e.place m.va).2)).Nodup ∧
  (∀ p ∈ l, ∃ m ∈ r, lineOf (e.place p.va).1 = lineOf (e.place m.va).1 ∧ (e.place p.va).2 = (e.place m.va).2) ∧
  ∀ m ∈ r, (∃ p ∈ l, m.pa = (e.place p.va).1 ∧ m.va = p.va ∧ m.len = p.n) ∧
    ∃ d b, m.body = .staged (.store d b) e.id ∧ ∀ j, j < 512 →
      (b.getLsbD j = true ↔ ∃ p ∈ l, Covers e m.va p j) ∧
      ∀ (k : Nat) (p : Piece), l[k]? = some p → Covers e m.va p j →
        (∀ (k' : Nat) (p' : Piece), k < k' → l[k']? = some p' → ¬Covers e m.va p' j) →
        d.getLsbD j = (x.vreg p.reg).bits.getLsbD (p.lo + (j - (8 * ((e.place p.va).1 % 64) + p.shift)))

/-- The elements of an indexed form have been checked (R200): with none failing, its pieces in ascending order; no older
instruction, and no QPUSH, has still to touch their bytes (R117). -/
def Checked (s : State) (w : WKey) (e : VEntry) (f : FVM) (reg : Nat) (want : Want) (spaces : Bool) (v : State)
    (e' : VEntry) (l : List Piece) : Prop :=
  s.checkIndexed w e f reg want spaces = some (v, e', l) ∧ e'.fault = none ∧
  ∀ p ∈ l.flatMap Piece.cut,
    let apart (r : Nat × Nat) : Prop := (e'.place p.va).1 + p.n ≤ r.1 ∨ r.1 + r.2 ≤ (e'.place p.va).1
    (∀ o ∈ (s.seqD (.worker w)).w.queue, o.id < e.id → ∀ r ∈ o.spans, apart r) ∧
    ∀ o ∈ s.pushes, o.owner = w → ∀ r ∈ o.pieces, apart r

end Sys2Proof.Claims

/-- R203, R336: the accesses of a vector load hold each piece once, with its bits where they lie in what the access
reads. Each piece has one of its own, but in windows of format 1, where one access reads all the pieces of a 32-byte
block. -/
def Sys2Proof.Claims.LoadsReadABlockOnce : Prop :=
  ∀ (s : State) (e : VEntry) (l : List Piece),
    let r := s.readings e l
    let at_ (p : Piece) : Nat := (e.place p.va).1
    ((∀ p ∈ l, s.fmtAt (at_ p) ≠ 1) → r = l.map (oneOf e)) ∧
    ((∀ p ∈ l, s.fmtAt (at_ p) = 1) → (r.map fun m => (m.pa / 32, m.kind)).Nodup) ∧
    (∀ p ∈ l, ∃ m ∈ r, m.kind = (e.place p.va).2 ∧ m.pa ≤ at_ p ∧ at_ p + p.n ≤ m.pa + m.len ∧
      { reg := p.reg, lo := p.lo, width := p.w, shift := 8 * (at_ p - m.pa) + p.shift, elem := p.elem } ∈ m.parts) ∧
    ∀ m ∈ r, ∀ x ∈ m.parts, ∃ p ∈ l, m.kind = (e.place p.va).2 ∧ m.pa ≤ at_ p ∧ at_ p + p.n ≤ m.pa + m.len ∧
      x = { reg := p.reg, lo := p.lo, width := p.w, shift := 8 * (at_ p - m.pa) + p.shift, elem := p.elem }

/-- R140, R198, R203 to R208, R239 to R242, R288: the elements of a vector memory instruction leave for their home
slices in ascending order, each with its register; a store carries its register's bits, those of one line together. -/
def Sys2Proof.Claims.VectorMemoryIsPerformed : Prop :=
  ∀ (s : State) (w : WKey) (entry : VEntry) (n : Nat), MayRun s w entry n →
    let q := SeqId.worker w
    let x := (s.seqD q).w
    let e := { entry with till := n }
    let runs (t : State) : Prop := Dispatches s t w entry n
    (∀ f, e.instr = .vld f → Backed s w e f.group (etWidth f.et.toNat) →
      let l := (actives e x f.mask).flatMap fun i => computedPieces f e i
      ∃ t b, runs t ∧ Whole x e f.group f.mask (etWidth f.et.toNat) b ∧
        Sent s t q ((s.readings e (l.flatMap Piece.cut)).map (loadOf e .load b none)) ∧ t.mem = s.mem ∧
        ∀ r ∈ f.group, r < 64 → l ≠ [] →
          ((t.seqD q).w.vreg r).extent = max (x.vreg r).extent (bytesFor (etWidth f.et.toNat) e.vl)) ∧
    (∀ f, e.instr = .vst f → Backed s w e [] 0 →
      let l := ((actives e x f.mask).flatMap fun i => computedPieces f e i).flatMap Piece.cut
      (∀ p ∈ l, (e.place p.va).2 ≠ .priv) → (∀ p ∈ (actives e x f.mask).flatMap fun i => computedPieces f e i,
        (e.place p.va).2 ≠ .priv) →
      ∃ t r, runs t ∧ Sent s t q r ∧ StoresOf e x l r ∧ t.mem = s.mem) ∧
    (∀ f v e' l, e.instr = .vgath f → Backed s w e [(hVec f.h).toNat] (etWidth f.et.toNat) →
      Checked s w e f (hVec f.h).toNat wantLoad true v e' l →
      ∃ t b, runs t ∧ Whole x e' [(hVec f.h).toNat] f.mask (etWidth f.et.toNat) b ∧
        Sent v t q ((v.readings e' (l.flatMap Piece.cut)).map (loadOf e' .load b none))) ∧
    (∀ f v e' l, e.instr = .vscat f → Backed s w e [] 0 →
      Checked s w e f (hVec f.h).toNat wantStore true v e' l → (∀ p ∈ l, (e'.place p.va).2 ≠ .priv) →
      (∀ p ∈ l.flatMap Piece.cut, (e'.place p.va).2 ≠ .priv) →
      ∃ t r, runs t ∧ Sent v t q r ∧ StoresOf e' x (l.flatMap Piece.cut) r) ∧
    (∀ f v u e' l, e.instr = .vldl f → Backed s w e [(hVec f.h).toNat] (etWidth f.et.toNat) →
      Checked s w e f (hVec f.h).toNat wantWaitm false v e' l → v.beforeHomes q e' l = some u →
      (∀ p ∈ l, u.indexPending w p.elem = false) →
      ∃ t b, runs t ∧ Whole x e' [(hVec f.h).toNat] f.mask (etWidth f.et.toNat) b ∧
        Sent u t q ((u.readings e' (l.flatMap Piece.cut)).map (loadOf e' (.link w) b none))) ∧
    (∀ f v u e' l, e.instr = .vstc f → Backed s w e [] 0 →
      Checked s w e f (hVec f.h).toNat wantAtomic false v e' l → v.beforeHomes q e' l = some u →
      (∀ p ∈ l, u.indexPending w p.elem = false) →
      ∃ t, runs t ∧ Sent u t q (l.map fun p => {
        pa := (e'.place p.va).1, va := p.va, len := p.n,
        body := .access (.cond p.n (BitVec.ofNat 64 ((x.vreg p.reg).bits.extractLsb' p.lo p.w).toNat) w p.elem)
          (e'.place p.va).2 (.mask e'.id f.mask.toNat p.elem) none })) ∧
    (∀ op f a v u e' l, e.instr = .vamo op f →
      (if f.ord.getLsbD 1 then s.release q f.scope.toNat = (a, true) else s = a) →
      Backed a w e [(hVec f.m.h).toNat] (etWidth f.m.et.toNat) →
      Checked a w e f.m (hVec f.m.h).toNat wantAtomic false v e' l → v.beforeHomes q e' l = some u → l ≠ [] →
      ∃ t b, runs t ∧ Whole (a.seqD q).w e' [(hVec f.m.h).toNat] f.m.mask (etWidth f.m.et.toNat) b ∧
        Sent u t q ((l.flatMap Piece.cut).map fun p => loadOf e'
          (.amo op p.n ((((a.seqD q).w.vreg f.vb.toNat).bits.extractLsb' (etWidth f.m.et.toNat * p.elem)
            (etWidth f.m.et.toNat)).setWidth 64))
          b (if f.ord.getLsbD 0 then some f.scope else none) (oneOf e' p))) ∧
    (∀ op f v u e' l, e.instr = .vred op f → Backed s w e [] 0 → Checked s w e f.m 0 wantAtomic false v e' l →
      let et := f.m.et.toNat
      let red (p : Piece) : MemOp :=
        .red op et (((x.vreg f.vb.toNat).bits.extractLsb' (etWidth et * p.elem) (etWidth et)).setWidth 64)
      (f.scope.toNat ≤ 1 → ∃ t, runs t ∧ Sent v t q (l.map fun p => {
        pa := (e'.place p.va).1, va := p.va, len := p.n, body := .staged (red p) e'.id })) ∧
      (1 < f.scope.toNat → v.beforeHomes q e' l = some u → ∃ t, runs t ∧ Sent u t q (l.map fun p => {
        pa := (e'.place p.va).1, va := p.va, len := p.n,
        body := .access (red p) (e'.place p.va).2 (.sent e'.id) none }))) ∧
    ∀ f, e.instr = .vacc f → Backed s w e [(hVec f.h).toNat] 32 → s.rowHeld q e.id e.cmd e.gb = false →
      ∃ t b, runs t ∧ Whole x e [(hVec f.h).toNat] 0 32 b ∧
        Sent s t q ((s.readings e ((vaccPieces f e).flatMap Piece.cut)).map (loadOf e .load b none))

/-- R118, R143, R202, R207: ELEMENT_GROUP_LANDING puts loaded bits into their register, whose other bits stay, once no
earlier instruction has still to read or write their element group; it clears the mask bit of a VSTC element that
stored, and marks a register whose data carries an error. -/
def Sys2Proof.Claims.LoadedElementsLand : Prop :=
  ∀ (s : State) (k : Nat) (l : ElemLanding) (w : WKey), s.net.elems.find? (fun y => y.id == k) = some l →
    l.src = .worker w → (s.getSeq l.src).isSome →
    let x := (s.seqD l.src).w
    let left := s.net.elems.filter fun y => y.id != k
    (l.toMask = true → l.reg < 8 → l.elem < 21845 → ∃ t, exec (.elementGroupLanding k) s = .next t ∧ t.net.elems = left ∧
      ∀ j, j < 21845 → ((t.seqD l.src).w.m.getD l.reg 0).getLsbD j =
        if j = l.elem ∧ l.val = 0 then false else (x.m.getD l.reg 0).getLsbD j) ∧
    (l.toMask = false → ∀ e ∈ x.queue, e.id < l.entry → ∀ p ∈ e.readParts x ++ e.writeParts x,
      Clash p (regPart l.elem l.reg l.lo l.width) → exec (.elementGroupLanding k) s = .next s) ∧
    (l.toMask = false → l.reg < 64 → 0 < l.width → l.lo + l.width ≤ 131072 → l.acq = none →
      (∀ e ∈ x.queue, l.entry ≤ e.id) → (∀ p ∈ s.flying l.src, l.entry ≤ p.1) →
      (let r := x.vreg l.reg
       r.granule.getLsbD (l.lo / 16384) = true ∧ r.granule.getLsbD ((l.lo + l.width - 1) / 16384) = true) →
      ∃ t, exec (.elementGroupLanding k) s = .next t ∧ t.net.elems = left ∧
        (∀ j, j < 131072 → ((t.seqD l.src).w.vreg l.reg).bits.getLsbD j =
          if l.lo ≤ j ∧ j < l.lo + l.width then l.val.testBit (j - l.lo) else (x.vreg l.reg).bits.getLsbD j) ∧
        (∀ r, r < 64 → r ≠ l.reg → (t.seqD l.src).w.vreg r = x.vreg r) ∧
        (∀ m, l.poison = some m → ((t.seqD l.src).w.vreg l.reg).poison = some m ∧
          let p : PendingTrap := { source := 5, mark := m, elem := l.elem, entry := l.entry }
          (x.pending = none → (t.seqD l.src).w.pending = some p) ∧
          ∀ o, x.pending = some o →
            (t.seqD l.src).w.pending = some (if o.entry = l.entry ∧ l.elem < o.elem then p else o)) ∧
        (l.poison = none → (t.seqD l.src).w.pending = x.pending ∧ ((t.seqD l.src).w.vreg l.reg).poison =
          if l.whole = true ∧ (x.vreg l.reg).marker < l.entry then none else (x.vreg l.reg).poison))

/-- R187 to R190, R203, R341: with space 1 the elements of a load come from the worker's scratchpad and those of a
store go there, byte for byte; a byte of another worker's scratchpad is reached by an access that is sent to it. -/
def Sys2Proof.Claims.ScratchpadElementsMove : Prop :=
  (∀ (s : State) (w : WKey) (e : VEntry) (p : Piece) (whole : Bool), e.vmt = 1 → p.shift = 0 → p.w = 8 * p.n → 0 < p.n →
    p.va.toNat + p.n ≤ spadBytes (s.seqD (.worker w)).w.spadCode → (s.getSeq (.worker w)).isSome →
    ∃ v, (s.loadPad w e whole p).net.elems = s.net.elems ++ [{
        id := s.nextId, src := .worker w, entry := e.id, reg := p.reg, lo := p.lo, width := p.w, elem := p.elem, val := v,
        poison := none, toMask := false, long := true, whole := whole, acq := none }] ∧
      ∀ k, k < p.n → BitVec.ofNat 8 (v / 2 ^ (8 * k)) = cellsGet (s.seqD (.worker w)).w.spad (p.va.toNat + k)) ∧
  (∀ (s : State) (w : WKey) (e : VEntry) (p : Piece), e.vmt = 1 → p.shift = 0 → p.w = 8 * p.n → 0 < p.n →
    p.va.toNat + p.n ≤ spadBytes (s.seqD (.worker w)).w.spadCode → (s.getSeq (.worker w)).isSome →
    cellsWf (s.seqD (.worker w)).w.spad = true →
    let t := s.storePad w e p
    let v := (((s.seqD (.worker w)).w.vreg p.reg).bits.extractLsb' p.lo p.w).toNat
    (∀ k, k < p.n → cellsGet (t.seqD (.worker w)).w.spad (p.va.toNat + k) = BitVec.ofNat 8 (v / 2 ^ (8 * k))) ∧
    ∀ a, a < p.va.toNat ∨ p.va.toNat + p.n ≤ a →
      cellsGet (t.seqD (.worker w)).w.spad a = cellsGet (s.seqD (.worker w)).w.spad a) ∧
  ∀ (s : State) (w o : WKey) (e : VEntry) (p : Piece) (whole : Bool) (off : Nat),
    s.padByte w e.vmt p.va = some (o, off) → o ≠ w →
    let sent (body : Body) : Net := { s.net with msgs := s.net.msgs ++ [
      { id := s.nextId, src := .worker w, path := s.pathOf (.worker w), ctx := none, rel := none,
        pa := off, va := p.va, len := p.n, body := body,
        hops := s.route (s.dieOf (.worker w)) (s.dieOf (.worker w)), dest := 1024 + (s.seqD (.worker o)).w.place.vc,
        tag := none, floor := 0, reply := none }] }
    (s.loadPad w e whole p).net = sent (.pad o none (.elems e.id whole (oneOf e p).parts)) ∧
    let v := (((s.seqD (.worker w)).w.vreg p.reg).bits.extractLsb' p.lo p.w).toNat
    (s.storePad w e p).net = sent (.pad o (some (v * 2 ^ p.shift, (2 ^ p.w - 1) * 2 ^ p.shift)) .none)

/-- R122 to R124, R132, R191 to R193, R195, R196, R243: VSETL, VDECL, QSET, QADV and VFENCE, and a walk ahead, which
follows the stream's direction by whole pages, each as large as its translation says, and keeps one that a user may
read or write. -/
def Sys2Proof.Claims.LengthsAndStreams : Prop :=
  (∀ (f : FIM) (s : State), (Instr.vsetl f).ready s →
    let m := vlmaxFor s.core.w.vncode (f.imm.extractLsb' 0 4).toNat
    let n := min (s.g f.ga).toNat m
    exec (.vsetl f) s = .next (State.put { s with core := { s.core with w := { s.core.w with
      vlmax := BitVec.ofNat 15 m, vl := BitVec.ofNat 15 n } } } (hReg f.h) (BitVec.ofNat 64 n))) ∧
  (∀ (f : FIM) (s : State) (w : WKey), (Instr.vdecl f).ready s → s.cur = .worker w → s.waitsVector = false →
    ∃ t, exec (.vdecl f) s = .next t ∧ t.core.w.vncode = f.imm.extractLsb' 0 2 ∧
      (∀ k, k < 64 → (t.core.w.vreg k).bits = 0 ∧ (t.core.w.vreg k).extent = 0 ∧ (t.core.w.vreg k).poison = none ∧
        (t.core.w.vreg k).granule = 0) ∧
      (∀ k, k < 8 → t.core.w.m.getD k 0 = 0) ∧ (∀ r ∈ t.mem.resv, r.owner ≠ w) ∧
      (∀ r ∈ s.mem.resv, r.owner ≠ w → r ∈ t.mem.resv) ∧ t.core.bank = s.core.bank ∧ t.core.w.vl = s.core.w.vl ∧
      t.core.w.q = s.core.w.q ∧ t.core.pc = following s.core.heads s.core.pc ∧ t.mem.arrays = s.mem.arrays) ∧
  (∀ (f : FIM) (s : State), (Instr.qset f).ready s → ∃ t, exec (.qset f) s = .next t ∧
    t.core.w.q = s.core.w.q.setIfInBounds (f.imm.extractLsb' 0 4).toNat {
      set := true, dir := false, boff := f.imm.extractLsb' 4 3, slots := []
      base := BitVec.ofInt 58 ((s.g f.ga).toInt + (f.imm.extractLsb' 8 16).toInt) } ∧
    t.core.bank = s.core.bank ∧ t.core.pc = following s.core.heads s.core.pc) ∧
  (∀ (f : FIM) (s : State), (Instr.qadv f).ready s →
    let k := (f.imm.extractLsb' 0 4).toNat
    let r := s.core.w.q.getD k Stream.reset
    let n := if f.imm.getLsbD 4 then (s.g f.ga).toInt else 8 * (s.g f.ga).toInt
    (r.set = false → Raises (.qadv f) s 22 0) ∧
    (r.set = true → ∃ t r', exec (.qadv f) s = .next t ∧ t.core.w.q = s.core.w.q.setIfInBounds k r' ∧
      r'.set = true ∧ r'.slots = r.slots ∧
      (8 * r'.base.toNat + r'.boff.toNat : Int) = (8 * r.base.toNat + r.boff.toNat + n) % 2 ^ 61 ∧
      r'.dir = (if n < 0 then true else if n = 0 then r.dir else false) ∧
      t.core.bank = s.core.bank ∧ t.core.pc = following s.core.heads s.core.pc)) ∧
  (∀ (s : State) (w : WKey) (y : Seq) (q : BitVec 4) (n : Nat) (va : Nat → Word),
    let r := y.w.q.getD q.toNat Stream.reset
    let leaf (a : Word) : Option Leaf := s.leafFor (s.dieOf (.worker w)) w.ctx a
    let size (a : Word) : Nat := match leaf a with
      | some l => leafBytes l.val l.level
      | none => 4096
    let page (a : Word) : Nat := a.toNat / size a * size a
    s.getSeq (.worker w) = some y → r.set = true → y.w.vmt = 0 → n < 4 → va 0 = r.base.setWidth 64 →
    (∀ k, k ≤ n → va (k + 1) =
      BitVec.ofInt 64 (if r.dir then (page (va k) : Int) - 1 else (page (va k) : Int) + size (va k))) →
    (leaf (va (n + 1)) = none → exec (.walkAhead w q n) s = .next s) ∧
    ∀ l, leaf (va (n + 1)) = some l →
      let kept := (BitVec.ofNat 64 (page (va (n + 1))), size (va (n + 1)))
      (pteBit l.val 4 = false ∨ pteBit l.val 1 = false ∧ pteBit l.val 2 = false →
        exec (.walkAhead w q n) s = .next s) ∧
      (pteBit l.val 4 = true → pteBit l.val 1 = true ∨ pteBit l.val 2 = true → kept ∉ r.slots →
        exec (.walkAhead w q n) s = .next (s.setSeq (.worker w) { y with w := { y.w with
          q := y.w.q.setIfInBounds q.toNat { r with slots := (kept :: r.slots).take 4 } } }))) ∧
  ∀ (f : FIM) (s u : State), (Instr.vfence f).ready s → s.waitsVector = false → s.ordering s.cur = false →
    let scope := (f.imm.extractLsb' 2 3).toNat
    (if f.imm.getLsbD 1 then s.release s.cur scope = (u, true) else s = u) →
    (f.imm.getLsbD 0 = false → exec (.vfence f) s = .next (onward s u)) ∧
    (f.imm.getLsbD 0 = true → u.loadsPending s.cur = false →
      exec (.vfence f) s = .next (onward s (acquired u s.cur scope)))

namespace Sys2Proof.Claims

/-- What VWAIT does with the word of its one element k at pa, read in state u (R241): it ends with the word in vd, and
with its acquire, or parks. `pc` is where it goes on. -/
def WaitsFor (c : Cond) (f : FVX) (u : State) (w : WKey) (k pa : Nat) (pc : Word)
    (o : Host.Outcome State Fault Refusal) : Prop :=
  let x := u.core.w
  let n := etWidth f.m.et.toNat
  let vd := (hVec f.m.h).toNat
  let begun : State := { u with core := { u.core with w := { u.core.w with vwaitDone := [] } } }
  ∀ v a, begun.readHome pa (n / 8) = (v, a, none) →
    (Cond.holds c n (BitVec.ofNat n a) ((x.vreg f.vb.toNat).bits.extractLsb' (n * k) n) = true →
      n * k + n ≤ 131072 →
      (∀ b ∈ (regPart k vd (n * k) n).blocks ++ x.growth vd (bytesFor n x.vl.toNat),
        (x.vreg b.1).granule.getLsbD b.2 = true) →
      ∃ t, o = .next t ∧ t.core.run = u.core.run ∧ t.core.pc = pc ∧ t.core.w.vstart = 0 ∧
        ((t.core.w.vreg vd).bits.extractLsb' (n * k) n) = BitVec.ofNat n a ∧
        (∀ j, j ≠ k → n * j + n ≤ 131072 →
          (t.core.w.vreg vd).bits.extractLsb' (n * j) n = (x.vreg vd).bits.extractLsb' (n * j) n) ∧
        t.mem = (if f.ord.getLsbD 0 then acquired v (.worker w) f.scope.toNat else v).mem) ∧
    (Cond.holds c n (BitVec.ofNat n a) ((x.vreg f.vb.toNat).bits.extractLsb' (n * k) n) = false →
      ∃ t, o = .next t ∧ t.core.run = .parked (.vwait c f [(k, pa)]) ∧ t.core.pc = u.core.pc)

end Sys2Proof.Claims

/-- R142, R241: VWAIT waits for the vector unit, checks its elements, and ends at once with no element; it reads each
word at its home slice, ends with the words in vd once each meets its comparison, and parks until then; a write to a
word's line has it read again. -/
def Sys2Proof.Claims.VectorWaits : Prop :=
  (∀ (c : Cond) (f : FVX) (s : State) (w : WKey), (Instr.vwait c f).ready s → s.cur = .worker w →
    let x := s.core.w
    let beyond := vlmaxFor x.vncode f.m.et.toNat < x.vl.toNat ∨ vlmaxFor x.vncode 3 < x.vl.toNat
    let e := { capturedEntry s (.vwait c f) f.m with id := 0, gc := 0 }
    ((s.stream f.m.q).set = false → exec (.vwait c f) s = .next (s.raiseFrom 1 22 0)) ∧
    ((s.stream f.m.q).set = true → beyond → exec (.vwait c f) s = .next (s.raiseFrom 1 8 0)) ∧
    ((s.stream f.m.q).set = true → ¬beyond → s.waitsVector = false → s.ordering s.cur = false →
      (∀ b ∈ x.readBlocks ((actives e x f.m.mask).flatMap fun i =>
        elemParts 64 [f.m.idx.toNat] i ++ elemParts (etWidth f.m.et.toNat) [f.vb.toNat] i),
        (x.vreg b.1).granule.getLsbD b.2 = true) →
      (actives e x f.m.mask = [] → ∃ t, exec (.vwait c f) s = .next t ∧ t.core.bank = s.core.bank ∧
        t.core.run = s.core.run ∧ t.core.pc = following s.core.heads s.core.pc ∧ t.core.w.vstart = 0 ∧
        t.mem = (if f.ord.getLsbD 0 then acquired s (.worker w) f.scope.toNat else s).mem) ∧
      ∀ u e' p, s.checkIndexed w e f.m 0 wantWaitm false = some (u, e', [p]) → e'.fault = none →
        u.linePending s.cur (lineOf (e'.place p.va).1) = false →
        WaitsFor c f u w p.elem (e'.place p.va).1 (following s.core.heads s.core.pc) (exec (.vwait c f) s))) ∧
  ∀ (c : Cond) (f : FVX) (s : State) (w : WKey) (y : Seq) (k pa : Nat), s.getSeq (.worker w) = some y →
    y.run = .parked (.vwait c f [(k, pa)]) → y.w.vwaitDone = [] →
    WaitsFor c f (s.wake (.worker w)) w k pa (following y.heads y.pc) (exec (.vwaitWake w) s)

/-! ## The matrix engine -/

namespace Sys2Proof.Claims

/-- The instruction i of the current sequencer has made matrix command c, numbered on TLM, with the matrix state it
captured (R266, R276, R277): on a VC the command waits in the queue; on an MX sequencer the MX has accepted it, and a
product over no element is complete at once. -/
def Commanded (s t : State) (i : Instr) (c : MxCmd) : Prop :=
  let product := c.kind = .mmas ∨ c.kind = .mmaf
  c.src = s.cur ∧ c.cluster = (s.clusterOf s.cur).getD 0 ∧ c.follow = none ∧ c.num = s.core.tlm.issued + 1 ∧
  c.st = s.core.mx ∧ c.accepted = false ∧ c.started = false ∧ c.sent = false ∧ c.slices = [] ∧ c.failed = none ∧
  t.core.pc = following s.core.heads s.core.pc ∧ t.core.bank = s.core.bank ∧
  t.core.tlm.issued = s.core.tlm.issued + 1 ∧
  (∀ w, s.cur = .worker w → t.mxCmds = s.mxCmds ++ [c] ∧
    ∃ e, t.core.w.queue = s.core.w.queue ++ [e] ∧ e.instr = i ∧ e.cmd = c.id) ∧
  (∀ w h, s.cur = .mx w h → (∀ x ∈ s.mxCmds, x.id < s.nextId) →
    (¬product → c.kind = .close ∨ c.left ≠ [] → t.mxCmds = s.mxCmds ++ [{ c with accepted := true }]) ∧
    (product → c.k ≠ 0 → t.mxCmds = s.mxCmds ++ [{ c with accepted := true }]) ∧
    (product → c.k = 0 → t.mxCmds = s.mxCmds))

/-- The current sequencer is a VC or a forked MX sequencer. -/
def Issues (s : State) : Prop := (∃ w, s.cur = .worker w) ∨ ∃ w h, s.cur = .mx w h

/-- The matrix state of the current sequencer is another, and the instruction goes on, on a VC through the queue. -/
def MatrixStateIs (s t : State) (i : Instr) (x : MatrixState) : Prop :=
  t.core.mx = x ∧ t.core.pc = following s.core.heads s.core.pc ∧ t.core.bank = s.core.bank ∧
  (∀ w, s.cur = .worker w → ∃ e, t.core.w.queue = s.core.w.queue ++ [e] ∧ e.instr = i) ∧
  (∀ w h, s.cur = .mx w h → t.core.w.queue = s.core.w.queue)

end Sys2Proof.Claims

/-- R266, R267, R276 to R283: the matrix instructions at issue: their checks in order with source MX, the window
register they open or close, and the command they make. Where the spec leaves a point open the model’s own reading is
log entries 44, 82 and 101. The address 0 (EADDR) of its traps, for which no rule gives one, is the model’s choice
(DESIGN CHOICE, log entry 82). -/
def Obligations.MatrixCommandsAreMade : Prop :=
  ∀ (f : FTR) (s : State), Issues s → s.matrixWaits = false →
    let k := hMask f.h
    let r := s.winReg k
    let ga := s.g f.ga
    let gb := s.g f.gb
    let gc := s.g f.gc
    (∀ zero : Bool, let i := if zero then Instr.mopenZero f else Instr.mopenLoad f
      i.ready s →
      (r.isOpen = true → exec i s = .next (s.raiseFrom 2 38 0)) ∧
      (r.isOpen = false → gb.toNat < 1 ∨ 128 < gb.toNat ∨ gc.toNat < 1 ∨ 128 < gc.toNat →
        exec i s = .next (s.raiseFrom 2 38 0)) ∧
      ∀ l, r.isOpen = false → s.openCheck s.curCtx ga gb gc = .ok l → reachesDevice l = false →
        ∃ t win c, exec i s = .next t ∧
        t.windows = (s.markAll l true).windows ++ [win] ∧ win.ctx = s.curCtx ∧ win.base = ga ∧ win.rows = gb.toNat ∧
        win.cols = gc.toNat ∧ win.pitchl = ceilDiv gc.toNat 16 ∧ win.lines = linesOf l ∧ win.pinned = [] ∧
        win.zero = zero ∧ Commanded s t i c ∧ c.kind = (if zero then .openZero else .openLoad) ∧ c.window = win.id ∧
        c.left = linesOf l ∧ ∀ w, ownerOf s.cur = some w → (s.getSeq (.worker w)).isSome →
          (t.seqD (.worker w)).w.win.getD k.toNat WindowReg.reset = {
            isOpen := true, cols := BitVec.ofNat 8 gc.toNat, rows := BitVec.ofNat 8 gb.toNat,
            pitchl := BitVec.ofNat 4 (ceilDiv gc.toNat 16), base := ga.setWidth 58, window := win.id }) ∧
    ((Instr.mclose f).ready s →
      (r.isOpen = false → exec (.mclose f) s = .next (s.raiseFrom 2 14 0)) ∧
      (r.isOpen = true → ∃ t c, exec (.mclose f) s = .next t ∧ Commanded s t (.mclose f) c ∧ c.kind = .close ∧
        c.window = r.window ∧ t.windows = s.windows ∧ ∀ w, ownerOf s.cur = some w → (s.getSeq (.worker w)).isSome →
          (t.seqD (.worker w)).w.win.getD k.toNat WindowReg.reset = { r with isOpen := false })) ∧
    ((Instr.mzero f).ready s →
      (r.isOpen = false → exec (.mzero f) s = .next (s.raiseFrom 2 14 0)) ∧
      ∀ win, r.isOpen = true → s.window? r.window = some win → ∃ t c, exec (.mzero f) s = .next t ∧
        Commanded s t (.mzero f) c ∧ c.kind = .zero ∧ c.window = win.id ∧ c.left = win.lines) ∧
    ((Instr.mpred f).ready s →
      (¬(1 ≤ ga.toNat ∧ ga.toNat ≤ 128 ∧ 1 ≤ gb.toNat ∧ gb.toNat ≤ 128) →
        exec (.mpred f) s = .next (s.raiseFrom 2 39 0)) ∧
      (1 ≤ ga.toNat ∧ ga.toNat ≤ 128 ∧ 1 ≤ gb.toNat ∧ gb.toNat ≤ 128 → ∃ t, exec (.mpred f) s = .next t ∧
        MatrixStateIs s t (.mpred f) { s.core.mx with pr := BitVec.ofNat 8 ga.toNat, pc := BitVec.ofNat 8 gb.toNat })) ∧
    ((Instr.mfmt f).ready s →
      let fa := f.imm.extractLsb' 0 4
      let fb := f.imm.extractLsb' 4 4
      let bad (t : Nat) (g : Word) : Prop := 11 ≤ t ∧ g.toNat % 2 = 1
      let formats := 8 ≤ fa.toNat ∧ fa.toNat ≤ 12 ∧ 8 ≤ fb.toNat ∧ fb.toNat ≤ 12 ∧ (fa = 8 ↔ fb = 8)
      (¬formats → exec (.mfmt f) s = .next (s.raiseFrom 2 35 0)) ∧
      (formats → 2 ^ 32 ≤ ga.toNat ∨ 2 ^ 32 ≤ gb.toNat → exec (.mfmt f) s = .next (s.raiseFrom 2 3 0)) ∧
      (formats → ga.toNat < 2 ^ 32 → gb.toNat < 2 ^ 32 →
        (bad fa.toNat ga → exec (.mfmt f) s = .next (s.raiseFrom 2 9 ga)) ∧
        (¬bad fa.toNat ga → bad fb.toNat gb → exec (.mfmt f) s = .next (s.raiseFrom 2 9 gb)) ∧
        (¬bad fa.toNat ga → ¬bad fb.toNat gb → ∃ t, exec (.mfmt f) s = .next t ∧
          MatrixStateIs s t (.mfmt f) { s.core.mx with
            fa := fa, fb := fb, sa := BitVec.ofNat 32 ga.toNat, sb := BitVec.ofNat 32 gb.toNat,
            sca := gc.extractLsb' 0 8, scb := gc.extractLsb' 8 8 }))) ∧
    ∀ strict : Bool, let i := if strict then Instr.mmas f else Instr.mmaf f
      let made (v t : State) (l : List (Leaf × Word × Nat)) : Prop := ∃ c, Commanded s t i c ∧
        c.kind = (if strict then .mmas else .mmaf) ∧ c.window = r.window ∧ c.a = ga ∧ c.b = gb ∧ c.k = gc.toNat ∧
        c.pages = l.map (fun p => p.1.page p.2.1) ∧ t.mem = (v.markAll l false).mem
      i.ready s →
      (r.isOpen = false → exec i s = .next (s.raiseFrom 2 14 0)) ∧
      (r.isOpen = true → r.rows.toNat < s.core.mx.pr.toNat ∨ r.cols.toNat < s.core.mx.pc.toNat ∨ 65536 < gc.toNat →
        exec i s = .next (s.raiseFrom 2 38 0)) ∧
      let plain (l : List (Leaf × Word × Nat)) : Prop := ∀ p ∈ l, (p.1.page p.2.1).ppn < 2 ^ 38
      ∀ l, r.isOpen = true → s.mmaCheck r ga gb gc = .ok l → plain l →
        (∀ w, s.cur = .worker w → ∃ t, exec i s = .next t ∧ made s t l) ∧
        ∀ w h v m, s.cur = .mx w h → s.release s.cur 2 = (v, true) → v.mmaCheck r ga gb gc = .ok m → plain m →
          ∃ t, exec i s = .next t ∧ made v t m

namespace Sys2Proof.Claims

/-- Nothing staged or on its way is for a line. -/
def Quieted (s : State) (la : Nat) : Prop := (∀ m ∈ s.net.msgs, m.pa ≠ la) ∧ ∀ e ∈ s.mem.stage, e.addr ≠ la

/-- The one command with the number of c is c'. -/
def OnlyCmd (s : State) (c c' : MxCmd) : Prop := s.mxCmds.filter (fun x => x.id == c.id) = [c']

/-- Operation n of timeline TLM of sequencer q is complete where it was the next to complete (R41). -/
def TlmDone (s t : State) (q : SeqId) (n : Nat) : Prop :=
  ∀ y, s.getSeq q = some y → y.tlm.count + 1 = n → y.tlm.done = [] →
    ∃ z, t.getSeq q = some z ∧ z.tlm.count = n ∧ z.bank = y.bank

end Sys2Proof.Claims

/-- R268 to R273, R277 to R280, R285: a pin takes a line into its window, with its value or zeroed; MZERO zeroes a
line; a pin or zero completes with its last line; MCLOSE, once what came before it has been applied, makes the
window's lines ordinary dirty lines and completes; the MX starts a waiting product on a free array and consumes its
slices; a partial is added to its line, element by element, each by one f32 addition. What has to be read over a
channel that retrains waits (R449). Where the spec leaves a point open the model’s own reading is log entries 40, 44
and 77. -/
def Obligations.MatrixCommandsAreApplied : Prop :=
  (∀ (s : State) (c : MxCmd) (la : Nat), OnlyCmd s c c → c.accepted = true → c.failed = none → la ∈ c.left →
    s.windowOrder c la = false → Quieted s la → s.uncovered la = false →
    let after (t : State) : Prop :=
      (∀ z ∈ c.left, z = la) ∧ c.follow = none ∧ t.mxCmds = s.mxCmds.filter (fun x => x.id != c.id) ∧
          TlmDone s t c.src c.num ∨
        (∃ z ∈ c.left, z ≠ la) ∧ OnlyCmd t c { c with left := c.left.filter fun z => z != la } ∨ c.follow ≠ none
    let waits : Prop := s.retraining la = true ∧ s.homeCopy la = none
    (waits → c.kind = .openLoad ∨ c.kind = .zero → exec (.windowPin c.id la) s = .next s) ∧
    (∀ w, c.kind = .openLoad ∧ ¬waits ∨ c.kind = .openZero → s.pinPending la = some w →
      ∃ t x, exec (.windowPin c.id la) s = .next t ∧ t.homeCopy la = some x ∧ x.window = some w.id ∧
        x.data = (if w.zero then 0 else lineData s la) ∧ after t) ∧
    (c.kind = .zero → ¬waits → s.pinPending la = none → Sound s la → ∃ t, exec (.windowPin c.id la) s = .next t ∧
      lineData t la = 0 ∧ after t)) ∧
  (∀ (s : State) (c : MxCmd) (w : Window), OnlyCmd s c c → c.kind = .close → c.accepted = true →
    (∀ e ∈ s.mxCmds, e.window = c.window → c.id ≤ e.id) → s.window? c.window = some w → w.bad = [] →
    (∀ x ∈ s.mem.lines, s.uncovered x.addr = false) →
    ∃ t, exec (.mcloseCompletion c.id) s = .next t ∧ t.windows = s.windows.filter (fun x => x.id != w.id) ∧
      t.mxCmds = s.mxCmds.filter (fun x => x.id != c.id) ∧ (∀ x ∈ t.mem.lines, x.window ≠ some w.id) ∧
      t.mem.lines.map (fun x => (x.addr, x.data)) = s.mem.lines.map (fun x => (x.addr, x.data)) ∧
      TlmDone s t c.src c.num) ∧
  (∀ (s : State) (cluster : Nat) (c : MxCmd), s.takeable cluster = [c] → OnlyCmd s c c →
    (∃ a, a < 4 ∧ s.arrayFree cluster a = true) →
    ∃ t a, exec (.mxCommandStart cluster) s = .next t ∧ a < 4 ∧ s.arrayFree cluster a = true ∧
      OnlyCmd t c { c with started := true, array := a }) ∧
  (∀ (s u : State) (cluster a : Nat) (c d : MxCmd), OnlyCmd s c c →
    s.mxCmds.find? (fun x => x.cluster == cluster && x.started && !x.sent && x.array == a) = some c →
    s.sliceWaits c = false → s.readSlice c = (u, d) →
    (32 * (c.slices.length + 1) < c.k → exec (.kSlice cluster a false) s = .next u ∧
      ∃ sl, OnlyCmd u c d ∧ d.slices = c.slices ++ [sl]) ∧
    ∀ w, c.k ≤ 32 * (c.slices.length + 1) → u.window? c.window = some w → d.failed = none → ∃ t pick,
      exec (.kSlice cluster a false) s = .next t ∧ OnlyCmd t c { d with sent := true } ∧
      ∃ l, t.net.msgs = u.net.msgs ++ l ∧ l.map (fun m => (m.pa, m.dest, m.body)) = (d.targets w).map fun p =>
        (p.2.2, u.homeOf p.2.2, .mxPartial c.id ((List.range (min 16 (d.st.pc.toNat - 16 * p.2.1))).map fun j =>
          BitVec.ofNat 32 (d.partialAt pick p.1 (16 * p.2.1 + j))))) ∧
  ∀ (s : State) (m : Nat) (x : Msg) (c : MxCmd) (vals : List (BitVec 32)), s.msg? m = some x → x.hops = [] →
    x.reply = none → x.tag = none → x.body = .mxPartial c.id vals → s.cmd? c.id = some c →
    s.partialReady c x.pa = true → c.failed = none → vals ≠ [] → vals.length ≤ 16 → x.pa % 64 = 0 → Sound s x.pa →
    s.uncovered x.pa = false →
    (∀ y ∈ s.net.msgs, y.id ≠ m → y.pa ≠ x.pa) → (∀ e ∈ s.mem.stage, e.addr ≠ x.pa) →
    ∃ t, exec (.partialApplication m false) s = .next t ∧ t.net.msgs = s.net.msgs.filter (fun y => y.id != m) ∧
      (∀ k, k < 16 → (lineData t x.pa).extractLsb' (32 * k) 32 =
        (let old := (lineData s x.pa).extractLsb' (32 * k) 32
         if k < vals.length then
           BitVec.ofNat 32 (faddV 13 0 (fdecode 13 old.toNat) (fdecode 13 (vals.getD k 0).toNat)).1
         else old)) ∧
      ∀ r ∈ t.mem.resv, ∀ k, k < 8 → r.word ≠ x.pa + 8 * k

/-! ## The copy engine -/

namespace Sys2Proof.Claims

/-- A copy instruction without a follow-on: its fields, its kind, and whether it is 2-D, names gp or gf, and is CPY.mig
(R398). -/
def copyParts (i : Instr) : Option (FTR × CpKind × Bool × Bool × Bool) :=
  match i with
  | .cpy f => some (f, .copy, false, false, false)
  | .cpy2d f => some (f, .copy, true, true, false)
  | .cpyMig f => some (f, .copy, false, false, true)
  | .wsigNum f => some (f, .wsigNum, false, true, false)
  | .wsigAdd f => some (f, .wsigAdd, false, true, false)
  | .cfill f => some (f, .fill, false, false, false)
  | _ => none

/-- The first check of R399 that the operands break, if any: the condition and EADDR. -/
def copyBreaks (s : State) (f : FTR) (kind : CpKind) (block named mig : Bool) : Option (Nat × Word) :=
  let gp := s.g (f.imm.extractLsb' 0 5)
  let gc := s.g f.gc
  let reserved := (f.imm.getLsbD 8 = true ∧ (mig = false ∨ f.imm.getLsbD 7 = true ∨ f.imm.getLsbD 6 = true)) ∨
    (named = false ∧ f.imm.extractLsb' 0 6 ≠ 0)
  if reserved then some (3, 0)
  else if mig = true ∧ s.curCtx ≠ 0 then some (5, 0)
  else if (block = true ∧ 2 ^ 48 ≤ gc.toNat) ∨ (block = false ∧ 2 ^ 40 < gc.toNat) then some (3, 0)
  else if (kind = .wsigNum ∨ kind = .wsigAdd) ∧ gp.toNat % 8 ≠ 0 then some (9, gp)
  else if mig = true ∧ migRangeOk (s.g f.ga).toNat gc.toNat = false then some (9, s.g f.ga)
  else if mig = true ∧ migRangeOk (s.g f.gb).toNat gc.toNat = false then some (9, s.g f.gb)
  else if mig = true ∧ gc.toNat % 4096 ≠ 0 then some (9, gc)
  else none

/-- The command that a copy instruction of the current sequencer makes (R396, R398): its number on TLC, what it
captured, and its geometry. -/
def CopyMade (s t : State) (f : FTR) (kind : CpKind) (block mig : Bool) (c : CpCmd) : Prop :=
  let gp := (s.g (f.imm.extractLsb' 0 5)).toNat
  let gc := (s.g f.gc).toNat
  t.cpCmds = s.cpCmds ++ [c] ∧ c.block = block ∧ c.src = s.cur ∧ c.num = s.core.tlc.issued + 1 ∧ c.kind = kind ∧ c.dst = s.g f.ga ∧
  c.source = s.g f.gb ∧ c.rows = (if block then gc / 2 ^ 32 % 2 ^ 16 + 1 else 1) ∧
  c.width = (if block then gc % 2 ^ 32 else gc) ∧ c.dpitch = (if block then gp % 2 ^ 32 else 0) ∧
  c.spitch = (if block then gp / 2 ^ 32 else 0) ∧ c.ssp = f.imm.getLsbD 7 ∧ c.dsp = f.imm.getLsbD 6 ∧ c.mig = mig ∧
  c.flag = s.g (f.imm.extractLsb' 0 5) ∧ c.moved = 0 ∧ c.chunk = 0 ∧ c.copied = false ∧ c.handed = false ∧
  t.core.tlc.issued = s.core.tlc.issued + 1 ∧
  (hReg f.h ≠ 0 → t.g (hReg f.h) = BitVec.ofNat 64 (s.core.tlc.issued + 1))

end Sys2Proof.Claims

/-- R396, R398, R399, R404: a copy instruction makes its checks with source CE, releases at die scope, and makes a
command, whose number it returns; with eight commands of its context not complete it stalls, which is no ply boundary.
CPYM and CPYM.2d make a second command of the MMAS, MMAF or MZERO that follows, once its own checks, with source MX,
pass too, and go on after it. Where the spec leaves a point open the model’s own reading is log entries 55, 82 and 99.
The address 0 (EADDR) of its traps, for which no rule gives one, is the model’s choice (DESIGN CHOICE, log entry 82).
-/
def Obligations.CopyCommandsAreMade : Prop :=
  (∀ (i : Instr) (f : FTR) (kind : CpKind) (block named mig : Bool) (s : State),
    copyParts i = some (f, kind, block, named, mig) → i.ready s →
    (∀ cond eaddr, copyBreaks s f kind block named mig = some (cond, eaddr) →
      exec i s = .next (s.raiseFrom 3 cond eaddr)) ∧
    (copyBreaks s f kind block named mig = none → 8 ≤ (s.cpCmds.filter fun c => c.src == s.cur).length →
      exec i s = .next { s with core := { s.core with ply := false } }) ∧
    ∀ u, copyBreaks s f kind block named mig = none → s.ordering s.cur = false →
      (s.cpCmds.filter fun c => c.src == s.cur).length < 8 → s.release s.cur 2 = (u, true) →
      ∃ t c, exec i s = .next t ∧ CopyMade s t f kind block mig c ∧ c.follow = none ∧ t.mem = u.mem ∧
        t.core.pc = following s.core.heads s.core.pc) ∧
  (∀ (s : State) (l : LineBits) (j : Instr),
    let slot := s.core.pc.toNat % 64
    s.core.line = some (lineAddr s.core.pc, l) → LineBits.legal l = true → slot < LineBits.heads l →
    decodeSlot .ce l (slot + 1) = some j → (∃ g, j = .mmas g ∨ j = .mmaf g ∨ j = .mzero g) → j.reservedOk = true →
    s.followOn = .ok (s, j, l, following (LineBits.heads l) (s.core.pc + 1))) ∧
  ∀ (f : FTR) (block : Bool) (s : State),
    let i := if block then Instr.cpym2d f else Instr.cpym f
    i.ready s →
    (∀ cond eaddr, copyBreaks s f .copyM block block false = some (cond, eaddr) →
      exec i s = .next (s.raiseFrom 3 cond eaddr)) ∧
    ∀ v j l pc, copyBreaks s f .copyM block block false = none → s.followOn = .ok (v, j, l, pc) →
      let many := (v.cpCmds.filter fun c => c.src == v.cur).length
      (v.operandsWait j = true → exec i s = .next v) ∧
      (v.operandsWait j = false → (∃ r ∈ j.operands.gs, v.core.bank.isEmpty r.1 = true) → exec i s = .next (v.raise 6 0)) ∧
      (v.operandsWait j = false → (∀ r ∈ j.operands.gs, v.core.bank.isEmpty r.1 = false) → markOf j.operands v.core = none →
        (∀ g, j = .mmas g ∨ j = .mmaf g ∨ j = .mzero g →
          let r := v.winReg (hMask g.h)
          (r.isOpen = false → exec i s = .next (v.raiseFrom 2 14 0)) ∧
          ∀ e, j ≠ .mzero g → r.isOpen = true → v.mmaCheck r (v.g g.ga) (v.g g.gb) (v.g g.gc) = .error e →
            exec i s = .next (v.raiseAcc 2 e)) ∧
        ∀ x, v.prepareFollow j 0 = .ok x → (∀ p ∈ x.2.pages, p.ppn < 2 ^ 38) →
          (8 ≤ many → exec i s = .next { v with core := { v.core with ply := false } }) ∧
      ∀ u m, many < 8 → v.ordering v.cur = false → v.release v.cur 2 = (u, true) →
      State.prepareFollow { u with nextId := u.nextId + 1 } j u.nextId = .ok m →
      ∃ t c, exec i s = .next t ∧ CopyMade s t f .copyM block false c ∧ c.follow = some m.2.id ∧
        t.mxCmds = s.mxCmds ++ [m.2] ∧ m.2.follow = some c.id ∧ m.2.accepted = false ∧ t.core.pc = pc ∧
        t.core.line = some (lineAddr (following s.core.heads s.core.pc), l))

namespace Sys2Proof.Claims

/-- The one copy command with the number of c is c'. -/
def OnlyCopy (s : State) (c c' : CpCmd) : Prop := s.cpCmds.filter (fun x => x.id == c.id) = [c']

/-- Copy command c has completed (R402): it is gone, and TLC counts it where it was the next. -/
def CopyEnded (s t : State) (c : CpCmd) : Prop :=
  t.cpCmds = s.cpCmds.filter (fun x => x.id != c.id) ∧
  ∀ y, s.getSeq c.src = some y → y.tlc.count + 1 = c.num → y.tlc.done = [] →
    ∃ z, t.getSeq c.src = some z ∧ z.tlc.count = c.num ∧ z.tlc.poison = y.tlc.poison

/-- A chunk of n bytes of c has been moved (R397, R402), and every write of it has been acknowledged: c goes on, has
nothing left to move, or is complete. -/
def Moves (s t : State) (c : CpCmd) (n : Nat) : Prop :=
  let went : CpCmd := { c with moved := c.moved + n, chunk := if n = 0 then c.chunk else c.next.off }
  (c.moved + n < c.total → OnlyCopy t c { went with copied := false }) ∧
  (c.total ≤ c.moved + n → c.kind = .copy ∨ c.kind = .fill → CopyEnded s t c) ∧
  (c.total ≤ c.moved + n → c.kind ≠ .copy → c.kind ≠ .fill → OnlyCopy t c { went with copied := true })

/-- The lines of these stretches need not be read over a channel that retrains (R449). -/
def AtHand (s : State) (l : List (Nat × Nat)) : Prop :=
  ∀ p ∈ l, s.retraining (lineOf p.1) = true → (s.homeCopy (lineOf p.1)).isSome

/-- One message of a copy command's context has left for the home slice of an address of another die (R401, R413). -/
def CopySends (s t : State) (q : SeqId) (pa : Nat) (va : Word) (len : Nat) (body : Body) : Prop :=
  t.net.msgs = s.net.msgs ++ [{
    id := s.nextId, src := q, path := s.copyPath q, ctx := some ((s.seqD q).ctxOn q), rel := none,
    pa := pa, va := va, len := len, body := body,
    hops := s.route (s.dieOf q) (s.homeDie pa), dest := s.homeOf pa, tag := none, floor := 0, reply := none }]

end Sys2Proof.Claims

/-- R397: a chunk lies in one page of its destination and, but for a fill, in one of its source, and is a part of what
its command moves. -/
def Sys2Proof.Claims.ChunksStayInOnePage : Prop :=
  ∀ c : CpCmd, c.moved < c.total → (c.block = false → c.rows = 1) →
    let k := c.next
    0 < k.n ∧ k.off + k.n ≤ c.total ∧ k.d.toNat % 4096 + k.n ≤ 4096 ∧
    (c.kind ≠ .fill → k.s.toNat % 4096 + k.n ≤ 4096) ∧
    (c.descends = false → k.off = c.moved) ∧ (c.descends = true → k.off + k.n + c.moved = c.total)

/-- R397, R400 to R406, R408: a chunk is checked, read and written, and its command ends after the last; a chunk that
fails a check ends its command as failed, its follow-on with it; what goes to another die goes as a transaction, and
the command waits for it; a signal follows a release at system scope; a follow-on is handed to the MX once its copy is
done. -/
def Sys2Proof.Claims.CopyCommandsAreExecuted : Prop :=
  (∀ (s : State) (cluster : Nat) (c : CpCmd), s.copiesOn cluster = [c] → OnlyCopy s c c → c.copied = false →
    let k := c.next
    let chunk := Instr.chunk cluster false
    let v := s.takeFree.2
    let here (l : List (Nat × Nat)) : Prop := ∀ p ∈ l, s.homeDie (lineOf p.1) = s.dieOf c.src
    (s.copyWrites c.src = true → exec chunk s = .next v) ∧
    (s.copyWrites c.src = false → c.total ≤ c.moved → ∃ t, exec chunk s = .next t ∧ Moves s t c 0 ∧ t.mem = s.mem) ∧
    (∀ src dst, s.copyWrites c.src = false → c.moved < c.total → c.mig = false → v.chunkCheck c k = .ok (src, dst) →
      reachesDevice src = false → reachesDevice dst = false → ¬AtHand s (linesFrom src ++ linesFrom dst) →
      exec chunk s = .next v) ∧
    (∀ src dst, s.copyWrites c.src = false → c.moved < c.total → c.mig = false → v.chunkCheck c k = .ok (src, dst) →
      reachesDevice src = false → reachesDevice dst = false → AtHand s (linesFrom src ++ linesFrom dst) →
      (c.dsp = false → here (linesFrom dst)) → ∃ t, exec chunk s = .next t ∧ Moves s t c k.n ∧
      let u := (v.markAll src false).markAll dst true
      ∀ d, c.dsp = false → linesFrom dst = [(d, k.n)] → d % 64 + k.n ≤ 64 → Quieted u (lineOf d) →
        u.uncovered (lineOf d) = false →
        (c.kind = .fill → ∀ j, j < k.n → (lineData t (lineOf d)).extractLsb' (8 * (d % 64 + j)) 8 =
          c.source.extractLsb' (8 * ((k.off + j) % 8)) 8) ∧
        (∀ p, c.kind ≠ .fill → c.ssp = false → linesFrom src = [(p, k.n)] → p % 64 + k.n ≤ 64 →
          Quieted u (lineOf p) → u.pinPending (lineOf p) = none → Sound u (lineOf p) →
          ∀ j, j < k.n → (lineData t (lineOf d)).extractLsb' (8 * (d % 64 + j)) 8 =
            (lineData u (lineOf p)).extractLsb' (8 * (p % 64 + j)) 8)) ∧
    (∀ dst d, s.copyWrites c.src = false → c.moved < c.total → c.kind = .fill → c.mig = false → c.dsp = false →
      v.chunkCheck c k = .ok ([], dst) → reachesDevice dst = false → AtHand s (linesFrom dst) →
      linesFrom dst = [(d, k.n)] → d % 64 + k.n ≤ 64 → s.homeDie (lineOf d) ≠ s.dieOf c.src →
      ∃ t data mask, exec chunk s = .next t ∧ OnlyCopy t c { c with moved := c.moved + k.n, chunk := k.off, copied := false } ∧
        CopySends (v.markAll dst true) t c.src (lineOf d) k.d 64 (.publish data mask [] false false) ∧
        ∀ j, j < 64 → (mask.extractLsb' (8 * j) 8 = if d % 64 ≤ j ∧ j < d % 64 + k.n then 255#8 else 0#8) ∧
          (d % 64 ≤ j → j < d % 64 + k.n →
            data.extractLsb' (8 * j) 8 = c.source.extractLsb' (8 * ((k.off + (j - d % 64)) % 8)) 8)) ∧
    (∀ e, s.copyWrites c.src = false → c.moved < c.total → c.mig = false → v.chunkCheck c k = .error e →
      ∃ t, exec chunk s = .next t ∧
      t.cpCmds = s.cpCmds.filter (fun x => x.id != c.id) ∧
      (∀ i, c.follow = some i → t.mxCmds = s.mxCmds.filter fun x => x.id != i) ∧
      ∀ y, s.getSeq c.src = some y → y.tlc.poison = none → ∃ z, t.getSeq c.src = some z ∧ z.tlc.poison = some c.num) ∧
    (s.copyWrites c.src = false → c.moved < c.total → c.mig = true →
      AtHand s (chunksOf k.s.toNat k.n ++ chunksOf k.d.toNat k.n) → (∀ p ∈ chunksOf k.s.toNat k.n ++ chunksOf k.d.toNat k.n,
        p.1 < 2 ^ 50 ∧ s.lineLost p.1 = false ∧ s.uncovered (lineOf p.1) = false) →
      (∀ b ∈ (v.readLive (chunksOf k.s.toNat k.n)).2, b.2 = false) → here (chunksOf k.d.toNat k.n) →
      ∃ t, exec chunk s = .next t ∧ Moves s t c k.n ∧ t.mem.fills = s.mem.fills)) ∧
  (∀ (s u : State) (q : SeqId) (c : CpCmd) (l : List (Leaf × Word × Nat)) (pa n : Nat) (kind : PageKind)
      (rest : List (Nat × PageKind × Nat)), s.copyOf q = some c → OnlyCopy s c c →
    c.kind = .wsigNum ∨ c.kind = .wsigAdd → c.copied = true → s.copyWrites q = false → c.handed = false →
    s.release q 4 = (u, true) →
    u.checkAccess (u.accessor q) ⟨false, true, false, 2, false⟩ c.flag 8 = .ok l → reachesDevice l = false →
    piecesOf l = (pa, kind, n) :: rest → pa % 8 = 0 →
    (s.homeDie pa ≠ s.dieOf q → ∃ t op, exec (.signal q) s = .next t ∧ OnlyCopy t c { c with handed := true } ∧
      CopySends (u.markAll l true) t q pa c.flag 8 (.access op .shared .none none) ∧
      (c.kind = .wsigAdd → op = .amo .add 8 1) ∧
      (c.kind = .wsigNum → ∃ data mask, op = .store data mask ∧
        data.extractLsb' (8 * (pa % 64)) 64 = BitVec.ofNat 64 c.num ∧
        ∀ j, j < 512 → mask.getLsbD j = decide (8 * (pa % 64) ≤ j ∧ j < 8 * (pa % 64) + 64))) ∧
    (s.homeDie pa = s.dieOf q → Quieted (u.markAll l true) (lineOf pa) →
      (u.markAll l true).pinPending (lineOf pa) = none → s.uncovered (lineOf pa) = false →
    ∃ t, exec (.signal q) s = .next t ∧ CopyEnded s t c ∧
      (lineData t (lineOf pa)).extractLsb' (8 * (pa % 64)) 64 =
        (if c.kind = .wsigNum then BitVec.ofNat 64 c.num
         else (lineData (u.markAll l true) (lineOf pa)).extractLsb' (8 * (pa % 64)) 64 + 1))) ∧
  (∀ (s : State) (q : SeqId) (c : CpCmd), s.copyOf q = some c → OnlyCopy s c c → c.kind = .wsigNum ∨ c.kind = .wsigAdd →
    c.copied = true → s.copyWrites q = false → c.handed = true →
    ∃ t, exec (.signal q) s = .next t ∧ CopyEnded s t c) ∧
  ∀ (s : State) (q : SeqId) (c : CpCmd) (d : MxCmd), s.copyOf q = some c → OnlyCopy s c c → c.follow = some d.id →
    c.copied = true → c.handed = false → OnlyCmd s d d → d.kind = .zero ∧ d.left ≠ [] ∨ d.kind = .mmas ∧ d.k ≠ 0 ∨
      d.kind = .mmaf ∧ d.k ≠ 0 →
    ∃ t, exec (.followOn q) s = .next t ∧ OnlyCopy t c { c with handed := true } ∧
      OnlyCmd t d { d with accepted := true } ∧ t.mem = s.mem

/-! ## Links between dies -/

namespace Sys2Proof.Claims

/-- A post with source MEM of a condition, a context and a slot waits for the kernel fault queue (R437, R438); where the
spec gives EADDR, it is that. -/
def Posts (s t : State) (cond ctx slot : Nat) (eaddr : Option Word) : Prop :=
  ∃ p, t.kfqWaiting = s.kfqWaiting ++ [p] ∧ p.cause = BitVec.ofNat 9 (5 * 64 + cond) ∧ p.ctx = ctx ∧ p.slot = slot ∧
    p.direct = true ∧ p.nested = false ∧ p.frame = 0 ∧ ∀ e, eaddr = some e → p.eaddr = e

/-- How far a flit's number lies behind the one expected, modulo 4,096. -/
def behind (seq expected : Nat) : Nat := (expected + 4096 - seq) % 4096

/-- The link after a flit is lost at a moment of its receiver's die: one NAK for each loss (R411). -/
def lost (l : Link) (now : Nat) : Link :=
  if l.recovery then l
  else { l with ackDue := some (false, (l.expected + 4095) % 4096), recovery := true, timer := now + 4000 }

/-- TIME of the die that receives a link's flits. -/
def receiverTime (s : State) (k : Nat) : Nat := (s.die (hopEnd (linkPair k))).time.toNat

/-- What the sender at the receiver's die does with the CREDIT and ACK fields of flit f (R410, R411): an ACK frees the
flits it covers, and a NAK has the others sent again in order, which is a replay. -/
def FieldsUsed (b b' : Link) (f : Flit) (now : Word) : Prop :=
  let c := { b with freed := b.freed + f.credit }
  let above (n : Nat) : List Flit := b.buffer.filter fun g => !decide (behind g.seq n ≤ 512)
  (f.ack = none → b' = c) ∧
  (∀ n, f.ack = some (true, n) → b' = { c with buffer := above n }) ∧
  ∀ n, f.ack = some (false, n) →
    b' = { c with buffer := above n, wire := b.wire ++ above n, lastReplay := now, replays := b.replays ++ [now] }

/-- The flit that link k carries next, with what the die owes the other direction (R411): the first of those sent again,
else the one that the sender forms. Taking it leads to u. -/
def Carries (s : State) (k : Nat) (form : FlitForm) (u : State) (f : Flit) : Prop := s.nextFlit k form = (u, f)

end Sys2Proof.Claims

/-- R410: where a flit's header holds its fields, and what its receiver reads of them. Noise of one bit anywhere in
the 256 bytes, a CRC that does not match and a reserved value have the flit lost; with no noise it is not. -/
def Sys2Proof.Claims.FlitsHoldTheirFields : Prop :=
  (∀ f : Flit, f.seq < 4096 → f.type < 16 → f.credit < 65536 → (∀ a n, f.ack = some (a, n) → n < 4096) →
    let h := f.header
    (h.extractLsb' 0 12).toNat = f.seq ∧ (h.extractLsb' 12 4).toNat = f.type ∧ (h.extractLsb' 32 16).toNat = f.credit ∧
    h.extractLsb' 48 48 = 0 ∧
    (h.extractLsb' 28 4).toNat = (match f.ack with
      | none => 0
      | some (true, _) => 1
      | some (false, _) => 2) ∧
    (∀ a n, f.ack = some (a, n) → (h.extractLsb' 16 12).toNat = n) ∧ f.withHeader h = f) ∧
  (∀ h : BitVec 96, reservedHeader h = true ↔
    h.extractLsb' 48 48 ≠ 0 ∨ 3 ≤ (h.extractLsb' 28 4).toNat ∨ 5 ≤ (h.extractLsb' 12 4).toNat) ∧
  ∀ f : Flit, (flitLost f 0 = false ∧ f.received 0 = f) ∧
    (∀ k, k < 2048 → flitLost f (BitVec.twoPow 2048 k) = true) ∧
    (∀ noise, crcFails noise = true → flitLost f noise = true) ∧
    ∀ noise, noise ≠ 0 → reservedHeader (f.header ^^^ noise.setWidth 96) = true → flitLost f noise = true

/-- R411: what a receiver does with the flit that is next on a link that is up. A lost flit, or one that lies ahead of
the one expected, has it send a NAK; a duplicate is discarded; the one expected is accepted, its records have crossed
the pair, it is acknowledged and its buffer entry is reported freed; an idle flit has its fields used only, as an
accepted one has. -/
def Sys2Proof.Claims.FlitsAreReceived : Prop :=
  ∀ (s u : State) (k : Nat) (form : FlitForm) (noise : BitVec 2048) (f0 : Flit),
    let f := f0.received noise
    let l := u.link k
    let b := u.link (linkBack k)
    let now := (s.die (hopEnd (linkPair k))).time
    s.linkUp k = true → Carries s k form u f0 → f.seq < 4096 → l.expected < 4096 → (∀ g ∈ b.buffer, g.seq < 4096) →
    (∀ n, f.ack = some (false, n) →
      ((b.replays ++ l.replays).filter fun t => decide (now.toNat < t.toNat + 1000000)).length < 7) →
    ∃ t, exec (.flit k ⟨form, noise⟩) s = .next t ∧ (∀ j, j ≠ k → j ≠ linkBack k → t.link j = s.link j) ∧
      (flitLost f0 noise = true ∨ (f.type ≠ 0 ∧ f.seq ≠ l.expected ∧ 512 < behind f.seq l.expected) →
        t.link k = lost l now.toNat ∧ t.link (linkBack k) = b ∧ t.net = u.net) ∧
      (flitLost f0 noise = false →
        (f.type ≠ 0 → f.seq ≠ l.expected → behind f.seq l.expected ≤ 512 →
          t.link k = l ∧ t.link (linkBack k) = b ∧ t.net = u.net) ∧
        (f.type ≠ 0 → f.seq = l.expected →
          t.link k = { l with expected := (l.expected + 1) % 4096, recovery := false, ackDue := some (true, f.seq),
                              credit := l.credit + 1 } ∧
          FieldsUsed b (t.link (linkBack k)) f now ∧
          t.net.msgs = u.net.msgs.map (fun m =>
            if f.msgs.contains m.id && m.hops.head? == some (linkPair k) then { m with hops := m.hops.drop 1 } else m)) ∧
        (f.type = 0 → t.link k = l ∧ FieldsUsed b (t.link (linkBack k)) f now ∧ t.net = u.net))

/-- R411, R413: the flit a link carries next: one that is sent again, with the ACK and CREDIT of the moment; else one
that its sender forms. A flit of records takes the ready ones of its pair, requests or responses, oldest first and up
to a number, or fewer where no more are ready; it takes the next number and stays in the replay buffer of 512 flits
until it is acknowledged. Where nothing is ready, or the buffer is full, the flit is idle. -/
def Sys2Proof.Claims.FlitsAreFormed : Prop :=
  (∀ (s : State) (k : Nat) (form : FlitForm) (f : Flit) (rest : List Flit), (s.link k).wire = f :: rest → k < 48 →
    let b := s.link (linkBack k)
    ∃ u, Carries s k form u { f with ack := b.ackDue, credit := b.credit } ∧
      u.link k = { s.link k with wire := rest } ∧ u.link (linkBack k) = { b with ackDue := none, credit := 0 } ∧
      u.net = s.net) ∧
  ∀ (s : State) (k : Nat) (form : FlitForm), (s.link k).wire = [] → k < 48 →
    let l := s.link k
    let b := s.link (linkBack k)
    let ready := s.readyRecord (linkPair k) none []
    let kept (u : State) (f : Flit) : Prop :=
      u.link k = { l with next := (l.next + 1) % 4096, buffer := l.buffer ++ [f] }
    ∃ u f, Carries s k form u f ∧ f.ack = b.ackDue ∧ f.credit = b.credit ∧
      u.link (linkBack k) = { b with ackDue := none, credit := 0 } ∧
      (512 ≤ l.buffer.length ∨ form = .idle ∨ (∃ n, form = .records n ∧ (n = 0 ∨ ready = none)) →
        f.seq = 0 ∧ f.type = 0 ∧ f.msgs = [] ∧ u.link k = l ∧ u.net = s.net) ∧
      (l.buffer.length < 512 → form = .control →
        f.seq = l.next ∧ f.type = 4 ∧ f.msgs = [] ∧ kept u f ∧ u.net = s.net) ∧
      ∀ n m, l.buffer.length < 512 → form = .records n → 0 < n → ready = some m →
        f.seq = l.next ∧ f.type = m.flitType ∧ f.msgs.head? = some m.id ∧ f.msgs.length ≤ n ∧ kept u f ∧
        (∀ i ∈ f.msgs, ∃ x ∈ s.net.msgs, x.id = i ∧ x.waitsOn (linkPair k) = true ∧ x.flitType = m.flitType) ∧
        (f.msgs.length < n → u.readyRecord (linkPair k) (some m.flitType) [] = none)

/-- R411: while a receiver is in recovery, its timer has it send the NAK again every 4 µs. -/
def Sys2Proof.Claims.LostFlitsAreAskedForAgain : Prop :=
  ∀ (s : State) (k : Nat), s.linkUp k = true → (s.link k).recovery = true →
    ∃ t, exec (.recoveryTimer k) s = .next t ∧
      t.link k = if (s.link k).timer ≤ receiverTime s k then
        { s.link k with ackDue := some (false, ((s.link k).expected + 4095) % 4096), timer := receiverTime s k + 4000 }
      else s.link k

/-- R412, R417: at the eighth replay within 1 ms a module retrains at x32. A retrained module starts its sequences
afresh; one that fails at x64 goes on at x32, one that fails at x32 is down, and with the last module of a pair the pair
is lost and LINK-DOWN is posted. A degraded module tries x64 again after 60 s without a replay. -/
def Sys2Proof.Claims.ModulesRetrain : Prop :=
  (∀ (s : State) (k : Nat) (now : Word), k < 48 →
    let n := (((s.link k).replays ++ (s.link (linkBack k)).replays).filter fun t =>
      decide (now.toNat < t.toNat + 1000000)).length
    (n < 7 → ((s.countReplay k now).link k).training = (s.link k).training ∧
      ((s.countReplay k now).link k).replays = (s.link k).replays ++ [now]) ∧
    (7 ≤ n → ∀ j, j = k ∨ j = linkBack k →
      let x := (s.countReplay k now).link j
      x.training = true ∧ x.narrow = true ∧ x.buffer = [] ∧ x.wire = [] ∧ x.recovery = false)) ∧
  (∀ (s : State) (k : Nat), k < 48 → (s.link k).training = true →
    (∃ t, exec (.retrainCompletion k true) s = .next t ∧ ∀ j, j = k ∨ j = linkBack k →
      (t.link j).next = 0 ∧ (t.link j).expected = 0 ∧ (t.link j).buffer = [] ∧ (t.link j).training = false ∧
        (t.link j).recovery = false ∧ (t.link j).narrow = (s.link j).narrow) ∧
    ((s.link k).narrow = false →
      ∃ t, exec (.retrainCompletion k false) s = .next t ∧ (t.link k).narrow = true ∧ (t.link k).training = true) ∧
    ((s.link k).narrow = true → ∃ t, exec (.retrainCompletion k false) s = .next t ∧ (t.link k).down = true ∧
      (t.link (linkBack k)).down = true)) ∧
  (∀ (s : State) (k : Nat), k < 48 → (s.link k).training = true → (s.link k).narrow = true →
    (∀ j ∈ pairLinks (linkPair k), j ≠ k → (s.link j).down = true) → s.lost.contains (linkPair k / 2) = false →
    ∃ t, exec (.retrainCompletion k false) s = .next t ∧ t.lost = linkPair k / 2 :: s.lost ∧
      ∃ u, Posts s u 29 0 0 none ∧ u.kfqWaiting <+: t.kfqWaiting) ∧
  ∀ (s : State) (k : Nat), s.linkUp k = true → (s.link k).narrow = true → (s.link k).stuck = false →
    ∃ t, exec (.widthRetry k) s = .next t ∧
      (Nat.max (s.link k).lastReplay.toNat (s.link (linkBack k)).lastReplay.toNat + 60000000000 ≤ receiverTime s k →
        (t.link k).training = true ∧ (t.link k).narrow = false) ∧
      (receiverTime s k < Nat.max (s.link k).lastReplay.toNat (s.link (linkBack k)).lastReplay.toNat + 60000000000 →
        t = s)

namespace Sys2Proof.Claims

/-- The entries of the filter that the floor of a request does not free (R414). -/
def filterLeft (s : State) (m : Msg) : List FilterEntry :=
  s.net.filter.filter fun f =>
    !(f.origin == m.origin && f.dest == m.dest && decide (1 ≤ ahead 65536 f.tag m.floor) &&
      decide (ahead 65536 f.tag m.floor ≤ 32768))

/-- Request m with tag t has been applied: the filter keeps its result, and the answer is on its way back to the origin
(R414). -/
def Answered (s u : State) (m : Msg) (t : Nat) (result : Word) : Prop :=
  u.net.filter = filterLeft s m ++ [{ origin := m.origin, dest := m.dest, tag := t, result := result, poison := none }] ∧
  ∃ l r, u.net.msgs = l ++ { m with reply := some (result, none), hops := s.route m.destDie m.origin } :: r ∧
    ∀ y ∈ l, y.id ≠ m.id

end Sys2Proof.Claims

/-- R413, R414: a tagged request at its destination frees the filter's entries that its floor has passed; where the
filter holds its tag it is answered with the stored result and not applied again. Else it waits while it cannot be
taken, and then is applied once: a store changes its line, an AMO reads and changes its word, a sync operation changes
its register, and the filter keeps the result under the tag. A response that reaches its origin frees the tag and
gives its result. -/
def Obligations.TransactionsApplyOnce : Prop :=
  (∀ (s : State) (id t : Nat) (m : Msg), s.msg? id = some m → m.tag = some t → m.hops = [] → m.reply = none →
    let free := filterLeft s m
    let s1 : State := { s with net := { s.net with filter := free } }
    let held := free.find? fun f => f.origin == m.origin && f.dest == m.dest && f.tag == t
    let la := lineOf m.pa
    let off := m.pa % 64
    let ready := s.atHome m = true ∧ s.toCheck m = [] ∧ Sound s la ∧ s.uncovered la = false
    (∀ f, held = some f →
      let back : Msg := { m with reply := some (f.result, f.poison), hops := s.route m.destDie m.origin }
      ∃ u, exec (.transactionRequest id) s = .next u ∧ u.syncHome = s.syncHome ∧ back ∈ u.net.msgs ∧
        (∀ y ∈ free, y ∈ u.net.filter) ∧
        ((∀ c v, m.body ≠ .mxPartial c v) → (∀ i op v gd g pc, m.body ≠ .sync i op v gd g pc) → u.mem = s.mem ∧
          u.net.filter = free ∧ u.net.msgs = s.net.msgs.map fun y => if y.id == id then back else y)) ∧
    (held = none → exec (.transactionRequest id) s = .next ((s1.applyOnce m).getD s)) ∧
    (∀ op kind dest acq, held = none → m.body = .access op kind dest acq → kind = .shared ∨ kind = .inplace →
      (s.atHome m = false → exec (.transactionRequest id) s = .next s) ∧
      (∀ d k, ready → op = .store d k → ∃ u, exec (.transactionRequest id) s = .next u ∧ Answered s u m t 0 ∧
        lineData u la = (lineData s la &&& ~~~k) ||| (d &&& k)) ∧
      ∀ o n v, ready → op = .amo o n v → n = 4 ∨ n = 8 →
        let old := ((lineData s la).extractLsb' (8 * off) (8 * n)).toNat
        ∃ u d k, exec (.transactionRequest id) s = .next u ∧ Answered s u m t (BitVec.ofNat 64 old) ∧
          InLine off n (BitVec.ofNat 64 (amoNew o n old v.toNat)) d k ∧
          lineData u la = (lineData s la &&& ~~~k) ||| (d &&& k)) ∧
    ∀ i op v gd pc, held = none → m.body = .sync i op v gd none pc →
      (s.syncArrived m i = false → exec (.transactionRequest id) s = .next s) ∧
      (s.syncArrived m i = true → op ≠ 2 → ∃ u, exec (.transactionRequest id) s = .next u ∧ Answered s u m t 0 ∧
        u.mem = s.mem ∧ u.syncValue i = (if op = 0 then s.syncValue i ||| 1 else if op = 1 then s.syncValue i + v else v) ∧
        ∀ j, j ≠ i → u.syncValue j = s.syncValue j)) ∧
  (∀ (s : State) (id t : Nat) (m : Msg) (v : Word) (p : Option Bool), s.msg? id = some m → m.tag = some t →
    m.hops = [] → m.reply = some (v, p) →
    ∃ u, exec (.transactionResponse id) s = .next u ∧
      (∀ y, y ∈ u.net.tags ↔ y ∈ s.net.tags ∧ y ≠ (m.origin, m.dest, t)) ∧ (id < s.nextId → u.msg? id = none) ∧
      ∀ op kind r size signed acq, m.body = .access op kind (.g r size signed) acq →
        u.net.landings = s.net.landings ++ [{
          id := s.nextId, src := m.src, reg := r, val := extendTo size signed v.toNat, poison := m.mark p,
          acq := acq }]) ∧
  (∀ (s : State) (m : Msg), m.body.tagged = true → m.reply = none →
    ∀ y ∈ (s.giveTag m).net.msgs, y.id = m.id → y.tag = some (m.tag.getD (s.tagFor m.origin m.dest)) ∧
      ∀ t, y.tag = some t → m.tag = none → (m.origin, m.dest, t) ∈ (s.giveTag m).net.tags) ∧
  ∀ (s : State) (m : Msg), m.body.tagged = true → m.reply = none → m.tag = none → (s.mayLeave m = true ↔
    m.rel = none ∧
      ahead 65536 (s.floorOf m.origin m.dest (s.tagFor m.origin m.dest)) (s.tagFor m.origin m.dest) < 1024)

/-- R415, R417: the time source sends its time to every other die in service, 1 µs after it last did; a die that has the
flit knows how far its copy is off, and slews by at most 1 ns in every 100 ns, toward the source and never backward. -/
def Sys2Proof.Claims.DeviceTimeSlews : Prop :=
  (∀ s : State, let src := s.timeSource
    s.inService src = true → (s.die src).timeSent.toNat + 1000 ≤ (s.die src).time.toNat →
    ∃ t, exec (.timeFlit src) s = .next t ∧ (t.die src).timeSent = (s.die src).time ∧ (t.die src).time = (s.die src).time ∧
      ∀ d, d < 4 → d ≠ src → s.inService d = true →
        ∃ m ∈ t.net.msgs, m.body = .time ∧ m.dest = 768 + d ∧ m.origin = src ∧ m.hops = s.route src d) ∧
  (∀ (s : State) (d : Nat) (m : Msg), s.inService d = true → d ≠ s.timeSource →
    (s.net.msgs.find? fun x => x.body == .time && x.dest == 768 + d && x.hops.isEmpty) = some m →
    ∃ t, exec (.timeFlit d) s = .next t ∧ (t.die d).time = (s.die d).time ∧
      (t.die d).slew = ((s.die m.origin).time.toNat : Int) - ((s.die d).time.toNat : Int) ∧
      (∀ e, e ≠ d → t.die e = s.die e) ∧ t.net.msgs = s.net.msgs.filter fun x => x.id != m.id) ∧
  ∀ (s : State) (ns d : Nat), d < 4 → 5 ≤ s.mgmt.step → (s.die d).slewLeft < 100 →
    let x := s.die d
    let y := (s.passTime ns).die d
    ∃ step : Int, 0 ≤ ns + step ∧ y.time = x.time + BitVec.ofInt 64 (ns + step) ∧ y.slew = x.slew - step ∧
      100 * step.natAbs ≤ x.slewLeft + ns ∧ y.slewLeft = (x.slewLeft + ns) % 100 ∧
      (0 ≤ x.slew → 0 ≤ step ∧ step ≤ x.slew) ∧ (x.slew ≤ 0 → step ≤ 0 ∧ x.slew ≤ step)

/-- R417, R418, R443: a resignation takes the die out of service, because both its pairs are lost, because it has no
path to the time source, or because it has met an error, where MACHINE-CHECK is posted before; DIE-LOST is posted with
context 0 and EADDR the die's number, and its control cores stop. A context it touches is lost: each of its launches
is torn down with STATUS 0x05, and DIE-LOST is posted for it. No message or held access ends with the die from then
on. Where the spec leaves a point open the model’s own reading is log entries 58, 59 and 65. -/
def Obligations.ResignedDiesAreFenced : Prop :=
  (∀ (s : State) (d : Nat), s.inService d = true →
    (s.mustResign d = false ∨ s.bothLost d = true ∨
      s.joined d s.timeSource = false ∧ ∀ e, s.inService e = true → s.bothLost e = false) →
    ∃ t, exec (.resignation d) s = .next t ∧ t.inService d = false ∧
      (s.mustResign d = false → ∃ u, Posts s u 46 0 0 none ∧ u.kfqWaiting <+: t.kfqWaiting) ∧
      (∃ p ∈ t.kfqWaiting, p.cause = 348 ∧ p.ctx = 0 ∧ p.slot = 0 ∧ p.eaddr = BitVec.ofNat 64 d) ∧
      (∀ k, k < 8 → t.regs.ccrun.getLsbD (8 * d + k) = false) ∧
      (∀ h ∈ t.net.held, h.msg.lostWith d = false) ∧
      (s.net.held = [] → ∀ m ∈ t.net.msgs, m.lostWith d = false) ∧
      ((∀ e, e ≠ d → s.mustResign e = false) → ∀ c ∈ s.ctxNumbers, s.touched c d = true →
        (t.ctx c).lost = true ∧ ∀ l ∈ s.launches, l.ctx = c → l.torn = false → (∀ n, l.phase ≠ .ended n) →
          (∃ x ∈ t.launches, x.ctx = c ∧ x.slot = l.slot ∧ x.phase = .tearing 5) ∧
          ∃ p ∈ t.kfqWaiting, p.cause = 348 ∧ p.ctx = c ∧ p.slot = l.slot)) ∧
  (∀ (s : State) (c d : Nat),
    ((∃ w y, (w, y) ∈ s.workers ∧ w.ctx = c ∧ y.run ≠ .saved ∧ y.w.place.die = d) ∨
      (∃ w ∈ s.windows, w.ctx = c ∧ ∃ la ∈ w.lines, s.homeDie la = d) ∨
      (∃ j ∈ s.jobs, j.ctx = c ∧ d ∈ j.dies) ∨
      ∃ r, 4096 * d ≤ r ∧ r < 4096 * d + 4096 ∧ ((s.ctx c).csrgrant.extractLsb' 0 14).toNat ≤ r ∧
        r < ((s.ctx c).csrgrant.extractLsb' 0 14).toNat + ((s.ctx c).csrgrant.extractLsb' 16 15).toNat) →
    s.touched c d = true) ∧
  ∀ (s : State) (d : Nat), (∀ m ∈ (s.fence_ d).net.msgs, m.lostWith d = false) ∧
    (∀ h ∈ (s.fence_ d).net.held, h.msg.lostWith d = false)

/-! ## The management controller -/

namespace Sys2Proof.Claims

/-- The side-band port gives one answer more. -/
def Replies (s t : State) (a : Answer) : Prop := t.mgmt.answers = s.mgmt.answers ++ [a]

end Sys2Proof.Claims

/-- R444: bring-up goes through its steps in order; one that fails stops it, and so does one that exceeds its limit,
step 7 where the compute die whose turn it is has not come up within 1 ms. With step 6 control core 0 runs at K at the
entry PC while CCRUN holds only bit 0; in step 7 the released compute dies come up one after another. Device time does
not count before step 5 has ended (R415). -/
def Sys2Proof.Claims.BringUpGoesStepByStep : Prop :=
  (∀ s : State, s.mgmt.failed = false → s.mgmt.step < 6 →
    (∃ t, exec (.powerOn (.step true)) s = .next t ∧
      t.mgmt.step = (if t.mgmt.failed then s.mgmt.step else s.mgmt.step + 1) ∧
      (s.mgmt.step ∈ [2, 3, 5] → t.mgmt.failed = false ∧ t.dies = s.dies) ∧
      (s.mgmt.step = 0 → (t.mgmt.failed = false ↔ imageOk (s.imageFor 0) = true)) ∧
      (s.mgmt.step = 1 → t.mgmt.rails = true ∧ ∀ d, d < 4 →
        (t.inService d = true ↔ s.inService d = true ∧ imageOk (s.imageFor (d + 1)) = true)) ∧
      (s.mgmt.step = 4 → (t.mgmt.failed = false ↔ s.inService 0 = true)) ∧
      (s.mgmt.step = 5 → t.regs.ccrun = 1 ∧ ((s.getSeq (.cc 0)).isSome = true →
        (t.seqD (.cc 0)).run = .running ∧ (t.seqD (.cc 0)).priv = .k ∧
        (t.seqD (.cc 0)).pc = s.entryPc))) ∧
    ∃ t, exec (.powerOn (.step false)) s = .next t ∧ t.mgmt = { s.mgmt with failed := true }) ∧
  (∀ s : State, s.mgmt.failed = false → 6 ≤ s.mgmt.step →
    (s.mgmt.rising = [] → ∀ ok, exec (.powerOn (.step ok)) s = .next s) ∧
    ∀ d t0 rest, s.mgmt.rising = (d, t0) :: rest →
      let late := t0.toNat + 1000000 < (s.die 0).time.toNat
      (∀ ok, ok = false ∨ late → ∃ t, exec (.powerOn (.step ok)) s = .next t ∧ t.mgmt = { s.mgmt with failed := true }) ∧
      (¬late → ∃ t, exec (.powerOn (.step true)) s = .next t ∧ (d < 4 → (t.die d).up = true) ∧
        t.mgmt.step = (if rest = [] then 7 else s.mgmt.step) ∧
        t.mgmt.rising = rest.map fun p => (p.1, (s.die 0).time))) ∧
  (∀ (s : State) (ok : Bool), s.mgmt.failed = true → exec (.powerOn (.step ok)) s = .next s) ∧
  (∀ (s : State) (step : Nat),
    let late := s.mgmt.failed = false ∧ (step ≤ 4 ∧ step = s.mgmt.step + 1 ∨
      step = 7 ∧ 6 ≤ s.mgmt.step ∧ ∃ d t0 rest, s.mgmt.rising = (d, t0) :: rest ∧
        t0.toNat + 1000000 < (s.die 0).time.toNat)
    ∃ t, exec (.bringupTimeout step) s = .next t ∧ (late → t.mgmt = { s.mgmt with failed := true }) ∧ (¬late → t = s)) ∧
  ∀ (s : State) (ns d : Nat), s.mgmt.step < 5 → (s.passTime ns).die d = s.die d

/-- R155, R418, R425, R454: the management controller restarts a halted control core of a die in service at K, on the
K bank, at its EPC, once the cores run (step 6); and a module that is switched on again is as at power-on, but for the
images an update has stored. -/
def Sys2Proof.Claims.TheModuleStartsAgain : Prop :=
  (∀ (s : State) (n : Nat), n < 32 →
    let x := s.seqD (.cc n)
    (x.run = .halted → s.inService (n / 8) = true → 6 ≤ s.mgmt.step → ∃ t, exec (.powerOn (.core n)) s = .next t ∧
      ((s.getSeq (.cc n)).isSome = true → let y := t.seqD (.cc n)
        y.run = .running ∧ y.priv = .k ∧ y.pc = x.epc ∧ y.bank = (if x.priv = .k then x.bank else x.other)) ∧
      t.regs.ccrun = s.regs.ccrun ||| BitVec.twoPow 32 n ∧ t.mem = s.mem) ∧
    (x.run ≠ .halted ∨ s.inService (n / 8) = false ∨ s.mgmt.step < 6 → exec (.powerOn (.core n)) s = .next s)) ∧
  ∀ s : State, ∃ t, exec (.powerOn .module) s = .next t ∧ t.mem = State.reset.mem ∧ t.core = State.reset.core ∧
    t.seqs = State.reset.seqs ∧ t.dies = State.reset.dies ∧ t.regs = State.reset.regs ∧ t.launches = [] ∧
    t.mgmt = { State.reset.mgmt with images := s.mgmt.images }

/-- R3, R443, R446 to R448: throttling, a droop and a channel's retraining change no register and no memory. A share
that throttles for 1 ms posts POWER-LIMIT, and its issue is held while it throttles; a thermal trip stops a die's
clusters and posts THERMAL-TRIP, until issue resumes, and a throttled share whose issue is held stops so too; an error
that a CXL device reports is posted, with the address it reports by the model’s choice (DESIGN CHOICE, log entry 107).
-/
def Sys2Proof.Claims.EnvironmentChangesOnlyRates : Prop :=
  (∀ (s : State) (i : Instr), (∃ d c, i = .droopTrip d c) ∨ (∃ x on hold, i = .throttling x ⟨on, hold⟩) ∨
      (∃ c p, i = .channelRetraining ⟨c, p⟩) →
    ∃ t, exec i s = .next t ∧ t = { s with mgmt := t.mgmt } ∧ t.mgmt.step = s.mgmt.step ∧
      t.mgmt.limit = s.mgmt.limit) ∧
  (∀ (s : State) (x : Consumer) (on hold : Bool), ∃ t, exec (.throttling x ⟨on, hold⟩) s = .next t ∧
    (t.shareHeld x = true ↔ on = true ∧ (hold = true ∨ ∃ p ∈ s.mgmt.throttling, p.1 = x ∧ p.2.2.2 = true)) ∧
    ∀ y, y ≠ x → t.shareHeld y = s.shareHeld y) ∧
  (∀ (s : State) (q : SeqId), (s.getSeq q).isSome = true →
    (∀ n, q = .cc n → s.shareHeld (.base (n / 8)) = true → s.mayIssue q = false) ∧
    ((∀ n, q ≠ .cc n) → (s.die (s.dieOf q)).held = true ∨ s.shareHeld (.compute (s.dieOf q)) = true →
      s.mayIssue q = false)) ∧
  (∀ (s : State) (x : Consumer), ∃ t, exec (.powerLimit x) s = .next t ∧
    let due (p : Consumer × Word × Bool × Bool) : Prop :=
      p.1 = x ∧ p.2.2.2 = false ∧ p.2.1.toNat + 1000000 ≤ (s.die 0).time.toNat
    ((∃ p ∈ s.mgmt.throttling, due p) →
      Posts s t 48 0 0 none ∧ t.shareHeld x = true ∧ t.mem = s.mem ∧ t.seqs = s.seqs ∧ t.core = s.core) ∧
    ((∀ p ∈ s.mgmt.throttling, ¬due p) → t = s)) ∧
  (∀ (s : State) (d : Nat), d < 4 →
    (∃ t, exec (.thermalTrip d) s = .next t ∧ (t.die d).held = true ∧
      ((s.die d).held = false → Posts s t 47 0 0 none) ∧ ((s.die d).held = true → t = s)) ∧
    ∃ t, exec (.thermalResume d) s = .next t ∧ (t.die d).held = false ∧ t.mem = s.mem ∧ t.core = s.core) ∧
  ∀ (s : State) (a : Word), ∃ t, exec (.cxlError a) s = .next t ∧ Posts s t 53 0 0 (some a) ∧ t.mem = s.mem

/-- R449: a channel is due for retraining by its temperature or 30 minutes after its last; one channel of a stack
retrains at a time, the one that became due first, for at most 4 µs, and none starts while an update of the stack’s
die waits for it (R454). Meanwhile an access whose line its slice does not hold waits. -/
def Sys2Proof.Claims.ChannelsRetrain : Prop :=
  (∀ (s : State) (c : Nat), assocFind s.mgmt.due c = none → s.trains c = false →
    ∃ t, exec (.channelRetraining ⟨c, .drift⟩) s = .next t ∧ t.mgmt = { s.mgmt with
      due := s.mgmt.due ++ [(c, (s.die 0).time)] }) ∧
  (∀ (s : State) (c : Nat) (t0 : Word), assocFind s.mgmt.due c = some t0 → (s.die 0).time.toNat < 1800000000000 →
    (∀ p ∈ s.mgmt.training, channelStack p.1 ≠ channelStack c) →
    (∀ u ∈ s.mgmt.updates, u.1 = channelStack c → s.noticeRuns u.1 = true) →
    (∀ x u, assocFind s.mgmt.due x = some u → channelStack x = channelStack c → t0.toNat ≤ u.toNat) →
    ∃ t, exec (.channelRetraining ⟨c, .start⟩) s = .next t ∧ t.trains c = true ∧
      t.mgmt.training = s.mgmt.training ++ [(c, (s.die 0).time)] ∧ assocFind t.mgmt.due c = none) ∧
  (∀ (s : State) (c : Nat), (assocGet s.mgmt.retrained c 0).toNat + 1800000000000 ≤ (s.die 0).time.toNat →
    (s.dueAt c).isSome = true) ∧
  (∀ (s : State) (c : Nat),
    s.dueAt c = none ∨ (∃ p ∈ s.mgmt.training, channelStack p.1 = channelStack c) ∨
      (∃ u ∈ s.mgmt.updates, u.1 = channelStack c ∧ s.noticeRuns u.1 = false) ∨
      (∃ x u t0, x ∈ stackChannels (channelStack c) ∧ (s.die 0).time.toNat ≥ 1800000000000 ∧ s.dueAt x = some u ∧
        s.dueAt c = some t0 ∧ u < t0) →
    exec (.channelRetraining ⟨c, .start⟩) s = .next s) ∧
  (∀ (s : State) (c : Nat) (p : Nat × Word), s.mgmt.training.find? (fun x => x.1 == c) = some p →
    ∃ t, exec (.channelRetraining ⟨c, .finish⟩) s = .next t ∧ t.trains c = false ∧
      assocFind t.mgmt.retrained c = some (s.die 0).time) ∧
  (∀ (s : State) (ns : Nat), 5 ≤ s.mgmt.step → ∀ p ∈ (s.passTime ns).mgmt.training,
    ((s.passTime ns).die 0).time.toNat < p.2.toNat + 4000) ∧
  ∀ (s : State) (m : Nat) (x : Msg) (op : MemOp) (kind : PageKind) (dest : Dest) (acq : Option (BitVec 3)),
    s.msg? m = some x → x.rel = none → x.body = .access op kind dest acq → s.retraining (lineOf x.pa) = true →
    s.homeCopy (lineOf x.pa) = none → exec (.homeSliceAccess m false) s = .next s

/-- R451 to R453: what the side-band port answers. STATUS gives rails, bring-up step and the dies that are up; MEASURE
the log and the 32-byte nonce, signed; NOTICE posts PREEMPT-NOTICE with its deadline, or answers BUSY for a die that
is not up; CAP takes a limit of 800 to 1,600 W; a code outside the table is UNSUPPORTED and changes nothing else. That
a CAP outside that range is answered and changes nothing is the model's choice (DESIGN CHOICE, log entry 62). -/
def Sys2Proof.Claims.SideBandPortAnswers : Prop :=
  (∀ s : State, ∃ t, exec .status s = .next t ∧ t.mem = s.mem ∧ t.core = s.core ∧
    ∃ r, Replies s t (.status s.mgmt.rails (if s.mgmt.failed then min 7 (s.mgmt.step + 1) else s.mgmt.step)
      s.mgmt.failed
      ((List.range 4).map fun d => decide (5 ≤ s.mgmt.step) && s.inService d) r)) ∧
  (∀ (s : State) (nonce : BitVec 256), ∃ t, exec (.measure nonce) s = .next t ∧
    ∃ sig, Replies s t (.measured s.mgmt.log nonce sig)) ∧
  (∀ (s : State) (msg : List (BitVec 8)), ∃ t r, exec (.mctpControl msg) s = .next t ∧ Replies s t (.mctp r)) ∧
  (∀ (s : State) (a : BitVec 7), ∃ t, exec (.dynamicAddressAssignment a) s = .next t ∧ t.mgmt.address = some a) ∧
  (∀ (s : State) (d : Nat) (w : Word),
    (5 ≤ s.mgmt.step → s.inService d = true → ∃ t, exec (.notice d w) s = .next t ∧ Posts s t 49 0 0 (some w) ∧
      (d, w) ∈ t.mgmt.notices ∧ Replies s t .done) ∧
    (s.mgmt.step < 5 ∨ s.inService d = false → ∃ t, exec (.notice d w) s = .next t ∧ Replies s t .busy ∧
      t = { s with mgmt := { s.mgmt with answers := t.mgmt.answers } })) ∧
  (∀ (s : State) (watts : Nat), ∃ t, exec (.cap watts) s = .next t ∧ Replies s t .done ∧
    t.mgmt.limit = (if 800 ≤ watts ∧ watts ≤ 1600 then watts else s.mgmt.limit) ∧
    t = { s with mgmt := { s.mgmt with answers := t.mgmt.answers, limit := t.mgmt.limit } }) ∧
  ∀ (s : State) (code : BitVec 8), code = 0 ∨ 5 < code.toNat →
    ∃ t, exec (.unsupported code) s = .next t ∧ Replies s t .unsupported ∧
      t = { s with mgmt := { s.mgmt with answers := t.mgmt.answers } }

/-- R418, R419, R450, R451, R453, R454: an update is refused with BUSY while another die is not up or its image fails
a check. The controller's own image is measured and waits for the next power-on. A base die in service resigns first,
for which DIE-LOST is posted; then it rejoins with its image: measured, its memory zero, its slices empty, its
channels retrained, its sync registers zero, its time its neighbour's and its modules trained. While a notice for the
die runs or a channel of it retrains, the update waits. -/
def Sys2Proof.Claims.UpdatesAreTaken : Prop :=
  (∀ (b : List Byte), imageOk b = true →
    b.length = 128 + imageNum b 0 4 + 4627 ∧ imageTarget b ≤ 2 ∧ (∀ k, 0x48 ≤ k → k < 0x80 → b.getD k 0 = 0) ∧
      Config.svnMinimum (imageTarget b) ≤ imageNum b 4 2 ∧
      ((b.drop 8).take 64) = digestBytes (Config.sha3 (imageBody b)) ∧
      Config.mldsaVerify (Config.sha3 (b.take (128 + imageNum b 0 4))) (b.drop (128 + imageNum b 0 4)) = true) ∧
  (∀ (s : State) (d : Nat) (b : List (BitVec 8)),
    (4 ≤ d ∨ imageOk b = false ∨ (∃ e, e < 4 ∧ e ≠ d ∧ s.dieUp e = false) →
      ∃ t, exec (.update d b) s = .next t ∧ Replies s t .busy ∧
        t = { s with mgmt := { s.mgmt with answers := t.mgmt.answers } }) ∧
    (d < 4 → imageOk b = true → (∀ e, e < 4 → e ≠ d → s.dieUp e = true) →
      (imageTarget b = 0 → ∃ t m, exec (.update d b) s = .next t ∧ Replies s t .done ∧ t.imageFor 0 = b ∧
        t.mgmt.log = s.mgmt.log ++ [m] ∧ m.digest = Config.sha3 b ∧ m.time = (s.die 0).time ∧ t.mem = s.mem) ∧
      (imageTarget b ≠ 0 → s.noticeRuns d = true ∨ s.stackTrains d = true →
        exec (.update d b) s = .next { s with mgmt := { s.mgmt with updates := s.mgmt.updates ++ [(d, b)] } }))) ∧
  (∀ (s : State) (d : Nat) (b : List (BitVec 8)), d < 4 → imageOk b = true →
    (∀ e, e < 4 → e ≠ d → s.dieUp e = true) → imageTarget b ≠ 0 → s.noticeRuns d = false → s.stackTrains d = false →
    ∃ t m, exec (.update d b) s = .next t ∧ Replies s t .done ∧ t.inService d = true ∧
      (s.inService d = true → ∃ p ∈ t.kfqWaiting, p.cause = 348 ∧ p.ctx = 0 ∧ p.eaddr = BitVec.ofNat 64 d) ∧
      (∀ e, e < 4 → e ≠ d → t.inService e = true) ∧
      t.mgmt.log = s.mgmt.log ++ [m] ∧ m.digest = Config.sha3 b ∧ m.die = d ∧ m.time = (s.die 0).time ∧
      (t.die d).time = (s.die ((d + 1) % 4)).time ∧
      (∀ c ∈ t.mem.arrays, inStack d c.1 = false) ∧ (∀ p ∈ t.syncHome, syncDie p.1 ≠ d) ∧
      (∀ k, k < 48 → hopStart (linkPair k) = d ∨ hopEnd (linkPair k) = d → t.link k = Link.reset) ∧
      (∀ x ∈ t.mem.lines, x.die ≠ d) ∧ (∀ c ∈ stackChannels d,
        assocFind t.mgmt.retrained c = some (s.die 0).time ∧ assocFind t.mgmt.due c = none) ∧
      d ∉ t.lost ∧ (d + 3) % 4 ∉ t.lost ∧ ∀ n ∈ t.mgmt.notices, n.1 ≠ d) ∧
  ∀ (s : State) (d : Nat) (b : List (BitVec 8)), s.mgmt.updates = [(d, b)] →
    (s.noticeRuns d = true ∨ s.stackTrains d = true → s.takeUpdates = s) ∧
    (s.noticeRuns d = false → s.stackTrains d = false →
      ((∃ e, e < 4 ∧ e ≠ d ∧ s.dieUp e = false) → s.takeUpdates.mgmt.updates = [] ∧ Replies s s.takeUpdates .busy) ∧
      (d < 4 → (∀ e, e < 4 → e ≠ d → s.dieUp e = true) →
        s.takeUpdates.mgmt.updates = [] ∧ Replies s s.takeUpdates .done ∧ s.takeUpdates.inService d = true))

/-! ## Encoding, steps and invariants -/

namespace Sys2Proof.Claims

/-- The row an instruction stands for is the one its words name on a sequencer of kind k: three words name one row on a
control core and another elsewhere (R255, R426, R436). -/
def namedOn (k : SeqKind) (i : Instr) : Bool :=
  match i with
  | .eretK _ | .ctxsvVK _ | .ctxldVK _ => k == .cc
  | .eret _ | .ctxsvV _ | .ctxldV _ => k != .cc
  | _ => true

/-- The register that a scalar instruction writes and goes on, where it writes nothing else (R156 to R161). A division
does so where its divisor is not zero. -/
def writesOnly (s : State) (i : Instr) : Option (BitVec 5) :=
  match i with
  | .add f | .sub f | .and f | .or f | .xor f | .shl f | .shr f | .sra f | .mul f | .mulh f | .mulhn f | .min f | .max f
  | .minn f | .maxn f | .slt f | .sltn f | .clz f | .ctz f | .popc f | .sext8 f | .sext16 f | .sext32 f | .zext8 f
  | .zext16 f | .zext32 f => some f.gd
  | .div f | .divn f | .rem f | .remn f => if s.g f.gb = 0 then none else some f.gd
  | .addi f | .andi f | .ori f | .xori f | .shli f | .shri f | .srai f | .slti f | .sltni f => some (hReg f.h)
  | .li f => some (hReg f.h)
  | .lih f => some (hReg f.h)
  | .lea f => some (hReg f.h)
  | .sel f => some (hReg f.h)
  | _ => none

end Sys2Proof.Claims

/-- The frame of the scalar instructions that write one register (R58, R156 to R161): every other register, every byte
of memory and every other part of the machine stay as they are; the PC goes on. -/
def Obligations.RegisterInstructionsKeepTheRest : Prop :=
  ∀ (i : Instr) (s : State) (r : BitVec 5), writesOnly s i = some r → i.ready s →
    ∃ t, exec i s = .next t ∧ (∀ r', r' ≠ r → t.g r' = s.g r') ∧ (∀ a, t.byteAt a = s.byteAt a) ∧
      t.core.pc = following s.core.heads s.core.pc ∧ t.core.bank.loops = s.core.bank.loops ∧
      t = { s with core := { s.core with bank := t.core.bank, pc := t.core.pc, ply := t.core.ply } }

/-- R55, R62, R63, R70 to R84: encoding an instruction and decoding the head and tail gives it back, every field at
every value, reserved bits included, where its fields pick the row it stands for. -/
def Obligations.DecodingUndoesEncoding : Prop :=
  ∀ (k : SeqKind) (i : Instr), i.isEvent = false → i.formOk = true → namedOn k i = true →
    decode k (encode i).1 (encode i).2 = some i

/-- R62, R63, R70 to R84: a head and a tail that decode are what the instruction encodes to, the bits above the length
of the tail aside, and the instruction stands in the row its fields pick: no word names two instructions. -/
def Obligations.EncodingUndoesDecoding : Prop :=
  ∀ (k : SeqKind) (head : BitVec 16) (tail : BitVec 48) (i : Instr), decode k head tail = some i →
    i.isEvent = false ∧ i.formOk = true ∧ namedOn k i = true ∧ (encode i).1 = head ∧
      (encode i).2.toNat = tail.toNat % 2 ^ (8 * tailBytes head)

/-- A turn of a sequencer whose bytes at the PC decode runs the instruction (R60, R61, R85), and what the hardware
does beside it; the turn of a part that fetches nothing runs its event; the next turn is the oldest of the agenda (log
entry 1). The line is the one the sequencer keeps, or the 64 bytes as its access reads them, its core's own writes to
a PRIVATE page over them (R301, log entry 79); where the line lies behind a channel that retrains, the sequencer waits
(R449). Where the spec leaves a point open the model’s own reading is log entries 1 and 79. -/
def Obligations.StepsRunWhatIsDecoded : Prop :=
  (∀ (s s1 v : State) (q : SeqId) (l : LineBits) (i : Instr), s.takeTurn = (.issue q, s1) → s1.mayIssue q = true →
    let u := s1.select q
    u.core.w.pending = none → u.breaks = false → u.fetchLineOf = .ok (v, l) → LineBits.legal l = true →
    let slot := v.core.pc.toNat % 64
    slot ≠ 0 → slot ≤ LineBits.heads l → decodeSlot (kindOf v.cur) l slot = some i →
    step s = finish (exec i v)) ∧
  (∀ (s s1 : State) (q : SeqId), s.takeTurn = (.issue q, s1) → s1.mayIssue q = false → step s = finish (.next s1)) ∧
  (∀ (s s1 : State) (e : Instr), s.takeTurn = (.event e, s1) → e.isEvent = true → step s = finish (exec e s1)) ∧
  (∀ (s : State) (t : Turn) (r : List Turn), s.agenda = t :: r →
    s.takeTurn = (t.act, { s.passTime t.dt with agenda := r })) ∧
  (∀ (s t : State), finish (.next s) = .next t → t = s.housekeep) ∧
  (∀ (s : State) (q : SeqId), (s.select q).cur = q ∧ ((s.getSeq q).isSome = true → (s.select q).core = s.seqD q)) ∧
  (∀ (u : State) (l : LineBits), u.core.line = some (lineAddr u.core.pc, l) → u.fetchLineOf = .ok (u, l)) ∧
  ∀ (u : State) (tl : List (Leaf × Word × Nat)), (∀ l, u.core.line ≠ some (lineAddr u.core.pc, l)) →
    u.checkAccess (u.accessor u.cur) wantFetch (lineAddr u.core.pc) 64 = .ok tl → reachesDevice tl = false →
    ((∃ p ∈ piecesOf tl, u.lineWaits (lineOf p.1) = true) → u.fetchLineOf = .error (.next u)) ∧
    ∀ v bs, (∀ p ∈ piecesOf tl, u.lineWaits (lineOf p.1) = false) →
      (u.markAll tl false).readPieces none (u.dieOf u.cur) (piecesOf tl) = (v, bs, none) →
      ∃ w l, u.fetchLineOf = .ok (w, l) ∧ w.core.line = some (lineAddr u.core.pc, l) ∧ w.mem = v.mem ∧
        w.core.pc = v.core.pc ∧ ∃ b : LineBits,
          (bs.length ≤ 64 → ∀ k, k < 64 → b.extractLsb' (8 * k) 8 = bs.getD k 0) ∧
          ((∀ p ∈ piecesOf tl, p.2.1 ≠ .priv) → l = b) ∧
          (∀ p, piecesOf tl = [p] → p.2.1 = .priv →
            l = ((v.cacheOf v.cur).bind fun o => v.cacheCopy o (lineOf p.1) false).elim b fun c =>
              mergeLine b c.data c.mask)

/-- The encodings that the spec works to the bit: each head and tail decodes to the instruction it is given for (the
line of R54 to R59, R164, R219, R227, R230, R237, R240, R244, R323, R389, R434). -/
def Obligations.WorkedWordsDecode : Prop :=
  decode .vc 0x2083 0x0081 = some (.add { gd := 3, ga := 1, ma := false, gb := 2, mb := false }) ∧
  decode .vc 0x2304 0x00001003 = some (.addi { h := 4, ga := 3, ma := false, imm := 16 }) ∧
  decode .vc 0xC384 0x000300380101 = some (.vfma {
    v := { h := 4, va := 1, ma := false, vb := 2, mb := false, s := false, mask := 0, et := 14, rnd := 0, res := 0 }
    vc := 3, mc := false, res := 0 }) ∧
  decode .vc 0x0300 0x00000001 = some (.br { h := 0, sub := false, target := 1 }) ∧
  decode .vc 0x4321 0x00000C02 = some (.st { h := 0x21, ga := 2, ma := false, imm := 0x00000C }) ∧
  decode .vc 0x4505 0x0B4009C6 = some (.amo .add {
    h := 5, ga := 6, ma := false, gb := 7, mb := true, gc := 0, mc := false, imm := 0x2D }) ∧
  decode .vc 0xC702 0x03B40001 = some (.vfcvt 14 {
    h := 2, va := 1, ma := false, vb := 0, mb := false, s := false, mask := 0, et := 13, rnd := 0, res := 0 }) ∧
  decode .vc 0xC503 0x00B80101 = some (.vfcmp .lt {
    h := 3, va := 1, ma := false, vb := 2, mb := false, s := false, mask := 0, et := 14, rnd := 0, res := 0 }) ∧
  decode .vc 0xD387 0x00000038C404 = some (.vreds .osum {
    v := { h := 7, va := 4, ma := false, vb := 8, mb := false, s := true, mask := 1, et := 14, rnd := 0, res := 0 }
    vc := 0, mc := false, res := 0 }) ∧
  decode .vc 0x9585 0x6809010001A1 = some (.vamo .add {
    m := { h := 5, q := 1, mask := 2, et := 3, mode := 0, nf1 := 0, sreg := 0, idx := 8, res := 0 }
    vb := 9, mb := false, ord := 1, scope := 3 }) ∧
  decode .vc 0x6F00 0x00000300 = some (.bar { h := 0, ga := 0, ma := false, imm := 3 }) ∧
  decode .vc 0x7D09 0x004040C2 = some (.nbgoSg {
    h := 9, ga := 2, ma := false, gb := 3, mb := false, gc := 4, mc := false, imm := 1 }) ∧
  decode .cc 0x1902 0x00080F00 = some (.rangeRegisterWrite { h := 2, ga := 0, ma := false, imm := 0x80F }) ∧
  decode .cc 0x7305 0x00800000 = some (.tlbinvAll {
    h := 5, ga := 0, ma := false, gb := 0, mb := false, gc := 0, mc := false, imm := 2 }) ∧
  decode .vc 0x39C0 0 = none

/-- The arrays of memory hold one entry for each address, in rising order, and none that is what an address reads as
where nothing was written (R444); every step keeps that. -/
def Obligations.StepsKeepTheFormOfMemory : Prop :=
  ∀ s t : State, Memory.wf s.mem = true → step s = .next t → Memory.wf t.mem = true

/-- The numbers of the matrix commands lie below the next number to give; every step keeps that (the model's own
numbers, log entry 1). -/
def Obligations.StepsKeepMatrixNumbersFresh : Prop :=
  ∀ s t : State, (∀ c ∈ s.mxCmds, c.id < s.nextId) → step s = .next t → ∀ c ∈ t.mxCmds, c.id < t.nextId

/-- R444, R427, R428: what power-on leaves. No memory is written, no step of bring-up has ended, no die has been
released, device time is 0, control core 0 is halted, and the invariants of the steps hold. Where the spec leaves a
point open the model’s own reading is log entries 3 and 69. -/
def Obligations.ResetIsPowerOn : Prop :=
  let s := State.reset
  Memory.wf s.mem = true ∧ (∀ a, s.byteAt a = 0) ∧ (∀ c ∈ s.mxCmds, c.id < s.nextId) ∧ s.mgmt.step = 0 ∧
    s.mgmt.failed = false ∧ s.mgmt.rails = false ∧ (∀ d, d < 4 → (s.die d).time = 0 ∧ (s.die d).resigned = false) ∧
    s.cur = .cc 0 ∧ s.mayIssue s.cur = false ∧ s.launches = [] ∧ s.regs.ccrun = 0

/-! ## The statements of several parts -/

/-- The ALU group and the four divisions give their results, and a zero divisor traps (the address 0 of its traps:
log entry 82). Where the spec leaves a point open the model’s own reading is log entry 82. The address 0 (EADDR) of
  its traps, for which no rule gives one, is the model’s choice (DESIGN CHOICE, log entry 82). -/
def Obligations.ScalarArithmetic : Prop := Claims.AluResults ∧ Claims.DivisionResults

/-- The immediate, bit, constant and address instructions give their results, and two of them load any constant. -/
def Obligations.ConstantsImmediatesAndBits : Prop := Claims.ImmediateResults ∧ Claims.BitResults ∧
  Claims.ConstantAndAddressResults ∧ Claims.TwoInstructionsLoadAnyConstant

/-- BR, JAL, JR and BCC reach their targets with their links, and a bad PC traps at the fetch (the address 0 of its
traps: log entry 82). Where the spec leaves a point open the model’s own reading is log entries 6, 8, 79 and 82. The
  address 0 (EADDR) of its traps, for which no rule gives one, is the model’s choice (DESIGN CHOICE, log entry 82). -/
def Obligations.ControlTransfers : Prop := Claims.TransfersReachTheirTargets ∧ Claims.FetchAtABadPcTraps

/-- Taking a trap on a control core, its TRAP and HALT, and the return from a trap. Where the spec leaves a point
open the model’s own reading is log entries 30 and 82. -/
def Obligations.CoreTraps : Prop := Claims.KernelTrapEntryFollowsR425 ∧ Claims.CoreTrapHaltAndReturn

/-- A worker’s trap enters its supervisor routine once it has drained, a fork’s stops it, and ERET takes the record
back. Where the spec leaves a point open the model’s own reading is log entries 20, 75, 82 and 105. -/
def Obligations.WorkerTraps : Prop := Claims.TrapEntryFollowsR252 ∧ Claims.TrapOfWorkersAndForks ∧
  Claims.WorkerReturnTakesTheRecord

/-- SRD gives the value of every special and system register. Where the spec leaves a point open the model’s own
reading is log entry 23. -/
def Obligations.RegistersRead : Prop := Claims.SpecialRegistersRead ∧ Claims.SystemRegistersRead

/-- SWR of the special and system registers and of XF takes a value or raises RESERVED-FIELD (the address 0 of its
traps: log entry 82). Where the spec leaves a point open the model’s own reading is log entries 15, 21, 22, 23, 73,
  82 and 102. The address 0 (EADDR) of its traps, for which no rule gives one, is the model’s choice (DESIGN CHOICE,
  log entry 82). -/
def Obligations.RegistersTakeValues : Prop := Claims.SpecialRegistersTakeValues ∧ Claims.SystemRegistersTakeValues ∧
  Claims.FlagsAreReplaced

/-- SWR of the codec counters, CCRUN, CCTL, CDREL and KPOST acts at once (the address 0 of its traps: log entry 82).
Where the spec leaves a point open the model’s own reading is log entries 22 and 82. The address 0 (EADDR) of its
  traps, for which no rule gives one, is the model’s choice (DESIGN CHOICE, log entry 82). -/
def Obligations.ControlWrites : Prop := Claims.ControlWritesAct ∧ Claims.KpostParksTheWorker

/-- LD, ST, AMO, CAS and RED check their address and are sent to where their line is held. Where the spec leaves a
point open the model’s own reading is log entries 12, 28, 38 and 66. -/
def Obligations.ScalarAccessesAreSent : Prop := Claims.LoadIsSent ∧ Claims.StoreGoesWhereItIsHeld ∧
  Claims.AtomicsAreSent

/-- PREF and FENCE, and what a complete release leaves at each scope. Where the spec leaves a point open the model’s
own reading is log entries 28 and 38. -/
def Obligations.FencesAndReleases : Prop := Claims.FencesComplete ∧ Claims.ReleaseIsComplete

/-- WAITT waits for TIME, and WAITM for a word at its home slice or a deadline. Where the spec leaves a point open
the model’s own reading is log entry 26. -/
def Obligations.Waits : Prop := Claims.TimedWaits ∧ Claims.WaitmComparesTheWord

/-- A home slice performs accesses, checks other holders first, and applies reductions once; a landing fills its
register. Where the spec leaves a point open the model’s own reading is log entries 10 and 19. -/
def Obligations.HomeSlices : Prop := Claims.HomeSlicePerformsAccesses ∧ Claims.OtherHoldersAreChecked ∧
  Claims.ReductionsApplyOnce ∧ Claims.LandingFillsTheRegister

/-- The codec encodes and decodes blocks; a fill decodes a stored line, and its write-back encodes it and counts. -/
def Obligations.CodedBlocks : Prop := Claims.CodecEncodes ∧ Claims.CodecDecodes ∧ Claims.CodedLinesAreStored

/-- Stage buffers take stores, publish them once and answer checks, and others’ staged bytes come home first. Where
the spec leaves a point open the model’s own reading is log entry 88. -/
def Obligations.StageBuffers : Prop := Claims.StageBufferTakesStores ∧ Claims.HoldersPublishAndAnswer ∧
  Claims.OthersComeHomeFirst

/-- Directory merges, early cleans, peers’ writes and page walks. Where the spec leaves a point open the model’s own
reading is log entries 18, 87 and 90. -/
def Obligations.SlicesAndWalkersActAlone : Prop := Claims.SlicesActAlone ∧ Claims.PeersWriteLines ∧
  Claims.WalksDeliver

/-- Sync register instructions, the updates of homes and mirrors, and BAR. Where the spec leaves a point open the
model’s own reading is log entries 38 and 82. -/
def Obligations.SyncRegisters : Prop := Claims.SyncInstructionsAct ∧ Claims.SyncUpdatesAndMirrors ∧
  Claims.BarrierArrives

/-- FORK starts a sequencer, and END ends it or a worker (the address 0 of its traps: log entry 82). Where the spec
leaves a point open the model’s own reading is log entries 38 and 82. The address 0 (EADDR) of its traps, for which
  no rule gives one, is the model’s choice (DESIGN CHOICE, log entry 82). -/
def Obligations.ForksStartAndEnd : Prop := Claims.ForkStartsASequencer ∧ Claims.EndEnds

/-- QPOP takes records and chunks, and QPUSH pushes them (the address 0 of its traps: log entry 82). Where the spec
leaves a point open the model’s own reading is log entries 27, 38, 82 and 83. The address 0 (EADDR) of its traps, for
  which no rule gives one, is the model’s choice (DESIGN CHOICE, log entry 82). -/
def Obligations.WorkQueues : Prop := Claims.QpopTakesARecord ∧ Claims.QpushPushes

/-- LAUNCH checks its block and enters a launch, and PREEMPT, RESUME and ABORT act on it. Where the spec leaves a
point open the model’s own reading is log entries 17, 32, 33, 84, 85 and 97. -/
def Obligations.LaunchesEnterAndStop : Prop := Claims.BlockChecksFollowR23 ∧ Claims.LaunchEntersItsQueue ∧
  Claims.LaunchesAreStopped

/-- Launches become eligible, are checked and admitted, have workers made, restored and switched, and end. Where the
spec leaves a point open the model’s own reading is log entries 16, 34, 74, 76, 78, 95 and 98. -/
def Obligations.LaunchesRun : Prop := Claims.AdmissionChecksFollowR23 ∧ Claims.LaunchesAreAdmitted ∧
  Claims.LaunchesEnd ∧ Claims.WorkersReturnAndSwitch

/-- TLBINV drops translations, CTXSV and CTXLD move threads and vector states, and what a frame holds. Where the spec
leaves a point open the model’s own reading is log entries 36, 91, 105 and 106. -/
def Obligations.TranslationsAndContexts : Prop := Claims.TlbinvDropsTranslations ∧ Claims.FramesHoldVectorState ∧
  Claims.ContextsAreSavedAndLoaded

/-- NBGO checks its parameter block and pages and starts a pawn job, and NBPART sets a channel’s mode (the address 0
of its traps: log entry 82). Where the spec leaves a point open the model’s own reading is log entries 45, 82 and 87.
  The address 0 (EADDR) of its traps, for which no rule gives one, is the model’s choice (DESIGN CHOICE, log entry
  82). -/
def Obligations.PawnJobsStart : Prop := Claims.ParameterBlocksAreChecked ∧ Claims.PawnJobsAreStarted ∧
  Claims.NbpartSetsTheMode

/-- Pawn jobs compute their outputs, are dispatched, access their columns and complete. Where the spec leaves a point
open the model’s own reading is log entries 41 and 42. -/
def Obligations.PawnJobsRunAndEnd : Prop := Claims.PawnArithmetic ∧ Claims.PawnJobsGoThrough

/-- Which queued vector instruction runs and how far, what it writes, and its recompute check (the address 0 of its
traps: log entry 82). Where the spec leaves a point open the model’s own reading is log entries 37, 46, 49 and 82.
  The address 0 (EADDR) of its traps, for which no rule gives one, is the model’s choice (DESIGN CHOICE, log entry
  82). -/
def Obligations.VectorDispatchDelivers : Prop := Claims.VectorDispatchRuns ∧ Claims.VectorEntriesArePicked

/-- The vector floating groups and conversions, with special values and flags. -/
def Obligations.VectorFloatingPoint : Prop := Claims.VectorFloatResults ∧ Claims.FloatResultsAreRounded ∧
  Claims.FloatSpecialValues

/-- VREDS, VDOT, VLGDOT and the mask counts give their scalars (the address 0 of its traps: log entry 82). Where the
spec leaves a point open the model’s own reading is log entries 50 and 82. The address 0 (EADDR) of its traps, for
  which no rule gives one, is the model’s choice (DESIGN CHOICE, log entry 82). -/
def Obligations.VectorReductions : Prop := Claims.ReductionResults ∧ Claims.MaskCountsAndLgDot

/-- Where the elements of each vector memory form lie, and how the instructions are queued (the address 0 of its
traps: log entry 82). Where the spec leaves a point open the model’s own reading is log entries 43, 48, 51 and 82.
  The address 0 (EADDR) of its traps, for which no rule gives one, is the model’s choice (DESIGN CHOICE, log entry
  82). -/
def Obligations.VectorMemoryForms : Prop := Claims.ElementsLieWhereTheFormSays ∧ Claims.VectorMemoryIsQueued

/-- Vector loads, stores and atomics are performed in pieces, in memory and the scratchpads, and loaded elements
land. Where the spec leaves a point open the model’s own reading is log entries 43, 52 and 93. -/
def Obligations.VectorMemory : Prop := Claims.LoadsReadABlockOnce ∧ Claims.VectorMemoryIsPerformed ∧
  Claims.LoadedElementsLand ∧ Claims.ScratchpadElementsMove

/-- VSETL, VDECL, QSET, QADV and VFENCE, and VWAIT with its wake (the address 0 of its traps: log entry 82). Where
the spec leaves a point open the model’s own reading is log entries 26, 53, 54 and 82. The address 0 (EADDR) of its
  traps, for which no rule gives one, is the model’s choice (DESIGN CHOICE, log entry 82). -/
def Obligations.LengthsStreamsAndVectorWaits : Prop := Claims.LengthsAndStreams ∧ Claims.VectorWaits

/-- Copies move chunk by chunk within pages, signal and hand over to their follow-on. Where the spec leaves a point
open the model’s own reading is log entries 45, 55, 100 and 101. -/
def Obligations.CopiesMoveChunkByChunk : Prop := Claims.ChunksStayInOnePage ∧ Claims.CopyCommandsAreExecuted

/-- Links form, accept, lose and replay flits, modules retrain and go down, and device time follows its source. Where
the spec leaves a point open the model’s own reading is log entries 56 and 57. -/
def Obligations.LinksCarryFlits : Prop := Claims.FlitsHoldTheirFields ∧ Claims.FlitsAreReceived ∧
  Claims.FlitsAreFormed ∧ Claims.LostFlitsAreAskedForAgain ∧ Claims.ModulesRetrain ∧ Claims.DeviceTimeSlews

/-- Bring-up goes through its seven steps, halted cores start again, channels retrain, and the environment changes
only rates (EADDR of CXL-ERROR: log entry 107). Where the spec leaves a point open the model’s own reading is log
  entries 4, 61, 62, 86, 87, 107 and 109. The EADDR of the CXL-ERROR post is the model’s choice (DESIGN CHOICE, log
  entry 107). -/
def Obligations.BringUpAndEnvironment : Prop := Claims.BringUpGoesStepByStep ∧ Claims.TheModuleStartsAgain ∧
  Claims.EnvironmentChangesOnlyRates ∧ Claims.ChannelsRetrain

/-- The side-band port answers its commands, and updates are refused, wait, or are taken. Where the spec leaves a
point open the model’s own reading is log entries 60, 62 and 63. -/
def Obligations.ManagementCommands : Prop := Claims.SideBandPortAnswers ∧ Claims.UpdatesAreTaken
end

