-- ==== Sys2Proof/Laws/Cells.lean ====
section
/-! SUPPORT. The laws of byte memories: a read after a write, and the canonical form. -/

namespace Sys2Proof.Machine

/-- Every address listed lies above `a`. -/
theorem cellsWf_cons {a : Nat} {b : Byte} {r : List Host.Cell} :
    cellsWf ((a, b) :: r) = true ↔ b ≠ unlisted ∧ (∀ c ∈ r, a < c.1) ∧ cellsWf r = true := by
  simp [cellsWf, and_assoc]

/-- An address below every listed one reads as unlisted. -/
theorem cellsGet_below {l : List Host.Cell} {a : Nat} (h : ∀ c ∈ l, a < c.1) : cellsGet l a = unlisted := by
  induction l with
  | nil => rfl
  | cons c r ih =>
    have hc := h c (by simp)
    simp only [cellsGet]
    rw [if_neg (by omega)]
    exact ih fun d hd => h d (by simp [hd])

/-- An address that a write lists is the written one or was listed before. -/
theorem cellsPut_mem {l : List Host.Cell} {a : Nat} {b : Byte} {c : Host.Cell} (h : c ∈ cellsPut l a b) :
    c.1 = a ∨ c ∈ l := by
  induction l with
  | nil =>
    simp only [cellsPut] at h
    split at h <;> simp_all
  | cons d r ih =>
    simp only [cellsPut] at h
    split at h
    · split at h
      · exact .inr h
      · rcases List.mem_cons.1 h with rfl | h'
        · exact .inl rfl
        · exact .inr h'
    · split at h
      · split at h
        · exact .inr (by simp [h])
        · rcases List.mem_cons.1 h with rfl | h'
          · exact .inl rfl
          · exact .inr (by simp [h'])
      · rcases List.mem_cons.1 h with rfl | h'
        · exact .inr (by simp)
        · rcases ih h' with h'' | h''
          · exact .inl h''
          · exact .inr (by simp [h''])

/-- A write keeps the canonical form. -/
theorem cellsPut_wf {l : List Host.Cell} (a : Nat) (b : Byte) (h : cellsWf l = true) :
    cellsWf (cellsPut l a b) = true := by
  induction l with
  | nil =>
    simp only [cellsPut]
    split
    · rfl
    · rename_i hb
      simp [cellsWf, hb]
  | cons d r ih =>
    obtain ⟨x, v⟩ := d
    obtain ⟨hv, hr, hw⟩ := cellsWf_cons.1 h
    simp only [cellsPut]
    split
    · rename_i hlt
      split
      · exact h
      · rename_i hb
        refine cellsWf_cons.2 ⟨hb, ?_, h⟩
        intro c hc
        rcases List.mem_cons.1 hc with rfl | hc
        · exact hlt
        · exact lt_trans hlt (hr c hc)
    · split
      · rename_i _ heq
        split
        · exact hw
        · rename_i hb
          exact cellsWf_cons.2 ⟨hb, fun c hc => heq ▸ hr c hc, hw⟩
      · refine cellsWf_cons.2 ⟨hv, fun c hc => ?_, ih hw⟩
        rcases cellsPut_mem hc with h' | h'
        · omega
        · exact hr c h'

/-- The written address reads as written. -/
@[simp] theorem cellsGet_put_same {l : List Host.Cell} (a : Nat) (b : Byte) (h : cellsWf l = true) :
    cellsGet (cellsPut l a b) a = b := by
  induction l with
  | nil =>
    simp only [cellsPut]
    split
    · rename_i hb
      simp [cellsGet, hb]
    · simp [cellsGet]
  | cons d r ih =>
    obtain ⟨x, v⟩ := d
    obtain ⟨hv, hr, hw⟩ := cellsWf_cons.1 h
    simp only [cellsPut]
    split
    · rename_i hlt
      split
      · rename_i hb
        subst hb
        exact cellsGet_below fun c hc => by
          rcases List.mem_cons.1 hc with rfl | hc
          · exact hlt
          · exact lt_trans hlt (hr c hc)
      · simp [cellsGet]
    · split
      · rename_i _ heq
        subst heq
        split
        · rename_i hb
          subst hb
          exact cellsGet_below hr
        · simp [cellsGet]
      · rename_i _ hne
        simp only [cellsGet]
        rw [if_neg fun e => hne e.symm]
        exact ih hw

/-- Every other address reads as before. -/
theorem cellsGet_put_other {l : List Host.Cell} {a a' : Nat} (b : Byte) (hne : a' ≠ a) :
    cellsGet (cellsPut l a b) a' = cellsGet l a' := by
  induction l with
  | nil =>
    simp only [cellsPut]
    split
    · rfl
    · simp [cellsGet, hne.symm]
  | cons d r ih =>
    obtain ⟨x, v⟩ := d
    simp only [cellsPut]
    split
    · split
      · rfl
      · simp [cellsGet, hne.symm]
    · split
      · rename_i _ heq
        subst heq
        split
        · simp [cellsGet, hne.symm]
        · simp [cellsGet, hne.symm]
      · simp only [cellsGet]
        split
        · rfl
        · exact ih

/-- A number's bytes keep the canonical form. -/
theorem cellsPutNum_wf (n : Nat) : ∀ {l : List Host.Cell} (a v : Nat), cellsWf l = true →
    cellsWf (cellsPutNum l a n v) = true := by
  induction n with
  | zero => intro l a v h; exact h
  | succ n ih => intro l a v h; exact ih (a + 1) (v / 256) (cellsPut_wf a _ h)

/-- A number's bytes leave every address outside them alone. -/
theorem cellsPutNum_other (n : Nat) : ∀ {l : List Host.Cell} (a v : Nat) {x : Nat}, x < a ∨ a + n ≤ x →
    cellsGet (cellsPutNum l a n v) x = cellsGet l x := by
  induction n with
  | zero => intro l a v x _; rfl
  | succ n ih =>
    intro l a v x h
    rw [cellsPutNum, ih (a + 1) (v / 256) (by omega), cellsGet_put_other _ (by omega)]

/-- A number's bytes read as they were written. -/
theorem cellsPutNum_same (n : Nat) : ∀ {l : List Host.Cell} (a v k : Nat), cellsWf l = true → k < n →
    cellsGet (cellsPutNum l a n v) (a + k) = BitVec.ofNat 8 (v / 256 ^ k) := by
  induction n with
  | zero => intro l a v k _ h; omega
  | succ n ih =>
    intro l a v k hw h
    cases k with
    | zero =>
      simp only [cellsPutNum, Nat.add_zero]
      rw [cellsPutNum_other n (a + 1) _ (by omega), cellsGet_put_same _ _ hw]
      simp
    | succ k =>
      rw [cellsPutNum, show a + (k + 1) = a + 1 + k by omega, ih (a + 1) (v / 256) k (cellsPut_wf a _ hw) (by omega),
        Nat.div_div_eq_div_mul, pow_succ, Nat.mul_comm]

/-- The bytes of a line keep the canonical form. -/
theorem cellsPutLine_wf {l : List Host.Cell} (a : Nat) (d : LineBits) (m : BitVec 64) (h : cellsWf l = true) :
    cellsWf (cellsPutLine l a d m) = true := by
  unfold cellsPutLine
  generalize List.range 64 = ks
  induction ks generalizing l with
  | nil => exact h
  | cons k r ih =>
    simp only [List.foldl_cons]
    apply ih
    split
    · exact cellsPut_wf _ _ h
    · exact h

/-- The bytes of a line leave every address outside the line alone. -/
theorem cellsPutLine_other {l : List Host.Cell} (a : Nat) (d : LineBits) (m : BitVec 64) {x : Nat}
    (hx : x < a ∨ a + 64 ≤ x) : cellsGet (cellsPutLine l a d m) x = cellsGet l x := by
  unfold cellsPutLine
  have hk : ∀ k ∈ List.range 64, k < 64 := fun k h => List.mem_range.1 h
  revert hk
  generalize List.range 64 = ks
  induction ks generalizing l with
  | nil => intro _; rfl
  | cons k r ih =>
    intro hk
    have h0 := hk k (by simp)
    simp only [List.foldl_cons]
    rw [ih fun j hj => hk j (by simp [hj])]
    split
    · exact cellsGet_put_other _ (by omega)
    · rfl

/-- Bytes left out keep the canonical form. -/
theorem cellsWf_filter {l : List Host.Cell} (p : Host.Cell → Bool) (h : cellsWf l = true) :
    cellsWf (l.filter p) = true := by
  induction l with
  | nil => rfl
  | cons c r ih =>
    obtain ⟨x, v⟩ := c
    obtain ⟨hv, hr, hw⟩ := cellsWf_cons.1 h
    simp only [List.filter_cons]
    split
    · exact cellsWf_cons.2 ⟨hv, fun c hc => hr c (List.mem_filter.1 hc).1, ih hw⟩
    · exact ih hw

end Sys2Proof.Machine
end

