-- ==== Sys2Proof/Laws/Memory.lean ====
section
/-! SUPPORT. What the memory operations can do: each changes memory, the messages under way, the windows' pins, the
posts that wait, the free values and numbers taken and the codec counters, and nothing else, and keeps the canonical form. -/

namespace Sys2Proof.Machine

/-- `t` differs from `s` only in what a memory operation may change. -/
structure Quiet (s t : State) : Prop where
  same : { t with mem := s.mem, net := s.net, windows := s.windows, kfqWaiting := s.kfqWaiting, fresh := s.fresh,
                  nextId := s.nextId, dies := s.dies } = s
  net : { t.net with msgs := s.net.msgs } = s.net
  dies : ∀ d, { t.die d with loss := (s.die d).loss, clamp := (s.die d).clamp, spec := (s.die d).spec } = s.die d
  wf : Memory.wf s.mem = true → Memory.wf t.mem = true

theorem Quiet.refl (s : State) : Quiet s s := ⟨rfl, rfl, fun _ => rfl, id⟩

theorem Quiet.trans {s t u : State} (h : Quiet s t) (k : Quiet t u) : Quiet s u := by
  obtain ⟨h1, h2, h3, h4⟩ := h
  obtain ⟨k1, k2, k3, k4⟩ := k
  refine ⟨?_, ?_, ?_, fun w => k4 (h4 w)⟩
  · rw [← h1]
    rw [← k1] at h1 ⊢
  · rw [← h2, ← k2]
  · intro d
    rw [← h3 d, ← k3 d]

/-- A change of memory that keeps the arrays' form is quiet. -/
theorem Quiet.mem {s : State} (f : Mem → Mem) (h : Memory.wf s.mem = true → Memory.wf (f s.mem) = true) :
    Quiet s (s.modMem f) := ⟨rfl, rfl, fun _ => rfl, h⟩

/-- A change of memory beside the arrays is quiet. -/
theorem Quiet.beside {s : State} (f : Mem → Mem) (h : (f s.mem).arrays = s.mem.arrays) : Quiet s (s.modMem f) :=
  Quiet.mem f fun w => by simpa [Memory.wf, h] using w

/-- A choice of quiet operations is quiet. -/
theorem Quiet.ite {s t u : State} (c : Prop) [Decidable c] (h : Quiet s t) (k : Quiet s u) :
    Quiet s (if c then t else u) := by
  split
  · exact h
  · exact k

/-- A fold of quiet operations is quiet. -/
theorem Quiet.fold {α : Type} (f : State → α → State) (h : ∀ s a, Quiet s (f s a)) (l : List α) (s : State) :
    Quiet s (l.foldl f s) := by
  induction l generalizing s with
  | nil => exact Quiet.refl s
  | cons a r ih => exact (h s a).trans (ih (f s a))

theorem Quiet.cur {s t : State} (h : Quiet s t) : t.cur = s.cur :=
  show { t with mem := s.mem, net := s.net, windows := s.windows, kfqWaiting := s.kfqWaiting, fresh := s.fresh,
                nextId := s.nextId, dies := s.dies }.cur = s.cur by rw [h.same]
theorem Quiet.core {s t : State} (h : Quiet s t) : t.core = s.core :=
  show { t with mem := s.mem, net := s.net, windows := s.windows, kfqWaiting := s.kfqWaiting, fresh := s.fresh,
                nextId := s.nextId, dies := s.dies }.core = s.core by rw [h.same]
theorem Quiet.seqs {s t : State} (h : Quiet s t) : t.seqs = s.seqs :=
  show { t with mem := s.mem, net := s.net, windows := s.windows, kfqWaiting := s.kfqWaiting, fresh := s.fresh,
                nextId := s.nextId, dies := s.dies }.seqs = s.seqs by rw [h.same]
theorem Quiet.ctxs {s t : State} (h : Quiet s t) : t.ctxs = s.ctxs :=
  show { t with mem := s.mem, net := s.net, windows := s.windows, kfqWaiting := s.kfqWaiting, fresh := s.fresh,
                nextId := s.nextId, dies := s.dies }.ctxs = s.ctxs by rw [h.same]
theorem Quiet.launches {s t : State} (h : Quiet s t) : t.launches = s.launches :=
  show { t with mem := s.mem, net := s.net, windows := s.windows, kfqWaiting := s.kfqWaiting, fresh := s.fresh,
                nextId := s.nextId, dies := s.dies }.launches = s.launches by rw [h.same]
theorem Quiet.regs {s t : State} (h : Quiet s t) : t.regs = s.regs :=
  show { t with mem := s.mem, net := s.net, windows := s.windows, kfqWaiting := s.kfqWaiting, fresh := s.fresh,
                nextId := s.nextId, dies := s.dies }.regs = s.regs by rw [h.same]
theorem Quiet.ranges {s t : State} (h : Quiet s t) : t.ranges = s.ranges :=
  show { t with mem := s.mem, net := s.net, windows := s.windows, kfqWaiting := s.kfqWaiting, fresh := s.fresh,
                nextId := s.nextId, dies := s.dies }.ranges = s.ranges by rw [h.same]
theorem Quiet.channels {s t : State} (h : Quiet s t) : t.channels = s.channels :=
  show { t with mem := s.mem, net := s.net, windows := s.windows, kfqWaiting := s.kfqWaiting, fresh := s.fresh,
                nextId := s.nextId, dies := s.dies }.channels = s.channels by rw [h.same]

theorem Quiet.getSeq {s t : State} (h : Quiet s t) (q : SeqId) : t.getSeq q = s.getSeq q := by
  simp [State.getSeq, h.cur, h.core, h.seqs]

theorem Quiet.seqD {s t : State} (h : Quiet s t) (q : SeqId) : t.seqD q = s.seqD q := by
  simp [State.seqD, h.getSeq]

/-! ## Posts -/

theorem quiet_post (s : State) (p : Post) : Quiet s (s.post p) := ⟨rfl, rfl, fun _ => rfl, id⟩

theorem quiet_postHardware (s : State) (c x l : Nat) (a : Option Word) : Quiet s (s.postHardware c x l a) :=
  ⟨rfl, rfl, fun _ => rfl, id⟩

/-! ## The arrays -/

/-- A die that is changed, and every other one. -/
theorem die_modDie (s : State) (n d : Nat) (f : Die → Die) :
    (s.modDie n f).die d = if d = n ∧ n < 4 then f (s.die n) else s.die d := by
  have getD (v : Vector Die 4) (k : Nat) : v.getD k Die.reset = v[k]?.getD Die.reset := by
    by_cases h : k < 4 <;> simp [Vector.getD, h]
  simp only [State.modDie, State.die, getD, Vector.getElem?_setIfInBounds]
  by_cases h : n = d
  · subst h
    by_cases h4 : n < 4 <;> simp [h4]
  · have h' : ¬(d = n ∧ n < 4) := fun e => h e.1.symm
    simp [h, h']

theorem quiet_clearTail (s : State) (n la : Nat) : Quiet s (s.clearTail n la) := by
  unfold State.clearTail
  dsimp only
  split
  · exact Quiet.mem _ fun w => cellsPutNum_wf _ _ _ w
  · exact Quiet.refl s

/-- A change of a die's codec counters is quiet. -/
theorem quiet_counts (s : State) (d : Nat) (f : Die → Die)
    (h : ∀ x, { f x with loss := x.loss, clamp := x.clamp, spec := x.spec } = x) : Quiet s (s.modDie d f) := by
  refine ⟨rfl, rfl, fun e => ?_, id⟩
  rw [die_modDie]
  split
  · rename_i hd
    obtain ⟨rfl, -⟩ := hd
    exact h _
  · rfl

theorem quiet_encodeTo (s : State) (n d : Nat) (r : RangeReg) (l : SliceLine) (k : Nat) :
    Quiet s (s.encodeTo n d r l k) := by
  unfold State.encodeTo
  dsimp only
  refine Quiet.trans ?_ (quiet_counts _ _ _ fun _ => rfl)
  refine Quiet.trans ?_ (quiet_clearTail _ _ _)
  exact Quiet.mem _ fun w => cellsPutNum_wf _ _ _ w

theorem quiet_noteBad (s : State) (l : SliceLine) : Quiet s (s.noteBad l) := Quiet.beside _ rfl

theorem quiet_putArrays (s : State) (a : Nat) (d : LineBits) (m : BitVec 64) :
    Quiet s (s.modMem fun x => { x with arrays := cellsPutLine x.arrays a d m }) :=
  Quiet.mem _ fun w => cellsPutLine_wf _ _ _ w

theorem quiet_writeBack (s : State) (l : SliceLine) : Quiet s (s.writeBack l) := by
  unfold State.writeBack
  split
  · dsimp only
    split
    · refine Quiet.trans ?_ (quiet_noteBad _ _)
      split
      · split
        · exact (quiet_encodeTo ..).trans (quiet_encodeTo ..)
        · exact quiet_encodeTo ..
      · split
        · exact quiet_encodeTo ..
        · exact Quiet.refl s
    · exact (quiet_putArrays ..).trans (quiet_noteBad ..)
  · split
    · exact quiet_postHardware ..
    · exact (quiet_putArrays ..).trans (quiet_noteBad ..)

/-! ## The lines of the slices -/

theorem quiet_putLine (s : State) (l : SliceLine) : Quiet s (s.putLine l) := Quiet.beside _ rfl

theorem quiet_dropLine (s : State) (l : SliceLine) : Quiet s (s.dropLine l) := Quiet.beside _ rfl

theorem quiet_breakWords (s : State) (w : List Nat) : Quiet s (s.breakWords w) := Quiet.beside _ rfl

theorem quiet_codecWrite (s : State) (l : SliceLine) : Quiet s (s.codecWrite l) := by
  unfold State.codecWrite
  split
  · exact quiet_breakWords ..
  · exact Quiet.refl s

theorem quiet_evict (s : State) (l : SliceLine) : Quiet s (s.evict l) := by
  unfold State.evict
  dsimp only
  refine Quiet.trans ?_ (quiet_dropLine _ _)
  have h : Quiet s (if l.isDirty then s.writeBack l else s) := Quiet.ite _ (quiet_writeBack ..) (Quiet.refl s)
  exact Quiet.ite _ (h.trans (quiet_codecWrite ..)) h

theorem quiet_install (s : State) (l : SliceLine) : Quiet s (s.install l) := by
  unfold State.install
  dsimp only
  refine Quiet.trans ?_ (quiet_putLine _ _)
  split
  · exact Quiet.refl s
  · split
    · exact quiet_evict ..
    · exact Quiet.refl s

theorem quiet_cleanLine (s : State) (l : SliceLine) : Quiet s (s.cleanLine l) := by
  unfold State.cleanLine
  exact Quiet.ite _ ((quiet_writeBack ..).trans (quiet_dropLine ..)) ((quiet_writeBack ..).trans (Quiet.beside _ rfl))

theorem quiet_cleanOldest (s : State) (d sl : Nat) : Quiet s (s.cleanOldest d sl) := by
  unfold State.cleanOldest
  split
  · exact Quiet.refl s
  · exact quiet_cleanLine ..

theorem quiet_cleanSome (d sl n : Nat) : ∀ s : State, Quiet s (s.cleanSome d sl n) := by
  induction n with
  | zero => exact fun s => Quiet.refl s
  | succ n ih => exact fun s => (quiet_cleanOldest s d sl).trans (ih _)

theorem quiet_capDirty (s : State) (d sl : Nat) : Quiet s (s.capDirty d sl) := quiet_cleanSome ..

theorem quiet_putDirty (s : State) (l : SliceLine) : Quiet s (s.putDirty l) := by
  unfold State.putDirty
  exact (quiet_putLine ..).trans ((Quiet.beside _ rfl).trans (quiet_capDirty ..))

theorem quiet_ensure (s : State) (la : Nat) : Quiet s (s.ensure la).1 := by
  unfold State.ensure
  split
  · exact quiet_putLine ..
  · dsimp only
    have h (l : SliceLine) (c : Prop) [Decidable c] : Quiet s (if c then (s.install l).putDirty l else s.install l) :=
      Quiet.ite _ ((quiet_install ..).trans (quiet_putDirty ..)) (quiet_install ..)
    split
    · exact (h _ _).trans (Quiet.beside _ rfl)
    · exact h _ _

theorem quiet_modWindow (s : State) (i : Nat) (f : Window → Window) : Quiet s (s.modWindow i f) :=
  ⟨rfl, rfl, fun _ => rfl, id⟩

theorem quiet_noteWindowBad (s : State) (l : SliceLine) : Quiet s (s.noteWindowBad l) := by
  unfold State.noteWindowBad
  split
  · exact quiet_modWindow ..
  · exact Quiet.refl s

theorem quiet_poisonLine (s : State) (la : Nat) : Quiet s (s.poisonLine la) := by
  unfold State.poisonLine
  exact (quiet_ensure ..).trans ((quiet_putDirty ..).trans (quiet_noteWindowBad ..))

theorem quiet_enterWhole (s : State) (la : Nat) : Quiet s (s.enterWhole la).1 := quiet_install ..

theorem quiet_homeWrite (s : State) (la : Nat) (d m : LineBits) (p : Bool) : Quiet s (s.homeWrite la d m p) := by
  unfold State.homeWrite
  split
  · exact Quiet.refl s
  · dsimp only
    have h (c : Prop) [Decidable c] : Quiet s (if c then s.enterWhole la else s.ensure la).1 := by
      split
      · exact quiet_enterWhole ..
      · exact quiet_ensure ..
    have k (x : SliceLine) (c : Prop) [Decidable c] :=
      (h c).trans ((quiet_breakWords _ (maskWords la m)).trans (quiet_putDirty _ x))
    split
    · exact (k _ _).trans (quiet_noteWindowBad ..)
    · exact k _ _

theorem quiet_applyEntry (s : State) (la : Nat) (d m : LineBits) (r : List PendingRed) (p : Bool) :
    Quiet s (s.applyEntry la d m r p) := by
  unfold State.applyEntry
  dsimp only
  split
  · exact quiet_homeWrite ..
  · exact (quiet_ensure ..).trans (quiet_homeWrite ..)

/-! ## Pinned window lines -/

theorem quiet_pinLine (s : State) (la : Nat) : Quiet s (s.pinLine la) := by
  unfold State.pinLine
  split
  · exact Quiet.refl s
  · split
    · dsimp only
      split
      · exact (quiet_homeWrite ..).trans ((quiet_putLine ..).trans (quiet_modWindow ..))
      · exact quiet_homeWrite ..
    · exact (quiet_ensure ..).trans ((quiet_putLine ..).trans (quiet_modWindow ..))

theorem quiet_unpinWindow (s : State) (i : Nat) : Quiet s (s.unpinWindow i) := by
  unfold State.unpinWindow
  dsimp only
  refine Quiet.trans ?_ (Quiet.fold _ (fun a l => quiet_capDirty a _ _) _ _)
  exact ⟨rfl, rfl, fun _ => rfl, id⟩

/-! ## The directory -/

theorem quiet_dirAnswer (s : State) (la c : Nat) : Quiet s (s.dirAnswer la c) := by
  unfold State.dirAnswer
  split
  · exact Quiet.refl s
  · exact Quiet.ite _ (Quiet.refl s) (Quiet.beside _ rfl)

theorem quiet_send (s : State) (q : SeqId) (k pa : Nat) (va : Word) (n : Nat) (b : Body) (x y d : Nat) :
    Quiet s (s.send q k pa va n b x y d) := ⟨rfl, rfl, fun _ => rfl, id⟩

theorem quiet_applyStaged (s : State) (e : StageEntry) : Quiet s (s.applyStaged e) := by
  unfold State.applyStaged
  exact Quiet.ite _ (quiet_applyEntry ..) ((quiet_applyEntry ..).trans (quiet_send ..))

theorem quiet_gather (s : State) (la : Nat) (cs : Nat → Bool) : Quiet s (s.gather la cs) := by
  have a1 : Quiet s (s.net.msgs.foldl (fun (acc : State) m =>
      match m.body with
      | .publish d k reds p _ => if m.publishes la cs then acc.applyEntry la d k reds p else acc
      | _ => acc) s) := Quiet.fold _ (fun a m => by
    split
    · exact Quiet.ite _ (quiet_applyEntry ..) (Quiet.refl a)
    · exact Quiet.refl a) _ _
  refine a1.trans ?_
  unfold State.gather
  dsimp only
  generalize s.net.msgs.foldl _ s = s1
  have a2 : Quiet s1 { s1 with net := { s1.net with
      msgs := s1.net.msgs.filterMap fun m => if m.publishes la cs then m.applied else some m } } :=
    ⟨rfl, rfl, fun _ => rfl, id⟩
  refine a2.trans ?_
  generalize ({ s1 with net := _ } : State) = s2
  generalize List.filter _ s1.mem.stage = held
  refine Quiet.trans ?_ (Quiet.fold (fun (a : State) (e : StageEntry) => a.dirAnswer la e.cluster)
    (fun a e => quiet_dirAnswer a la e.cluster) held _)
  exact (Quiet.beside _ rfl).trans (Quiet.fold State.applyStaged quiet_applyStaged held _)

theorem quiet_forceEntry (s : State) (e : DirEntry) : Quiet s (s.forceEntry e) := by
  unfold State.forceEntry
  exact (Quiet.fold _ (fun a la => (quiet_gather a la _).trans (quiet_pinLine _ la)) _ _).trans (Quiet.beside _ rfl)

theorem quiet_dirNew (s : State) (e : DirEntry) : Quiet s (s.dirNew e) := by
  unfold State.dirNew
  dsimp only
  refine Quiet.trans ?_ (Quiet.beside _ rfl)
  split
  · split
    · exact quiet_forceEntry ..
    · exact Quiet.refl s
  · exact Quiet.refl s

theorem quiet_dirRecord (s : State) (la c : Nat) : Quiet s (s.dirRecord la c) := by
  unfold State.dirRecord
  split
  · exact Quiet.beside _ rfl
  · exact quiet_dirNew ..

theorem quiet_dirSplit (la n : Nat) : ∀ s : State, Quiet s (s.dirSplit la n) := by
  induction n with
  | zero => exact fun s => Quiet.refl s
  | succ n ih =>
    intro s
    unfold State.dirSplit
    split
    · exact Quiet.refl s
    · split
      · exact Quiet.beside _ rfl
      · refine Quiet.trans ?_ (ih _)
        exact (Quiet.trans (Quiet.beside _ rfl) (quiet_dirNew ..)).trans (quiet_dirNew ..)

theorem quiet_bringHome (s : State) (la : Nat) (but : Option Nat) : Quiet s (s.bringHome la but) := by
  unfold State.bringHome
  split
  · exact Quiet.refl s
  · exact Quiet.ite _ ((quiet_dirSplit la 12 s).trans (quiet_gather ..)) (Quiet.refl s)

theorem quiet_forceLine (s : State) (la : Nat) : Quiet s (s.forceLine la) :=
  (quiet_bringHome s la none).trans (quiet_pinLine _ la)

/-! ## Access in one step -/

theorem quiet_coherent (s : State) (la : Nat) : Quiet s (s.coherent la).1 :=
  (quiet_forceLine s la).trans (quiet_ensure _ la)

theorem quiet_readHome (s : State) (pa n : Nat) : Quiet s (s.readHome pa n).1 := quiet_coherent s _

theorem quiet_writeHome (s : State) (pa n v : Nat) : Quiet s (s.writeHome pa n v) :=
  (quiet_forceLine s _).trans (quiet_homeWrite ..)

theorem quiet_putCache (s : State) (c : CacheLine) : Quiet s (s.putCache c) := Quiet.beside _ rfl

theorem quiet_readL2 (s : State) (d : Nat) (k : PageKind) (la : Nat) : Quiet s (s.readL2 d k la).1 := by
  unfold State.readL2
  split
  · exact quiet_coherent s la
  · split
    · exact quiet_putLine ..
    · exact (quiet_coherent s la).trans (quiet_install ..)

theorem quiet_writeL2 (s : State) (k d la : Nat) (x m : LineBits) : Quiet s (s.writeL2 k d la x m) := by
  unfold State.writeL2
  refine Quiet.ite _ ((quiet_forceLine s la).trans (quiet_homeWrite ..)) ?_
  dsimp only
  split
  · exact (quiet_send ..).trans (quiet_putLine ..)
  · exact quiet_send ..

theorem quiet_leaveCache (s : State) (c : CacheLine) : Quiet s (s.leaveCache c) := by
  unfold State.leaveCache
  dsimp only
  exact Quiet.trans (Quiet.ite _ (Quiet.refl s) (quiet_writeL2 ..)) (Quiet.beside _ rfl)

theorem quiet_cacheRoom (s : State) (o la : Nat) : Quiet s (s.cacheRoom o la) :=
  Quiet.fold _ quiet_leaveCache _ _

theorem quiet_readCached (s : State) (o : Option Nat) (d : Nat) (k : PageKind) (la : Nat) :
    Quiet s (s.readCached o d k la).1 := by
  unfold State.readCached
  split
  · exact quiet_readL2 ..
  · split
    · split
      · exact (quiet_readL2 ..).trans (quiet_putCache ..)
      · exact quiet_putCache ..
    · dsimp only
      split
      · exact quiet_readL2 ..
      · exact (quiet_readL2 ..).trans ((quiet_cacheRoom ..).trans (quiet_putCache ..))

theorem quiet_writeCached (s : State) (o : Option Nat) (k d la : Nat) (x m : LineBits) :
    Quiet s (s.writeCached o k d la x m) := by
  unfold State.writeCached
  split
  · exact quiet_writeL2 ..
  · split
    · exact quiet_writeL2 ..
    · dsimp only
      split
      · exact (quiet_readCached ..).trans (quiet_putCache ..)
      · exact (quiet_readCached ..).trans (quiet_writeL2 ..)

theorem quiet_flushCache (s : State) (o : Nat) : Quiet s (s.flushCache o) := by
  unfold State.flushCache
  refine Quiet.trans (Quiet.fold _ (fun a c => ?_) _ _) (Quiet.beside _ rfl)
  exact Quiet.ite _ (quiet_writeL2 ..) (Quiet.refl a)

theorem quiet_dropClean (s : State) (o : Nat) : Quiet s (s.dropClean o) := Quiet.beside _ rfl

theorem quiet_dropGuests (s : State) (d : Nat) : Quiet s (s.dropGuests d) := Quiet.beside _ rfl

theorem quiet_shrinkCache (s : State) (o n : Nat) : Quiet s (s.shrinkCache o n) := Quiet.fold _ quiet_leaveCache _ _

theorem quiet_reserve (s : State) (w : WKey) (i x : Nat) : Quiet s (s.reserve w i x) := Quiet.beside _ rfl

theorem quiet_clearResv (s : State) (w : WKey) : Quiet s (s.clearResv w) := Quiet.beside _ rfl

/-! ## Accesses through a translation -/

theorem quiet_noteWrite (s : State) (d pa : Nat) : Quiet s (s.noteWrite d pa) := by
  unfold State.noteWrite
  exact Quiet.ite _ (Quiet.refl s) (quiet_send ..)

theorem quiet_walkRead (s : State) (pa : Nat) : Quiet s (s.walkRead pa) := quiet_readHome ..

theorem quiet_markUsed (s : State) (l : Leaf) (w : Bool) : Quiet s (s.markUsed l w) := by
  unfold State.markUsed
  have h : Quiet s (l.walked.foldl State.walkRead s) := Quiet.fold _ quiet_walkRead _ _
  exact Quiet.ite _ h (h.trans ((quiet_writeHome ..).trans ((quiet_noteWrite ..).trans (Quiet.beside _ rfl))))

theorem quiet_noteReadonly (s : State) (l : Leaf) (va : Word) : Quiet s (s.noteReadonly l va) := by
  unfold State.noteReadonly
  dsimp only
  split
  · exact Quiet.beside _ rfl
  · exact Quiet.refl s

theorem quiet_markAll (s : State) (l : List (Leaf × Word × Nat)) (w : Bool) : Quiet s (s.markAll l w) := by
  unfold State.markAll
  apply Quiet.fold
  intro a p
  exact (quiet_markUsed a p.1 w).trans (quiet_noteReadonly ..)

theorem quiet_readChunk (s : State) (o : Option Nat) (d : Nat) (k : PageKind) (pa n : Nat) :
    Quiet s (s.readChunk o d k pa n).1 := by
  unfold State.readChunk
  split
  · exact quiet_readCached ..
  · exact quiet_readHome ..

theorem quiet_writeChunk (s : State) (o : Option Nat) (d : Nat) (k : PageKind) (pa n v : Nat) :
    Quiet s (s.writeChunk o d k pa n v) := by
  unfold State.writeChunk
  dsimp only
  split
  · exact quiet_writeCached ..
  · exact (quiet_forceLine ..).trans ((quiet_homeWrite ..).trans (quiet_noteWrite ..))

theorem quiet_readChunks (o : Option Nat) (d : Nat) (k : PageKind) (l : List (Nat × Nat)) :
    ∀ s : State, Quiet s (s.readChunks o d k l).1 := by
  induction l with
  | nil => exact fun s => Quiet.refl s
  | cons c r ih => exact fun s => (quiet_readChunk s o d k c.1 c.2).trans (ih _)

theorem quiet_writeChunks (o : Option Nat) (d : Nat) (k : PageKind) (l : List (Nat × Nat)) :
    ∀ (s : State) (b : List Byte), Quiet s (s.writeChunks o d k l b) := by
  induction l with
  | nil => exact fun s _ => Quiet.refl s
  | cons c r ih => exact fun s b => (quiet_writeChunk s o d k c.1 c.2 _).trans (ih _ _)

theorem quiet_readPieces (o : Option Nat) (d : Nat) (l : List (Nat × PageKind × Nat)) :
    ∀ s : State, Quiet s (s.readPieces o d l).1 := by
  induction l with
  | nil => exact fun s => Quiet.refl s
  | cons c r ih => exact fun s => (quiet_readChunks o d c.2.1 _ s).trans (ih _)

theorem quiet_writePieces (o : Option Nat) (d : Nat) (l : List (Nat × PageKind × Nat)) :
    ∀ (s : State) (b : List Byte), Quiet s (s.writePieces o d l b) := by
  induction l with
  | nil => exact fun s _ => Quiet.refl s
  | cons c r ih => exact fun s b => (quiet_writeChunks o d c.2.1 _ s _).trans (ih _ _)

/-! ## The save frame -/

theorem quiet_writeWords (s : State) (pa : Nat) (l : List Nat) : Quiet s (s.writeWords pa l) := by
  unfold State.writeWords
  apply Quiet.fold
  intro a p
  apply quiet_writeHome

/-- A frame write that succeeds is the checked access's marks and its bytes. -/
theorem frameWrite_some {s t : State} {w : WKey} {o : Nat} {b : List Byte} (h : s.frameWrite w o b = some t) :
    ∃ l, t = (s.markAll l true).writePieces none (s.dieOf (.worker w)) (piecesOf l) b := by
  rw [State.frameWrite] at h
  generalize s.checkAccess _ _ _ _ = r at h
  cases r with
  | error f => simp at h
  | ok l => simp at h; exact ⟨l, h.2.symm⟩

theorem quiet_frameWrite {s t : State} {w : WKey} {o : Nat} {b : List Byte} (h : s.frameWrite w o b = some t) :
    Quiet s t := by
  obtain ⟨l, rfl⟩ := frameWrite_some h
  exact (quiet_markAll s l true).trans (quiet_writePieces none _ (piecesOf l) (s.markAll l true) b)

/-- A frame read that succeeds is the checked access's marks and its bytes. -/
theorem frameRead_some {s t : State} {w : WKey} {o n : Nat} {b : List Byte} (h : s.frameRead w o n = some (t, b)) :
    ∃ l, t = ((s.markAll l false).readPieces none (s.dieOf (.worker w)) (piecesOf l)).1 ∧
      b = ((s.markAll l false).readPieces none (s.dieOf (.worker w)) (piecesOf l)).2.1 := by
  rw [State.frameRead] at h
  generalize s.checkAccess _ _ _ _ = r at h
  cases r with
  | error f => simp at h
  | ok l => simp at h; exact ⟨l, h.2.1.symm, h.2.2.symm⟩

theorem quiet_frameRead {s t : State} {w : WKey} {o n : Nat} {b : List Byte} (h : s.frameRead w o n = some (t, b)) :
    Quiet s t := by
  obtain ⟨l, rfl, -⟩ := frameRead_some h
  exact (quiet_markAll s l false).trans (quiet_readPieces none _ (piecesOf l) (s.markAll l false))

theorem quiet_frameModify {s t : State} {w : WKey} {o m v : Nat} (h : s.frameModify w o m v = some t) : Quiet s t := by
  rw [State.frameModify] at h
  cases hr : s.frameRead w o 8 with
  | none => simp [hr] at h
  | some p =>
    obtain ⟨u, b⟩ := p
    rw [hr] at h
    exact (quiet_frameRead hr).trans (quiet_frameWrite h)

end Sys2Proof.Machine
end

