-- ==== Sys2Proof/Laws/Operands.lean ====
section
/-! SUPPORT. What `checked` can do: the one lemma the proofs about a meaning cite. -/

namespace Sys2Proof.Machine

/-- A ready instruction passes rows 4 to 9 of R85. -/
theorem checkFault_of_ready {i : Instr} {s : State} (h : i.ready s = true) : s.checkFault i = none := by
  simp only [Instr.ready, Bool.and_eq_true] at h
  obtain ⟨⟨⟨⟨⟨⟨⟨⟨⟨⟨⟨⟨⟨h1, h2⟩, h3⟩, h4⟩, h5⟩, h6⟩, h7⟩, -⟩, -⟩, -⟩, -⟩, -⟩, -⟩, -⟩ := h
  have e7 : (kindOf s.cur == .vc && i.operands.vregs.any fun r => decide (vnregOf s.core.w.vncode ≤ r)) = false := by
    cases hk : kindOf s.cur == SeqKind.vc
    · rfl
    · have hk' : kindOf s.cur = .vc := by simpa using hk
      simp [hk'] at h7
      simpa using h7
  simp [State.checkFault, h1, h2, h3, h4, h5, h6, e7]

/-- A ready instruction passes row 10 of R85, and R254 does not bar it. -/
theorem issueFault_of_ready {i : Instr} {s : State} (h : i.ready s = true) : s.issueFault i = none := by
  simp only [Instr.ready, Bool.and_eq_true] at h
  obtain ⟨⟨⟨⟨⟨⟨⟨-, h8⟩, h9⟩, h10⟩, -⟩, -⟩, -⟩, -⟩ := h
  have e8 : (i.operands.gs.any (fun r => r.2 && s.core.bank.isEmpty r.1) ||
      i.operands.vs.any fun r => r.2 && s.vEmpty s.cur r.1.toNat) = false := by
    simp at h10 h8 ⊢
    exact ⟨fun a => (h10 a).2, h8⟩
  have e9 : ¬(((kindOf s.cur = .vc ∧ s.core.w.ins = true) ∧
      barredInSupervisor i.form.1.toNat s.core.w.vsaved = true)) := by
    simp at h9 ⊢
    rcases h9 with (h | h) | h <;> simp_all
  simp [State.issueFault, e8]
  simpa [and_assoc] using e9

/-- A ready instruction does not wait for a register or an entry of the queue. -/
theorem operandsWait_of_ready {i : Instr} {s : State} (h : i.ready s = true) : s.operandsWait i = false := by
  simp only [Instr.ready, Bool.and_eq_true] at h
  obtain ⟨⟨⟨⟨⟨-, h10⟩, h11⟩, hw⟩, -⟩, -⟩ := h
  simp only [State.operandsWait, Bool.or_eq_false_iff]
  refine ⟨⟨?_, ?_⟩, by simpa using hw⟩
  · simp at h10 ⊢
    exact fun a => (h10 a).1
  · split at h11 <;> simp_all

/-- A ready instruction reads no poison mark. -/
theorem markOf_of_ready {i : Instr} {s : State} (h : i.ready s = true) : markOf i.operands s.core = none := by
  simp only [Instr.ready, Bool.and_eq_true] at h
  simpa using h.1.2

/-- No fence holds a ready instruction. -/
theorem afterFences_of_ready {i : Instr} {s : State} (h : i.ready s = true) (e : State → Out) :
    afterFences i s e = e s := by
  simp only [Instr.ready, Bool.and_eq_true, Bool.not_eq_true'] at h
  rw [afterFences, h.2]
  rfl

/-- A ready instruction has its effect. -/
theorem checked_of_ready {i : Instr} {s : State} (h : i.ready s = true) (e : State → Out) : checked i s e = e s := by
  simp [checked, checkFault_of_ready h, operandsWait_of_ready h, issueFault_of_ready h, markOf_of_ready h,
    afterFences_of_ready h]

/-- What `afterFences` can do: have the effect, in the state given or in one whose due release is complete, or stay at the
instruction with the release under way. -/
theorem afterFences_cases (i : Instr) (s : State) (e : State → Out) :
    afterFences i s e = e s ∨ afterFences i s e = e (s.releaseDue s.cur).1 ∨
    afterFences i s e = .next (s.releaseDue s.cur).1 := by
  unfold afterFences
  split
  · dsimp only
    split
    · exact .inr (.inl rfl)
    · exact .inr (.inr rfl)
  · exact .inl rfl

/-- What `checked` can do: raise a condition of R85 or R254, wait, raise a poison mark, or go on behind the fences. -/
theorem checked_cases (i : Instr) (s : State) (e : State → Out) :
    (∃ src cond, (s.checkFault i = some (src, cond) ∨ s.issueFault i = some (src, cond)) ∧
      checked i s e = .next (s.raiseFrom src cond 0)) ∨
    (s.checkFault i = none ∧ s.operandsWait i = true ∧ checked i s e = .next s) ∨
    (∃ m, s.checkFault i = none ∧ s.operandsWait i = false ∧ s.issueFault i = none ∧
      markOf i.operands s.core = some m ∧ checked i s e = .next (s.raiseMark m)) ∨
    (s.checkFault i = none ∧ s.operandsWait i = false ∧ s.issueFault i = none ∧ markOf i.operands s.core = none ∧
      checked i s e = afterFences i s e) := by
  unfold checked
  split
  · rename_i src cond h
    exact .inl ⟨src, cond, .inl h, rfl⟩
  · rename_i h
    split
    · rename_i hw
      exact .inr (.inl ⟨h, hw, rfl⟩)
    · rename_i hw
      split
      · rename_i src cond hi
        exact .inl ⟨src, cond, .inr hi, rfl⟩
      · rename_i hi
        split
        · rename_i m hm
          exact .inr (.inr (.inl ⟨m, h, by simpa using hw, hi, hm, rfl⟩))
        · rename_i hm
          exact .inr (.inr (.inr ⟨h, by simpa using hw, hi, hm, rfl⟩))

end Sys2Proof.Machine
end

