-- ==== Sys2Proof/Laws/PerInstr.lean ====
section
/-! SUPPORT. One lemma per constructor of `Instr`: the head that an instruction encodes to carries its major opcode, of
a family of R70, and that family's tail length (R62, R63); an event has no encoding. -/

namespace Sys2Proof.Laws.Headed

/-- An instruction's head carries the opcode of a family and that family's tail length; an event has none. -/
def Statement (i : Instr) : Prop :=
  i.isEvent = true ∨ ∃ fam, familyOf i.form.1 = some fam ∧ (encode i).1.extractLsb' 9 7 = i.form.1 ∧
    (encode i).1.extractLsb' 7 2 = fam.tl

/-- The major opcode stands in the highest bits of a head. -/
theorem head_op (op : BitVec 7) (tl : BitVec 2) (h : BitVec 7) : (op ++ tl ++ h).extractLsb' 9 7 = op := by
  apply BitVec.eq_of_getLsbD_eq
  intro k hk
  rw [BitVec.getLsbD_extractLsb', BitVec.getLsbD_append, BitVec.getLsbD_append, if_neg (by omega), if_neg (by omega)]
  simp only [hk, decide_true, Bool.true_and]
  congr 1
  omega

/-- The tail length code stands below it. -/
theorem head_tl (op : BitVec 7) (tl : BitVec 2) (h : BitVec 7) : (op ++ tl ++ h).extractLsb' 7 2 = tl := by
  apply BitVec.eq_of_getLsbD_eq
  intro k hk
  rw [BitVec.getLsbD_extractLsb', BitVec.getLsbD_append, BitVec.getLsbD_append, if_neg (by omega), if_pos (by omega)]
  simp only [hk, decide_true, Bool.true_and]
  congr 1
  omega

/-- An instruction whose fields have a family's length is headed. -/
theorem of_form (i : Instr) (fam : Family) (h : familyOf i.form.1 = some fam) (k : i.form.2.assemble.1 = fam.tl) :
    Statement i := .inr ⟨fam, h, head_op .., (head_tl ..).trans k⟩

theorem nop (f : FN) : Statement (.nop f) := of_form _ _ rfl rfl
theorem br (f : FJP) : Statement (.br f) := of_form _ _ rfl rfl
theorem bcc (c : Cond) (f : FCJ) : Statement (.bcc c f) := of_form _ _ rfl rfl
theorem jal (f : FJP) : Statement (.jal f) := of_form _ _ rfl rfl
theorem jr (f : FRG) : Statement (.jr f) := of_form _ _ rfl rfl
theorem loop (f : FIM) : Statement (.loop f) := of_form _ _ rfl rfl
theorem endl (f : FN) : Statement (.endl f) := of_form _ _ rfl rfl
theorem lidx (f : FIM) : Statement (.lidx f) := of_form _ _ rfl rfl
theorem trap (f : FIM) : Statement (.trap f) := of_form _ _ rfl rfl
theorem eret (f : FN) : Statement (.eret f) := of_form _ _ rfl rfl
theorem eretK (f : FN) : Statement (.eretK f) := of_form _ _ rfl rfl
theorem halt (f : FN) : Statement (.halt f) := of_form _ _ rfl rfl
theorem srd (f : FIM) : Statement (.srd f) := of_form _ _ rfl rfl
theorem swr (f : FIM) : Statement (.swr f) := of_form _ _ rfl rfl
theorem xfWrite (f : FIM) : Statement (.xfWrite f) := of_form _ _ rfl rfl
theorem kpost (f : FIM) : Statement (.kpost f) := of_form _ _ rfl rfl
theorem ccrun (f : FIM) : Statement (.ccrun f) := of_form _ _ rfl rfl
theorem cctl (f : FIM) : Statement (.cctl f) := of_form _ _ rfl rfl
theorem rangeRegisterWrite (f : FIM) : Statement (.rangeRegisterWrite f) := of_form _ _ rfl rfl
theorem cdloss (f : FIM) : Statement (.cdloss f) := of_form _ _ rfl rfl
theorem cdrel (f : FIM) : Statement (.cdrel f) := of_form _ _ rfl rfl
theorem fence (f : FIM) : Statement (.fence f) := of_form _ _ rfl rfl
theorem waitt (f : FRG) : Statement (.waitt f) := of_form _ _ rfl rfl
theorem waittExpiry (q : SeqId) : Statement (.waittExpiry q) := .inl rfl
theorem waitm (f : FTR) : Statement (.waitm f) := of_form _ _ rfl rfl
theorem waitmWake (q : SeqId) : Statement (.waitmWake q) := .inl rfl
theorem waitmDeadline (q : SeqId) : Statement (.waitmDeadline q) := .inl rfl
theorem add (f : FRG) : Statement (.add f) := of_form _ _ rfl rfl
theorem sub (f : FRG) : Statement (.sub f) := of_form _ _ rfl rfl
theorem and (f : FRG) : Statement (.and f) := of_form _ _ rfl rfl
theorem or (f : FRG) : Statement (.or f) := of_form _ _ rfl rfl
theorem xor (f : FRG) : Statement (.xor f) := of_form _ _ rfl rfl
theorem shl (f : FRG) : Statement (.shl f) := of_form _ _ rfl rfl
theorem shr (f : FRG) : Statement (.shr f) := of_form _ _ rfl rfl
theorem sra (f : FRG) : Statement (.sra f) := of_form _ _ rfl rfl
theorem mul (f : FRG) : Statement (.mul f) := of_form _ _ rfl rfl
theorem mulh (f : FRG) : Statement (.mulh f) := of_form _ _ rfl rfl
theorem mulhn (f : FRG) : Statement (.mulhn f) := of_form _ _ rfl rfl
theorem div (f : FRG) : Statement (.div f) := of_form _ _ rfl rfl
theorem divn (f : FRG) : Statement (.divn f) := of_form _ _ rfl rfl
theorem rem (f : FRG) : Statement (.rem f) := of_form _ _ rfl rfl
theorem remn (f : FRG) : Statement (.remn f) := of_form _ _ rfl rfl
theorem min (f : FRG) : Statement (.min f) := of_form _ _ rfl rfl
theorem max (f : FRG) : Statement (.max f) := of_form _ _ rfl rfl
theorem minn (f : FRG) : Statement (.minn f) := of_form _ _ rfl rfl
theorem maxn (f : FRG) : Statement (.maxn f) := of_form _ _ rfl rfl
theorem slt (f : FRG) : Statement (.slt f) := of_form _ _ rfl rfl
theorem sltn (f : FRG) : Statement (.sltn f) := of_form _ _ rfl rfl
theorem addi (f : FIM) : Statement (.addi f) := of_form _ _ rfl rfl
theorem andi (f : FIM) : Statement (.andi f) := of_form _ _ rfl rfl
theorem ori (f : FIM) : Statement (.ori f) := of_form _ _ rfl rfl
theorem xori (f : FIM) : Statement (.xori f) := of_form _ _ rfl rfl
theorem shli (f : FIM) : Statement (.shli f) := of_form _ _ rfl rfl
theorem shri (f : FIM) : Statement (.shri f) := of_form _ _ rfl rfl
theorem srai (f : FIM) : Statement (.srai f) := of_form _ _ rfl rfl
theorem slti (f : FIM) : Statement (.slti f) := of_form _ _ rfl rfl
theorem sltni (f : FIM) : Statement (.sltni f) := of_form _ _ rfl rfl
theorem li (f : FWI) : Statement (.li f) := of_form _ _ rfl rfl
theorem lih (f : FKS) : Statement (.lih f) := of_form _ _ rfl rfl
theorem lea (f : FLEA) : Statement (.lea f) := of_form _ _ rfl rfl
theorem clz (f : FRG) : Statement (.clz f) := of_form _ _ rfl rfl
theorem ctz (f : FRG) : Statement (.ctz f) := of_form _ _ rfl rfl
theorem popc (f : FRG) : Statement (.popc f) := of_form _ _ rfl rfl
theorem sext8 (f : FRG) : Statement (.sext8 f) := of_form _ _ rfl rfl
theorem sext16 (f : FRG) : Statement (.sext16 f) := of_form _ _ rfl rfl
theorem sext32 (f : FRG) : Statement (.sext32 f) := of_form _ _ rfl rfl
theorem zext8 (f : FRG) : Statement (.zext8 f) := of_form _ _ rfl rfl
theorem zext16 (f : FRG) : Statement (.zext16 f) := of_form _ _ rfl rfl
theorem zext32 (f : FRG) : Statement (.zext32 f) := of_form _ _ rfl rfl
theorem sel (f : FTR) : Statement (.sel f) := of_form _ _ rfl rfl
theorem ld (f : FIM) : Statement (.ld f) := of_form _ _ rfl rfl
theorem st (f : FIM) : Statement (.st f) := of_form _ _ rfl rfl
theorem amo (op : AmoOp) (f : FTR) : Statement (.amo op f) := of_form _ _ rfl rfl
theorem cas (f : FTR) : Statement (.cas f) := of_form _ _ rfl rfl
theorem red (op : RedOp) (f : FTR) : Statement (.red op f) := of_form _ _ rfl rfl
theorem pref (f : FIM) : Statement (.pref f) := of_form _ _ rfl rfl
theorem srts (f : FRG) : Statement (.srts f) := of_form _ _ rfl rfl
theorem srfa (f : FRG) : Statement (.srfa f) := of_form _ _ rfl rfl
theorem srrd (f : FRG) : Statement (.srrd f) := of_form _ _ rfl rfl
theorem srrdHome (f : FRG) : Statement (.srrdHome f) := of_form _ _ rfl rfl
theorem srwr (f : FRG) : Statement (.srwr f) := of_form _ _ rfl rfl
theorem syncRegisterUpdate (m : Nat) : Statement (.syncRegisterUpdate m) := .inl rfl
theorem mirrorUpdate (m : Nat) : Statement (.mirrorUpdate m) := .inl rfl
theorem forkMx (f : FJP) : Statement (.forkMx f) := of_form _ _ rfl rfl
theorem forkCe (f : FJP) : Statement (.forkCe f) := of_form _ _ rfl rfl
theorem rdv (f : FIM) : Statement (.rdv f) := of_form _ _ rfl rfl
theorem rdvWake (q : SeqId) : Statement (.rdvWake q) := .inl rfl
theorem endProg (f : FN) : Statement (.endProg f) := of_form _ _ rfl rfl
theorem qpop (f : FN) : Statement (.qpop f) := of_form _ _ rfl rfl
theorem qpopWake (q : SeqId) : Statement (.qpopWake q) := .inl rfl
theorem qpush (f : FRG) : Statement (.qpush f) := of_form _ _ rfl rfl
theorem qpushWake (q : SeqId) : Statement (.qpushWake q) := .inl rfl
theorem twait (f : FTR) : Statement (.twait f) := of_form _ _ rfl rfl
theorem twaitWake (q : SeqId) : Statement (.twaitWake q) := .inl rfl
theorem tread (f : FTR) : Statement (.tread f) := of_form _ _ rfl rfl
theorem bar (f : FIM) : Statement (.bar f) := of_form _ _ rfl rfl
theorem launch (f : FIM) : Statement (.launch f) := of_form _ _ rfl rfl
theorem preempt (f : FIM) : Statement (.preempt f) := of_form _ _ rfl rfl
theorem resume (f : FIM) : Statement (.resume f) := of_form _ _ rfl rfl
theorem restore (w : WKey) : Statement (.restore w) := .inl rfl
theorem abort (f : FIM) : Statement (.abort f) := of_form _ _ rfl rfl
theorem tlbinvPage (f : FTR) : Statement (.tlbinvPage f) := of_form _ _ rfl rfl
theorem tlbinvCtx (f : FTR) : Statement (.tlbinvCtx f) := of_form _ _ rfl rfl
theorem tlbinvAll (f : FTR) : Statement (.tlbinvAll f) := of_form _ _ rfl rfl
theorem ctxsv (f : FIM) : Statement (.ctxsv f) := of_form _ _ rfl rfl
theorem ctxld (f : FIM) : Statement (.ctxld f) := of_form _ _ rfl rfl
theorem ctxsvV (f : FIM) : Statement (.ctxsvV f) := of_form _ _ rfl rfl
theorem ctxldV (f : FIM) : Statement (.ctxldV f) := of_form _ _ rfl rfl
theorem ctxsvVK (f : FIM) : Statement (.ctxsvVK f) := of_form _ _ rfl rfl
theorem ctxldVK (f : FIM) : Statement (.ctxldVK f) := of_form _ _ rfl rfl
theorem settle (f : FIM) : Statement (.settle f) := of_form _ _ rfl rfl
theorem settlePoint (sweep line : Nat) : Statement (.settlePoint sweep line) := .inl rfl
theorem settleCompletion (sweep : Nat) : Statement (.settleCompletion sweep) := .inl rfl
theorem renew (f : FIM) : Statement (.renew f) := of_form _ _ rfl rfl
theorem renewPoint (sweep line : Nat) : Statement (.renewPoint sweep line) := .inl rfl
theorem renewCompletion (sweep : Nat) : Statement (.renewCompletion sweep) := .inl rfl
theorem rgset (f : FTR) : Statement (.rgset f) := of_form _ _ rfl rfl
theorem rgrd (f : FTR) : Statement (.rgrd f) := of_form _ _ rfl rfl
theorem nbgo (f : FTR) : Statement (.nbgo f) := of_form _ _ rfl rfl
theorem nbgoSg (f : FTR) : Statement (.nbgoSg f) := of_form _ _ rfl rfl
theorem nbpart (f : FTR) : Statement (.nbpart f) := of_form _ _ rfl rfl
theorem vsetl (f : FIM) : Statement (.vsetl f) := of_form _ _ rfl rfl
theorem vdecl (f : FIM) : Statement (.vdecl f) := of_form _ _ rfl rfl
theorem qset (f : FIM) : Statement (.qset f) := of_form _ _ rfl rfl
theorem qadv (f : FIM) : Statement (.qadv f) := of_form _ _ rfl rfl
theorem walkAhead (w : WKey) (q : BitVec 4) (slot : Nat) : Statement (.walkAhead w q slot) := .inl rfl
theorem vld (f : FVM) : Statement (.vld f) := of_form _ _ rfl rfl
theorem vst (f : FVM) : Statement (.vst f) := of_form _ _ rfl rfl
theorem vgath (f : FVM) : Statement (.vgath f) := of_form _ _ rfl rfl
theorem vscat (f : FVM) : Statement (.vscat f) := of_form _ _ rfl rfl
theorem vldl (f : FVM) : Statement (.vldl f) := of_form _ _ rfl rfl
theorem vstc (f : FVM) : Statement (.vstc f) := of_form _ _ rfl rfl
theorem vamo (op : AmoOp) (f : FVX) : Statement (.vamo op f) := of_form _ _ rfl rfl
theorem vwait (c : Cond) (f : FVX) : Statement (.vwait c f) := of_form _ _ rfl rfl
theorem vwaitWake (w : WKey) : Statement (.vwaitWake w) := .inl rfl
theorem vfence (f : FIM) : Statement (.vfence f) := of_form _ _ rfl rfl
theorem vred (op : RedOp) (f : FVX) : Statement (.vred op f) := of_form _ _ rfl rfl
theorem vacc (f : FTR) : Statement (.vacc f) := of_form _ _ rfl rfl
theorem vget (f : FV3) : Statement (.vget f) := of_form _ _ rfl rfl
theorem vput (f : FV3) : Statement (.vput f) := of_form _ _ rfl rfl
theorem vbcast (f : FV3) : Statement (.vbcast f) := of_form _ _ rfl rfl
theorem vadd (f : FV3) : Statement (.vadd f) := of_form _ _ rfl rfl
theorem vsub (f : FV3) : Statement (.vsub f) := of_form _ _ rfl rfl
theorem vmul (f : FV3) : Statement (.vmul f) := of_form _ _ rfl rfl
theorem vmulh (f : FV3) : Statement (.vmulh f) := of_form _ _ rfl rfl
theorem vand (f : FV3) : Statement (.vand f) := of_form _ _ rfl rfl
theorem vor (f : FV3) : Statement (.vor f) := of_form _ _ rfl rfl
theorem vxor (f : FV3) : Statement (.vxor f) := of_form _ _ rfl rfl
theorem vshl (f : FV3) : Statement (.vshl f) := of_form _ _ rfl rfl
theorem vshr (f : FV3) : Statement (.vshr f) := of_form _ _ rfl rfl
theorem vsra (f : FV3) : Statement (.vsra f) := of_form _ _ rfl rfl
theorem vmin (f : FV3) : Statement (.vmin f) := of_form _ _ rfl rfl
theorem vmax (f : FV3) : Statement (.vmax f) := of_form _ _ rfl rfl
theorem vabs (f : FV3) : Statement (.vabs f) := of_form _ _ rfl rfl
theorem vsadd (f : FV3) : Statement (.vsadd f) := of_form _ _ rfl rfl
theorem vssub (f : FV3) : Statement (.vssub f) := of_form _ _ rfl rfl
theorem vmac (f : FV4) : Statement (.vmac f) := of_form _ _ rfl rfl
theorem vpmac (f : FV4) : Statement (.vpmac f) := of_form _ _ rfl rfl
theorem vsrar (f : FV3) : Statement (.vsrar f) := of_form _ _ rfl rfl
theorem vcmp (c : Cond) (f : FV3) : Statement (.vcmp c f) := of_form _ _ rfl rfl
theorem vmerge (f : FV3) : Statement (.vmerge f) := of_form _ _ rfl rfl
theorem mand (f : FV3) : Statement (.mand f) := of_form _ _ rfl rfl
theorem mor (f : FV3) : Statement (.mor f) := of_form _ _ rfl rfl
theorem mxor (f : FV3) : Statement (.mxor f) := of_form _ _ rfl rfl
theorem mnot (f : FV3) : Statement (.mnot f) := of_form _ _ rfl rfl
theorem mpop (f : FV3) : Statement (.mpop f) := of_form _ _ rfl rfl
theorem mfirst (f : FV3) : Statement (.mfirst f) := of_form _ _ rfl rfl
theorem mset (f : FV3) : Statement (.mset f) := of_form _ _ rfl rfl
theorem viota (f : FV3) : Statement (.viota f) := of_form _ _ rfl rfl
theorem vicvt (src : BitVec 5) (f : FV3) : Statement (.vicvt src f) := of_form _ _ rfl rfl
theorem vfadd (f : FV3) : Statement (.vfadd f) := of_form _ _ rfl rfl
theorem vfsub (f : FV3) : Statement (.vfsub f) := of_form _ _ rfl rfl
theorem vfmul (f : FV3) : Statement (.vfmul f) := of_form _ _ rfl rfl
theorem vfdiv (f : FV3) : Statement (.vfdiv f) := of_form _ _ rfl rfl
theorem vfsqrt (f : FV3) : Statement (.vfsqrt f) := of_form _ _ rfl rfl
theorem vfmin (f : FV3) : Statement (.vfmin f) := of_form _ _ rfl rfl
theorem vfmax (f : FV3) : Statement (.vfmax f) := of_form _ _ rfl rfl
theorem vfabs (f : FV3) : Statement (.vfabs f) := of_form _ _ rfl rfl
theorem vfneg (f : FV3) : Statement (.vfneg f) := of_form _ _ rfl rfl
theorem vfma (f : FV4) : Statement (.vfma f) := of_form _ _ rfl rfl
theorem vfms (f : FV4) : Statement (.vfms f) := of_form _ _ rfl rfl
theorem vfnma (f : FV4) : Statement (.vfnma f) := of_form _ _ rfl rfl
theorem vfnms (f : FV4) : Statement (.vfnms f) := of_form _ _ rfl rfl
theorem vfcmp (c : FCond) (f : FV3) : Statement (.vfcmp c f) := of_form _ _ rfl rfl
theorem vfclass (f : FV3) : Statement (.vfclass f) := of_form _ _ rfl rfl
theorem vfcvt (src : BitVec 5) (f : FV3) : Statement (.vfcvt src f) := of_form _ _ rfl rfl
theorem vlgmul (f : FV3) : Statement (.vlgmul f) := of_form _ _ rfl rfl
theorem vlgdot (f : FV3) : Statement (.vlgdot f) := of_form _ _ rfl rfl
theorem vslideup (f : FV4) : Statement (.vslideup f) := of_form _ _ rfl rfl
theorem vslidedn (f : FV4) : Statement (.vslidedn f) := of_form _ _ rfl rfl
theorem vperm (f : FV3) : Statement (.vperm f) := of_form _ _ rfl rfl
theorem vtlu (f : FV3) : Statement (.vtlu f) := of_form _ _ rfl rfl
theorem vcomp (f : FV3) : Statement (.vcomp f) := of_form _ _ rfl rfl
theorem vexp (f : FV3) : Statement (.vexp f) := of_form _ _ rfl rfl
theorem vbfx (f : FV3) : Statement (.vbfx f) := of_form _ _ rfl rfl
theorem vreds (op : RedsOp) (f : FV4) : Statement (.vreds op f) := of_form _ _ rfl rfl
theorem vdot (f : FV4) : Statement (.vdot f) := of_form _ _ rfl rfl
theorem mopenLoad (f : FTR) : Statement (.mopenLoad f) := of_form _ _ rfl rfl
theorem mopenZero (f : FTR) : Statement (.mopenZero f) := of_form _ _ rfl rfl
theorem windowPin (cmd line : Nat) : Statement (.windowPin cmd line) := .inl rfl
theorem mclose (f : FTR) : Statement (.mclose f) := of_form _ _ rfl rfl
theorem mcloseCompletion (cmd : Nat) : Statement (.mcloseCompletion cmd) := .inl rfl
theorem mzero (f : FTR) : Statement (.mzero f) := of_form _ _ rfl rfl
theorem mpred (f : FTR) : Statement (.mpred f) := of_form _ _ rfl rfl
theorem mfmt (f : FTR) : Statement (.mfmt f) := of_form _ _ rfl rfl
theorem mmas (f : FTR) : Statement (.mmas f) := of_form _ _ rfl rfl
theorem mmaf (f : FTR) : Statement (.mmaf f) := of_form _ _ rfl rfl
theorem mxCommandStart (cluster : Nat) : Statement (.mxCommandStart cluster) := .inl rfl
theorem partialApplication (m : Nat) (ue : Bool) : Statement (.partialApplication m ue) := .inl rfl
theorem cpy (f : FTR) : Statement (.cpy f) := of_form _ _ rfl rfl
theorem cpy2d (f : FTR) : Statement (.cpy2d f) := of_form _ _ rfl rfl
theorem cpyMig (f : FTR) : Statement (.cpyMig f) := of_form _ _ rfl rfl
theorem cpym (f : FTR) : Statement (.cpym f) := of_form _ _ rfl rfl
theorem cpym2d (f : FTR) : Statement (.cpym2d f) := of_form _ _ rfl rfl
theorem wsigNum (f : FTR) : Statement (.wsigNum f) := of_form _ _ rfl rfl
theorem wsigAdd (f : FTR) : Statement (.wsigAdd f) := of_form _ _ rfl rfl
theorem cfill (f : FTR) : Statement (.cfill f) := of_form _ _ rfl rfl
theorem chunk (cluster : Nat) (ue : Bool) : Statement (.chunk cluster ue) := .inl rfl
theorem signal (q : SeqId) : Statement (.signal q) := .inl rfl
theorem followOn (q : SeqId) : Statement (.followOn q) := .inl rfl
theorem landing (k : Nat) : Statement (.landing k) := .inl rfl
theorem vectorDispatch (w : WKey) (lane : LaneCheck) : Statement (.vectorDispatch w lane) := .inl rfl
theorem trapEntry (w : WKey) : Statement (.trapEntry w) := .inl rfl
theorem kernelTrapEntry (cc : Nat) : Statement (.kernelTrapEntry cc) := .inl rfl
theorem release (w : WKey) : Statement (.release w) := .inl rfl
theorem workerSwitch (vc : Nat) : Statement (.workerSwitch vc) := .inl rfl
theorem eligibility (ctx slot : Nat) : Statement (.eligibility ctx slot) := .inl rfl
theorem admissionChecks (die : Nat) : Statement (.admissionChecks die) := .inl rfl
theorem admission (die : Nat) : Statement (.admission die) := .inl rfl
theorem workerCreation (ctx slot : Nat) : Statement (.workerCreation ctx slot) := .inl rfl
theorem launchEnd (ctx slot : Nat) : Statement (.launchEnd ctx slot) := .inl rfl
theorem watchdog (ctx slot : Nat) : Statement (.watchdog ctx slot) := .inl rfl
theorem homeSliceAccess (m : Nat) (ue : Bool) : Statement (.homeSliceAccess m ue) := .inl rfl
theorem stage (m : Nat) (combine : Bool) : Statement (.stage m combine) := .inl rfl
theorem check (m : Nat) : Statement (.check m) := .inl rfl
theorem publish (m : Nat) (ue : Bool) : Statement (.publish m ue) := .inl rfl
theorem directoryMerge (die slice base : Nat) : Statement (.directoryMerge die slice base) := .inl rfl
theorem reductionUpdate (m : Nat) (ue : Bool) : Statement (.reductionUpdate m ue) := .inl rfl
theorem earlyClean (die slice : Nat) : Statement (.earlyClean die slice) := .inl rfl
theorem jobDispatch (die : Nat) : Statement (.jobDispatch die) := .inl rfl
theorem columnAccess (job column : Nat) (ue : Bool) : Statement (.columnAccess job column ue) := .inl rfl
theorem jobCompletion (job : Nat) : Statement (.jobCompletion job) := .inl rfl
theorem flit (link : Nat) (turn : FlitTurn) : Statement (.flit link turn) := .inl rfl
theorem recoveryTimer (link : Nat) : Statement (.recoveryTimer link) := .inl rfl
theorem retrainCompletion (link : Nat) (trained : Bool) : Statement (.retrainCompletion link trained) := .inl rfl
theorem widthRetry (link : Nat) : Statement (.widthRetry link) := .inl rfl
theorem transactionRequest (m : Nat) : Statement (.transactionRequest m) := .inl rfl
theorem transactionResponse (m : Nat) : Statement (.transactionResponse m) := .inl rfl
theorem timeFlit (die : Nat) : Statement (.timeFlit die) := .inl rfl
theorem resignation (die : Nat) : Statement (.resignation die) := .inl rfl
theorem powerOn (act : PowerAct) : Statement (.powerOn act) := .inl rfl
theorem bringupTimeout (step : Nat) : Statement (.bringupTimeout step) := .inl rfl
theorem droopTrip (die cluster : Nat) : Statement (.droopTrip die cluster) := .inl rfl
theorem thermalTrip (die : Nat) : Statement (.thermalTrip die) := .inl rfl
theorem thermalResume (die : Nat) : Statement (.thermalResume die) := .inl rfl
theorem powerLimit (consumer : Consumer) : Statement (.powerLimit consumer) := .inl rfl
theorem channelRetraining (r : Retraining) : Statement (.channelRetraining r) := .inl rfl
theorem mctpControl (msg : List (BitVec 8)) : Statement (.mctpControl msg) := .inl rfl
theorem status : Statement .status := .inl rfl
theorem measure (nonce : BitVec 256) : Statement (.measure nonce) := .inl rfl
theorem notice (die : Nat) (deadline : BitVec 64) : Statement (.notice die deadline) := .inl rfl
theorem update (die : Nat) (image : List (BitVec 8)) : Statement (.update die image) := .inl rfl
theorem cap (watts : Nat) : Statement (.cap watts) := .inl rfl
theorem unsupported (code : BitVec 8) : Statement (.unsupported code) := .inl rfl
theorem pageWalk (ctx : Nat) (va : BitVec 64) (use : WalkUse) (holder : Nat) : Statement (.pageWalk ctx va use holder) := .inl rfl
theorem holderRecord (m : Nat) : Statement (.holderRecord m) := .inl rfl
theorem checkReply (m : Nat) : Statement (.checkReply m) := .inl rfl
theorem elementGroupLanding (k : Nat) : Statement (.elementGroupLanding k) := .inl rfl
theorem kSlice (cluster array : Nat) (ue : Bool) : Statement (.kSlice cluster array ue) := .inl rfl
theorem backInvalidation (w : PeerWrite) : Statement (.backInvalidation w) := .inl rfl
theorem cxlError (addr : BitVec 64) : Statement (.cxlError addr) := .inl rfl
theorem throttling (consumer : Consumer) (t : Throttle) : Statement (.throttling consumer t) := .inl rfl
theorem dynamicAddressAssignment (addr : BitVec 7) : Statement (.dynamicAddressAssignment addr) := .inl rfl

end Sys2Proof.Laws.Headed
end

