-- ==== Sys2Proof/Laws/State.lean ====
section
/-! SUPPORT. What each shared update of the state changes, field by field, and that it leaves every other field: the
lemmas that keep proofs from unfolding a record update. -/

namespace Sys2Proof.Machine

variable (s : State)

/-! `modCore` -/

@[simp] theorem State.modCore_cur (f : Seq → Seq) : (s.modCore f).cur = s.cur := rfl
@[simp] theorem State.modCore_core (f : Seq → Seq) : (s.modCore f).core = f s.core := rfl
@[simp] theorem State.modCore_seqs (f : Seq → Seq) : (s.modCore f).seqs = s.seqs := rfl
@[simp] theorem State.modCore_mem (f : Seq → Seq) : (s.modCore f).mem = s.mem := rfl
@[simp] theorem State.modCore_net (f : Seq → Seq) : (s.modCore f).net = s.net := rfl
@[simp] theorem State.modCore_ctxs (f : Seq → Seq) : (s.modCore f).ctxs = s.ctxs := rfl
@[simp] theorem State.modCore_launches (f : Seq → Seq) : (s.modCore f).launches = s.launches := rfl
@[simp] theorem State.modCore_pushes (f : Seq → Seq) : (s.modCore f).pushes = s.pushes := rfl
@[simp] theorem State.modCore_orders (f : Seq → Seq) : (s.modCore f).orders = s.orders := rfl
@[simp] theorem State.modCore_syncHome (f : Seq → Seq) : (s.modCore f).syncHome = s.syncHome := rfl
@[simp] theorem State.modCore_syncMirror (f : Seq → Seq) : (s.modCore f).syncMirror = s.syncMirror := rfl
@[simp] theorem State.modCore_regUpdates (f : Seq → Seq) : (s.modCore f).regUpdates = s.regUpdates := rfl
@[simp] theorem State.modCore_sweeps (f : Seq → Seq) : (s.modCore f).sweeps = s.sweeps := rfl
@[simp] theorem State.modCore_windows (f : Seq → Seq) : (s.modCore f).windows = s.windows := rfl
@[simp] theorem State.modCore_mxCmds (f : Seq → Seq) : (s.modCore f).mxCmds = s.mxCmds := rfl
@[simp] theorem State.modCore_cpCmds (f : Seq → Seq) : (s.modCore f).cpCmds = s.cpCmds := rfl
@[simp] theorem State.modCore_jobs (f : Seq → Seq) : (s.modCore f).jobs = s.jobs := rfl
@[simp] theorem State.modCore_channels (f : Seq → Seq) : (s.modCore f).channels = s.channels := rfl
@[simp] theorem State.modCore_ranges (f : Seq → Seq) : (s.modCore f).ranges = s.ranges := rfl
@[simp] theorem State.modCore_dies (f : Seq → Seq) : (s.modCore f).dies = s.dies := rfl
@[simp] theorem State.modCore_links (f : Seq → Seq) : (s.modCore f).links = s.links := rfl
@[simp] theorem State.modCore_lost (f : Seq → Seq) : (s.modCore f).lost = s.lost := rfl
@[simp] theorem State.modCore_regs (f : Seq → Seq) : (s.modCore f).regs = s.regs := rfl
@[simp] theorem State.modCore_kfqPosted (f : Seq → Seq) : (s.modCore f).kfqPosted = s.kfqPosted := rfl
@[simp] theorem State.modCore_kfqWaiting (f : Seq → Seq) : (s.modCore f).kfqWaiting = s.kfqWaiting := rfl
@[simp] theorem State.modCore_mnqPosted (f : Seq → Seq) : (s.modCore f).mnqPosted = s.mnqPosted := rfl
@[simp] theorem State.modCore_mnqOwed (f : Seq → Seq) : (s.modCore f).mnqOwed = s.mnqOwed := rfl
@[simp] theorem State.modCore_mgmt (f : Seq → Seq) : (s.modCore f).mgmt = s.mgmt := rfl
@[simp] theorem State.modCore_entryPc (f : Seq → Seq) : (s.modCore f).entryPc = s.entryPc := rfl
@[simp] theorem State.modCore_agenda (f : Seq → Seq) : (s.modCore f).agenda = s.agenda := rfl
@[simp] theorem State.modCore_turn (f : Seq → Seq) : (s.modCore f).turn = s.turn := rfl
@[simp] theorem State.modCore_fresh (f : Seq → Seq) : (s.modCore f).fresh = s.fresh := rfl
@[simp] theorem State.modCore_nextId (f : Seq → Seq) : (s.modCore f).nextId = s.nextId := rfl

/-! `setG` -/

@[simp] theorem State.setG_cur (r : BitVec 5) (v : Word) : (s.setG r v).cur = s.cur := rfl
@[simp] theorem State.setG_core (r : BitVec 5) (v : Word) :
    (s.setG r v).core = { s.core with bank := s.core.bank.write r v } := rfl
@[simp] theorem State.setG_seqs (r : BitVec 5) (v : Word) : (s.setG r v).seqs = s.seqs := rfl
@[simp] theorem State.setG_mem (r : BitVec 5) (v : Word) : (s.setG r v).mem = s.mem := rfl
@[simp] theorem State.setG_net (r : BitVec 5) (v : Word) : (s.setG r v).net = s.net := rfl
@[simp] theorem State.setG_ctxs (r : BitVec 5) (v : Word) : (s.setG r v).ctxs = s.ctxs := rfl
@[simp] theorem State.setG_launches (r : BitVec 5) (v : Word) : (s.setG r v).launches = s.launches := rfl
@[simp] theorem State.setG_pushes (r : BitVec 5) (v : Word) : (s.setG r v).pushes = s.pushes := rfl
@[simp] theorem State.setG_orders (r : BitVec 5) (v : Word) : (s.setG r v).orders = s.orders := rfl
@[simp] theorem State.setG_syncHome (r : BitVec 5) (v : Word) : (s.setG r v).syncHome = s.syncHome := rfl
@[simp] theorem State.setG_syncMirror (r : BitVec 5) (v : Word) : (s.setG r v).syncMirror = s.syncMirror := rfl
@[simp] theorem State.setG_regUpdates (r : BitVec 5) (v : Word) : (s.setG r v).regUpdates = s.regUpdates := rfl
@[simp] theorem State.setG_sweeps (r : BitVec 5) (v : Word) : (s.setG r v).sweeps = s.sweeps := rfl
@[simp] theorem State.setG_windows (r : BitVec 5) (v : Word) : (s.setG r v).windows = s.windows := rfl
@[simp] theorem State.setG_mxCmds (r : BitVec 5) (v : Word) : (s.setG r v).mxCmds = s.mxCmds := rfl
@[simp] theorem State.setG_cpCmds (r : BitVec 5) (v : Word) : (s.setG r v).cpCmds = s.cpCmds := rfl
@[simp] theorem State.setG_jobs (r : BitVec 5) (v : Word) : (s.setG r v).jobs = s.jobs := rfl
@[simp] theorem State.setG_channels (r : BitVec 5) (v : Word) : (s.setG r v).channels = s.channels := rfl
@[simp] theorem State.setG_ranges (r : BitVec 5) (v : Word) : (s.setG r v).ranges = s.ranges := rfl
@[simp] theorem State.setG_dies (r : BitVec 5) (v : Word) : (s.setG r v).dies = s.dies := rfl
@[simp] theorem State.setG_links (r : BitVec 5) (v : Word) : (s.setG r v).links = s.links := rfl
@[simp] theorem State.setG_lost (r : BitVec 5) (v : Word) : (s.setG r v).lost = s.lost := rfl
@[simp] theorem State.setG_regs (r : BitVec 5) (v : Word) : (s.setG r v).regs = s.regs := rfl
@[simp] theorem State.setG_kfqPosted (r : BitVec 5) (v : Word) : (s.setG r v).kfqPosted = s.kfqPosted := rfl
@[simp] theorem State.setG_kfqWaiting (r : BitVec 5) (v : Word) : (s.setG r v).kfqWaiting = s.kfqWaiting := rfl
@[simp] theorem State.setG_mnqPosted (r : BitVec 5) (v : Word) : (s.setG r v).mnqPosted = s.mnqPosted := rfl
@[simp] theorem State.setG_mnqOwed (r : BitVec 5) (v : Word) : (s.setG r v).mnqOwed = s.mnqOwed := rfl
@[simp] theorem State.setG_mgmt (r : BitVec 5) (v : Word) : (s.setG r v).mgmt = s.mgmt := rfl
@[simp] theorem State.setG_entryPc (r : BitVec 5) (v : Word) : (s.setG r v).entryPc = s.entryPc := rfl
@[simp] theorem State.setG_agenda (r : BitVec 5) (v : Word) : (s.setG r v).agenda = s.agenda := rfl
@[simp] theorem State.setG_turn (r : BitVec 5) (v : Word) : (s.setG r v).turn = s.turn := rfl
@[simp] theorem State.setG_fresh (r : BitVec 5) (v : Word) : (s.setG r v).fresh = s.fresh := rfl
@[simp] theorem State.setG_nextId (r : BitVec 5) (v : Word) : (s.setG r v).nextId = s.nextId := rfl

/-! `emptyG` -/

@[simp] theorem State.emptyG_cur (r : BitVec 5) : (s.emptyG r).cur = s.cur := rfl
@[simp] theorem State.emptyG_core (r : BitVec 5) :
    (s.emptyG r).core = { s.core with bank := s.core.bank.markEmpty r } := rfl
@[simp] theorem State.emptyG_seqs (r : BitVec 5) : (s.emptyG r).seqs = s.seqs := rfl
@[simp] theorem State.emptyG_mem (r : BitVec 5) : (s.emptyG r).mem = s.mem := rfl
@[simp] theorem State.emptyG_net (r : BitVec 5) : (s.emptyG r).net = s.net := rfl
@[simp] theorem State.emptyG_ctxs (r : BitVec 5) : (s.emptyG r).ctxs = s.ctxs := rfl
@[simp] theorem State.emptyG_launches (r : BitVec 5) : (s.emptyG r).launches = s.launches := rfl
@[simp] theorem State.emptyG_pushes (r : BitVec 5) : (s.emptyG r).pushes = s.pushes := rfl
@[simp] theorem State.emptyG_orders (r : BitVec 5) : (s.emptyG r).orders = s.orders := rfl
@[simp] theorem State.emptyG_syncHome (r : BitVec 5) : (s.emptyG r).syncHome = s.syncHome := rfl
@[simp] theorem State.emptyG_syncMirror (r : BitVec 5) : (s.emptyG r).syncMirror = s.syncMirror := rfl
@[simp] theorem State.emptyG_regUpdates (r : BitVec 5) : (s.emptyG r).regUpdates = s.regUpdates := rfl
@[simp] theorem State.emptyG_sweeps (r : BitVec 5) : (s.emptyG r).sweeps = s.sweeps := rfl
@[simp] theorem State.emptyG_windows (r : BitVec 5) : (s.emptyG r).windows = s.windows := rfl
@[simp] theorem State.emptyG_mxCmds (r : BitVec 5) : (s.emptyG r).mxCmds = s.mxCmds := rfl
@[simp] theorem State.emptyG_cpCmds (r : BitVec 5) : (s.emptyG r).cpCmds = s.cpCmds := rfl
@[simp] theorem State.emptyG_jobs (r : BitVec 5) : (s.emptyG r).jobs = s.jobs := rfl
@[simp] theorem State.emptyG_channels (r : BitVec 5) : (s.emptyG r).channels = s.channels := rfl
@[simp] theorem State.emptyG_ranges (r : BitVec 5) : (s.emptyG r).ranges = s.ranges := rfl
@[simp] theorem State.emptyG_dies (r : BitVec 5) : (s.emptyG r).dies = s.dies := rfl
@[simp] theorem State.emptyG_links (r : BitVec 5) : (s.emptyG r).links = s.links := rfl
@[simp] theorem State.emptyG_lost (r : BitVec 5) : (s.emptyG r).lost = s.lost := rfl
@[simp] theorem State.emptyG_regs (r : BitVec 5) : (s.emptyG r).regs = s.regs := rfl
@[simp] theorem State.emptyG_kfqPosted (r : BitVec 5) : (s.emptyG r).kfqPosted = s.kfqPosted := rfl
@[simp] theorem State.emptyG_kfqWaiting (r : BitVec 5) : (s.emptyG r).kfqWaiting = s.kfqWaiting := rfl
@[simp] theorem State.emptyG_mnqPosted (r : BitVec 5) : (s.emptyG r).mnqPosted = s.mnqPosted := rfl
@[simp] theorem State.emptyG_mnqOwed (r : BitVec 5) : (s.emptyG r).mnqOwed = s.mnqOwed := rfl
@[simp] theorem State.emptyG_mgmt (r : BitVec 5) : (s.emptyG r).mgmt = s.mgmt := rfl
@[simp] theorem State.emptyG_entryPc (r : BitVec 5) : (s.emptyG r).entryPc = s.entryPc := rfl
@[simp] theorem State.emptyG_agenda (r : BitVec 5) : (s.emptyG r).agenda = s.agenda := rfl
@[simp] theorem State.emptyG_turn (r : BitVec 5) : (s.emptyG r).turn = s.turn := rfl
@[simp] theorem State.emptyG_fresh (r : BitVec 5) : (s.emptyG r).fresh = s.fresh := rfl
@[simp] theorem State.emptyG_nextId (r : BitVec 5) : (s.emptyG r).nextId = s.nextId := rfl

/-! `setPc` -/

@[simp] theorem State.setPc_cur (pc : Word) : (s.setPc pc).cur = s.cur := rfl
@[simp] theorem State.setPc_core (pc : Word) : (s.setPc pc).core = { s.core with pc := pc } := rfl
@[simp] theorem State.setPc_seqs (pc : Word) : (s.setPc pc).seqs = s.seqs := rfl
@[simp] theorem State.setPc_mem (pc : Word) : (s.setPc pc).mem = s.mem := rfl
@[simp] theorem State.setPc_net (pc : Word) : (s.setPc pc).net = s.net := rfl
@[simp] theorem State.setPc_ctxs (pc : Word) : (s.setPc pc).ctxs = s.ctxs := rfl
@[simp] theorem State.setPc_launches (pc : Word) : (s.setPc pc).launches = s.launches := rfl
@[simp] theorem State.setPc_pushes (pc : Word) : (s.setPc pc).pushes = s.pushes := rfl
@[simp] theorem State.setPc_orders (pc : Word) : (s.setPc pc).orders = s.orders := rfl
@[simp] theorem State.setPc_syncHome (pc : Word) : (s.setPc pc).syncHome = s.syncHome := rfl
@[simp] theorem State.setPc_syncMirror (pc : Word) : (s.setPc pc).syncMirror = s.syncMirror := rfl
@[simp] theorem State.setPc_regUpdates (pc : Word) : (s.setPc pc).regUpdates = s.regUpdates := rfl
@[simp] theorem State.setPc_sweeps (pc : Word) : (s.setPc pc).sweeps = s.sweeps := rfl
@[simp] theorem State.setPc_windows (pc : Word) : (s.setPc pc).windows = s.windows := rfl
@[simp] theorem State.setPc_mxCmds (pc : Word) : (s.setPc pc).mxCmds = s.mxCmds := rfl
@[simp] theorem State.setPc_cpCmds (pc : Word) : (s.setPc pc).cpCmds = s.cpCmds := rfl
@[simp] theorem State.setPc_jobs (pc : Word) : (s.setPc pc).jobs = s.jobs := rfl
@[simp] theorem State.setPc_channels (pc : Word) : (s.setPc pc).channels = s.channels := rfl
@[simp] theorem State.setPc_ranges (pc : Word) : (s.setPc pc).ranges = s.ranges := rfl
@[simp] theorem State.setPc_dies (pc : Word) : (s.setPc pc).dies = s.dies := rfl
@[simp] theorem State.setPc_links (pc : Word) : (s.setPc pc).links = s.links := rfl
@[simp] theorem State.setPc_lost (pc : Word) : (s.setPc pc).lost = s.lost := rfl
@[simp] theorem State.setPc_regs (pc : Word) : (s.setPc pc).regs = s.regs := rfl
@[simp] theorem State.setPc_kfqPosted (pc : Word) : (s.setPc pc).kfqPosted = s.kfqPosted := rfl
@[simp] theorem State.setPc_kfqWaiting (pc : Word) : (s.setPc pc).kfqWaiting = s.kfqWaiting := rfl
@[simp] theorem State.setPc_mnqPosted (pc : Word) : (s.setPc pc).mnqPosted = s.mnqPosted := rfl
@[simp] theorem State.setPc_mnqOwed (pc : Word) : (s.setPc pc).mnqOwed = s.mnqOwed := rfl
@[simp] theorem State.setPc_mgmt (pc : Word) : (s.setPc pc).mgmt = s.mgmt := rfl
@[simp] theorem State.setPc_entryPc (pc : Word) : (s.setPc pc).entryPc = s.entryPc := rfl
@[simp] theorem State.setPc_agenda (pc : Word) : (s.setPc pc).agenda = s.agenda := rfl
@[simp] theorem State.setPc_turn (pc : Word) : (s.setPc pc).turn = s.turn := rfl
@[simp] theorem State.setPc_fresh (pc : Word) : (s.setPc pc).fresh = s.fresh := rfl
@[simp] theorem State.setPc_nextId (pc : Word) : (s.setPc pc).nextId = s.nextId := rfl

/-! `advance` -/

@[simp] theorem State.advance_cur : s.advance.cur = s.cur := rfl
@[simp] theorem State.advance_core :
    s.advance.core = { s.core with pc := s.nextPc, ply := s.core.bank.loops.isEmpty } := rfl
@[simp] theorem State.advance_seqs : s.advance.seqs = s.seqs := rfl
@[simp] theorem State.advance_mem : s.advance.mem = s.mem := rfl
@[simp] theorem State.advance_net : s.advance.net = s.net := rfl
@[simp] theorem State.advance_ctxs : s.advance.ctxs = s.ctxs := rfl
@[simp] theorem State.advance_launches : s.advance.launches = s.launches := rfl
@[simp] theorem State.advance_pushes : s.advance.pushes = s.pushes := rfl
@[simp] theorem State.advance_orders : s.advance.orders = s.orders := rfl
@[simp] theorem State.advance_syncHome : s.advance.syncHome = s.syncHome := rfl
@[simp] theorem State.advance_syncMirror : s.advance.syncMirror = s.syncMirror := rfl
@[simp] theorem State.advance_regUpdates : s.advance.regUpdates = s.regUpdates := rfl
@[simp] theorem State.advance_sweeps : s.advance.sweeps = s.sweeps := rfl
@[simp] theorem State.advance_windows : s.advance.windows = s.windows := rfl
@[simp] theorem State.advance_mxCmds : s.advance.mxCmds = s.mxCmds := rfl
@[simp] theorem State.advance_cpCmds : s.advance.cpCmds = s.cpCmds := rfl
@[simp] theorem State.advance_jobs : s.advance.jobs = s.jobs := rfl
@[simp] theorem State.advance_channels : s.advance.channels = s.channels := rfl
@[simp] theorem State.advance_ranges : s.advance.ranges = s.ranges := rfl
@[simp] theorem State.advance_dies : s.advance.dies = s.dies := rfl
@[simp] theorem State.advance_links : s.advance.links = s.links := rfl
@[simp] theorem State.advance_lost : s.advance.lost = s.lost := rfl
@[simp] theorem State.advance_regs : s.advance.regs = s.regs := rfl
@[simp] theorem State.advance_kfqPosted : s.advance.kfqPosted = s.kfqPosted := rfl
@[simp] theorem State.advance_kfqWaiting : s.advance.kfqWaiting = s.kfqWaiting := rfl
@[simp] theorem State.advance_mnqPosted : s.advance.mnqPosted = s.mnqPosted := rfl
@[simp] theorem State.advance_mnqOwed : s.advance.mnqOwed = s.mnqOwed := rfl
@[simp] theorem State.advance_mgmt : s.advance.mgmt = s.mgmt := rfl
@[simp] theorem State.advance_entryPc : s.advance.entryPc = s.entryPc := rfl
@[simp] theorem State.advance_agenda : s.advance.agenda = s.agenda := rfl
@[simp] theorem State.advance_turn : s.advance.turn = s.turn := rfl
@[simp] theorem State.advance_fresh : s.advance.fresh = s.fresh := rfl
@[simp] theorem State.advance_nextId : s.advance.nextId = s.nextId := rfl

/-! `put` -/

@[simp] theorem State.put_cur (r : BitVec 5) (v : Word) : (s.put r v).cur = s.cur := rfl
@[simp] theorem State.put_seqs (r : BitVec 5) (v : Word) : (s.put r v).seqs = s.seqs := rfl
@[simp] theorem State.put_mem (r : BitVec 5) (v : Word) : (s.put r v).mem = s.mem := rfl
@[simp] theorem State.put_net (r : BitVec 5) (v : Word) : (s.put r v).net = s.net := rfl
@[simp] theorem State.put_ctxs (r : BitVec 5) (v : Word) : (s.put r v).ctxs = s.ctxs := rfl
@[simp] theorem State.put_launches (r : BitVec 5) (v : Word) : (s.put r v).launches = s.launches := rfl
@[simp] theorem State.put_pushes (r : BitVec 5) (v : Word) : (s.put r v).pushes = s.pushes := rfl
@[simp] theorem State.put_orders (r : BitVec 5) (v : Word) : (s.put r v).orders = s.orders := rfl
@[simp] theorem State.put_syncHome (r : BitVec 5) (v : Word) : (s.put r v).syncHome = s.syncHome := rfl
@[simp] theorem State.put_syncMirror (r : BitVec 5) (v : Word) : (s.put r v).syncMirror = s.syncMirror := rfl
@[simp] theorem State.put_regUpdates (r : BitVec 5) (v : Word) : (s.put r v).regUpdates = s.regUpdates := rfl
@[simp] theorem State.put_sweeps (r : BitVec 5) (v : Word) : (s.put r v).sweeps = s.sweeps := rfl
@[simp] theorem State.put_windows (r : BitVec 5) (v : Word) : (s.put r v).windows = s.windows := rfl
@[simp] theorem State.put_mxCmds (r : BitVec 5) (v : Word) : (s.put r v).mxCmds = s.mxCmds := rfl
@[simp] theorem State.put_cpCmds (r : BitVec 5) (v : Word) : (s.put r v).cpCmds = s.cpCmds := rfl
@[simp] theorem State.put_jobs (r : BitVec 5) (v : Word) : (s.put r v).jobs = s.jobs := rfl
@[simp] theorem State.put_channels (r : BitVec 5) (v : Word) : (s.put r v).channels = s.channels := rfl
@[simp] theorem State.put_ranges (r : BitVec 5) (v : Word) : (s.put r v).ranges = s.ranges := rfl
@[simp] theorem State.put_dies (r : BitVec 5) (v : Word) : (s.put r v).dies = s.dies := rfl
@[simp] theorem State.put_links (r : BitVec 5) (v : Word) : (s.put r v).links = s.links := rfl
@[simp] theorem State.put_lost (r : BitVec 5) (v : Word) : (s.put r v).lost = s.lost := rfl
@[simp] theorem State.put_regs (r : BitVec 5) (v : Word) : (s.put r v).regs = s.regs := rfl
@[simp] theorem State.put_kfqPosted (r : BitVec 5) (v : Word) : (s.put r v).kfqPosted = s.kfqPosted := rfl
@[simp] theorem State.put_kfqWaiting (r : BitVec 5) (v : Word) : (s.put r v).kfqWaiting = s.kfqWaiting := rfl
@[simp] theorem State.put_mnqPosted (r : BitVec 5) (v : Word) : (s.put r v).mnqPosted = s.mnqPosted := rfl
@[simp] theorem State.put_mnqOwed (r : BitVec 5) (v : Word) : (s.put r v).mnqOwed = s.mnqOwed := rfl
@[simp] theorem State.put_mgmt (r : BitVec 5) (v : Word) : (s.put r v).mgmt = s.mgmt := rfl
@[simp] theorem State.put_entryPc (r : BitVec 5) (v : Word) : (s.put r v).entryPc = s.entryPc := rfl
@[simp] theorem State.put_agenda (r : BitVec 5) (v : Word) : (s.put r v).agenda = s.agenda := rfl
@[simp] theorem State.put_turn (r : BitVec 5) (v : Word) : (s.put r v).turn = s.turn := rfl
@[simp] theorem State.put_fresh (r : BitVec 5) (v : Word) : (s.put r v).fresh = s.fresh := rfl
@[simp] theorem State.put_nextId (r : BitVec 5) (v : Word) : (s.put r v).nextId = s.nextId := rfl

/-! `park` -/

@[simp] theorem State.park_cur (p : Park) : (s.park p).cur = s.cur := rfl
@[simp] theorem State.park_core (p : Park) : (s.park p).core = { s.core with run := .parked p } := rfl
@[simp] theorem State.park_seqs (p : Park) : (s.park p).seqs = s.seqs := rfl
@[simp] theorem State.park_mem (p : Park) : (s.park p).mem = s.mem := rfl
@[simp] theorem State.park_net (p : Park) : (s.park p).net = s.net := rfl
@[simp] theorem State.park_ctxs (p : Park) : (s.park p).ctxs = s.ctxs := rfl
@[simp] theorem State.park_launches (p : Park) : (s.park p).launches = s.launches := rfl
@[simp] theorem State.park_pushes (p : Park) : (s.park p).pushes = s.pushes := rfl
@[simp] theorem State.park_orders (p : Park) : (s.park p).orders = s.orders := rfl
@[simp] theorem State.park_syncHome (p : Park) : (s.park p).syncHome = s.syncHome := rfl
@[simp] theorem State.park_syncMirror (p : Park) : (s.park p).syncMirror = s.syncMirror := rfl
@[simp] theorem State.park_regUpdates (p : Park) : (s.park p).regUpdates = s.regUpdates := rfl
@[simp] theorem State.park_sweeps (p : Park) : (s.park p).sweeps = s.sweeps := rfl
@[simp] theorem State.park_windows (p : Park) : (s.park p).windows = s.windows := rfl
@[simp] theorem State.park_mxCmds (p : Park) : (s.park p).mxCmds = s.mxCmds := rfl
@[simp] theorem State.park_cpCmds (p : Park) : (s.park p).cpCmds = s.cpCmds := rfl
@[simp] theorem State.park_jobs (p : Park) : (s.park p).jobs = s.jobs := rfl
@[simp] theorem State.park_channels (p : Park) : (s.park p).channels = s.channels := rfl
@[simp] theorem State.park_ranges (p : Park) : (s.park p).ranges = s.ranges := rfl
@[simp] theorem State.park_dies (p : Park) : (s.park p).dies = s.dies := rfl
@[simp] theorem State.park_links (p : Park) : (s.park p).links = s.links := rfl
@[simp] theorem State.park_lost (p : Park) : (s.park p).lost = s.lost := rfl
@[simp] theorem State.park_regs (p : Park) : (s.park p).regs = s.regs := rfl
@[simp] theorem State.park_kfqPosted (p : Park) : (s.park p).kfqPosted = s.kfqPosted := rfl
@[simp] theorem State.park_kfqWaiting (p : Park) : (s.park p).kfqWaiting = s.kfqWaiting := rfl
@[simp] theorem State.park_mnqPosted (p : Park) : (s.park p).mnqPosted = s.mnqPosted := rfl
@[simp] theorem State.park_mnqOwed (p : Park) : (s.park p).mnqOwed = s.mnqOwed := rfl
@[simp] theorem State.park_mgmt (p : Park) : (s.park p).mgmt = s.mgmt := rfl
@[simp] theorem State.park_entryPc (p : Park) : (s.park p).entryPc = s.entryPc := rfl
@[simp] theorem State.park_agenda (p : Park) : (s.park p).agenda = s.agenda := rfl
@[simp] theorem State.park_turn (p : Park) : (s.park p).turn = s.turn := rfl
@[simp] theorem State.park_fresh (p : Park) : (s.park p).fresh = s.fresh := rfl
@[simp] theorem State.park_nextId (p : Park) : (s.park p).nextId = s.nextId := rfl

/-! `modMem` -/

@[simp] theorem State.modMem_cur (f : Mem → Mem) : (s.modMem f).cur = s.cur := rfl
@[simp] theorem State.modMem_core (f : Mem → Mem) : (s.modMem f).core = s.core := rfl
@[simp] theorem State.modMem_seqs (f : Mem → Mem) : (s.modMem f).seqs = s.seqs := rfl
@[simp] theorem State.modMem_mem (f : Mem → Mem) : (s.modMem f).mem = f s.mem := rfl
@[simp] theorem State.modMem_net (f : Mem → Mem) : (s.modMem f).net = s.net := rfl
@[simp] theorem State.modMem_ctxs (f : Mem → Mem) : (s.modMem f).ctxs = s.ctxs := rfl
@[simp] theorem State.modMem_launches (f : Mem → Mem) : (s.modMem f).launches = s.launches := rfl
@[simp] theorem State.modMem_pushes (f : Mem → Mem) : (s.modMem f).pushes = s.pushes := rfl
@[simp] theorem State.modMem_orders (f : Mem → Mem) : (s.modMem f).orders = s.orders := rfl
@[simp] theorem State.modMem_syncHome (f : Mem → Mem) : (s.modMem f).syncHome = s.syncHome := rfl
@[simp] theorem State.modMem_syncMirror (f : Mem → Mem) : (s.modMem f).syncMirror = s.syncMirror := rfl
@[simp] theorem State.modMem_regUpdates (f : Mem → Mem) : (s.modMem f).regUpdates = s.regUpdates := rfl
@[simp] theorem State.modMem_sweeps (f : Mem → Mem) : (s.modMem f).sweeps = s.sweeps := rfl
@[simp] theorem State.modMem_windows (f : Mem → Mem) : (s.modMem f).windows = s.windows := rfl
@[simp] theorem State.modMem_mxCmds (f : Mem → Mem) : (s.modMem f).mxCmds = s.mxCmds := rfl
@[simp] theorem State.modMem_cpCmds (f : Mem → Mem) : (s.modMem f).cpCmds = s.cpCmds := rfl
@[simp] theorem State.modMem_jobs (f : Mem → Mem) : (s.modMem f).jobs = s.jobs := rfl
@[simp] theorem State.modMem_channels (f : Mem → Mem) : (s.modMem f).channels = s.channels := rfl
@[simp] theorem State.modMem_ranges (f : Mem → Mem) : (s.modMem f).ranges = s.ranges := rfl
@[simp] theorem State.modMem_dies (f : Mem → Mem) : (s.modMem f).dies = s.dies := rfl
@[simp] theorem State.modMem_links (f : Mem → Mem) : (s.modMem f).links = s.links := rfl
@[simp] theorem State.modMem_lost (f : Mem → Mem) : (s.modMem f).lost = s.lost := rfl
@[simp] theorem State.modMem_regs (f : Mem → Mem) : (s.modMem f).regs = s.regs := rfl
@[simp] theorem State.modMem_kfqPosted (f : Mem → Mem) : (s.modMem f).kfqPosted = s.kfqPosted := rfl
@[simp] theorem State.modMem_kfqWaiting (f : Mem → Mem) : (s.modMem f).kfqWaiting = s.kfqWaiting := rfl
@[simp] theorem State.modMem_mnqPosted (f : Mem → Mem) : (s.modMem f).mnqPosted = s.mnqPosted := rfl
@[simp] theorem State.modMem_mnqOwed (f : Mem → Mem) : (s.modMem f).mnqOwed = s.mnqOwed := rfl
@[simp] theorem State.modMem_mgmt (f : Mem → Mem) : (s.modMem f).mgmt = s.mgmt := rfl
@[simp] theorem State.modMem_entryPc (f : Mem → Mem) : (s.modMem f).entryPc = s.entryPc := rfl
@[simp] theorem State.modMem_agenda (f : Mem → Mem) : (s.modMem f).agenda = s.agenda := rfl
@[simp] theorem State.modMem_turn (f : Mem → Mem) : (s.modMem f).turn = s.turn := rfl
@[simp] theorem State.modMem_fresh (f : Mem → Mem) : (s.modMem f).fresh = s.fresh := rfl
@[simp] theorem State.modMem_nextId (f : Mem → Mem) : (s.modMem f).nextId = s.nextId := rfl

/-! `modCtx` -/

@[simp] theorem State.modCtx_cur (c : Nat) (f : Context → Context) : (s.modCtx c f).cur = s.cur := rfl
@[simp] theorem State.modCtx_core (c : Nat) (f : Context → Context) : (s.modCtx c f).core = s.core := rfl
@[simp] theorem State.modCtx_seqs (c : Nat) (f : Context → Context) : (s.modCtx c f).seqs = s.seqs := rfl
@[simp] theorem State.modCtx_mem (c : Nat) (f : Context → Context) : (s.modCtx c f).mem = s.mem := rfl
@[simp] theorem State.modCtx_net (c : Nat) (f : Context → Context) : (s.modCtx c f).net = s.net := rfl
@[simp] theorem State.modCtx_ctxs (c : Nat) (f : Context → Context) :
    (s.modCtx c f).ctxs = assocPut s.ctxs c (f (s.ctx c)) := rfl
@[simp] theorem State.modCtx_launches (c : Nat) (f : Context → Context) : (s.modCtx c f).launches = s.launches := rfl
@[simp] theorem State.modCtx_pushes (c : Nat) (f : Context → Context) : (s.modCtx c f).pushes = s.pushes := rfl
@[simp] theorem State.modCtx_orders (c : Nat) (f : Context → Context) : (s.modCtx c f).orders = s.orders := rfl
@[simp] theorem State.modCtx_syncHome (c : Nat) (f : Context → Context) : (s.modCtx c f).syncHome = s.syncHome := rfl
@[simp] theorem State.modCtx_syncMirror (c : Nat) (f : Context → Context) :
    (s.modCtx c f).syncMirror = s.syncMirror := rfl
@[simp] theorem State.modCtx_regUpdates (c : Nat) (f : Context → Context) :
    (s.modCtx c f).regUpdates = s.regUpdates := rfl
@[simp] theorem State.modCtx_sweeps (c : Nat) (f : Context → Context) : (s.modCtx c f).sweeps = s.sweeps := rfl
@[simp] theorem State.modCtx_windows (c : Nat) (f : Context → Context) : (s.modCtx c f).windows = s.windows := rfl
@[simp] theorem State.modCtx_mxCmds (c : Nat) (f : Context → Context) : (s.modCtx c f).mxCmds = s.mxCmds := rfl
@[simp] theorem State.modCtx_cpCmds (c : Nat) (f : Context → Context) : (s.modCtx c f).cpCmds = s.cpCmds := rfl
@[simp] theorem State.modCtx_jobs (c : Nat) (f : Context → Context) : (s.modCtx c f).jobs = s.jobs := rfl
@[simp] theorem State.modCtx_channels (c : Nat) (f : Context → Context) : (s.modCtx c f).channels = s.channels := rfl
@[simp] theorem State.modCtx_ranges (c : Nat) (f : Context → Context) : (s.modCtx c f).ranges = s.ranges := rfl
@[simp] theorem State.modCtx_dies (c : Nat) (f : Context → Context) : (s.modCtx c f).dies = s.dies := rfl
@[simp] theorem State.modCtx_links (c : Nat) (f : Context → Context) : (s.modCtx c f).links = s.links := rfl
@[simp] theorem State.modCtx_lost (c : Nat) (f : Context → Context) : (s.modCtx c f).lost = s.lost := rfl
@[simp] theorem State.modCtx_regs (c : Nat) (f : Context → Context) : (s.modCtx c f).regs = s.regs := rfl
@[simp] theorem State.modCtx_kfqPosted (c : Nat) (f : Context → Context) :
    (s.modCtx c f).kfqPosted = s.kfqPosted := rfl
@[simp] theorem State.modCtx_kfqWaiting (c : Nat) (f : Context → Context) :
    (s.modCtx c f).kfqWaiting = s.kfqWaiting := rfl
@[simp] theorem State.modCtx_mnqPosted (c : Nat) (f : Context → Context) :
    (s.modCtx c f).mnqPosted = s.mnqPosted := rfl
@[simp] theorem State.modCtx_mnqOwed (c : Nat) (f : Context → Context) : (s.modCtx c f).mnqOwed = s.mnqOwed := rfl
@[simp] theorem State.modCtx_mgmt (c : Nat) (f : Context → Context) : (s.modCtx c f).mgmt = s.mgmt := rfl
@[simp] theorem State.modCtx_entryPc (c : Nat) (f : Context → Context) : (s.modCtx c f).entryPc = s.entryPc := rfl
@[simp] theorem State.modCtx_agenda (c : Nat) (f : Context → Context) : (s.modCtx c f).agenda = s.agenda := rfl
@[simp] theorem State.modCtx_turn (c : Nat) (f : Context → Context) : (s.modCtx c f).turn = s.turn := rfl
@[simp] theorem State.modCtx_fresh (c : Nat) (f : Context → Context) : (s.modCtx c f).fresh = s.fresh := rfl
@[simp] theorem State.modCtx_nextId (c : Nat) (f : Context → Context) : (s.modCtx c f).nextId = s.nextId := rfl

/-! `modLaunch` -/

@[simp] theorem State.modLaunch_cur (c k : Nat) (f : Launch → Launch) : (s.modLaunch c k f).cur = s.cur := rfl
@[simp] theorem State.modLaunch_core (c k : Nat) (f : Launch → Launch) : (s.modLaunch c k f).core = s.core := rfl
@[simp] theorem State.modLaunch_seqs (c k : Nat) (f : Launch → Launch) : (s.modLaunch c k f).seqs = s.seqs := rfl
@[simp] theorem State.modLaunch_mem (c k : Nat) (f : Launch → Launch) : (s.modLaunch c k f).mem = s.mem := rfl
@[simp] theorem State.modLaunch_net (c k : Nat) (f : Launch → Launch) : (s.modLaunch c k f).net = s.net := rfl
@[simp] theorem State.modLaunch_ctxs (c k : Nat) (f : Launch → Launch) : (s.modLaunch c k f).ctxs = s.ctxs := rfl
@[simp] theorem State.modLaunch_pushes (c k : Nat) (f : Launch → Launch) :
    (s.modLaunch c k f).pushes = s.pushes := rfl
@[simp] theorem State.modLaunch_orders (c k : Nat) (f : Launch → Launch) :
    (s.modLaunch c k f).orders = s.orders := rfl
@[simp] theorem State.modLaunch_syncHome (c k : Nat) (f : Launch → Launch) :
    (s.modLaunch c k f).syncHome = s.syncHome := rfl
@[simp] theorem State.modLaunch_syncMirror (c k : Nat) (f : Launch → Launch) :
    (s.modLaunch c k f).syncMirror = s.syncMirror := rfl
@[simp] theorem State.modLaunch_regUpdates (c k : Nat) (f : Launch → Launch) :
    (s.modLaunch c k f).regUpdates = s.regUpdates := rfl
@[simp] theorem State.modLaunch_sweeps (c k : Nat) (f : Launch → Launch) :
    (s.modLaunch c k f).sweeps = s.sweeps := rfl
@[simp] theorem State.modLaunch_windows (c k : Nat) (f : Launch → Launch) :
    (s.modLaunch c k f).windows = s.windows := rfl
@[simp] theorem State.modLaunch_mxCmds (c k : Nat) (f : Launch → Launch) :
    (s.modLaunch c k f).mxCmds = s.mxCmds := rfl
@[simp] theorem State.modLaunch_cpCmds (c k : Nat) (f : Launch → Launch) :
    (s.modLaunch c k f).cpCmds = s.cpCmds := rfl
@[simp] theorem State.modLaunch_jobs (c k : Nat) (f : Launch → Launch) : (s.modLaunch c k f).jobs = s.jobs := rfl
@[simp] theorem State.modLaunch_channels (c k : Nat) (f : Launch → Launch) :
    (s.modLaunch c k f).channels = s.channels := rfl
@[simp] theorem State.modLaunch_ranges (c k : Nat) (f : Launch → Launch) :
    (s.modLaunch c k f).ranges = s.ranges := rfl
@[simp] theorem State.modLaunch_dies (c k : Nat) (f : Launch → Launch) : (s.modLaunch c k f).dies = s.dies := rfl
@[simp] theorem State.modLaunch_links (c k : Nat) (f : Launch → Launch) : (s.modLaunch c k f).links = s.links := rfl
@[simp] theorem State.modLaunch_lost (c k : Nat) (f : Launch → Launch) : (s.modLaunch c k f).lost = s.lost := rfl
@[simp] theorem State.modLaunch_regs (c k : Nat) (f : Launch → Launch) : (s.modLaunch c k f).regs = s.regs := rfl
@[simp] theorem State.modLaunch_kfqPosted (c k : Nat) (f : Launch → Launch) :
    (s.modLaunch c k f).kfqPosted = s.kfqPosted := rfl
@[simp] theorem State.modLaunch_kfqWaiting (c k : Nat) (f : Launch → Launch) :
    (s.modLaunch c k f).kfqWaiting = s.kfqWaiting := rfl
@[simp] theorem State.modLaunch_mnqPosted (c k : Nat) (f : Launch → Launch) :
    (s.modLaunch c k f).mnqPosted = s.mnqPosted := rfl
@[simp] theorem State.modLaunch_mnqOwed (c k : Nat) (f : Launch → Launch) :
    (s.modLaunch c k f).mnqOwed = s.mnqOwed := rfl
@[simp] theorem State.modLaunch_mgmt (c k : Nat) (f : Launch → Launch) : (s.modLaunch c k f).mgmt = s.mgmt := rfl
@[simp] theorem State.modLaunch_entryPc (c k : Nat) (f : Launch → Launch) :
    (s.modLaunch c k f).entryPc = s.entryPc := rfl
@[simp] theorem State.modLaunch_agenda (c k : Nat) (f : Launch → Launch) :
    (s.modLaunch c k f).agenda = s.agenda := rfl
@[simp] theorem State.modLaunch_turn (c k : Nat) (f : Launch → Launch) : (s.modLaunch c k f).turn = s.turn := rfl
@[simp] theorem State.modLaunch_fresh (c k : Nat) (f : Launch → Launch) : (s.modLaunch c k f).fresh = s.fresh := rfl
@[simp] theorem State.modLaunch_nextId (c k : Nat) (f : Launch → Launch) :
    (s.modLaunch c k f).nextId = s.nextId := rfl

/-! `modDie` -/

@[simp] theorem State.modDie_cur (d : Nat) (f : Die → Die) : (s.modDie d f).cur = s.cur := rfl
@[simp] theorem State.modDie_core (d : Nat) (f : Die → Die) : (s.modDie d f).core = s.core := rfl
@[simp] theorem State.modDie_seqs (d : Nat) (f : Die → Die) : (s.modDie d f).seqs = s.seqs := rfl
@[simp] theorem State.modDie_mem (d : Nat) (f : Die → Die) : (s.modDie d f).mem = s.mem := rfl
@[simp] theorem State.modDie_net (d : Nat) (f : Die → Die) : (s.modDie d f).net = s.net := rfl
@[simp] theorem State.modDie_ctxs (d : Nat) (f : Die → Die) : (s.modDie d f).ctxs = s.ctxs := rfl
@[simp] theorem State.modDie_launches (d : Nat) (f : Die → Die) : (s.modDie d f).launches = s.launches := rfl
@[simp] theorem State.modDie_pushes (d : Nat) (f : Die → Die) : (s.modDie d f).pushes = s.pushes := rfl
@[simp] theorem State.modDie_orders (d : Nat) (f : Die → Die) : (s.modDie d f).orders = s.orders := rfl
@[simp] theorem State.modDie_syncHome (d : Nat) (f : Die → Die) : (s.modDie d f).syncHome = s.syncHome := rfl
@[simp] theorem State.modDie_syncMirror (d : Nat) (f : Die → Die) : (s.modDie d f).syncMirror = s.syncMirror := rfl
@[simp] theorem State.modDie_regUpdates (d : Nat) (f : Die → Die) : (s.modDie d f).regUpdates = s.regUpdates := rfl
@[simp] theorem State.modDie_sweeps (d : Nat) (f : Die → Die) : (s.modDie d f).sweeps = s.sweeps := rfl
@[simp] theorem State.modDie_windows (d : Nat) (f : Die → Die) : (s.modDie d f).windows = s.windows := rfl
@[simp] theorem State.modDie_mxCmds (d : Nat) (f : Die → Die) : (s.modDie d f).mxCmds = s.mxCmds := rfl
@[simp] theorem State.modDie_cpCmds (d : Nat) (f : Die → Die) : (s.modDie d f).cpCmds = s.cpCmds := rfl
@[simp] theorem State.modDie_jobs (d : Nat) (f : Die → Die) : (s.modDie d f).jobs = s.jobs := rfl
@[simp] theorem State.modDie_channels (d : Nat) (f : Die → Die) : (s.modDie d f).channels = s.channels := rfl
@[simp] theorem State.modDie_ranges (d : Nat) (f : Die → Die) : (s.modDie d f).ranges = s.ranges := rfl
@[simp] theorem State.modDie_dies (d : Nat) (f : Die → Die) :
    (s.modDie d f).dies = s.dies.setIfInBounds d (f (s.die d)) := rfl
@[simp] theorem State.modDie_links (d : Nat) (f : Die → Die) : (s.modDie d f).links = s.links := rfl
@[simp] theorem State.modDie_lost (d : Nat) (f : Die → Die) : (s.modDie d f).lost = s.lost := rfl
@[simp] theorem State.modDie_regs (d : Nat) (f : Die → Die) : (s.modDie d f).regs = s.regs := rfl
@[simp] theorem State.modDie_kfqPosted (d : Nat) (f : Die → Die) : (s.modDie d f).kfqPosted = s.kfqPosted := rfl
@[simp] theorem State.modDie_kfqWaiting (d : Nat) (f : Die → Die) : (s.modDie d f).kfqWaiting = s.kfqWaiting := rfl
@[simp] theorem State.modDie_mnqPosted (d : Nat) (f : Die → Die) : (s.modDie d f).mnqPosted = s.mnqPosted := rfl
@[simp] theorem State.modDie_mnqOwed (d : Nat) (f : Die → Die) : (s.modDie d f).mnqOwed = s.mnqOwed := rfl
@[simp] theorem State.modDie_mgmt (d : Nat) (f : Die → Die) : (s.modDie d f).mgmt = s.mgmt := rfl
@[simp] theorem State.modDie_entryPc (d : Nat) (f : Die → Die) : (s.modDie d f).entryPc = s.entryPc := rfl
@[simp] theorem State.modDie_agenda (d : Nat) (f : Die → Die) : (s.modDie d f).agenda = s.agenda := rfl
@[simp] theorem State.modDie_turn (d : Nat) (f : Die → Die) : (s.modDie d f).turn = s.turn := rfl
@[simp] theorem State.modDie_fresh (d : Nat) (f : Die → Die) : (s.modDie d f).fresh = s.fresh := rfl
@[simp] theorem State.modDie_nextId (d : Nat) (f : Die → Die) : (s.modDie d f).nextId = s.nextId := rfl

/-! `modLink` -/

@[simp] theorem State.modLink_cur (k : Nat) (f : Link → Link) : (s.modLink k f).cur = s.cur := rfl
@[simp] theorem State.modLink_core (k : Nat) (f : Link → Link) : (s.modLink k f).core = s.core := rfl
@[simp] theorem State.modLink_seqs (k : Nat) (f : Link → Link) : (s.modLink k f).seqs = s.seqs := rfl
@[simp] theorem State.modLink_mem (k : Nat) (f : Link → Link) : (s.modLink k f).mem = s.mem := rfl
@[simp] theorem State.modLink_net (k : Nat) (f : Link → Link) : (s.modLink k f).net = s.net := rfl
@[simp] theorem State.modLink_ctxs (k : Nat) (f : Link → Link) : (s.modLink k f).ctxs = s.ctxs := rfl
@[simp] theorem State.modLink_launches (k : Nat) (f : Link → Link) : (s.modLink k f).launches = s.launches := rfl
@[simp] theorem State.modLink_pushes (k : Nat) (f : Link → Link) : (s.modLink k f).pushes = s.pushes := rfl
@[simp] theorem State.modLink_orders (k : Nat) (f : Link → Link) : (s.modLink k f).orders = s.orders := rfl
@[simp] theorem State.modLink_syncHome (k : Nat) (f : Link → Link) : (s.modLink k f).syncHome = s.syncHome := rfl
@[simp] theorem State.modLink_syncMirror (k : Nat) (f : Link → Link) :
    (s.modLink k f).syncMirror = s.syncMirror := rfl
@[simp] theorem State.modLink_regUpdates (k : Nat) (f : Link → Link) :
    (s.modLink k f).regUpdates = s.regUpdates := rfl
@[simp] theorem State.modLink_sweeps (k : Nat) (f : Link → Link) : (s.modLink k f).sweeps = s.sweeps := rfl
@[simp] theorem State.modLink_windows (k : Nat) (f : Link → Link) : (s.modLink k f).windows = s.windows := rfl
@[simp] theorem State.modLink_mxCmds (k : Nat) (f : Link → Link) : (s.modLink k f).mxCmds = s.mxCmds := rfl
@[simp] theorem State.modLink_cpCmds (k : Nat) (f : Link → Link) : (s.modLink k f).cpCmds = s.cpCmds := rfl
@[simp] theorem State.modLink_jobs (k : Nat) (f : Link → Link) : (s.modLink k f).jobs = s.jobs := rfl
@[simp] theorem State.modLink_channels (k : Nat) (f : Link → Link) : (s.modLink k f).channels = s.channels := rfl
@[simp] theorem State.modLink_ranges (k : Nat) (f : Link → Link) : (s.modLink k f).ranges = s.ranges := rfl
@[simp] theorem State.modLink_dies (k : Nat) (f : Link → Link) : (s.modLink k f).dies = s.dies := rfl
@[simp] theorem State.modLink_links (k : Nat) (f : Link → Link) :
    (s.modLink k f).links = assocPut s.links k (f (s.link k)) := rfl
@[simp] theorem State.modLink_lost (k : Nat) (f : Link → Link) : (s.modLink k f).lost = s.lost := rfl
@[simp] theorem State.modLink_regs (k : Nat) (f : Link → Link) : (s.modLink k f).regs = s.regs := rfl
@[simp] theorem State.modLink_kfqPosted (k : Nat) (f : Link → Link) : (s.modLink k f).kfqPosted = s.kfqPosted := rfl
@[simp] theorem State.modLink_kfqWaiting (k : Nat) (f : Link → Link) :
    (s.modLink k f).kfqWaiting = s.kfqWaiting := rfl
@[simp] theorem State.modLink_mnqPosted (k : Nat) (f : Link → Link) : (s.modLink k f).mnqPosted = s.mnqPosted := rfl
@[simp] theorem State.modLink_mnqOwed (k : Nat) (f : Link → Link) : (s.modLink k f).mnqOwed = s.mnqOwed := rfl
@[simp] theorem State.modLink_mgmt (k : Nat) (f : Link → Link) : (s.modLink k f).mgmt = s.mgmt := rfl
@[simp] theorem State.modLink_entryPc (k : Nat) (f : Link → Link) : (s.modLink k f).entryPc = s.entryPc := rfl
@[simp] theorem State.modLink_agenda (k : Nat) (f : Link → Link) : (s.modLink k f).agenda = s.agenda := rfl
@[simp] theorem State.modLink_turn (k : Nat) (f : Link → Link) : (s.modLink k f).turn = s.turn := rfl
@[simp] theorem State.modLink_fresh (k : Nat) (f : Link → Link) : (s.modLink k f).fresh = s.fresh := rfl
@[simp] theorem State.modLink_nextId (k : Nat) (f : Link → Link) : (s.modLink k f).nextId = s.nextId := rfl

/-! `modMgmt` -/

@[simp] theorem State.modMgmt_cur (f : Mgmt → Mgmt) : (s.modMgmt f).cur = s.cur := rfl
@[simp] theorem State.modMgmt_core (f : Mgmt → Mgmt) : (s.modMgmt f).core = s.core := rfl
@[simp] theorem State.modMgmt_seqs (f : Mgmt → Mgmt) : (s.modMgmt f).seqs = s.seqs := rfl
@[simp] theorem State.modMgmt_mem (f : Mgmt → Mgmt) : (s.modMgmt f).mem = s.mem := rfl
@[simp] theorem State.modMgmt_net (f : Mgmt → Mgmt) : (s.modMgmt f).net = s.net := rfl
@[simp] theorem State.modMgmt_ctxs (f : Mgmt → Mgmt) : (s.modMgmt f).ctxs = s.ctxs := rfl
@[simp] theorem State.modMgmt_launches (f : Mgmt → Mgmt) : (s.modMgmt f).launches = s.launches := rfl
@[simp] theorem State.modMgmt_pushes (f : Mgmt → Mgmt) : (s.modMgmt f).pushes = s.pushes := rfl
@[simp] theorem State.modMgmt_orders (f : Mgmt → Mgmt) : (s.modMgmt f).orders = s.orders := rfl
@[simp] theorem State.modMgmt_syncHome (f : Mgmt → Mgmt) : (s.modMgmt f).syncHome = s.syncHome := rfl
@[simp] theorem State.modMgmt_syncMirror (f : Mgmt → Mgmt) : (s.modMgmt f).syncMirror = s.syncMirror := rfl
@[simp] theorem State.modMgmt_regUpdates (f : Mgmt → Mgmt) : (s.modMgmt f).regUpdates = s.regUpdates := rfl
@[simp] theorem State.modMgmt_sweeps (f : Mgmt → Mgmt) : (s.modMgmt f).sweeps = s.sweeps := rfl
@[simp] theorem State.modMgmt_windows (f : Mgmt → Mgmt) : (s.modMgmt f).windows = s.windows := rfl
@[simp] theorem State.modMgmt_mxCmds (f : Mgmt → Mgmt) : (s.modMgmt f).mxCmds = s.mxCmds := rfl
@[simp] theorem State.modMgmt_cpCmds (f : Mgmt → Mgmt) : (s.modMgmt f).cpCmds = s.cpCmds := rfl
@[simp] theorem State.modMgmt_jobs (f : Mgmt → Mgmt) : (s.modMgmt f).jobs = s.jobs := rfl
@[simp] theorem State.modMgmt_channels (f : Mgmt → Mgmt) : (s.modMgmt f).channels = s.channels := rfl
@[simp] theorem State.modMgmt_ranges (f : Mgmt → Mgmt) : (s.modMgmt f).ranges = s.ranges := rfl
@[simp] theorem State.modMgmt_dies (f : Mgmt → Mgmt) : (s.modMgmt f).dies = s.dies := rfl
@[simp] theorem State.modMgmt_links (f : Mgmt → Mgmt) : (s.modMgmt f).links = s.links := rfl
@[simp] theorem State.modMgmt_lost (f : Mgmt → Mgmt) : (s.modMgmt f).lost = s.lost := rfl
@[simp] theorem State.modMgmt_regs (f : Mgmt → Mgmt) : (s.modMgmt f).regs = s.regs := rfl
@[simp] theorem State.modMgmt_kfqPosted (f : Mgmt → Mgmt) : (s.modMgmt f).kfqPosted = s.kfqPosted := rfl
@[simp] theorem State.modMgmt_kfqWaiting (f : Mgmt → Mgmt) : (s.modMgmt f).kfqWaiting = s.kfqWaiting := rfl
@[simp] theorem State.modMgmt_mnqPosted (f : Mgmt → Mgmt) : (s.modMgmt f).mnqPosted = s.mnqPosted := rfl
@[simp] theorem State.modMgmt_mnqOwed (f : Mgmt → Mgmt) : (s.modMgmt f).mnqOwed = s.mnqOwed := rfl
@[simp] theorem State.modMgmt_mgmt (f : Mgmt → Mgmt) : (s.modMgmt f).mgmt = f s.mgmt := rfl
@[simp] theorem State.modMgmt_entryPc (f : Mgmt → Mgmt) : (s.modMgmt f).entryPc = s.entryPc := rfl
@[simp] theorem State.modMgmt_agenda (f : Mgmt → Mgmt) : (s.modMgmt f).agenda = s.agenda := rfl
@[simp] theorem State.modMgmt_turn (f : Mgmt → Mgmt) : (s.modMgmt f).turn = s.turn := rfl
@[simp] theorem State.modMgmt_fresh (f : Mgmt → Mgmt) : (s.modMgmt f).fresh = s.fresh := rfl
@[simp] theorem State.modMgmt_nextId (f : Mgmt → Mgmt) : (s.modMgmt f).nextId = s.nextId := rfl

/-! `modCmd` -/

@[simp] theorem State.modCmd_cur (i : Nat) (f : MxCmd → MxCmd) : (s.modCmd i f).cur = s.cur := rfl
@[simp] theorem State.modCmd_core (i : Nat) (f : MxCmd → MxCmd) : (s.modCmd i f).core = s.core := rfl
@[simp] theorem State.modCmd_seqs (i : Nat) (f : MxCmd → MxCmd) : (s.modCmd i f).seqs = s.seqs := rfl
@[simp] theorem State.modCmd_mem (i : Nat) (f : MxCmd → MxCmd) : (s.modCmd i f).mem = s.mem := rfl
@[simp] theorem State.modCmd_net (i : Nat) (f : MxCmd → MxCmd) : (s.modCmd i f).net = s.net := rfl
@[simp] theorem State.modCmd_ctxs (i : Nat) (f : MxCmd → MxCmd) : (s.modCmd i f).ctxs = s.ctxs := rfl
@[simp] theorem State.modCmd_launches (i : Nat) (f : MxCmd → MxCmd) : (s.modCmd i f).launches = s.launches := rfl
@[simp] theorem State.modCmd_pushes (i : Nat) (f : MxCmd → MxCmd) : (s.modCmd i f).pushes = s.pushes := rfl
@[simp] theorem State.modCmd_orders (i : Nat) (f : MxCmd → MxCmd) : (s.modCmd i f).orders = s.orders := rfl
@[simp] theorem State.modCmd_syncHome (i : Nat) (f : MxCmd → MxCmd) : (s.modCmd i f).syncHome = s.syncHome := rfl
@[simp] theorem State.modCmd_syncMirror (i : Nat) (f : MxCmd → MxCmd) :
    (s.modCmd i f).syncMirror = s.syncMirror := rfl
@[simp] theorem State.modCmd_regUpdates (i : Nat) (f : MxCmd → MxCmd) :
    (s.modCmd i f).regUpdates = s.regUpdates := rfl
@[simp] theorem State.modCmd_sweeps (i : Nat) (f : MxCmd → MxCmd) : (s.modCmd i f).sweeps = s.sweeps := rfl
@[simp] theorem State.modCmd_windows (i : Nat) (f : MxCmd → MxCmd) : (s.modCmd i f).windows = s.windows := rfl
@[simp] theorem State.modCmd_cpCmds (i : Nat) (f : MxCmd → MxCmd) : (s.modCmd i f).cpCmds = s.cpCmds := rfl
@[simp] theorem State.modCmd_jobs (i : Nat) (f : MxCmd → MxCmd) : (s.modCmd i f).jobs = s.jobs := rfl
@[simp] theorem State.modCmd_channels (i : Nat) (f : MxCmd → MxCmd) : (s.modCmd i f).channels = s.channels := rfl
@[simp] theorem State.modCmd_ranges (i : Nat) (f : MxCmd → MxCmd) : (s.modCmd i f).ranges = s.ranges := rfl
@[simp] theorem State.modCmd_dies (i : Nat) (f : MxCmd → MxCmd) : (s.modCmd i f).dies = s.dies := rfl
@[simp] theorem State.modCmd_links (i : Nat) (f : MxCmd → MxCmd) : (s.modCmd i f).links = s.links := rfl
@[simp] theorem State.modCmd_lost (i : Nat) (f : MxCmd → MxCmd) : (s.modCmd i f).lost = s.lost := rfl
@[simp] theorem State.modCmd_regs (i : Nat) (f : MxCmd → MxCmd) : (s.modCmd i f).regs = s.regs := rfl
@[simp] theorem State.modCmd_kfqPosted (i : Nat) (f : MxCmd → MxCmd) : (s.modCmd i f).kfqPosted = s.kfqPosted := rfl
@[simp] theorem State.modCmd_kfqWaiting (i : Nat) (f : MxCmd → MxCmd) :
    (s.modCmd i f).kfqWaiting = s.kfqWaiting := rfl
@[simp] theorem State.modCmd_mnqPosted (i : Nat) (f : MxCmd → MxCmd) : (s.modCmd i f).mnqPosted = s.mnqPosted := rfl
@[simp] theorem State.modCmd_mnqOwed (i : Nat) (f : MxCmd → MxCmd) : (s.modCmd i f).mnqOwed = s.mnqOwed := rfl
@[simp] theorem State.modCmd_mgmt (i : Nat) (f : MxCmd → MxCmd) : (s.modCmd i f).mgmt = s.mgmt := rfl
@[simp] theorem State.modCmd_entryPc (i : Nat) (f : MxCmd → MxCmd) : (s.modCmd i f).entryPc = s.entryPc := rfl
@[simp] theorem State.modCmd_agenda (i : Nat) (f : MxCmd → MxCmd) : (s.modCmd i f).agenda = s.agenda := rfl
@[simp] theorem State.modCmd_turn (i : Nat) (f : MxCmd → MxCmd) : (s.modCmd i f).turn = s.turn := rfl
@[simp] theorem State.modCmd_fresh (i : Nat) (f : MxCmd → MxCmd) : (s.modCmd i f).fresh = s.fresh := rfl
@[simp] theorem State.modCmd_nextId (i : Nat) (f : MxCmd → MxCmd) : (s.modCmd i f).nextId = s.nextId := rfl

/-! `modWindow` -/

@[simp] theorem State.modWindow_cur (i : Nat) (f : Window → Window) : (s.modWindow i f).cur = s.cur := rfl
@[simp] theorem State.modWindow_core (i : Nat) (f : Window → Window) : (s.modWindow i f).core = s.core := rfl
@[simp] theorem State.modWindow_seqs (i : Nat) (f : Window → Window) : (s.modWindow i f).seqs = s.seqs := rfl
@[simp] theorem State.modWindow_mem (i : Nat) (f : Window → Window) : (s.modWindow i f).mem = s.mem := rfl
@[simp] theorem State.modWindow_net (i : Nat) (f : Window → Window) : (s.modWindow i f).net = s.net := rfl
@[simp] theorem State.modWindow_ctxs (i : Nat) (f : Window → Window) : (s.modWindow i f).ctxs = s.ctxs := rfl
@[simp] theorem State.modWindow_launches (i : Nat) (f : Window → Window) :
    (s.modWindow i f).launches = s.launches := rfl
@[simp] theorem State.modWindow_pushes (i : Nat) (f : Window → Window) : (s.modWindow i f).pushes = s.pushes := rfl
@[simp] theorem State.modWindow_orders (i : Nat) (f : Window → Window) : (s.modWindow i f).orders = s.orders := rfl
@[simp] theorem State.modWindow_syncHome (i : Nat) (f : Window → Window) :
    (s.modWindow i f).syncHome = s.syncHome := rfl
@[simp] theorem State.modWindow_syncMirror (i : Nat) (f : Window → Window) :
    (s.modWindow i f).syncMirror = s.syncMirror := rfl
@[simp] theorem State.modWindow_regUpdates (i : Nat) (f : Window → Window) :
    (s.modWindow i f).regUpdates = s.regUpdates := rfl
@[simp] theorem State.modWindow_sweeps (i : Nat) (f : Window → Window) : (s.modWindow i f).sweeps = s.sweeps := rfl
@[simp] theorem State.modWindow_mxCmds (i : Nat) (f : Window → Window) : (s.modWindow i f).mxCmds = s.mxCmds := rfl
@[simp] theorem State.modWindow_cpCmds (i : Nat) (f : Window → Window) : (s.modWindow i f).cpCmds = s.cpCmds := rfl
@[simp] theorem State.modWindow_jobs (i : Nat) (f : Window → Window) : (s.modWindow i f).jobs = s.jobs := rfl
@[simp] theorem State.modWindow_channels (i : Nat) (f : Window → Window) :
    (s.modWindow i f).channels = s.channels := rfl
@[simp] theorem State.modWindow_ranges (i : Nat) (f : Window → Window) : (s.modWindow i f).ranges = s.ranges := rfl
@[simp] theorem State.modWindow_dies (i : Nat) (f : Window → Window) : (s.modWindow i f).dies = s.dies := rfl
@[simp] theorem State.modWindow_links (i : Nat) (f : Window → Window) : (s.modWindow i f).links = s.links := rfl
@[simp] theorem State.modWindow_lost (i : Nat) (f : Window → Window) : (s.modWindow i f).lost = s.lost := rfl
@[simp] theorem State.modWindow_regs (i : Nat) (f : Window → Window) : (s.modWindow i f).regs = s.regs := rfl
@[simp] theorem State.modWindow_kfqPosted (i : Nat) (f : Window → Window) :
    (s.modWindow i f).kfqPosted = s.kfqPosted := rfl
@[simp] theorem State.modWindow_kfqWaiting (i : Nat) (f : Window → Window) :
    (s.modWindow i f).kfqWaiting = s.kfqWaiting := rfl
@[simp] theorem State.modWindow_mnqPosted (i : Nat) (f : Window → Window) :
    (s.modWindow i f).mnqPosted = s.mnqPosted := rfl
@[simp] theorem State.modWindow_mnqOwed (i : Nat) (f : Window → Window) : (s.modWindow i f).mnqOwed = s.mnqOwed := rfl
@[simp] theorem State.modWindow_mgmt (i : Nat) (f : Window → Window) : (s.modWindow i f).mgmt = s.mgmt := rfl
@[simp] theorem State.modWindow_entryPc (i : Nat) (f : Window → Window) : (s.modWindow i f).entryPc = s.entryPc := rfl
@[simp] theorem State.modWindow_agenda (i : Nat) (f : Window → Window) : (s.modWindow i f).agenda = s.agenda := rfl
@[simp] theorem State.modWindow_turn (i : Nat) (f : Window → Window) : (s.modWindow i f).turn = s.turn := rfl
@[simp] theorem State.modWindow_fresh (i : Nat) (f : Window → Window) : (s.modWindow i f).fresh = s.fresh := rfl
@[simp] theorem State.modWindow_nextId (i : Nat) (f : Window → Window) : (s.modWindow i f).nextId = s.nextId := rfl

/-! `modPush` -/

@[simp] theorem State.modPush_cur (i : Nat) (f : Push → Push) : (s.modPush i f).cur = s.cur := rfl
@[simp] theorem State.modPush_core (i : Nat) (f : Push → Push) : (s.modPush i f).core = s.core := rfl
@[simp] theorem State.modPush_seqs (i : Nat) (f : Push → Push) : (s.modPush i f).seqs = s.seqs := rfl
@[simp] theorem State.modPush_mem (i : Nat) (f : Push → Push) : (s.modPush i f).mem = s.mem := rfl
@[simp] theorem State.modPush_net (i : Nat) (f : Push → Push) : (s.modPush i f).net = s.net := rfl
@[simp] theorem State.modPush_ctxs (i : Nat) (f : Push → Push) : (s.modPush i f).ctxs = s.ctxs := rfl
@[simp] theorem State.modPush_launches (i : Nat) (f : Push → Push) : (s.modPush i f).launches = s.launches := rfl
@[simp] theorem State.modPush_orders (i : Nat) (f : Push → Push) : (s.modPush i f).orders = s.orders := rfl
@[simp] theorem State.modPush_syncHome (i : Nat) (f : Push → Push) : (s.modPush i f).syncHome = s.syncHome := rfl
@[simp] theorem State.modPush_syncMirror (i : Nat) (f : Push → Push) :
    (s.modPush i f).syncMirror = s.syncMirror := rfl
@[simp] theorem State.modPush_regUpdates (i : Nat) (f : Push → Push) :
    (s.modPush i f).regUpdates = s.regUpdates := rfl
@[simp] theorem State.modPush_sweeps (i : Nat) (f : Push → Push) : (s.modPush i f).sweeps = s.sweeps := rfl
@[simp] theorem State.modPush_windows (i : Nat) (f : Push → Push) : (s.modPush i f).windows = s.windows := rfl
@[simp] theorem State.modPush_mxCmds (i : Nat) (f : Push → Push) : (s.modPush i f).mxCmds = s.mxCmds := rfl
@[simp] theorem State.modPush_cpCmds (i : Nat) (f : Push → Push) : (s.modPush i f).cpCmds = s.cpCmds := rfl
@[simp] theorem State.modPush_jobs (i : Nat) (f : Push → Push) : (s.modPush i f).jobs = s.jobs := rfl
@[simp] theorem State.modPush_channels (i : Nat) (f : Push → Push) : (s.modPush i f).channels = s.channels := rfl
@[simp] theorem State.modPush_ranges (i : Nat) (f : Push → Push) : (s.modPush i f).ranges = s.ranges := rfl
@[simp] theorem State.modPush_dies (i : Nat) (f : Push → Push) : (s.modPush i f).dies = s.dies := rfl
@[simp] theorem State.modPush_links (i : Nat) (f : Push → Push) : (s.modPush i f).links = s.links := rfl
@[simp] theorem State.modPush_lost (i : Nat) (f : Push → Push) : (s.modPush i f).lost = s.lost := rfl
@[simp] theorem State.modPush_regs (i : Nat) (f : Push → Push) : (s.modPush i f).regs = s.regs := rfl
@[simp] theorem State.modPush_kfqPosted (i : Nat) (f : Push → Push) : (s.modPush i f).kfqPosted = s.kfqPosted := rfl
@[simp] theorem State.modPush_kfqWaiting (i : Nat) (f : Push → Push) :
    (s.modPush i f).kfqWaiting = s.kfqWaiting := rfl
@[simp] theorem State.modPush_mnqPosted (i : Nat) (f : Push → Push) : (s.modPush i f).mnqPosted = s.mnqPosted := rfl
@[simp] theorem State.modPush_mnqOwed (i : Nat) (f : Push → Push) : (s.modPush i f).mnqOwed = s.mnqOwed := rfl
@[simp] theorem State.modPush_mgmt (i : Nat) (f : Push → Push) : (s.modPush i f).mgmt = s.mgmt := rfl
@[simp] theorem State.modPush_entryPc (i : Nat) (f : Push → Push) : (s.modPush i f).entryPc = s.entryPc := rfl
@[simp] theorem State.modPush_agenda (i : Nat) (f : Push → Push) : (s.modPush i f).agenda = s.agenda := rfl
@[simp] theorem State.modPush_turn (i : Nat) (f : Push → Push) : (s.modPush i f).turn = s.turn := rfl
@[simp] theorem State.modPush_fresh (i : Nat) (f : Push → Push) : (s.modPush i f).fresh = s.fresh := rfl
@[simp] theorem State.modPush_nextId (i : Nat) (f : Push → Push) : (s.modPush i f).nextId = s.nextId := rfl

/-! `post` -/

@[simp] theorem State.post_cur (p : Post) : (s.post p).cur = s.cur := rfl
@[simp] theorem State.post_core (p : Post) : (s.post p).core = s.core := rfl
@[simp] theorem State.post_seqs (p : Post) : (s.post p).seqs = s.seqs := rfl
@[simp] theorem State.post_mem (p : Post) : (s.post p).mem = s.mem := rfl
@[simp] theorem State.post_net (p : Post) : (s.post p).net = s.net := rfl
@[simp] theorem State.post_ctxs (p : Post) : (s.post p).ctxs = s.ctxs := rfl
@[simp] theorem State.post_launches (p : Post) : (s.post p).launches = s.launches := rfl
@[simp] theorem State.post_pushes (p : Post) : (s.post p).pushes = s.pushes := rfl
@[simp] theorem State.post_orders (p : Post) : (s.post p).orders = s.orders := rfl
@[simp] theorem State.post_syncHome (p : Post) : (s.post p).syncHome = s.syncHome := rfl
@[simp] theorem State.post_syncMirror (p : Post) : (s.post p).syncMirror = s.syncMirror := rfl
@[simp] theorem State.post_regUpdates (p : Post) : (s.post p).regUpdates = s.regUpdates := rfl
@[simp] theorem State.post_sweeps (p : Post) : (s.post p).sweeps = s.sweeps := rfl
@[simp] theorem State.post_windows (p : Post) : (s.post p).windows = s.windows := rfl
@[simp] theorem State.post_mxCmds (p : Post) : (s.post p).mxCmds = s.mxCmds := rfl
@[simp] theorem State.post_cpCmds (p : Post) : (s.post p).cpCmds = s.cpCmds := rfl
@[simp] theorem State.post_jobs (p : Post) : (s.post p).jobs = s.jobs := rfl
@[simp] theorem State.post_channels (p : Post) : (s.post p).channels = s.channels := rfl
@[simp] theorem State.post_ranges (p : Post) : (s.post p).ranges = s.ranges := rfl
@[simp] theorem State.post_dies (p : Post) : (s.post p).dies = s.dies := rfl
@[simp] theorem State.post_links (p : Post) : (s.post p).links = s.links := rfl
@[simp] theorem State.post_lost (p : Post) : (s.post p).lost = s.lost := rfl
@[simp] theorem State.post_regs (p : Post) : (s.post p).regs = s.regs := rfl
@[simp] theorem State.post_kfqPosted (p : Post) : (s.post p).kfqPosted = s.kfqPosted := rfl
@[simp] theorem State.post_kfqWaiting (p : Post) : (s.post p).kfqWaiting = s.kfqWaiting ++ [p] := rfl
@[simp] theorem State.post_mnqPosted (p : Post) : (s.post p).mnqPosted = s.mnqPosted := rfl
@[simp] theorem State.post_mnqOwed (p : Post) : (s.post p).mnqOwed = s.mnqOwed := rfl
@[simp] theorem State.post_mgmt (p : Post) : (s.post p).mgmt = s.mgmt := rfl
@[simp] theorem State.post_entryPc (p : Post) : (s.post p).entryPc = s.entryPc := rfl
@[simp] theorem State.post_agenda (p : Post) : (s.post p).agenda = s.agenda := rfl
@[simp] theorem State.post_turn (p : Post) : (s.post p).turn = s.turn := rfl
@[simp] theorem State.post_fresh (p : Post) : (s.post p).fresh = s.fresh := rfl
@[simp] theorem State.post_nextId (p : Post) : (s.post p).nextId = s.nextId := rfl

/-! `postHardware` -/

@[simp] theorem State.postHardware_cur (c x l : Nat) (e : Option Word) : (s.postHardware c x l e).cur = s.cur := rfl
@[simp] theorem State.postHardware_core (c x l : Nat) (e : Option Word) :
    (s.postHardware c x l e).core = s.core := rfl
@[simp] theorem State.postHardware_seqs (c x l : Nat) (e : Option Word) :
    (s.postHardware c x l e).seqs = s.seqs := rfl
@[simp] theorem State.postHardware_mem (c x l : Nat) (e : Option Word) : (s.postHardware c x l e).mem = s.mem := rfl
@[simp] theorem State.postHardware_net (c x l : Nat) (e : Option Word) : (s.postHardware c x l e).net = s.net := rfl
@[simp] theorem State.postHardware_ctxs (c x l : Nat) (e : Option Word) :
    (s.postHardware c x l e).ctxs = s.ctxs := rfl
@[simp] theorem State.postHardware_launches (c x l : Nat) (e : Option Word) :
    (s.postHardware c x l e).launches = s.launches := rfl
@[simp] theorem State.postHardware_pushes (c x l : Nat) (e : Option Word) :
    (s.postHardware c x l e).pushes = s.pushes := rfl
@[simp] theorem State.postHardware_orders (c x l : Nat) (e : Option Word) :
    (s.postHardware c x l e).orders = s.orders := rfl
@[simp] theorem State.postHardware_syncHome (c x l : Nat) (e : Option Word) :
    (s.postHardware c x l e).syncHome = s.syncHome := rfl
@[simp] theorem State.postHardware_syncMirror (c x l : Nat) (e : Option Word) :
    (s.postHardware c x l e).syncMirror = s.syncMirror := rfl
@[simp] theorem State.postHardware_regUpdates (c x l : Nat) (e : Option Word) :
    (s.postHardware c x l e).regUpdates = s.regUpdates := rfl
@[simp] theorem State.postHardware_sweeps (c x l : Nat) (e : Option Word) :
    (s.postHardware c x l e).sweeps = s.sweeps := rfl
@[simp] theorem State.postHardware_windows (c x l : Nat) (e : Option Word) :
    (s.postHardware c x l e).windows = s.windows := rfl
@[simp] theorem State.postHardware_mxCmds (c x l : Nat) (e : Option Word) :
    (s.postHardware c x l e).mxCmds = s.mxCmds := rfl
@[simp] theorem State.postHardware_cpCmds (c x l : Nat) (e : Option Word) :
    (s.postHardware c x l e).cpCmds = s.cpCmds := rfl
@[simp] theorem State.postHardware_jobs (c x l : Nat) (e : Option Word) :
    (s.postHardware c x l e).jobs = s.jobs := rfl
@[simp] theorem State.postHardware_channels (c x l : Nat) (e : Option Word) :
    (s.postHardware c x l e).channels = s.channels := rfl
@[simp] theorem State.postHardware_ranges (c x l : Nat) (e : Option Word) :
    (s.postHardware c x l e).ranges = s.ranges := rfl
@[simp] theorem State.postHardware_dies (c x l : Nat) (e : Option Word) :
    (s.postHardware c x l e).dies = s.dies := rfl
@[simp] theorem State.postHardware_links (c x l : Nat) (e : Option Word) :
    (s.postHardware c x l e).links = s.links := rfl
@[simp] theorem State.postHardware_lost (c x l : Nat) (e : Option Word) :
    (s.postHardware c x l e).lost = s.lost := rfl
@[simp] theorem State.postHardware_regs (c x l : Nat) (e : Option Word) :
    (s.postHardware c x l e).regs = s.regs := rfl
@[simp] theorem State.postHardware_kfqPosted (c x l : Nat) (e : Option Word) :
    (s.postHardware c x l e).kfqPosted = s.kfqPosted := rfl
@[simp] theorem State.postHardware_mnqPosted (c x l : Nat) (e : Option Word) :
    (s.postHardware c x l e).mnqPosted = s.mnqPosted := rfl
@[simp] theorem State.postHardware_mnqOwed (c x l : Nat) (e : Option Word) :
    (s.postHardware c x l e).mnqOwed = s.mnqOwed := rfl
@[simp] theorem State.postHardware_mgmt (c x l : Nat) (e : Option Word) :
    (s.postHardware c x l e).mgmt = s.mgmt := rfl
@[simp] theorem State.postHardware_entryPc (c x l : Nat) (e : Option Word) :
    (s.postHardware c x l e).entryPc = s.entryPc := rfl
@[simp] theorem State.postHardware_agenda (c x l : Nat) (e : Option Word) :
    (s.postHardware c x l e).agenda = s.agenda := rfl
@[simp] theorem State.postHardware_turn (c x l : Nat) (e : Option Word) :
    (s.postHardware c x l e).turn = s.turn := rfl
@[simp] theorem State.postHardware_fresh (c x l : Nat) (e : Option Word) :
    (s.postHardware c x l e).fresh = s.fresh + 1 := rfl
@[simp] theorem State.postHardware_nextId (c x l : Nat) (e : Option Word) :
    (s.postHardware c x l e).nextId = s.nextId := rfl

/-! `dropMsg` -/

@[simp] theorem State.dropMsg_cur (i : Nat) : (s.dropMsg i).cur = s.cur := rfl
@[simp] theorem State.dropMsg_core (i : Nat) : (s.dropMsg i).core = s.core := rfl
@[simp] theorem State.dropMsg_seqs (i : Nat) : (s.dropMsg i).seqs = s.seqs := rfl
@[simp] theorem State.dropMsg_mem (i : Nat) : (s.dropMsg i).mem = s.mem := rfl
@[simp] theorem State.dropMsg_ctxs (i : Nat) : (s.dropMsg i).ctxs = s.ctxs := rfl
@[simp] theorem State.dropMsg_launches (i : Nat) : (s.dropMsg i).launches = s.launches := rfl
@[simp] theorem State.dropMsg_pushes (i : Nat) : (s.dropMsg i).pushes = s.pushes := rfl
@[simp] theorem State.dropMsg_orders (i : Nat) : (s.dropMsg i).orders = s.orders := rfl
@[simp] theorem State.dropMsg_syncHome (i : Nat) : (s.dropMsg i).syncHome = s.syncHome := rfl
@[simp] theorem State.dropMsg_syncMirror (i : Nat) : (s.dropMsg i).syncMirror = s.syncMirror := rfl
@[simp] theorem State.dropMsg_regUpdates (i : Nat) : (s.dropMsg i).regUpdates = s.regUpdates := rfl
@[simp] theorem State.dropMsg_sweeps (i : Nat) : (s.dropMsg i).sweeps = s.sweeps := rfl
@[simp] theorem State.dropMsg_windows (i : Nat) : (s.dropMsg i).windows = s.windows := rfl
@[simp] theorem State.dropMsg_mxCmds (i : Nat) : (s.dropMsg i).mxCmds = s.mxCmds := rfl
@[simp] theorem State.dropMsg_cpCmds (i : Nat) : (s.dropMsg i).cpCmds = s.cpCmds := rfl
@[simp] theorem State.dropMsg_jobs (i : Nat) : (s.dropMsg i).jobs = s.jobs := rfl
@[simp] theorem State.dropMsg_channels (i : Nat) : (s.dropMsg i).channels = s.channels := rfl
@[simp] theorem State.dropMsg_ranges (i : Nat) : (s.dropMsg i).ranges = s.ranges := rfl
@[simp] theorem State.dropMsg_dies (i : Nat) : (s.dropMsg i).dies = s.dies := rfl
@[simp] theorem State.dropMsg_links (i : Nat) : (s.dropMsg i).links = s.links := rfl
@[simp] theorem State.dropMsg_lost (i : Nat) : (s.dropMsg i).lost = s.lost := rfl
@[simp] theorem State.dropMsg_regs (i : Nat) : (s.dropMsg i).regs = s.regs := rfl
@[simp] theorem State.dropMsg_kfqPosted (i : Nat) : (s.dropMsg i).kfqPosted = s.kfqPosted := rfl
@[simp] theorem State.dropMsg_kfqWaiting (i : Nat) : (s.dropMsg i).kfqWaiting = s.kfqWaiting := rfl
@[simp] theorem State.dropMsg_mnqPosted (i : Nat) : (s.dropMsg i).mnqPosted = s.mnqPosted := rfl
@[simp] theorem State.dropMsg_mnqOwed (i : Nat) : (s.dropMsg i).mnqOwed = s.mnqOwed := rfl
@[simp] theorem State.dropMsg_mgmt (i : Nat) : (s.dropMsg i).mgmt = s.mgmt := rfl
@[simp] theorem State.dropMsg_entryPc (i : Nat) : (s.dropMsg i).entryPc = s.entryPc := rfl
@[simp] theorem State.dropMsg_agenda (i : Nat) : (s.dropMsg i).agenda = s.agenda := rfl
@[simp] theorem State.dropMsg_turn (i : Nat) : (s.dropMsg i).turn = s.turn := rfl
@[simp] theorem State.dropMsg_fresh (i : Nat) : (s.dropMsg i).fresh = s.fresh := rfl
@[simp] theorem State.dropMsg_nextId (i : Nat) : (s.dropMsg i).nextId = s.nextId := rfl

/-! `land` -/

@[simp] theorem State.land_cur (q : SeqId) (r : BitVec 5) (v : Word) (p : Option Mark) (a : Option (BitVec 3)) :
    (s.land q r v p a).cur = s.cur := rfl
@[simp] theorem State.land_core (q : SeqId) (r : BitVec 5) (v : Word) (p : Option Mark) (a : Option (BitVec 3)) :
    (s.land q r v p a).core = s.core := rfl
@[simp] theorem State.land_seqs (q : SeqId) (r : BitVec 5) (v : Word) (p : Option Mark) (a : Option (BitVec 3)) :
    (s.land q r v p a).seqs = s.seqs := rfl
@[simp] theorem State.land_mem (q : SeqId) (r : BitVec 5) (v : Word) (p : Option Mark) (a : Option (BitVec 3)) :
    (s.land q r v p a).mem = s.mem := rfl
@[simp] theorem State.land_ctxs (q : SeqId) (r : BitVec 5) (v : Word) (p : Option Mark) (a : Option (BitVec 3)) :
    (s.land q r v p a).ctxs = s.ctxs := rfl
@[simp] theorem State.land_launches (q : SeqId) (r : BitVec 5) (v : Word) (p : Option Mark) (a : Option (BitVec 3)) :
    (s.land q r v p a).launches = s.launches := rfl
@[simp] theorem State.land_pushes (q : SeqId) (r : BitVec 5) (v : Word) (p : Option Mark) (a : Option (BitVec 3)) :
    (s.land q r v p a).pushes = s.pushes := rfl
@[simp] theorem State.land_orders (q : SeqId) (r : BitVec 5) (v : Word) (p : Option Mark) (a : Option (BitVec 3)) :
    (s.land q r v p a).orders = s.orders := rfl
@[simp] theorem State.land_syncHome (q : SeqId) (r : BitVec 5) (v : Word) (p : Option Mark) (a : Option (BitVec 3)) :
    (s.land q r v p a).syncHome = s.syncHome := rfl
@[simp] theorem State.land_syncMirror (q : SeqId) (r : BitVec 5) (v : Word) (p : Option Mark) (a : Option (BitVec 3)) :
    (s.land q r v p a).syncMirror = s.syncMirror := rfl
@[simp] theorem State.land_regUpdates (q : SeqId) (r : BitVec 5) (v : Word) (p : Option Mark) (a : Option (BitVec 3)) :
    (s.land q r v p a).regUpdates = s.regUpdates := rfl
@[simp] theorem State.land_sweeps (q : SeqId) (r : BitVec 5) (v : Word) (p : Option Mark) (a : Option (BitVec 3)) :
    (s.land q r v p a).sweeps = s.sweeps := rfl
@[simp] theorem State.land_windows (q : SeqId) (r : BitVec 5) (v : Word) (p : Option Mark) (a : Option (BitVec 3)) :
    (s.land q r v p a).windows = s.windows := rfl
@[simp] theorem State.land_mxCmds (q : SeqId) (r : BitVec 5) (v : Word) (p : Option Mark) (a : Option (BitVec 3)) :
    (s.land q r v p a).mxCmds = s.mxCmds := rfl
@[simp] theorem State.land_cpCmds (q : SeqId) (r : BitVec 5) (v : Word) (p : Option Mark) (a : Option (BitVec 3)) :
    (s.land q r v p a).cpCmds = s.cpCmds := rfl
@[simp] theorem State.land_jobs (q : SeqId) (r : BitVec 5) (v : Word) (p : Option Mark) (a : Option (BitVec 3)) :
    (s.land q r v p a).jobs = s.jobs := rfl
@[simp] theorem State.land_channels (q : SeqId) (r : BitVec 5) (v : Word) (p : Option Mark) (a : Option (BitVec 3)) :
    (s.land q r v p a).channels = s.channels := rfl
@[simp] theorem State.land_ranges (q : SeqId) (r : BitVec 5) (v : Word) (p : Option Mark) (a : Option (BitVec 3)) :
    (s.land q r v p a).ranges = s.ranges := rfl
@[simp] theorem State.land_dies (q : SeqId) (r : BitVec 5) (v : Word) (p : Option Mark) (a : Option (BitVec 3)) :
    (s.land q r v p a).dies = s.dies := rfl
@[simp] theorem State.land_links (q : SeqId) (r : BitVec 5) (v : Word) (p : Option Mark) (a : Option (BitVec 3)) :
    (s.land q r v p a).links = s.links := rfl
@[simp] theorem State.land_lost (q : SeqId) (r : BitVec 5) (v : Word) (p : Option Mark) (a : Option (BitVec 3)) :
    (s.land q r v p a).lost = s.lost := rfl
@[simp] theorem State.land_regs (q : SeqId) (r : BitVec 5) (v : Word) (p : Option Mark) (a : Option (BitVec 3)) :
    (s.land q r v p a).regs = s.regs := rfl
@[simp] theorem State.land_kfqPosted (q : SeqId) (r : BitVec 5) (v : Word) (p : Option Mark) (a : Option (BitVec 3)) :
    (s.land q r v p a).kfqPosted = s.kfqPosted := rfl
@[simp] theorem State.land_kfqWaiting (q : SeqId) (r : BitVec 5) (v : Word) (p : Option Mark) (a : Option (BitVec 3)) :
    (s.land q r v p a).kfqWaiting = s.kfqWaiting := rfl
@[simp] theorem State.land_mnqPosted (q : SeqId) (r : BitVec 5) (v : Word) (p : Option Mark) (a : Option (BitVec 3)) :
    (s.land q r v p a).mnqPosted = s.mnqPosted := rfl
@[simp] theorem State.land_mnqOwed (q : SeqId) (r : BitVec 5) (v : Word) (p : Option Mark) (a : Option (BitVec 3)) :
    (s.land q r v p a).mnqOwed = s.mnqOwed := rfl
@[simp] theorem State.land_mgmt (q : SeqId) (r : BitVec 5) (v : Word) (p : Option Mark) (a : Option (BitVec 3)) :
    (s.land q r v p a).mgmt = s.mgmt := rfl
@[simp] theorem State.land_entryPc (q : SeqId) (r : BitVec 5) (v : Word) (p : Option Mark) (a : Option (BitVec 3)) :
    (s.land q r v p a).entryPc = s.entryPc := rfl
@[simp] theorem State.land_agenda (q : SeqId) (r : BitVec 5) (v : Word) (p : Option Mark) (a : Option (BitVec 3)) :
    (s.land q r v p a).agenda = s.agenda := rfl
@[simp] theorem State.land_turn (q : SeqId) (r : BitVec 5) (v : Word) (p : Option Mark) (a : Option (BitVec 3)) :
    (s.land q r v p a).turn = s.turn := rfl
@[simp] theorem State.land_fresh (q : SeqId) (r : BitVec 5) (v : Word) (p : Option Mark) (a : Option (BitVec 3)) :
    (s.land q r v p a).fresh = s.fresh := rfl
@[simp] theorem State.land_nextId (q : SeqId) (r : BitVec 5) (v : Word) (p : Option Mark) (a : Option (BitVec 3)) :
    (s.land q r v p a).nextId = s.nextId + 1 := rfl

/-! `landElem` -/

@[simp] theorem State.landElem_cur (e : ElemLanding) : (s.landElem e).cur = s.cur := rfl
@[simp] theorem State.landElem_core (e : ElemLanding) : (s.landElem e).core = s.core := rfl
@[simp] theorem State.landElem_seqs (e : ElemLanding) : (s.landElem e).seqs = s.seqs := rfl
@[simp] theorem State.landElem_mem (e : ElemLanding) : (s.landElem e).mem = s.mem := rfl
@[simp] theorem State.landElem_ctxs (e : ElemLanding) : (s.landElem e).ctxs = s.ctxs := rfl
@[simp] theorem State.landElem_launches (e : ElemLanding) : (s.landElem e).launches = s.launches := rfl
@[simp] theorem State.landElem_pushes (e : ElemLanding) : (s.landElem e).pushes = s.pushes := rfl
@[simp] theorem State.landElem_orders (e : ElemLanding) : (s.landElem e).orders = s.orders := rfl
@[simp] theorem State.landElem_syncHome (e : ElemLanding) : (s.landElem e).syncHome = s.syncHome := rfl
@[simp] theorem State.landElem_syncMirror (e : ElemLanding) : (s.landElem e).syncMirror = s.syncMirror := rfl
@[simp] theorem State.landElem_regUpdates (e : ElemLanding) : (s.landElem e).regUpdates = s.regUpdates := rfl
@[simp] theorem State.landElem_sweeps (e : ElemLanding) : (s.landElem e).sweeps = s.sweeps := rfl
@[simp] theorem State.landElem_windows (e : ElemLanding) : (s.landElem e).windows = s.windows := rfl
@[simp] theorem State.landElem_mxCmds (e : ElemLanding) : (s.landElem e).mxCmds = s.mxCmds := rfl
@[simp] theorem State.landElem_cpCmds (e : ElemLanding) : (s.landElem e).cpCmds = s.cpCmds := rfl
@[simp] theorem State.landElem_jobs (e : ElemLanding) : (s.landElem e).jobs = s.jobs := rfl
@[simp] theorem State.landElem_channels (e : ElemLanding) : (s.landElem e).channels = s.channels := rfl
@[simp] theorem State.landElem_ranges (e : ElemLanding) : (s.landElem e).ranges = s.ranges := rfl
@[simp] theorem State.landElem_dies (e : ElemLanding) : (s.landElem e).dies = s.dies := rfl
@[simp] theorem State.landElem_links (e : ElemLanding) : (s.landElem e).links = s.links := rfl
@[simp] theorem State.landElem_lost (e : ElemLanding) : (s.landElem e).lost = s.lost := rfl
@[simp] theorem State.landElem_regs (e : ElemLanding) : (s.landElem e).regs = s.regs := rfl
@[simp] theorem State.landElem_kfqPosted (e : ElemLanding) : (s.landElem e).kfqPosted = s.kfqPosted := rfl
@[simp] theorem State.landElem_kfqWaiting (e : ElemLanding) : (s.landElem e).kfqWaiting = s.kfqWaiting := rfl
@[simp] theorem State.landElem_mnqPosted (e : ElemLanding) : (s.landElem e).mnqPosted = s.mnqPosted := rfl
@[simp] theorem State.landElem_mnqOwed (e : ElemLanding) : (s.landElem e).mnqOwed = s.mnqOwed := rfl
@[simp] theorem State.landElem_mgmt (e : ElemLanding) : (s.landElem e).mgmt = s.mgmt := rfl
@[simp] theorem State.landElem_entryPc (e : ElemLanding) : (s.landElem e).entryPc = s.entryPc := rfl
@[simp] theorem State.landElem_agenda (e : ElemLanding) : (s.landElem e).agenda = s.agenda := rfl
@[simp] theorem State.landElem_turn (e : ElemLanding) : (s.landElem e).turn = s.turn := rfl
@[simp] theorem State.landElem_fresh (e : ElemLanding) : (s.landElem e).fresh = s.fresh := rfl
@[simp] theorem State.landElem_nextId (e : ElemLanding) : (s.landElem e).nextId = s.nextId + 1 := rfl

/-! `send` -/

@[simp] theorem State.send_cur (q : SeqId) (k pa : Nat) (va : Word) (n : Nat) (b : Body) (x y d : Nat) :
    (s.send q k pa va n b x y d).cur = s.cur := rfl
@[simp] theorem State.send_core (q : SeqId) (k pa : Nat) (va : Word) (n : Nat) (b : Body) (x y d : Nat) :
    (s.send q k pa va n b x y d).core = s.core := rfl
@[simp] theorem State.send_seqs (q : SeqId) (k pa : Nat) (va : Word) (n : Nat) (b : Body) (x y d : Nat) :
    (s.send q k pa va n b x y d).seqs = s.seqs := rfl
@[simp] theorem State.send_mem (q : SeqId) (k pa : Nat) (va : Word) (n : Nat) (b : Body) (x y d : Nat) :
    (s.send q k pa va n b x y d).mem = s.mem := rfl
@[simp] theorem State.send_ctxs (q : SeqId) (k pa : Nat) (va : Word) (n : Nat) (b : Body) (x y d : Nat) :
    (s.send q k pa va n b x y d).ctxs = s.ctxs := rfl
@[simp] theorem State.send_launches (q : SeqId) (k pa : Nat) (va : Word) (n : Nat) (b : Body) (x y d : Nat) :
    (s.send q k pa va n b x y d).launches = s.launches := rfl
@[simp] theorem State.send_pushes (q : SeqId) (k pa : Nat) (va : Word) (n : Nat) (b : Body) (x y d : Nat) :
    (s.send q k pa va n b x y d).pushes = s.pushes := rfl
@[simp] theorem State.send_orders (q : SeqId) (k pa : Nat) (va : Word) (n : Nat) (b : Body) (x y d : Nat) :
    (s.send q k pa va n b x y d).orders = s.orders := rfl
@[simp] theorem State.send_syncHome (q : SeqId) (k pa : Nat) (va : Word) (n : Nat) (b : Body) (x y d : Nat) :
    (s.send q k pa va n b x y d).syncHome = s.syncHome := rfl
@[simp] theorem State.send_syncMirror (q : SeqId) (k pa : Nat) (va : Word) (n : Nat) (b : Body) (x y d : Nat) :
    (s.send q k pa va n b x y d).syncMirror = s.syncMirror := rfl
@[simp] theorem State.send_regUpdates (q : SeqId) (k pa : Nat) (va : Word) (n : Nat) (b : Body) (x y d : Nat) :
    (s.send q k pa va n b x y d).regUpdates = s.regUpdates := rfl
@[simp] theorem State.send_sweeps (q : SeqId) (k pa : Nat) (va : Word) (n : Nat) (b : Body) (x y d : Nat) :
    (s.send q k pa va n b x y d).sweeps = s.sweeps := rfl
@[simp] theorem State.send_windows (q : SeqId) (k pa : Nat) (va : Word) (n : Nat) (b : Body) (x y d : Nat) :
    (s.send q k pa va n b x y d).windows = s.windows := rfl
@[simp] theorem State.send_mxCmds (q : SeqId) (k pa : Nat) (va : Word) (n : Nat) (b : Body) (x y d : Nat) :
    (s.send q k pa va n b x y d).mxCmds = s.mxCmds := rfl
@[simp] theorem State.send_cpCmds (q : SeqId) (k pa : Nat) (va : Word) (n : Nat) (b : Body) (x y d : Nat) :
    (s.send q k pa va n b x y d).cpCmds = s.cpCmds := rfl
@[simp] theorem State.send_jobs (q : SeqId) (k pa : Nat) (va : Word) (n : Nat) (b : Body) (x y d : Nat) :
    (s.send q k pa va n b x y d).jobs = s.jobs := rfl
@[simp] theorem State.send_channels (q : SeqId) (k pa : Nat) (va : Word) (n : Nat) (b : Body) (x y d : Nat) :
    (s.send q k pa va n b x y d).channels = s.channels := rfl
@[simp] theorem State.send_ranges (q : SeqId) (k pa : Nat) (va : Word) (n : Nat) (b : Body) (x y d : Nat) :
    (s.send q k pa va n b x y d).ranges = s.ranges := rfl
@[simp] theorem State.send_dies (q : SeqId) (k pa : Nat) (va : Word) (n : Nat) (b : Body) (x y d : Nat) :
    (s.send q k pa va n b x y d).dies = s.dies := rfl
@[simp] theorem State.send_links (q : SeqId) (k pa : Nat) (va : Word) (n : Nat) (b : Body) (x y d : Nat) :
    (s.send q k pa va n b x y d).links = s.links := rfl
@[simp] theorem State.send_lost (q : SeqId) (k pa : Nat) (va : Word) (n : Nat) (b : Body) (x y d : Nat) :
    (s.send q k pa va n b x y d).lost = s.lost := rfl
@[simp] theorem State.send_regs (q : SeqId) (k pa : Nat) (va : Word) (n : Nat) (b : Body) (x y d : Nat) :
    (s.send q k pa va n b x y d).regs = s.regs := rfl
@[simp] theorem State.send_kfqPosted (q : SeqId) (k pa : Nat) (va : Word) (n : Nat) (b : Body) (x y d : Nat) :
    (s.send q k pa va n b x y d).kfqPosted = s.kfqPosted := rfl
@[simp] theorem State.send_kfqWaiting (q : SeqId) (k pa : Nat) (va : Word) (n : Nat) (b : Body) (x y d : Nat) :
    (s.send q k pa va n b x y d).kfqWaiting = s.kfqWaiting := rfl
@[simp] theorem State.send_mnqPosted (q : SeqId) (k pa : Nat) (va : Word) (n : Nat) (b : Body) (x y d : Nat) :
    (s.send q k pa va n b x y d).mnqPosted = s.mnqPosted := rfl
@[simp] theorem State.send_mnqOwed (q : SeqId) (k pa : Nat) (va : Word) (n : Nat) (b : Body) (x y d : Nat) :
    (s.send q k pa va n b x y d).mnqOwed = s.mnqOwed := rfl
@[simp] theorem State.send_mgmt (q : SeqId) (k pa : Nat) (va : Word) (n : Nat) (b : Body) (x y d : Nat) :
    (s.send q k pa va n b x y d).mgmt = s.mgmt := rfl
@[simp] theorem State.send_entryPc (q : SeqId) (k pa : Nat) (va : Word) (n : Nat) (b : Body) (x y d : Nat) :
    (s.send q k pa va n b x y d).entryPc = s.entryPc := rfl
@[simp] theorem State.send_agenda (q : SeqId) (k pa : Nat) (va : Word) (n : Nat) (b : Body) (x y d : Nat) :
    (s.send q k pa va n b x y d).agenda = s.agenda := rfl
@[simp] theorem State.send_turn (q : SeqId) (k pa : Nat) (va : Word) (n : Nat) (b : Body) (x y d : Nat) :
    (s.send q k pa va n b x y d).turn = s.turn := rfl
@[simp] theorem State.send_fresh (q : SeqId) (k pa : Nat) (va : Word) (n : Nat) (b : Body) (x y d : Nat) :
    (s.send q k pa va n b x y d).fresh = s.fresh := rfl
@[simp] theorem State.send_nextId (q : SeqId) (k pa : Nat) (va : Word) (n : Nat) (b : Body) (x y d : Nat) :
    (s.send q k pa va n b x y d).nextId = s.nextId + 1 := rfl

/-! `takeFree` -/

@[simp] theorem State.takeFree_cur : s.takeFree.2.cur = s.cur := rfl
@[simp] theorem State.takeFree_core : s.takeFree.2.core = s.core := rfl
@[simp] theorem State.takeFree_seqs : s.takeFree.2.seqs = s.seqs := rfl
@[simp] theorem State.takeFree_mem : s.takeFree.2.mem = s.mem := rfl
@[simp] theorem State.takeFree_net : s.takeFree.2.net = s.net := rfl
@[simp] theorem State.takeFree_ctxs : s.takeFree.2.ctxs = s.ctxs := rfl
@[simp] theorem State.takeFree_launches : s.takeFree.2.launches = s.launches := rfl
@[simp] theorem State.takeFree_pushes : s.takeFree.2.pushes = s.pushes := rfl
@[simp] theorem State.takeFree_orders : s.takeFree.2.orders = s.orders := rfl
@[simp] theorem State.takeFree_syncHome : s.takeFree.2.syncHome = s.syncHome := rfl
@[simp] theorem State.takeFree_syncMirror : s.takeFree.2.syncMirror = s.syncMirror := rfl
@[simp] theorem State.takeFree_regUpdates : s.takeFree.2.regUpdates = s.regUpdates := rfl
@[simp] theorem State.takeFree_sweeps : s.takeFree.2.sweeps = s.sweeps := rfl
@[simp] theorem State.takeFree_windows : s.takeFree.2.windows = s.windows := rfl
@[simp] theorem State.takeFree_mxCmds : s.takeFree.2.mxCmds = s.mxCmds := rfl
@[simp] theorem State.takeFree_cpCmds : s.takeFree.2.cpCmds = s.cpCmds := rfl
@[simp] theorem State.takeFree_jobs : s.takeFree.2.jobs = s.jobs := rfl
@[simp] theorem State.takeFree_channels : s.takeFree.2.channels = s.channels := rfl
@[simp] theorem State.takeFree_ranges : s.takeFree.2.ranges = s.ranges := rfl
@[simp] theorem State.takeFree_dies : s.takeFree.2.dies = s.dies := rfl
@[simp] theorem State.takeFree_links : s.takeFree.2.links = s.links := rfl
@[simp] theorem State.takeFree_lost : s.takeFree.2.lost = s.lost := rfl
@[simp] theorem State.takeFree_regs : s.takeFree.2.regs = s.regs := rfl
@[simp] theorem State.takeFree_kfqPosted : s.takeFree.2.kfqPosted = s.kfqPosted := rfl
@[simp] theorem State.takeFree_kfqWaiting : s.takeFree.2.kfqWaiting = s.kfqWaiting := rfl
@[simp] theorem State.takeFree_mnqPosted : s.takeFree.2.mnqPosted = s.mnqPosted := rfl
@[simp] theorem State.takeFree_mnqOwed : s.takeFree.2.mnqOwed = s.mnqOwed := rfl
@[simp] theorem State.takeFree_mgmt : s.takeFree.2.mgmt = s.mgmt := rfl
@[simp] theorem State.takeFree_entryPc : s.takeFree.2.entryPc = s.entryPc := rfl
@[simp] theorem State.takeFree_agenda : s.takeFree.2.agenda = s.agenda := rfl
@[simp] theorem State.takeFree_turn : s.takeFree.2.turn = s.turn := rfl
@[simp] theorem State.takeFree_fresh : s.takeFree.2.fresh = s.fresh + 1 := rfl
@[simp] theorem State.takeFree_nextId : s.takeFree.2.nextId = s.nextId := rfl

/-! `takeId` -/

@[simp] theorem State.takeId_cur : s.takeId.2.cur = s.cur := rfl
@[simp] theorem State.takeId_core : s.takeId.2.core = s.core := rfl
@[simp] theorem State.takeId_seqs : s.takeId.2.seqs = s.seqs := rfl
@[simp] theorem State.takeId_mem : s.takeId.2.mem = s.mem := rfl
@[simp] theorem State.takeId_net : s.takeId.2.net = s.net := rfl
@[simp] theorem State.takeId_ctxs : s.takeId.2.ctxs = s.ctxs := rfl
@[simp] theorem State.takeId_launches : s.takeId.2.launches = s.launches := rfl
@[simp] theorem State.takeId_pushes : s.takeId.2.pushes = s.pushes := rfl
@[simp] theorem State.takeId_orders : s.takeId.2.orders = s.orders := rfl
@[simp] theorem State.takeId_syncHome : s.takeId.2.syncHome = s.syncHome := rfl
@[simp] theorem State.takeId_syncMirror : s.takeId.2.syncMirror = s.syncMirror := rfl
@[simp] theorem State.takeId_regUpdates : s.takeId.2.regUpdates = s.regUpdates := rfl
@[simp] theorem State.takeId_sweeps : s.takeId.2.sweeps = s.sweeps := rfl
@[simp] theorem State.takeId_windows : s.takeId.2.windows = s.windows := rfl
@[simp] theorem State.takeId_mxCmds : s.takeId.2.mxCmds = s.mxCmds := rfl
@[simp] theorem State.takeId_cpCmds : s.takeId.2.cpCmds = s.cpCmds := rfl
@[simp] theorem State.takeId_jobs : s.takeId.2.jobs = s.jobs := rfl
@[simp] theorem State.takeId_channels : s.takeId.2.channels = s.channels := rfl
@[simp] theorem State.takeId_ranges : s.takeId.2.ranges = s.ranges := rfl
@[simp] theorem State.takeId_dies : s.takeId.2.dies = s.dies := rfl
@[simp] theorem State.takeId_links : s.takeId.2.links = s.links := rfl
@[simp] theorem State.takeId_lost : s.takeId.2.lost = s.lost := rfl
@[simp] theorem State.takeId_regs : s.takeId.2.regs = s.regs := rfl
@[simp] theorem State.takeId_kfqPosted : s.takeId.2.kfqPosted = s.kfqPosted := rfl
@[simp] theorem State.takeId_kfqWaiting : s.takeId.2.kfqWaiting = s.kfqWaiting := rfl
@[simp] theorem State.takeId_mnqPosted : s.takeId.2.mnqPosted = s.mnqPosted := rfl
@[simp] theorem State.takeId_mnqOwed : s.takeId.2.mnqOwed = s.mnqOwed := rfl
@[simp] theorem State.takeId_mgmt : s.takeId.2.mgmt = s.mgmt := rfl
@[simp] theorem State.takeId_entryPc : s.takeId.2.entryPc = s.entryPc := rfl
@[simp] theorem State.takeId_agenda : s.takeId.2.agenda = s.agenda := rfl
@[simp] theorem State.takeId_turn : s.takeId.2.turn = s.turn := rfl
@[simp] theorem State.takeId_fresh : s.takeId.2.fresh = s.fresh := rfl
@[simp] theorem State.takeId_nextId : s.takeId.2.nextId = s.nextId + 1 := rfl

end Sys2Proof.Machine
end

