-- ==== Sys2Proof/Tests/Slice0.lean ====
section
/-! SUPPORT. Tests of the model's own: words of the spec decoded, ill-formed instructions refused, single steps with the
results the spec gives, and for each statement a state and operands that meet its hypotheses. -/

namespace Sys2Proof.Tests

set_option Elab.async false

open Sys2Proof Sys2Proof.Machine Sys2Proof.Claims

/-! ## States -/

/-- The module with an instruction where the next step fetches. -/
def placedAt (i : Instr) : State := State.reset.placed (encode i).1 (encode i).2

/-- The module when it has fetched that instruction: its turn has come, and the sequencer keeps the line. -/
def fetched (i : Instr) : State :=
  let s := { placedAt i with agenda := [] }
  s.modCore fun x => { x with line := some (0x4000, oneInstrLine (encode i).1 (encode i).2) }

/-- Page tables that map the 2 MiB at 0x200000 to physical 0x800000, homed on die 0, and the 2 MiB at 0x400000 to
physical 0x200000, homed on die 1, both SHARED; the 2 MiB at 0x600000 to physical 0x1000000, PRIVATE. -/
def tables (s : State) : State :=
  let put (a : List Host.Cell) (p : Nat × Nat) : List Host.Cell := cellsPutNum a p.1 8 p.2
  let leaves := [(0x2008, leafEntry 0x800000), (0x2010, leafEntry 0x200000), (0x2018, leafEntry 0x1000000 - 0x40)]
  s.modMem fun m => { m with arrays := leaves.foldl put m.arrays }

/-- The state when an instruction is fetched, with memory mapped and frames of context 0 at 0x200000. -/
def world (i : Instr) : State := ((tables (fetched i)).modCtx 0 fun c => { c with cfbase := 0x200000, cfn := 4 })

/-- A register of the current sequencer. -/
def withG (s : State) (r : BitVec 5) (v : Word) : State := s.setG r v

/-- Another sequencer is the current one, running at a privilege. -/
def asSeq (s : State) (q : SeqId) (p : Priv) : State :=
  { s with cur := q, core := { s.core with run := .running, priv := p, w := { s.core.w with onCore := true } } }

/-- The worker that the tests use. -/
def wk : WKey := ⟨0, 0, 0⟩

/-! ## Fields -/

def frg : FRG := { gd := 3, ga := 1, ma := false, gb := 2, mb := false }
def frg1 : FRG := { gd := 3, ga := 1, ma := false, gb := 0, mb := false }
def fim : FIM := { h := 3, ga := 1, ma := false, imm := 0 }
def fim0 : FIM := { h := 3, ga := 0, ma := false, imm := 0 }
def fimH : FIM := { h := 0, ga := 0, ma := false, imm := 0 }
def ftr : FTR := { h := 3, ga := 1, ma := false, gb := 2, mb := false, gc := 4, mc := false, imm := 0 }
def fn0 : FN := { h := 0 }

/-! ## Scalar arithmetic -/

theorem witness_scalarArithmetic :
    ([.add frg, .sub frg, .and frg, .or frg, .xor frg, .shl frg, .shr frg, .sra frg, .mul frg, .mulh frg, .mulhn frg,
      .min frg, .max frg, .minn frg, .maxn frg, .slt frg, .sltn frg, .div frg, .divn frg, .rem frg, .remn frg]
        : List Instr).all (fun i => i.ready (fetched (.add frg))) = true := by decide +kernel

theorem witness_scalarArithmetic_divisors :
    let s := withG (withG (fetched (.div frg)) 1 (BitVec.ofInt 64 (-2 ^ 63))) 2 (-1)
    (Instr.div frg).ready s = true ∧ (s.g 1).toInt = -2 ^ 63 ∧ (s.g 2).toInt = -1 ∧ (fetched (.div frg)).g 2 = 0 := by
  decide +kernel

theorem witness_constantsImmediatesAndBits :
    ([.addi fim, .andi fim, .ori fim, .xori fim, .shli fim, .shri fim, .srai fim, .slti fim, .sltni fim, .clz frg1,
      .ctz frg1, .popc frg1, .sext8 frg1, .sext16 frg1, .sext32 frg1, .zext8 frg1, .zext16 frg1, .zext32 frg1,
      .li { h := 3, imm := 5 }, .lih { h := 3, imm := 7 }, .sel ftr,
      .lea { h := 3, ga := 1, ma := false, scale := 3, gb := 2, mb := false, imm := 8 }]
        : List Instr).all (fun i => i.ready (fetched (.add frg))) = true := by decide +kernel

/-! ## Control -/

theorem witness_controlTransfers :
    let s := fetched (.nop fn0)
    ([.nop fn0, .br { h := 0, sub := false, target := 1 }, .jal { h := 5, sub := false, target := 33 },
      .jr { frg1 with gd := 5 }, .bcc .eq { h := 0, ga := 1, ma := false, gb := 2, mb := false, r15 := false, target := 1,
                                            r47 := false }] : List Instr).all (fun i => i.ready s) = true ∧
      s.g 1 = s.g 2 := by decide +kernel

theorem witness_fetchAtABadPc :
    (match (fetched (.nop fn0)).fetchLineOf with
      | .ok (t, l) => LineBits.legal l && t.core.pc.toNat % 64 == 1 && LineBits.heads l == 1
      | .error _ => false) = true ∧
    (match ((fetched (.nop fn0)).setPc 0x4000).fetchLineOf with
      | .ok (t, l) => LineBits.legal l && t.core.pc.toNat % 64 == 0
      | .error _ => false) = true ∧
    (match ((fetched (.nop fn0)).setPc 0x4002).fetchLineOf with
      | .ok (t, l) => LineBits.legal l && decide (LineBits.heads l < t.core.pc.toNat % 64)
      | .error _ => false) = true ∧
    (fetched (.nop fn0)).breaks = false ∧ (fetched (.nop fn0)).core.w.pending = none := by decide +kernel

/-- A loop stack of n entries. -/
def withLoops (s : State) (n : Nat) (rem : Word) : State :=
  s.modCore fun x => { x with bank := { x.bank with loops := List.replicate n { body := 0x4001, rem := rem, idx := 2 } } }

theorem witness_loops :
    let s := fetched (.nop fn0)
    (Instr.endl fn0).ready s = true ∧ s.core.bank.loops = [] ∧ (Instr.loop { fimH with h := 1 }).ready s = true ∧
      s.g 1 = 0 ∧ (withG (withLoops s 6 1) 1 9).core.bank.loops.length = 6 ∧ (withLoops s 1 1).core.bank.loops.length = 1 ∧
      (Instr.endl fn0).ready (withLoops s 2 5) = true ∧ (Instr.lidx { fim0 with imm := 1 }).ready (withLoops s 2 5) = true ∧
      (withLoops s 2 5).core.bank.loops[1]?.isSome = true := by decide +kernel

/-! ## Exceptions -/

/-- A trap of a sequencer, not yet entered. -/
def someTrap : Trap := { source := 0, cond := 9, epc := 0x4001, eaddr := 0x123, eidx := 0, save := 0x4001, vstart := none }

theorem witness_coreTraps :
    let s := fetched (.trap { fimH with imm := 5 })
    let u := asSeq s (.cc 0) .u
    (Instr.trap { fimH with imm := 5 }).ready s = true ∧ s.cur = .cc 0 ∧ s.coreDrained (.cc 0) = true ∧
      (s.getSeq (.cc 0)).isSome = true ∧
      ((s.modCore fun x => { x with trap := some someTrap }).seqD (.cc 0)).trap = some someTrap ∧
      (Instr.halt fn0).ready u = true ∧ u.core.priv ≠ .k ∧ u.coreDrained (.cc 0) = true ∧
      (Instr.halt fn0).ready s = true ∧ s.core.priv = .k ∧ (Instr.eretK fn0).ready s = true ∧
      s.gPending s.cur = false := by decide +kernel

/-- A worker with a supervisor routine. -/
def worker (i : Instr) : State := (asSeq (world i) (.worker wk) .u).modCore fun x => { x with w := { x.w with svec := 0x4001 } }

theorem witness_workerTraps :
    let s := worker (.trap { fimH with imm := 5 })
    let v := s.modCore fun x => { x with trap := some someTrap }
    (Instr.trap { fimH with imm := 5 }).ready s = true ∧ (v.getSeq (.worker wk)).isSome = true ∧
      (v.seqD (.worker wk)).trap = some someTrap ∧ v.drained (.worker wk) = true ∧ (v.seqD (.worker wk)).w.ins = false ∧
      (v.seqD (.worker wk)).w.svec ≠ 0 ∧
      (((v.modSeq (.worker wk) fun y => y.noteTrap someTrap).clearResv wk).frameWrite wk 0
        (trapRecord v wk someTrap)).isSome = true := by decide +kernel

theorem witness_forkTraps :
    let s := asSeq (fetched (.trap { fimH with imm := 5 })) (.mx wk 0) .u
    (Instr.trap { fimH with imm := 5 }).ready s = true ∧ kindOf s.cur = .mx := by decide +kernel

theorem witness_workerReturn :
    let s := (worker (.eret fn0)).modCore fun x => { x with priv := .s, w := { x.w with ins := true } }
    (Instr.eret fn0).ready s = true ∧ s.returnWaits s.cur = false ∧ s.core.w.vsaved = false ∧
      (match s.frameRead wk 0 0x1F0 with
        | some (t, r) => !recordBad r && (t.frameModify wk 8 (2 ^ 17 + 2 ^ 18) 0).isSome
        | none => false) = true := by decide +kernel

/-! ## Registers -/

theorem witness_registersRead :
    (Instr.srd { fim0 with imm := 0x892 }).ready (fetched (.nop fn0)) = true ∧
    (Instr.srd { fim0 with imm := 0x80F }).ready (fetched (.nop fn0)) = true ∧
    (Instr.srd { fim0 with imm := 0x000 }).ready (worker (.nop fn0)) = true ∧
    (Instr.srd { fim0 with imm := 0x014 }).ready (worker (.nop fn0)) = true ∧
    (Instr.srd { fim0 with imm := 0x007 }).ready (worker (.nop fn0)) = true ∧
    (worker (.nop fn0)).vecIdle (.worker wk) = true := by decide +kernel

theorem witness_registersTakeValues :
    (Instr.swr { fim0 with h := 1, imm := 0x894 }).ready (fetched (.nop fn0)) = true ∧
    (Instr.swr { fim0 with h := 1, imm := 0x8B5 }).ready (fetched (.nop fn0)) = true ∧
    (Instr.swr { fim0 with h := 1, imm := 0x000 }).ready (worker (.nop fn0)) = true ∧
    (Instr.xfWrite { fim0 with h := 1, imm := 0x007 }).ready (worker (.nop fn0)) = true ∧
    (Instr.rangeRegisterWrite { fim0 with h := 1, imm := 0x80F }).ready (fetched (.nop fn0)) = true ∧
    (((fetched (.nop fn0)).range 3).ctl.extractLsb' 0 2).toNat = 0 := by decide +kernel

/-- The kernel has chosen context 3. -/
def choosing (s : State) : State := s.modCore fun x => { x with cc := { x.cc with ctxsel := 3 } }

theorem witness_controlWrites :
    let s := fetched (.nop fn0)
    let u := choosing s
    ([.cdloss { fim0 with h := 1, imm := 0x103 }, .ccrun { fim0 with h := 1, imm := 0x882 },
      .cctl { fim0 with h := 1, imm := 0x891 }, .cdrel { fim0 with h := 1, imm := 0x8D0 }]
        : List Instr).all (fun i => i.ready s) = true ∧ (∀ d, d < 4 → (s.die d).resigned = false) ∧
      (s.seqD (.cc 5)).run = .halted ∧ (s.ctx 3).enable = false ∧ u.core.cc.ctxsel.toNat ≠ 0 ∧ u.ctxBusy 3 = false ∧
      s.regs.cdrel = 15 := by decide +kernel

theorem witness_kpost :
    let s := (worker (.kpost { fim0 with h := 1, imm := 0x042 })).modCore fun x =>
      { x with priv := .s, w := { x.w with ins := true, vsaved := true } }
    (Instr.kpost { fim0 with h := 1, imm := 0x042 }).ready s = true ∧ s.vecIdle s.cur = true ∧
      s.framePending s.cur = false ∧
      (match s.frameWrite wk 0x1F8 (List.replicate 8 0) with
        | some t => (t.frameModify wk 8 (2 ^ 18) (2 ^ 18)).isSome
        | none => false) = true := by decide +kernel

/-! ## Scalar memory -/

/-- The state after an instruction or an event. -/
def after (i : Instr) (s : State) : State :=
  match exec i s with
  | .next t => t
  | _ => s

/-- An access passes its checks and may be made now. -/
def opens (s : State) (w : Want) (va : Word) (n : Nat) : Bool :=
  decide (va.toNat % n = 0) && !s.ordering s.cur &&
    match s.checkAccess (s.accessor s.cur) w va n with
    | .ok l =>
      !reachesDevice l &&
        match piecesOf l with
        | p :: _ => !s.overlapsQueue p.1 n
        | [] => false
    | .error _ => false

/-- SIZE 3 of LD and ST, with an offset of 0. -/
def fimM : FIM := { h := 3, ga := 1, ma := false, imm := 0xC }
def redF : FTR := { h := 0, ga := 1, ma := false, gb := 2, mb := false, gc := 0, mc := false, imm := 3 * 32 + 3 * 4 }

theorem witness_scalarAccesses :
    let s := withG (worker (.ld fimM)) 1 0x200040
    let c := withG (world (.ld fimM)) 1 0x400040
    (Instr.ld fimM).ready s = true ∧ opens s wantLoad 0x200040 8 = true ∧ (Instr.st fimM).ready s = true ∧
      opens s wantStore 0x200040 8 = true ∧ kindOf s.cur = .vc ∧ kindOf c.cur ≠ .vc ∧ (Instr.st fimM).ready c = true ∧
      opens c wantStore 0x400040 8 = true ∧ opens s wantStore 0x600040 8 = true ∧
      s.linePending s.cur 0x1000040 = false ∧ (withG s 1 0x200041).g 1 = 0x200041 := by decide +kernel

theorem witness_atomics :
    let s := withG (worker (.amo .add { ftr with gc := 0, imm := 0x2F })) 1 0x200040
    (Instr.amo .add { ftr with gc := 0, imm := 0x2F }).ready s = true ∧
      (Instr.cas { ftr with imm := 0x20 + 0x0D }).ready s = true ∧ (Instr.red .add redF).ready s = true ∧
      opens s wantAtomic 0x200040 8 = true ∧ (s.release s.cur 3).2 = true ∧ s.queueTouches = false ∧
      s.net.msgs = [] ∧ s.staged 0 0x800040 = none := by decide +kernel

theorem witness_fencesAndReleases :
    let s := worker (.fence { fimH with imm := 0xF })
    (Instr.fence { fimH with imm := 0xF }).ready s = true ∧ s.waitsVector = false ∧ s.ordering s.cur = false ∧
      (s.release s.cur 3).2 = true ∧ (s.release s.cur 3).1.loadsPending s.cur = false ∧
      (Instr.pref { fim with h := 0 }).ready s = true := by decide +kernel

/-- A store waits for the release that a fence before it has asked for, here of a load on its way. -/
theorem witness_owedRelease :
    let s := after (.ld fimM) (withG (worker (.ld fimM)) 1 0x200040)
    let o := s.modCore fun x => { x with relDue := some (3, s.nextId) }
    let back := o.setPc 0x4001
    (Instr.st { fimM with h := 2 }).ready { back with core := { back.core with relDue := none } } = true ∧
      back.core.relDue = some (3, s.nextId) ∧ (back.releaseBelow back.cur 3 s.nextId).2 = false := by decide +kernel

theorem witness_waits :
    let f : FRG := { frg1 with gb := 0 }
    let s := fetched (.waitt f)
    let t := after (.waitt f) (withG s 1 50)
    (Instr.waitt f).ready s = true ∧ (s.g 1).toNat ≤ (s.die 0).time.toNat ∧ t.core.run = .parked (.waitt 3 50) ∧
      (50 : Word).toNat ≤ ((t.modDie 0 fun d => { d with time := 60 }).die 0).time.toNat := by decide +kernel

/-- A worker waiting for a word to be 7. -/
def waitmF : FTR := { h := 3, ga := 1, ma := false, gb := 2, mb := false, gc := 4, mc := false, imm := 0 }

theorem witness_waitm :
    let s := withG (withG (withG (worker (.waitm waitmF)) 1 0x200040) 2 7) 4 90
    (Instr.waitm waitmF).ready s = true ∧ s.waitsVector = false ∧ opens s wantWaitm 0x200040 8 = true ∧
      s.linePending s.cur 0x800040 = false ∧ (s.readHome 0x800040 8).2 = (0, none) ∧
      (after (.waitm waitmF) s).core.run = .parked (.waitm waitmF 0x800040) ∧
      (after (.waitm waitmF) s).core.bank.read 4 = 90 ∧ s.inService (s.homeDie 0x800040) = true ∧
      (s.ctx s.curCtx).lost = false ∧ (s.modDie 0 fun d => { d with resigned := true }).inService (s.homeDie 0x800040) = false := by
  decide +kernel

/-! ## Memory-side parts -/

/-- The last message on its way. -/
def lastMsg (s : State) : Msg :=
  s.net.msgs.getLastD { id := 0, src := .cc 0, path := 0, ctx := none, rel := none, pa := 0, va := 0, len := 0, body := .record, hops := [], dest := 0,
                        tag := none, floor := 0, reply := none }

/-- The last message may be taken at its home slice, where no other holder is to be checked. -/
def arrives (s : State) : Bool :=
  let x := lastMsg s
  s.msg? x.id == some x && s.atHome x && x.tag.isNone && s.toCheck x == [] &&
    (match x.cluster with
      | some c => s.ownBytes c (lineOf x.pa) == []
      | none => true) &&
    match s.homeCopy (lineOf x.pa) with
    | some l => !l.poison
    | none => (s.fetchLine (lineOf x.pa)).2.1.isNone

theorem witness_homeSlices :
    let s := withG (worker (.ld fimM)) 1 0x200040
    let c := withG (world (.st fimM)) 1 0x200040
    arrives (after (.ld fimM) s) = true ∧ (lastMsg (after (.ld fimM) s)).body = .access .load .shared (.g 3 8 false) none ∧
      arrives (after (.st fimM) c) = true ∧
      arrives (after (.amo .add { ftr with gc := 0, imm := 0x20 }) s) = true ∧
      (lastMsg (after (.amo .add { ftr with gc := 0, imm := 0x20 }) s)).body =
        .access (.amo .add 8 0) .shared (.g 3 8 true) none ∧
      arrives (after (.cas { ftr with imm := 0x20 }) s) = true ∧ arrives (after (.red .add redF) s) = true ∧
      (lastMsg (after (.red .add redF) s)).body = .access (.red .add 3 0) .shared .none none := by decide +kernel

theorem witness_otherHolders :
    let s := after (.ld fimM) (withG (worker (.ld fimM)) 1 0x200040)
    let e : DirEntry := { die := 0, slice := sliceOf 0x800040, base := 0x800040, size := 6, holders := 0x20, touched := 0 }
    let t := s.modMem fun m => { m with dir := [e] }
    t.atHome (lastMsg t) = true ∧ t.toCheck (lastMsg t) = [5] := by decide +kernel

theorem witness_landing :
    let s := after (.homeSliceAccess 0 false) (after (.ld fimM) (withG (worker (.ld fimM)) 1 0x200040))
    s.net.landings.length = 1 ∧ (s.getSeq (.worker wk)).isSome = true ∧
      (match s.net.landings with
        | l :: _ => l.src == .worker wk && l.reg == 3 && s.core.bank.isEmpty 3
        | [] => false) = true := by decide +kernel

theorem witness_stageBuffers :
    let s := after (.st fimM) (withG (worker (.st fimM)) 1 0x200040)
    let t := after (.stage 0 true) s
    let u := after (.red .add redF) (withG (worker (.red .add redF)) 1 0x200048)
    (lastMsg s).rel = none ∧ s.stageBehind (lastMsg s) = false ∧ (lastMsg s).body = .staged (.store 0 (BitVec.ofNat 512 (2 ^ 64 - 1))) 0 ∧
      s.staged 0 0x800040 = none ∧ (t.staged 0 0x800040).isSome = true ∧
      (lastMsg u).body = .access (.red .add 3 0) .shared .none none := by decide +kernel

/-- RED.add.i64.cl. -/
def redCl : FTR := { redF with imm := 3 * 32 + 1 * 4 }

theorem witness_combining :
    let s := withG (worker (.red .add redCl)) 1 0x200048
    let t := after (.stage 0 false) (after (.red .add redCl) s)
    let u := after (.red .add redCl) t
    u.stageBehind (lastMsg u) = false ∧ (lastMsg u).body = .staged (.red .add 3 0) 0 ∧
      (match u.staged 0 0x800040 with
        | some y => y.mask == 0 && y.reds == [{ off := 8, op := .add, et := 3, val := 0 }]
        | none => false) = true := by decide +kernel

theorem witness_holders :
    let s := after (.st fimM) (withG (worker (.st fimM)) 1 0x200040)
    let t := after (.stage 0 false) s
    let x := lastMsg t
    let e : DirEntry := { die := 0, slice := sliceOf 0x800040, base := 0x800040, size := 6, holders := 1, touched := 0 }
    let u := t.modMem fun m => { m with dir := [e] }
    let pub := u.publishLine 0 0x800040
    x.body = .record ∧ t.atHome x = true ∧ t.dirEntry 0x800040 = none ∧ dirSize t 0x800040 = 0 ∧
      t.mem.stage.all (fun e => e.cluster == x.path) = true ∧ (u.dirEntry 0x800040).isSome = true ∧
      pub.net.held = [] ∧ pub.mem.stage = [] ∧ pub.uncovered 0x800040 = false ∧ (match (lastMsg pub).body with
        | .publish _ _ r p _ => r == [] && !p && (lastMsg pub).tag.isNone
        | _ => false) = true := by decide +kernel

/-- A message to a line of die 0. -/
def msgTo (id pa dest : Nat) (b : Body) : Msg :=
  { id := id, src := .worker wk, path := 0, ctx := none, rel := none, pa := pa, va := 0, len := 64, body := b, hops := [], dest := dest, tag := none,
    floor := 0, reply := none }

/-- The state with messages on their way. -/
def sending (s : State) (l : List Msg) : State := { s with net := { s.net with msgs := l } }

/-- A holder record and a publish of cluster 0 for a line of which cluster 5 has staged a byte. -/
theorem witness_othersComeHome :
    let y : StageEntry := { cluster := 5, addr := 0x800040, data := 9, mask := 255, reds := [], poison := false }
    let e : DirEntry := { die := 0, slice := sliceOf 0x800040, base := 0x800000, size := 12, holders := 0x20, touched := 0 }
    let s := (after (.stage 0 false) (after (.st fimM) (withG (worker (.st fimM)) 1 0x200040))).modMem fun m =>
      { m with stage := m.stage ++ [y], dir := [e] }
    let w := world (.nop fn0)
    let p := (sending w [msgTo 7 0x800040 (w.homeOf 0x800040) (.publish 3 255 [] false false)]).modMem fun m =>
      { m with stage := [y], dir := [e] }
    (lastMsg s).body = .record ∧ s.atHome (lastMsg s) = true ∧
      (s.mem.stage.filter fun e => e.addr == 0x800040 && e.cluster != (lastMsg s).path) = [y] ∧ dirSize s 0x800040 < 4080 ∧
      s.dirEntry 0x800040 = some e ∧ p.dirEntry 0x800040 = some e ∧ e.holders.getLsbD y.cluster = true ∧
      s.uncovered 0x800040 = false ∧ p.atHome (lastMsg p) = true ∧ p.net.held = [] ∧ (p.msg? 7).isSome = true := by
  decide +kernel

theorem witness_checksAndReplies :
    let w := world (.nop fn0)
    let c := sending w [msgTo 7 0x800040 261 (.check 5 3)]
    let h := msgTo 3 0x800040 (w.homeOf 0x800040) (.access (.store 1 255) .shared .none none)
    let r := sending w [{ msgTo 8 0x800040 (w.homeOf 0x800040) (.reply 5) with path := 5 }]
    let t : State := { r with net := { r.net with held := [{ msg := h, waiting := [5] }] } }
    (c.msg? 7).isSome = true ∧ c.staged 5 0x800040 = none ∧ t.atHome (lastMsg t) = true ∧
      t.uncovered 0x800040 = false ∧ lineOf h.pa = (lastMsg t).pa := by decide +kernel

/-- A line of a home slice. -/
def homeLine (a : Nat) (d : LineBits) (dirty : Option Nat) : SliceLine :=
  { addr := a, die := a / 2 ^ 21 % 4, kind := .home, data := d, dirty := dirty, poison := false, accum := false,
    window := none, blocks := 0, tag := 0, stored := 0 }

theorem witness_slicesAlone :
    let w := world (.nop fn0)
    let e : DirEntry := { die := 0, slice := 4, base := 0x800000, size := 12, holders := 6, touched := 0 }
    let s := (w.modMem fun m => { m with dir := [e, { e with base := 0x801000 }] }).modDie 0 fun d => { d with time := 70000 }
    let t := w.modMem fun m => { m with lines := [homeLine 0x800040 9 (some 1)] }
    let a := 2 ^ 49
    let u := w.modMem fun m => { m with lines := [homeLine a 9 (some 1)] }
    (s.mem.dir.find? fun x => x.die == 0 && x.slice == 4 && x.base == 0x800000).isSome = true ∧
      (s.mem.dir.find? fun x => x.die == 0 && x.slice == 4 && x.base == 0x801000 && x.size == 12).isSome = true ∧
      e.touched + 65536 ≤ (s.die 0).time.toNat ∧ t.oldestDirty 0 (sliceOf 0x800040) = some (homeLine 0x800040 9 (some 1)) ∧
      t.governing 0x800040 = none ∧ rangeOf 0x800040 ≠ 4 ∧ t.retraining 0x800040 = false ∧ Memory.wf t.mem = true ∧
      (t.modMgmt fun m => { m with training := [(0, 0)] }).retraining 0x800040 = true ∧
      w.oldestDirty 0 0 = none ∧ u.oldestDirty 0 (sliceOf a) = some (homeLine a 9 (some 1)) ∧ u.governing a = none ∧
      rangeOf a = 4 ∧ u.retraining a = false := by decide +kernel

theorem witness_walksDeliver :
    let w := world (.nop fn0)
    let s := withG (world (.ld fimM)) 1 0x200040
    (w.walk 0 0x200040).isSome = true ∧ w.walk 0 0xFFFFFF000 = none ∧
      (match s.waitingUse (.cc 0) with
        | some ([(l, a, _)], wr) => l.ctx == 0 && a == 0x200040 && !wr && l.place % 8 == 0 &&
            (s.pinPending (lineOf l.place)).isNone && !s.uncovered (lineOf l.place)
        | _ => false) = true := by decide +kernel

/-- With an attached CXL device a line of its range may be held clean, dirty or pinned, or not at all. -/
theorem witness_peersWrite (h : 64 ≤ Config.cxlBytes) : rangeOf (2 ^ 42) = 3 ∧ lineOf (2 ^ 42) = 2 ^ 42 := by
  have : 64 ≤ cxlSize := by unfold cxlSize; rw [Nat.le_min]; omega
  refine ⟨?_, by decide⟩
  unfold rangeOf
  simp only [show ¬(2 ^ 42 < 2 ^ 38) by decide, show ¬(2 ^ 50 ≤ 2 ^ 42) by decide, show ¬(2 ^ 49 ≤ 2 ^ 42) by decide, if_false]
  rw [if_neg (by omega), if_pos (by omega)]

/-! ## Sync registers -/

/-- The sync registers 16 to 31 are granted to context 0. -/
def granted (s : State) : State := s.modCtx 0 fun c => { c with csrgrant := BitVec.ofNat 64 (16 * 2 ^ 16 + 16) }

theorem witness_syncInstructions :
    let s := granted (withG (worker (.nop fn0)) 1 17)
    let r := { frg1 with gb := 1 }
    ([.srts frg1, .srfa frg, .srrdHome r, .srwr { frg with gd := 0 }, .srrd frg1] : List Instr).all (fun i => i.ready s) = true ∧
      s.inService (17 / 4096) = true ∧ s.ordering s.cur = false ∧ s.queueTouches = false ∧ (s.release s.cur 3).2 = true ∧
      ((s.ctx s.curCtx).csrgrant.extractLsb' 0 14).toNat ≤ 17 ∧
      17 < ((s.ctx s.curCtx).csrgrant.extractLsb' 0 14).toNat + ((s.ctx s.curCtx).csrgrant.extractLsb' 16 15).toNat := by
  decide +kernel

theorem witness_syncUpdates :
    let s := granted (withG (worker (.nop fn0)) 1 17)
    let t := after (.srfa frg) s
    let u := after (.srrdHome { frg1 with gb := 1 }) s
    let v := after (.syncRegisterUpdate 0) t
    t.syncArrived (lastMsg t) 17 = true ∧ (lastMsg t).body = .sync 17 1 0 (some 3) none 0x4001 ∧
      (lastMsg u).body = .sync 17 2 0 (some 3) none 0x4001 ∧ u.syncArrived (lastMsg u) 17 = true ∧
      v.net.syncs.length = 1 ∧ (v.net.msgs.filter fun m => m.hops.isEmpty).length = 1 := by decide +kernel

/-! ## Launches and their workers -/

/-- A stage with a ring of 16 records of 64 bytes at 0x200000 plus k pages. -/
def stageK (k : Nat) : Stage :=
  { entry := 0x4001, maxw := 4, minw := 1, mxn := 2, cen := 4, spad := 0, vreg := 2,
    sinq := BitVec.ofNat 64 (0x200000 + 4096 * k), recsz := 64, depthlog := 4, preload := 0 }

/-- A launch of two stages on die 0, in a phase. -/
def launchIn (p : LaunchPhase) : Launch :=
  let ring : Ring := { given := 2, push := 2, pop := 1, owned := [] }
  { ctx := 0, slot := 0, block := BitVec.ofNat 4096 (1 + 5 * 256 + 65536 + 0x200800 * 2 ^ 192), lead := 0, order := 0,
    eligible := true, stages := [stageK 0, stageK 1], groups := [{ sreg := 17, scope := 3, count := 2, members := 3 }],
    phase := p, checked := true, issued := 1, rings := [ring, { ring with given := 0, push := 0, pop := 0 }], nextIndex := 0,
    retired := 0, faults := 0, flags := 0, watch := 0, resets := [] }

/-- A worker of that launch. -/
def launched (i : Instr) : State := { granted (worker i) with launches := [launchIn .admitted] }

theorem witness_barriers :
    let s := launched (.bar fimH)
    let t := after (.bar fimH) s
    (Instr.bar fimH).ready s = true ∧ (s.group? wk 0).isSome = true ∧ s.group? wk 9 = none ∧
      (launchIn .admitted).groups.all (fun g => g.members.getLsbD 0 && !g.members.getLsbD 5) = true ∧
      s.waitsVector = false ∧ s.ordering s.cur = false ∧ (s.release s.cur 3).2 = true ∧
      t.core.run = .parked (.barSent 0) ∧ (lastMsg t).body = .sync 17 4 0 none (some 0) 0x4001 ∧
      t.syncArrived (lastMsg t) 17 = true ∧
      ((after (.syncRegisterUpdate 0) t).core.run = .parked (.bar 0 0 1 0x4041)) := by decide +kernel

/-- A worker that waits at a barrier when a later value of its register reaches the mirror of its die. -/
theorem witness_mirrorsWakeWaiters :
    let s := launched (.bar fimH)
    let u := sending (s.modCore fun x => { x with run := .parked (.bar 0 0 1 0x4041) })
      [{ msgTo 9 0 768 (.mirror 17 (BitVec.ofNat 64 (2 ^ 48)) 2 0 5 true) with len := 0 }]
    (u.msg? 9).isSome = true ∧ (u.getSeq (.worker wk)).isSome = true ∧ (u.seqD (.worker wk)).w.place.die = 0 ∧
      (match u.group? wk 0 with
        | some g => g.sreg == 17
        | none => false) = true ∧ u.net.msgs.length = 1 := by decide +kernel

/-- The fields of FORK with handle register 3. -/
def forkF : FJP := { h := 3, sub := false, target := 1 }

theorem witness_forks :
    let s := launched (.forkMx forkF)
    let t := after (.forkMx forkF) s
    (Instr.forkMx forkF).ready s = true ∧ (Instr.forkCe { forkF with sub := true }).ready s = true ∧
      s.waitsVector = false ∧ s.ordering s.cur = false ∧ (s.release s.cur 3).2 = true ∧ s.core.w.held false = [] ∧
      min 2 (s.stageD wk).mxn = 2 ∧ (after (.forkMx forkF) t).core.w.held false = [0, 1] ∧
      (Instr.endProg fn0).ready (asSeq s (.mx wk 0) .u) = true ∧ (Instr.endProg fn0).ready s = true ∧
      (((acquired s s.cur 3).release s.cur 2)).2 = true ∧ s.gPending s.cur = false ∧ (s.launch? 0 0).isSome = true ∧
      s.core.tlv.count = s.core.tlv.issued ∧ (t.getSeq (.mx wk 0)).isSome = true := by decide +kernel

/-- END of a worker whose forked context has ended, at once and after a wait, and of one whose context runs. -/
theorem witness_endJoins :
    let s := after (.forkMx forkF) (launched (.forkMx forkF))
    let e := s.modSeq (.mx wk 0) fun x => { x with run := .ended }
    let p := e.modCore fun x => { x with run := .parked .endProg }
    let joined (x : State) : State := ([SeqId.mx wk 0].foldl State.freeFork x).acquire x.cur 3
    (Instr.endProg fn0).ready s = true ∧ s.waitsVector = false ∧ s.ordering s.cur = false ∧
      rdvTargets wk s.core.w true false 0 = [.mx wk 0] ∧ s.forkEnded (.mx wk 0) = false ∧
      e.forkEnded (.mx wk 0) = true ∧ (e.seqD (.mx wk 0)).poisoned = false ∧
      ((p.wake (.worker wk)).seqD (.mx wk 0)).poisoned = false ∧
      ([e, p.wake (.worker wk)].all fun x => ((joined x).release (joined x).cur 2).2 && !(joined x).gPending (joined x).cur &&
        (joined x).core.tlv.count == (joined x).core.tlv.issued && (joined x).core.tlm.count == (joined x).core.tlm.issued &&
        (joined x).core.tln.count == (joined x).core.tln.issued && ((joined x).launch? 0 0).isSome) = true := by
  decide +kernel

theorem witness_rdv :
    let i := Instr.rdv { fimH with imm := 2 }
    let s := after (.forkMx forkF) (launched (.forkMx forkF))
    let ended := s.modSeq (.mx wk 0) fun x => { x with run := .ended }
    i.ready s = true ∧ s.waitsVector = false ∧ s.core.run = .running ∧ rdvTargets wk s.core.w true false 0 = [.mx wk 0] ∧
      s.forkEnded (.mx wk 0) = false ∧ ended.forkEnded (.mx wk 0) = true ∧ (ended.seqD (.mx wk 0)).poisoned = false ∧
      (after i s).core.run = .parked (.rdv true false 0) := by decide +kernel

theorem witness_workQueues :
    let q := Instr.qpop { h := 3 }
    let s := launched q
    let l := launchIn .admitted
    let f := { frg1 with gd := 0 }
    let p := withG s 1 0x201000
    q.ready s = true ∧ s.core.run = .running ∧ s.waitsVector = false ∧ s.gPending s.cur = false ∧
      s.launch? 0 0 = some l ∧ (s.releaseRecord wk).aheadInStage l 0 (s.releaseRecord wk).nextId = 0 ∧ 0 < l.holds 0 ∧
      0 < l.rings.length ∧ l.indexed 0 = false ∧
      l.indexed 1 = false ∧ l.holds 1 = 0 ∧ (Instr.qpush f).ready p = true ∧ l.full 1 = false ∧
      (p.checkAccess (p.accessor p.cur) wantLoad 0x201000 64).isOk = true ∧
      (p.checkAccess (p.accessor p.cur) wantSlot (l.stage 1).sinq 64).isOk = true ∧ (p.release p.cur 3).2 = true := by
  decide +kernel

/-- A worker that asked for a record before the next one had entered, and one that asked after another. -/
theorem witness_qpopWake :
    let s := launched (.qpop { h := 3 })
    let l := launchIn .admitted
    let p (seen : Nat) := s.modCore fun x => { x with run := .parked (.qpop 3 0 seen) }
    ((p 5).getSeq (.worker wk)).isSome = true ∧ (p 5).arrivals l ≠ 5 ∧ (p 5).aheadInStage l 0 0 = 0 ∧
      (p ((p 5).arrivals l)).arrivals l = (p 5).arrivals l ∧ 0 < l.holds 0 ∧ l.indexed 0 = false := by decide +kernel

theorem witness_timelines :
    let s := withG (launched (.twait { ftr with gb := 0, gc := 0 })) 1 4
    let f : FTR := { h := 3, ga := 1, ma := false, gb := 0, mb := false, gc := 0, mc := false, imm := 3 }
    (Instr.twait f).ready s = true ∧ s.waitsVector = false ∧ (s.core.timeline 3).count = 0 ∧
      (s.core.timeline 3).poison = none ∧ (Instr.tread { f with ga := 0 }).ready s = true ∧
      (after (.twait f) s).core.run = .parked (.twait 3 3 4 0) := by decide +kernel

/-- The launch block worked out under R23, with entry 0x4001 and its completion word at 0x200800. -/
def block23 : Nat :=
  0x01030540 + 2 ^ 192 * 0x200800 + 2 ^ 384 * 0x3E8 + 2 ^ 448 * 0x40 + 2 ^ 512 * 0x4001 + 2 ^ 576 * 0x0020002004C00000

/-- What R23 says of its example: one stage, queue 5, dies 0 and 1, indexed, 1,000 indices in chunks of 64; 4 to 32
workers with one CE context, 64 KiB of scratchpad and 32 vector registers. -/
theorem test_block_of_r23 :
    let b := BitVec.ofNat 4096 block23
    let x := stageFrom (stageBits b 0)
    blockStages b = 1 ∧ blockQueue b = 5 ∧ blockDies b = 3 ∧ blockIndexed b = true ∧ blockCount b = 1000 ∧
      blockChunk b = 64 ∧ blockGroups b = 0 ∧ x.maxw = 32 ∧ x.minw = 4 ∧ x.mxn = 0 ∧ x.cen = 1 ∧ x.spad = 1 ∧
      x.vreg = 2 ∧ vnregOf x.vreg = 32 ∧ x.entry = 0x4001 := by decide +kernel

/-- The block in memory at 0x200400, with queue 5 of die 0 granted to context 0. -/
def blocked (b : Nat) : State :=
  let s := withG (world (.launch { fim0 with ga := 1 })) 1 0x200400
  (s.modMem fun m => { m with arrays := cellsPutNum m.arrays 0x800400 512 b }).modCtx 0 fun c =>
    { c with cqgrant := c.cqgrant.setIfInBounds 0 32 }

/-- The state after a read of the block, and the block. -/
def blockRead (s : State) : Option (State × BitVec 4096) :=
  match s.checkAccess (s.accessor s.cur) wantLoad 0x200400 512 with
  | .ok l =>
    let (v, bs, m) := (s.markAll l false).readPieces none (s.dieOf s.cur) (homePieces l)
    if reachesDevice l || m.isSome then none else some (v, BitVec.ofNat 4096 (bytesNum bs))
  | .error _ => none

theorem witness_launch :
    let i := Instr.launch { fim0 with ga := 1 }
    let s := blocked block23
    let full : State := { s with launches := (List.range 64).map fun k => { launchIn .queued with slot := k } }
    i.ready s = true ∧ s.ordering s.cur = false ∧ (s.release s.cur 4).2 = true ∧ s.freeSlot 0 = some 0 ∧
      full.freeSlot 0 = none ∧
      (match blockRead s with
        | some (v, b) => b == BitVec.ofNat 4096 block23 && v.blockOk 0 b && (blockWord b 3).toNat % 8 == 0 &&
            (v.checkAccess (s.accessor s.cur) wantCword (blockWord b 3) 8).isOk
        | none => false) = true ∧
      (match blockRead (blocked (2 ^ 192 * 0x200800)) with
        | some (v, b) => !v.blockOk 0 b
        | none => false) = true := by decide +kernel

/-- The state with those launches. -/
def withL (s : State) (l : List Launch) : State := { s with launches := l }

/-- The launch before its admission checks, without sync groups, and with a ring outside its context's pages. -/
def unchecked (l : Launch) : Launch := { l with checked := false }
def ungrouped : Launch := { launchIn .queued with groups := [], stages := [stageK 0] }
def outside (l : Launch) : Launch := { l with checked := false, stages := [{ stageK 0 with sinq := 0x900000 }] }

theorem witness_launchesStop :
    let f : FIM := { fim0 with ga := 1 }
    let s : State := withL (fetched (.preempt f)) [launchIn .admitted]
    ([.preempt f, .resume f, .abort f] : List Instr).all (fun i => i.ready s) = true ∧ s.launch? 0 0 = some (launchIn .admitted) ∧
      (s.g 1).toNat = 0 ∧ s.launch? 0 1 = none ∧ s.launchWorkers 0 0 = [] ∧ s.exhausted (launchIn .admitted) = false ∧
      s.exhausted { launchIn .admitted with issued := 8 } = true := by decide +kernel

/-- A launch that is being pre-empted, with a posted worker. -/
def preempted : State :=
  let t := (withL (worker (.nop fn0)) [launchIn .admitted]).modCore fun x => { x with run := .parked .kpost }
  phased (t.select (.cc 0)) (launchIn .admitted) .preempting

theorem witness_preempt :
    (preempted.launchWorkers 0 0).length = 1 ∧ preempted.mayStop wk = true ∧
      ((preempted.seqD (.worker wk)).run == .saved) = false ∧
      (let u := preempted.saveWorker wk
       u.allSaved 0 0 && (u.launch? 0 0).isSome) = true := by decide +kernel

/-- A worker that met an error before it is saved, and the parts of a save. -/
theorem witness_preemptErrors :
    let e := (worker (.nop fn0)).modCore fun x => { x with w := { x.w with
      pending := some { source := 1, mark := ⟨0, false⟩, elem := 2, entry := 1 } } }
    let x := e.seqD (.worker wk)
    x.run.stoppable = true ∧ x.w.pending.isSome = true ∧ x.priv = .u ∧ x.trap = none ∧ e.vPending (.worker wk) = false ∧
      (preempted.getSeq (.worker wk)).isSome = true ∧
      ((((preempted.saveWindowRegs wk).bind fun b => b.saveSpad wk).bind fun c => c.saveForks wk).isSome) = true := by
  decide +kernel

theorem witness_launchesRun :
    let s : State := withL (world (.nop fn0)) [launchIn .queued]
    let l := launchIn .admitted
    let t : State := withL (world (.nop fn0)) [l]
    let idle := { l with issued := 8 }
    let u : State := withL (world (.nop fn0)) [idle]
    let slow := { l with block := BitVec.ofNat 4096 (1 + 65536 + 2 ^ 256 * 3), watch := 3000 }
    let torn := withL (world (.nop fn0)) [{ l with phase := .tearing 3 }]
    s.launch? 0 0 = some (launchIn .queued) ∧ (blockWord l.block 5).toNat ≤ (s.die 0).time.toNat ∧
      s.nextLaunch 0 = some (launchIn .queued) ∧ blockCor l.block = false ∧ l.issued < sumMaxw l.stages ∧
      (t.freeFrame 0).isSome = true ∧ u.launchWorkers 0 0 = [] ∧ u.launchBusy 0 0 = false ∧ u.exhausted idle = true ∧
      u.windows = [] ∧ (u.releaseLaunch idle).2 = true ∧ (torn.releaseLaunch { l with phase := .tearing 3 }).2 = true ∧
      torn.launchBusy 0 0 = false ∧ torn.launchWorkers 0 0 = [] ∧ (blockWord slow.block 4).toNat * 1000 ≤ slow.watch ∧ (blockWord slow.block 4).toNat ≠ 0 := by
  decide +kernel

theorem witness_placement :
    let t : State := withL (world (.nop fn0)) [launchIn .admitted]
    t.chooseNew (launchIn .admitted) = some (1, { die := 0, cluster := 0, core := 0, slot := 0 }) := by decide +kernel

theorem witness_admission :
    let l := ungrouped
    let s : State := withL (world (.nop fn0)) [unchecked l]
    let t : State := withL (world (.nop fn0)) [l]
    let u := phased ((t.writeCword l 0).zeroGroups l.groups) l .admitted
    (s.admissionOk (unchecked l)).isSome = true ∧
      (s.admissionOk (outside l)).isNone = true ∧ s.residencyOk l = true ∧ l.stages.all (fun x => x.spad ≤ 4) = true ∧
      (stageK 0).spad ≤ 4 ∧ s.residencyOk { l with stages := [{ stageK 0 with minw := 5000 }] } = false ∧
      (match s.checkAccess { holder := 0, ctx := 0, k := false } wantLoad 0x200000 576 with
        | .ok p => !reachesDevice p && ((s.markAll p false).readPieces none 0 (homePieces p)).2.2.isNone
        | .error _ => false) = true ∧
      (foldOpt (fun (acc : State) k => acc.tryCreate 0 0 k) l.initial u).isSome = true := by decide +kernel

/-- A launch that is being resumed, with its saved worker. -/
def resuming : State :=
  ((withL (worker (.nop fn0)) [launchIn .restoring]).select (.cc 0)).modSeq (.worker wk) fun x => { x with run := .saved }

theorem witness_workersReturn :
    ((resuming.seqD (.worker wk)).run == .saved) = true ∧
      (resuming.choosePlace (launchIn .restoring) (resuming.stageD wk)).isSome = true ∧
      (resuming.seqD (.worker wk)).w.vsaved = false ∧ blockCor (launchIn .restoring).block = false ∧
      (resuming.seqD (.worker wk)).w.mxHeld = 0 ∧ (resuming.seqD (.worker wk)).w.ceHeld = 0 := by decide +kernel

/-- The same for a launch whose workers are resident together (COR). -/
def corLaunch : Launch :=
  { launchIn .restoring with block := BitVec.ofNat 4096 (1 + 2 ^ 7 + 5 * 256 + 65536 + 0x200800 * 2 ^ 192) }
def corSaved : State :=
  ((withL (worker (.nop fn0)) [corLaunch]).select (.cc 0)).modSeq (.worker wk) fun x => { x with run := .saved }

theorem witness_corRestored :
    blockCor corLaunch.block = true ∧ corSaved.launch? 0 0 = some corLaunch ∧ (corSaved.seqD (.worker wk)).run = .saved ∧
      corSaved.savedWorkers corLaunch = [wk] := by decide +kernel

/-- What a restore reads: the scratchpad, the head of the record and its mask registers, of which the first bytes are read
here. -/
theorem witness_restoreReads :
    (match resuming.restoreSpad wk with
      | some a => (match a.frameRead wk 0 0x400 with
        | some (b, _) => (b.frameRead wk 0x1000 64).isSome
        | none => false) && (match a.frameRead wk 0 0x1F0 with
        | some (_, r) => decide (wordAt r 11 < 2 ^ 63)
        | none => false)
      | none => false) = true := by decide +kernel

theorem witness_release :
    (match (resuming.frameModify wk 0x1F8 255 1).bind fun a => a.frameRead wk 0x1F8 8 with
      | some (_, bs) => bytesNum bs == 1
      | none => false) = true := by decide +kernel

theorem witness_workerSwitch :
    let t := launched (.nop fn0)
    let b : WKey := ⟨0, 0, 1⟩
    let s : State := { t with
      core := { t.core with run := .parked .kpost }
      seqs := [(.worker b, { t.core with w := { t.core.w with onCore := false } })] }
    let here := s.residents.filter fun p => p.2.w.place.vc == 0
    (here.find? fun p => !p.2.w.onCore && p.2.run == .running).isSome = true ∧
      here.all (fun p => !p.2.w.onCore || (p.2.run.switches && s.vecIdle (.worker p.1))) = true ∧ here.length = 2 := by
  decide +kernel

/-! ## The kernel's instructions -/

theorem witness_translations :
    let s := world (.tlbinvAll { ftr with ga := 0, gb := 0, gc := 0, imm := 2 })
    let t := after (.tlbinvAll { ftr with ga := 0, gb := 0, gc := 0, imm := 2 }) s
    ([.tlbinvAll { ftr with ga := 0, gb := 0, gc := 0, imm := 2 }, .tlbinvCtx { ftr with gb := 0, gc := 0, imm := 1 },
      .tlbinvPage ftr] : List Instr).all (fun i => i.ready s) = true ∧ s.cur = .cc 0 ∧ s.g 1 = 0 ∧ s.enabled 0 = true ∧
      s.enabled 5 = false ∧ s.ordering s.cur = false ∧ (s.release s.cur 3).2 = true ∧ t.core.run = .parked (.tlbinv 3 0 [] [] [(0, 0)]) ∧
      (t.getSeq (.cc 0)).isSome = true ∧ ((s.modCtx 0 fun c => { c with croot := 0x1000 }).ctx 0).root ≠ 0x1000 := by
  decide +kernel

/-- A register of four bytes, not yet in the frame. -/
def dirtyReg : VReg := { VReg.reset with bits := 7, extent := 4, granule := 1, dirty := 1 }

/-- A worker whose vector state is written to its frame and taken back; of its masks the first bytes are read here. -/
theorem witness_frames :
    let w := (launched (.ctxsvV fimH)).modCore fun x => { x with w := { x.w with vncode := 3, v := x.w.v.setIfInBounds 1 dirtyReg } }
    (w.seqD (.worker wk)).w.vsaved = false ∧ (w.saveBlocks wk).isSome = true ∧
      (match w.frameRead wk 0 0x400 with
        | some (a, _) => (a.frameRead wk 0x1000 64).isSome
        | none => false) = true ∧ w.core.bank.loops.length ≤ 6 := by decide +kernel

theorem witness_contexts :
    let s := withG (world (.ctxsv fim)) 1 0x200000
    let w := (launched (.ctxsvV fimH)).modCore fun x => { x with priv := .s, w := { x.w with ins := true } }
    (Instr.ctxsv fim).ready s = true ∧ (Instr.ctxld fim).ready s = true ∧
      (match threadAccess (s.g 1) true s with
        | .ok (u, l) => (u.readPieces (u.cacheOf u.cur) (u.dieOf u.cur) l).2.2.isNone
        | .error _ => false) = true ∧
      s.core.other.loops.length ≤ 6 ∧ (Instr.ctxsvV fimH).ready w = true ∧ (Instr.ctxldV fimH).ready w = true ∧ w.waitsVector = false ∧
      w.framePending w.cur = false ∧ (Instr.ctxsvVK fim).ready s = true ∧ (Instr.ctxldVK fim).ready s = true := by
  decide +kernel

theorem witness_regions :
    let s := withG (worker (.rgset { ftr with h := 0 })) 2 0x200000
    let r := s.modCtx 0 fun c => { c with regions := [(0, { base := 0x200000, len := 128, scnt := 0, rcnt := 0 })] }
    let f : FIM := fim
    let t := after (.settle f) r
    let u := after (.renew f) r
    (Instr.rgset { ftr with h := 0 }).ready s = true ∧ (s.g 1).toNat < 128 ∧ s.waitsVector = false ∧
      (Instr.rgrd { ftr with gb := 0, gc := 0, imm := 1 }).ready s = true ∧ (Instr.settle f).ready r = true ∧
      (Instr.renew f).ready r = true ∧ r.sweepWaits = false ∧
      (match r.sweepCheck (r.region 0 0) false with
        | .ok l => !reachesDevice l && (r.markAll l false).publishOwn.2
        | .error _ => false) = true ∧
      (match r.sweepCheck (r.region 0 0) true with
        | .ok l => !reachesDevice l
        | .error _ => false) = true ∧
      t.sweeps.length = 1 ∧ t.sweepAt 0 0x800000 false = true ∧ u.sweepAt 0 0x800040 true = true ∧
      u.core.run = .renewing 3 0 ∧ t.net.msgs = [] ∧ t.mem.stage = [] := by decide +kernel

theorem witness_sweepPoints :
    let w := worker (.nop fn0)
    let sw : Sweep := { id := 4, src := .worker wk, ctx := 0, region := 0, renew := false, left := [0x800040], num := 1,
                        stranded := 0, pinned := 0, failed := false }
    let line := homeLine 0x800040 9 (some 1)
    let s : State := { w.modMem fun m => { m with lines := [line] } with sweeps := [sw] }
    let r : State := { s with sweeps := [{ sw with renew := true }] }
    let d : State := { w with sweeps := [{ sw with left := [] }] }
    s.sweepAt 4 0x800040 false = true ∧ s.retraining 0x800040 = false ∧ s.net.msgs = [] ∧ s.mem.stage = [] ∧ s.pinPending 0x800040 = none ∧ s.homeCopy 0x800040 = some line ∧
      s.governing 0x800040 = none ∧ Memory.wf s.mem = true ∧ r.sweepAt 4 0x800040 true = true ∧
      (d.sweepDone 4 false).isSome = true ∧ (w.getSeq (.worker wk)).isSome = true := by decide +kernel

/-! ## Pawn jobs -/

/-- Two INPLACE pages of die 3, at 0x5000 (physical 0x600000) and 0x6000 (physical 0x601000), and at 0x200040 a parameter
block that copies four elements of type 13 from the one to the other. -/
def pawnBlock : List Nat := [2 ^ 56 + 13 * 2 ^ 24 + 13 * 2 ^ 28 + 13 * 2 ^ 36, 3, 0x5000, 0, 0x6000, 0, 0, 0, 0, 0, 0, 0, 0, 0, 0, 0]

def pawnWorld (i : Instr) : State :=
  let put (a : List Host.Cell) (p : Nat × Nat) : List Host.Cell := cellsPutNum a p.1 8 p.2
  let words := (0x3028, leafEntry 0x600000 + 0x20) :: (0x3030, leafEntry 0x601000 + 0x20) ::
    pawnBlock.zipIdx.map fun p => (0x800040 + 8 * p.2, p.1)
  let s := withG ((worker i).modMem fun m => { m with arrays := words.foldl put m.arrays }) 1 0x200040
  { s with channels := s.channels ||| BitVec.ofNat 256 (2 ^ 192) }

/-- The last word of the block's control word spoilt, and too many elements. -/
def pawnWords (k v : Nat) : List Word := (pawnBlock.map fun w => BitVec.ofNat 64 w).set k (BitVec.ofNat 64 v)

theorem witness_pawnJobsAreStarted :
    let f : FTR := { ftr with gb := 0, gc := 0 }
    let s := pawnWorld (.nbgo f)
    let b := pawnBlock.map fun w => BitVec.ofNat 64 w
    ([.nbgo f, .nbgoSg ftr] : List Instr).all (fun i => i.ready s) = true ∧ s.ordering s.cur = false ∧
      (match s.checkAccess (s.accessor s.cur) wantLoad 0x200040 128 with
        | .ok l =>
          !reachesDevice l &&
          (l.all fun p => (chunksOf (p.1.pa p.2.1) p.2.2).all fun c =>
            !s.linePending s.cur (lineOf c.1) && !s.overlapsQueue c.1 c.2) &&
          (match (s.markAll l false).readPieces (s.cacheOf s.cur) (s.dieOf s.cur) (piecesOf l) with
            | (u, bs, m) =>
              m.isNone && bs.length == 128 && bytesNum (bs.take 8) == pawnBlock.getD 0 0 &&
                (match u.pawnCheck (u.accessor u.cur) b pawnStreams with
                  | .ok r => (u.pawnPlaces r).isNone && r.length == 2 && pinDies (r.map fun p => (p.1, p.2.1.page p.2.2.1)) == [3]
                  | .error _ => false))
        | .error _ => false) = true ∧
      pbOk b = true ∧ pbPages b ≤ 4096 ∧ pbOk (pawnWords 0 0) = false ∧ 4096 < pbPages (pawnWords 1 (2 ^ 24 - 1)) := by
  decide +kernel

/-- The job of that block. -/
def pawnJob : Job :=
  { id := 1, src := .worker wk, ctx := 0, num := 1, block := pawnBlock.map fun w => BitVec.ofNat 64 w, lo := 0, hi := 0,
    gate := none, pins := [(.s0, { vpn := 5, ppn := 0x600, kind := 3, span := 4096 }), (.s2, { vpn := 6, ppn := 0x601, kind := 3, span := 4096 })],
    dies := [3], started := [], refused := [], iv := [], read := [], written := [], indices := [], faults := [], lost := false }

/-- The state with that job. -/
def jobbed (j : Job) : State := { worker (.nop fn0) with jobs := [j] }

theorem witness_nbpart :
    let s := withG (fetched (.nbpart { ftr with gc := 0 })) 1 130
    let j := { pawnJob with pins := [(.s0, { vpn := 5, ppn := 0x410, kind := 3, span := 4096 })], dies := [2], started := [2] }
    (Instr.nbpart { ftr with gc := 0 }).ready s = true ∧ (s.g 1).toNat = 130 ∧ (s.g 2).toNat = 0 ∧ s.inService 2 = true ∧
      s.channelBusy 130 = false ∧ (s.dueAt 130).isSome = false ∧ s.trains 130 = false ∧
      State.channelBusy { s with jobs := [j] } 130 = true := by decide +kernel

theorem witness_pawnJobsRun :
    let s := jobbed pawnJob
    let r := { pawnJob with started := [3] }
    let d := { r with read := [(0x30000, some 5)] }
    let one := { d with block := pawnWords 1 0 }
    let e := { d with written := [(0x30080, 0)] }
    (s.jobs.find? fun x => x.dies.contains 3 && !x.started.contains 3 && s.gateMet x) = some pawnJob ∧
      (s.jobs.filter fun x => x.id == pawnJob.id) = [pawnJob] ∧ (pawnJob.dieChannels 3) = [192] ∧
      (State.gateMet s { pawnJob with gate := some (0, 1) }) = false ∧ channelOf (32 * 0x30000) / 64 = 3 ∧
      (jobbed r).partOff r (channelOf (32 * 0x30000)) = false ∧ r.isInput 0x30000 = true ∧ r.inColumn .s2 0x30000 = [] ∧
      (jobbed r).badAt (lineOf (32 * 0x30000)) = none ∧ pbM3 r.block = 0 ∧ Memory.wf s.mem = true ∧
      d.isInput 0x30080 = false ∧ one.inColumn .s2 0x30080 = [0] ∧ (jobbed d).output one 0 = some (5, false) ∧
      (jobbed e).jobDone e = true ∧ ((jobbed e).getSeq (.worker wk)).isSome = true ∧ (jobbed r).ivLoaded r 192 = true ∧
      (jobbed r).trains 192 = false ∧ (jobbed r).shareHeld .inPlace = false ∧ r.ivColumns = [] := by decide +kernel

/-- The job with an input vector of one element, at 0x602000, and one whose bank has met a fault. -/
def ivJob : Job :=
  { pawnJob with
    block := (pawnBlock.map fun w => BitVec.ofNat 64 w).set 0 (BitVec.ofNat 64 (pawnBlock.getD 0 0 + 2)) |>.set 6 0x7000
    pins := pawnJob.pins ++ [(.iv, { vpn := 7, ppn := 0x602, kind := 3, span := 4096 })]
    started := [3] }

theorem witness_pawnInputAndFaults :
    let s := jobbed ivJob
    let f : PawnFault := { bank := 3072, cond := 17, lo := 0, hi := 15, more := 0 }
    let j := { pawnJob with started := [3], written := [(0x30080, 0)], read := [(0x30000, some 5)], faults := [f] }
    let c : State := { (launched (.nop fn0)) with jobs := [j] }
    s.inService (channelOf (32 * 0x30100) / 64) = true ∧ ivJob.ivColumns = [0x30100] ∧ ivJob.isInput 0x30100 = false ∧
      ivJob.inColumn .s2 0x30100 = [] ∧ s.partsOn ivJob = [192] ∧ s.badAt (lineOf (32 * 0x30100)) = none ∧
      s.ivLoaded ivJob 192 = false ∧ c.jobDone j = true ∧ c.inService (f.bank / 1024) = true ∧ (c.launch? 0 0).isSome = true ∧
      (launchIn .admitted).torn = false ∧ (c.getSeq (.worker wk)).isSome = true := by decide +kernel

/-! ## Vector instructions -/

/-- Fields with sources v1, v2 and v4, destination number 3, no mask, element type i32. -/
def fv3 : FV3 := { h := 3, va := 1, ma := false, vb := 2, mb := false, s := false, mask := 0, et := 2, rnd := 0, res := 0 }
def fv4 : FV4 := { v := fv3, vc := 4, mc := false, res := 0 }

/-- The same with another element type, a scalar in g2, or no source b. -/
def fet (t : BitVec 4) : FV3 := { fv3 with et := t }
def fsc (t : BitVec 4) : FV3 := { fv3 with et := t, s := true }
def fnb (t : BitVec 4) : FV3 := { fv3 with et := t, vb := 0 }
def f4t (t : BitVec 4) : FV4 := { fv4 with v := fet t }

def vectorForms : List Instr :=
  let a := fv3
  let n := fnb 2
  let mm := { fv3 with vb := 2, et := 0 }
  let m1 := { fv3 with vb := 0, et := 0 }
  [.vget (fsc 2), .vput (fsc 2), .vbcast { fsc 2 with va := 0 }, .vadd a, .vsub a, .vmul a, .vmulh a, .vand a, .vor a,
   .vxor a, .vshl a, .vshr a, .vsra a, .vmin a, .vmax a, .vabs n, .vsadd a, .vssub a, .vcmp .eq a,
   .vmerge { a with mask := 2 }, .viota n, .vfadd (fet 13), .vfsub (fet 13), .vfmul (fet 13), .vfdiv (fet 13), .vfsqrt (fnb 13),
   .vfmin (fet 13), .vfmax (fet 13), .vfabs (fnb 13), .vfneg (fnb 13), .vfcmp .eq (fet 13), .vfclass (fnb 13), .vcomp n,
   .vexp n, .vbfx (fsc 2), .vmac fv4, .vfma (f4t 13), .vfms (f4t 13), .vfnma (f4t 13), .vfnms (f4t 13),
   .vslideup { fv4 with v := fsc 2 }, .vslidedn { fv4 with v := fsc 2 }, .vreds .osum { fv4 with v := { fsc 2 with vb := 2 }, vc := 0 },
   .vdot { fv4 with v := fv3 }, .vpmac { fv4 with v := { fsc 2 with et := 1 } }, .vsrar a, .vicvt 1 n, .vfcvt 2 (fnb 13),
   .vperm a, .vtlu a, .vlgmul (fet 8), .mand mm, .mor mm, .mxor mm, .mnot m1, .mset { m1 with va := 0 }]

/-- A worker with VL = 4 and its registers' granules. -/
def vecWorld (i : Instr) : State :=
  (worker i).modCore fun x => { x with w := { x.w with vl := 4, v := x.w.v.map fun r => { r with granule := 1 } } }

theorem witness_vectorInstructionsAreQueued :
    let s := vecWorld (.vadd fv3)
    let big := (worker (.vadd fv3)).modCore fun x => { x with w := { x.w with vl := 32000 } }
    let full := s.modCore fun x => { x with w := { x.w with queue := List.replicate 32 (s.entryFor (.vadd fv3) 0) } }
    vectorForms.all (fun i => i.ready s && (queuedForm i).isSome) = true ∧
      vectorForms.all (fun i => (operandBreaks i (withG s 2 5)).isNone) = true ∧
      (operandBreaks (.vget (fsc 2)) (withG s 2 32768)) = some 8 ∧ (operandBreaks (.vbfx (fsc 2)) (withG s 2 40)) = some 3 ∧
      s.core.w.vl.toNat ≤ vlmaxFor s.core.w.vncode 2 ∧ s.core.w.queue.length < 32 ∧
      vlmaxFor big.core.w.vncode 2 < big.core.w.vl.toNat ∧ full.core.w.queue.length = 32 := by decide +kernel

/-- The entry at the head of the worker's queue. -/
def headEntry (s : State) : VEntry := (s.seqD (.worker wk)).w.queue.headD (s.entryFor (.nop fn0) 0)

/-- The oldest entry is picked, to run to its end, and its operands' and results' blocks have their granules. -/
def runs (s : State) (upTo : Nat) : Bool :=
  let y := s.seqD (.worker wk)
  let e := headEntry s
  s.pickEntry (.worker wk) [] y.w.queue == some (e, upTo) &&
    match performOf s.fresh e.instr with
    | some p =>
      (y.w.readBlocks (e.indexReads y.w) ++ y.w.readBlocks (e.reads y.w) ++ y.w.blocksWritten (p e y.w)).all
        fun b => (y.w.vreg b.1).granule.getLsbD b.2
    | none => false

theorem witness_vectorDispatchDelivers :
    let s := after (.vadd fv3) (vecWorld (.vadd fv3))
    let y := s.seqD (.worker wk)
    runs s 4 = true ∧ y.w.pending = none ∧
      (match performOf s.fresh (headEntry s).instr with
        | some p =>
          let f := p (headEntry s) y.w
          f.md.isNone && f.capture.isEmpty && match f.vd with
            | some (k, v, l) => k == 3 && v == 32 && l.map (fun b => b.1) == [0, 1, 2, 3]
            | none => false
        | none => false) = true ∧
      ((headEntry s).readParts y.w).any (fun x => x.blocks.contains (1, 0) && x.elem == 0) = true := by decide +kernel

theorem witness_vectorMaskResults :
    let s := after (.vcmp .eq fv3) (vecWorld (.vcmp .eq fv3))
    let y := s.seqD (.worker wk)
    runs s 4 = true ∧
      (match performOf s.fresh (headEntry s).instr with
        | some p =>
          let f := p (headEntry s) y.w
          f.vd.isNone && f.capture.isEmpty && match f.md with
            | some (k, l) => k == 3 && l == [(0, true), (1, true), (2, true), (3, true)]
            | none => false
        | none => false) = true := by decide +kernel

/-- An element on its way to v1 that an addition waits for from element 2 on, in another element group: with 128 elements
of 32 bits the first 64 may run. -/
theorem witness_vectorEntriesArePicked :
    let big := (vecWorld (.vadd fv3)).modCore fun x => { x with w := { x.w with vl := 128 } }
    let s := after (.vadd fv3) big
    let q := SeqId.worker wk
    let l : ElemLanding := { id := 90, src := q, entry := 0, reg := 1, lo := 32 * 70, width := 32, elem := 70, val := 7,
                             poison := none, toMask := false, long := true, whole := false, acq := none }
    let t : State := { s with net := { s.net with elems := [l] } }
    s.flying q = [] ∧ [1, 2, 3, 4, 5, 6, 7].all (fun k => !s.maskFlying q k) = true ∧
      (headEntry s).partwise (s.seqD q).w = true ∧ t.runsTo q [] (headEntry t) = some 64 ∧
      (headEntry s).isChecked (s.seqD q).w = true ∧ s.cmd? (headEntry s).cmd = none := by decide +kernel

theorem witness_elementTypes :
    fv3.et.toNat ≤ 7 ∧ fv4.v.et.toNat ≤ 7 ∧ (fet 13).et.toNat ≤ 14 ∧ 11 ≤ (fet 13).et.toNat ∧ (fet 5).et.toNat ∈ [1, 2, 3, 5, 6, 7] ∧
      (fet 8).et.toNat = 8 := by decide

theorem witness_roundingFollowsItsMode : (fround 13 2 true 3 (-140)).2.getLsbD 2 = false ∧ (3 : Nat) ≠ 0 ∧
    (fround 13 1 false 1 400).2.getLsbD 2 = true := by decide +kernel

theorem witness_floatSpecialValues : (FVal.nan true).isNaN = true ∧ (5 : Nat) ≠ 0 := by decide

theorem witness_maskCountsAndLgDot :
    let f := { fv3 with vb := 0, et := 0 }
    let g := { fv3 with et := 8 }
    let s := vecWorld (.mpop f)
    (Instr.mpop f).ready s = true ∧ (Instr.mfirst f).ready s = true ∧ (Instr.vlgdot g).ready s = true ∧
      s.waitsVector = false ∧ s.core.w.vl.toNat ≤ vlmaxFor s.core.w.vncode 8 ∧
      (let u := after (.vlgdot g) s
       runs u (headEntry u).till) = true := by decide +kernel

/-! ## Vector memory -/

/-- A unit form of i32 elements at stream 1, and the indexed form with indices in v2. -/
def fvm : FVM := { h := 3, q := 1, mask := 0, et := 2, mode := 0, nf1 := 0, sreg := 0, idx := 0, res := 0 }
def fix : FVM := { fvm with idx := 2 }
def fvx : FVX := { m := fix, vb := 4, mb := false, ord := 1, scope := 3 }
def fvr : FVX := { fvx with m := { fix with h := 0 }, ord := 0 }

/-- A worker with VL = 2, its granules, and stream 1 at 0x200040. -/
def memWorld (i : Instr) : State :=
  (vecWorld i).modCore fun x => { x with w := { x.w with
    vl := 2, q := x.w.q.setIfInBounds 1 { set := true, dir := false, boff := 0, base := 0x200040, slots := [] } } }

/-- The same with the stream at an address of another page. -/
def memAt (i : Instr) (a : BitVec 58) : State :=
  (memWorld i).modCore fun x => { x with w := { x.w with
    q := x.w.q.setIfInBounds 1 { set := true, dir := false, boff := 0, base := a, slots := [] } } }

theorem witness_elementForms :
    fvm.mode = 0 ∧ fvm.et ≠ 8 ∧ ({ fvm with mode := 1 } : FVM).mode = 1 ∧
      (let s := (worker (.nop fn0)).modCore fun x => { x with w := { x.w with spadCode := 2 } }
       let e := { s.entryFor (.vld fvm) 0 with vmt := 1 }
       let p : Piece := { elem := 0, reg := 3, lo := 0, va := 64, n := 4, shift := 0, w := 32 }
       p.va.toNat % p.n = 0 ∧ e.boff = 0 ∧ e.vmt ≠ 0 ∧ (s.padByte wk e.vmt (p.va + 3)).isSome = true ∧
         (s.padByte wk e.vmt 0xFFFFFFFF).isNone = true ∧ ({ p with va := 65 } : Piece).va.toNat % p.n ≠ 0 ∧
         (s.padByte wk 2 0x3FFFF).isNone = true) := by decide +kernel

theorem witness_vectorMemoryIsQueued :
    let s := memWorld (.vld fvm)
    let e := capturedEntry s (.vld fvm) fvm
    let pieces := (actives e s.core.w fvm.mask).flatMap fun k => computedPieces fvm e k
    let v := s.takeId.2
    let out := memAt (.vld fvm) 0x7FFFFC
    let eo := capturedEntry out (.vld fvm) fvm
    ([.vld fvm, .vst fvm, .vgath fix, .vscat fix, .vldl fix, .vstc { fix with mask := 1 }, .vamo .add fvx, .vred .add fvr]
      : List Instr).all (fun i => i.ready s) = true ∧ (s.stream 1).set = true ∧ (s.stream 2).set = false ∧
      s.core.w.vl.toNat ≤ vlmaxFor s.core.w.vncode 3 ∧ s.maskKnown 0 = true ∧ pieces.length = 2 ∧
      pieces.all (fun p => match v.checkPiece wk e wantLoad true p with
        | .ok l => !reachesDevice l
        | .error _ => false) = true ∧
      ((actives eo out.core.w fvm.mask).flatMap fun k => computedPieces fvm eo k).map
        (fun p => (out.takeId.2.checkPiece wk eo wantStore true p).isOk) = [true, false] := by decide +kernel

/-- The oldest entry may run to its end in space 0, and its blocks have granules, with those that registers grow by. -/
def memRuns (s : State) (dst : List Nat) (width : Nat) : Bool :=
  let y := s.seqD (.worker wk)
  let x := y.w
  let e := headEntry s
  s.pickEntry (.worker wk) [] x.queue == some (e, e.till) && e.vmt == 0 && e.fault.isNone && y.relDue.isNone &&
    (x.readBlocks (e.indexOf x) ++ x.readBlocks (e.readParts x) ++ dst.flatMap (fun r => x.growth r (bytesFor width e.vl))).all
      fun b => (x.vreg b.1).granule.getLsbD b.2

theorem witness_vectorMemoryIsPerformed :
    let s := after (.vld fvm) (memWorld (.vld fvm))
    let t := after (.vst fvm) (memWorld (.vst fvm))
    memRuns s [3] 32 = true ∧ memRuns t [] 0 = true ∧ ((headEntry t).place 0x200040).2 = .shared ∧
      ((headEntry t).place 0x200044).2 = .shared ∧ (headEntry s).instr = .vld fvm ∧ (headEntry t).instr = .vst fvm := by
  decide +kernel

/-- An indexed form may run, with its elements checked. -/
def indexedRuns (i : Instr) (f : FVM) (reg : Nat) (want : Want) (spaces : Bool) (homes : Bool) : Bool :=
  let s := after i (memWorld i)
  memRuns s [3] 32 && (headEntry s).instr == i &&
    match s.checkIndexed wk (headEntry s) f reg want spaces with
    | some (v, e, l) => e.fault.isNone && l.length == 2 && l.all (fun p => (e.place p.va).2 != .priv) &&
        (!homes || match v.beforeHomes (.worker wk) e l with
          | some u => l.all fun p => !u.indexPending wk p.elem
          | none => false)
    | none => false

theorem witness_indexedForms :
    indexedRuns (.vgath fix) fix 3 wantLoad true false = true ∧ indexedRuns (.vscat fix) fix 3 wantStore true false = true ∧
      indexedRuns (.vldl fix) fix 3 wantWaitm false true = true ∧
      indexedRuns (.vstc { fix with mask := 1 }) fix 3 wantAtomic false true = true := by decide +kernel

theorem witness_indexedAtomics :
    indexedRuns (.vamo .add fvx) fix 3 wantAtomic false true = true ∧ fvx.ord.getLsbD 1 = false ∧
      indexedRuns (.vred .add fvr) fvr.m 0 wantAtomic false true = true ∧
      indexedRuns (.vred .add { fvr with scope := 1 }) fvr.m 0 wantAtomic false false = true := by decide +kernel

/-- A vector load whose elements lie outside windows of format 1. -/
theorem witness_readings :
    let s := after (.vld fvm) (memWorld (.vld fvm))
    let e := headEntry s
    let l := (e.pieces (s.seqD (.worker wk)).w fvm).flatMap Piece.cut
    l.length = 2 ∧ l.all (fun p => s.fmtAt (e.place p.va).1 != 1) = true := by decide +kernel

/-- Window 1 of the worker's launch, of 4 rows of 32 columns at 0x200000, open in window register 0. -/
def testWindow : Window :=
  { id := 1, ctx := 0, slot := 0, base := 0x200000, rows := 4, cols := 32, pitchl := 2,
    lines := (List.range 8).map fun k => 0x800000 + 64 * k, pinned := (List.range 8).map fun k => 0x800000 + 64 * k, bad := [],
    zero := false }

def windowed (s : State) : State :=
  { s.modCore (fun x => { x with w := { x.w with
      win := x.w.win.setIfInBounds 0 { isOpen := true, cols := 32, rows := 4, pitchl := 2, base := 0x200000, window := 1 } } }) with
    windows := [testWindow] }

/-- VACC of window 0 to v3. -/
def fac : FTR := { h := 3, ga := 1, ma := false, gb := 0, mb := false, gc := 0, mc := false, imm := 0 }

theorem witness_vacc :
    let s := windowed (memWorld (.vacc fac))
    let t := after (.vacc fac) s
    let r := s.winReg 0
    (Instr.vacc fac).ready s = true ∧ r.isOpen = true ∧ (s.g 1).toNat < r.rows.toNat ∧ s.core.w.vl.toNat ≤ r.cols.toNat ∧
      ((memWorld (.vacc fac)).winReg 0).isOpen = false ∧ r.rows.toNat ≤ ((withG s 1 4).g 1).toNat ∧
      (s.window? r.window).isSome = true ∧ memRuns t [3] 32 = true ∧
      t.rowHeld (.worker wk) (headEntry t).id (headEntry t).cmd (headEntry t).gb = false := by decide +kernel

/-- An element on its way to a register, and one on its way to a mask. -/
def elemTo (mask : Bool) : ElemLanding :=
  { id := 9, src := .worker wk, entry := 1, reg := 3, lo := 32, width := 32, elem := 1, val := 7, poison := none,
    toMask := mask, long := true, whole := false, acq := none }

theorem witness_loadedElementsLand :
    let s := memWorld (.nop fn0)
    let t (m : Bool) : State := { s with net := { s.net with elems := [elemTo m] } }
    (t true).net.elems.find? (fun y => y.id == 9) = some (elemTo true) ∧
      (t false).net.elems.find? (fun y => y.id == 9) = some (elemTo false) ∧ (s.getSeq (.worker wk)).isSome = true ∧
      ((s.seqD (.worker wk)).w.vreg 3).granule.getLsbD 0 = true ∧ (s.seqD (.worker wk)).w.queue = [] ∧
      (t false).flying (.worker wk) = [(1, regPart 1 3 32 32)] ∧
      (let p : Piece := { elem := 0, reg := 3, lo := 0, va := 64, n := 4, shift := 0, w := 32 }
       let u := s.modCore fun x => { x with w := { x.w with spadCode := 2 } }
       p.w = 8 * p.n ∧ p.va.toNat + p.n ≤ spadBytes (u.seqD (.worker wk)).w.spadCode ∧
         cellsWf (u.seqD (.worker wk)).w.spad = true) := by decide +kernel

/-! ## Lengths, streams and waits -/

theorem witness_lengthsAndStreams :
    let s := memWorld (.nop fn0)
    let y := s.seqD (.worker wk)
    ([.vsetl { fim with imm := 2 }, .vdecl { fimH with imm := 1 }, .qset { fim with h := 0, imm := 1 },
      .qadv { fim with h := 0, imm := 1 }, .vfence { fimH with imm := 0xF }] : List Instr).all (fun i => i.ready s) = true ∧
      s.waitsVector = false ∧ s.ordering s.cur = false ∧ (s.release s.cur 3).2 = true ∧
      (s.release s.cur 3).1.loadsPending s.cur = false ∧ (s.getSeq (.worker wk)).isSome = true ∧ y.w.vmt = 0 ∧
      (y.w.q.getD 1 Stream.reset).set = true ∧ (y.w.q.getD 2 Stream.reset).set = false ∧
      (match s.leafFor (s.dieOf (.worker wk)) 0 0x200040, s.leafFor (s.dieOf (.worker wk)) 0 0x400000 with
        | some l, some k => leafBytes l.val l.level == 2097152 && pteBit k.val 4 && pteBit k.val 1
        | _, _ => false) = true := by decide +kernel

theorem witness_vectorWaits :
    let s := (memWorld (.vwait .eq fvx)).modCore fun x => { x with w := { x.w with vl := 1 } }
    let e := { capturedEntry s (.vwait .eq fvx) fix with id := 0, gc := 0 }
    let n := s.modCore fun x => { x with w := { x.w with vl := 0 } }
    (Instr.vwait .eq fvx).ready s = true ∧ (s.stream 1).set = true ∧ s.waitsVector = false ∧ s.ordering s.cur = false ∧
      (s.core.w.readBlocks (elemParts 64 [2] 0 ++ elemParts 32 [4] 0)).all
        (fun b => (s.core.w.vreg b.1).granule.getLsbD b.2) = true ∧ actives e s.core.w 0 = [0] ∧
      actives (capturedEntry n (.vwait .eq fvx) fix) n.core.w 0 = [] ∧
      (match s.checkIndexed wk e fix 0 wantWaitm false with
        | some (u, e', l) => e'.fault.isNone && l.length == 1 &&
            l.all (fun p => !u.linePending s.cur (lineOf (e'.place p.va).1) && (u.readHome (e'.place p.va).1 4).2 == (0, none))
        | none => false) = true := by decide +kernel

theorem witness_vectorWaitWakes :
    let i := Instr.vwait .ne fvx
    let s := (memWorld i).modCore fun x => { x with w := { x.w with vl := 1 } }
    (after i s).core.run = .parked (.vwait .ne fvx [(0, 0x800040)]) ∧ (after i s).core.w.vwaitDone = [] ∧
      ((after i s).getSeq (.worker wk)).isSome = true := by decide +kernel

/-! ## The matrix engine -/

/-- MX fields: window register 0 in H, sources g1, g2 and g4. -/
def fmx : FTR := { h := 0, ga := 1, ma := false, gb := 2, mb := false, gc := 4, mc := false, imm := 0 }
def fmxp : FTR := { fmx with gc := 0 }
def fmx1 : FTR := { fmx with ga := 0, gb := 0, gc := 0 }

/-- A worker that may pin lines on die 0, with 0x200000 in g1, one row and one column, and matrix state of 1 row. -/
def matWorld (i : Instr) : State :=
  let s := withG (withG (withG (worker i) 1 0x200000) 2 1) 4 1
  let t := (s.modCtx 0 fun c => { c with cwquota := Vector.replicate 4 8 }).modCore fun x =>
    { x with mx := { x.mx with fa := 9, fb := 9, pr := 1, pc := 1, sa := 1, sb := 1 } }
  { t with regs := { t.regs with accpart := Vector.replicate 4 480 } }

theorem witness_matrixCommandsAreMade :
    let s := matWorld (.mopenZero fmx)
    let o := windowed s
    ([.mopenZero fmx, .mopenLoad fmx, .mclose fmx1, .mzero fmx1, .mpred fmxp, .mfmt { fmx with imm := 0x99 },
      .mmas fmx, .mmaf fmx] : List Instr).all (fun i => i.ready s) = true ∧ s.matrixWaits = false ∧
      s.cur = .worker wk ∧ (s.winReg 0).isOpen = false ∧ (s.openCheck s.curCtx 0x200000 1 1).isOk = true ∧
      (o.winReg 0).isOpen = true ∧ (o.window? (o.winReg 0).window).isSome = true ∧ (s.getSeq (.worker wk)).isSome = true ∧
      (match o.mmaCheck (o.winReg 0) 0x200000 0x200000 1 with
        | .ok l => l.all fun p => decide ((p.1.page p.2.1).ppn < 2 ^ 38)
        | .error _ => false) = true := by decide +kernel

theorem witness_matrixOnAnMxSequencer :
    let o := windowed (matWorld (.mmas fmx))
    let s := { asSeq o (.mx wk 0) .u with seqs := (.worker wk, o.core) :: o.seqs }
    (Instr.mmas fmx).ready s = true ∧ s.cur = .mx wk 0 ∧ s.matrixWaits = false ∧ (s.winReg 0).isOpen = true ∧
      (s.mmaCheck (s.winReg 0) 0x200000 0x200000 1).isOk = true ∧ (s.release s.cur 2).2 = true ∧
      ((s.release s.cur 2).1.mmaCheck (s.winReg 0) 0x200000 0x200000 1).isOk = true ∧ s.mxCmds = [] := by decide +kernel

/-- A command of the worker on window 1, accepted. -/
def mxCmd (k : MxKind) (left : List Nat) : MxCmd :=
  { id := 3, cluster := 0, src := .worker wk, follow := none, num := 1, kind := k, window := 1, a := 0x200400, b := 0x200800,
    k := 1, st := { fa := 9, fb := 9, sa := 1, sb := 1, sca := 0, scb := 0, pr := 1, pc := 1 },
    pages := [{ vpn := 0x200, ppn := 0x800, kind := 2, span := 4096 }], accepted := true, started := false, sent := false, slices := [],
    left := left, array := 0, failed := none }

/-- The state with commands, and the window with no line pinned yet. -/
def commanded (s : State) (l : List MxCmd) : State := { s with mxCmds := l }
def unpinned (s : State) : State := { s with windows := [{ testWindow with pinned := [] }] }

theorem witness_windowsAreApplied :
    let w := windowed (matWorld (.nop fn0))
    let c := mxCmd .openZero [0x800000, 0x800040]
    let s := commanded (unpinned w) [c]
    let z := mxCmd .zero [0x800000]
    let t := commanded w [z]
    let e := mxCmd .close []
    let u := commanded w [e]
    (s.mxCmds.filter fun x => x.id == c.id) = [c] ∧ s.windowOrder c 0x800000 = false ∧ s.net.msgs = [] ∧ s.mem.stage = [] ∧
      c.failed = none ∧ z.failed = none ∧ s.uncovered 0x800000 = false ∧ w.mem.lines = [] ∧
      (s.pinPending 0x800000).isSome = true ∧ t.windowOrder z 0x800000 = false ∧ t.pinPending 0x800000 = none ∧
      (u.mxCmds.all fun x => x.window != e.window || e.id ≤ x.id) = true ∧ u.window? e.window = some testWindow ∧
      testWindow.bad = [] := by decide +kernel

theorem witness_productsAreApplied :
    let w := windowed (matWorld (.nop fn0))
    let c := mxCmd .mmas []
    let s := commanded w [c]
    let d := { c with started := true }
    let t := commanded w [d]
    s.takeable 0 = [c] ∧ s.arrayFree 0 0 = true ∧
      (t.mxCmds.find? fun x => x.cluster == 0 && x.started && !x.sent && x.array == 0) = some d ∧
      d.k ≤ 32 * (d.slices.length + 1) ∧ ((t.readSlice d).1.window? 1).isSome = true ∧ (t.readSlice d).2.failed = none ∧
      32 * (({ d with k := 40 } : MxCmd).slices.length + 1) < ({ d with k := 40 } : MxCmd).k := by decide +kernel

theorem witness_partialsAreApplied :
    let w := windowed (matWorld (.nop fn0))
    let c := { mxCmd .mmas [] with started := true, sent := true }
    let x : Msg := msgTo 7 0x800000 (w.homeOf 0x800000) (.mxPartial 3 [5])
    let s := sending (commanded w [c]) [x]
    s.msg? 7 = some x ∧ s.cmd? 3 = some c ∧ s.partialReady c 0x800000 = true ∧ s.mem.stage = [] ∧
      s.homeCopy 0x800000 = none ∧ s.mem.bad = [] ∧ s.uncovered 0x800000 = false := by decide +kernel

/-! ## The copy engine -/

/-- Copy fields: destination g1, source g2, count g4. -/
def fcp : FTR := { h := 3, ga := 1, ma := false, gb := 2, mb := false, gc := 4, mc := false, imm := 0 }

/-- A forked CE at an instruction, with operands. -/
def ceWorld (i : Instr) : State :=
  let w := worker i
  withG (withG (withG { asSeq w (.ce wk 0) .u with seqs := (.worker wk, w.core) :: w.seqs } 1 0x200000) 2 0x200100) 4 64

theorem witness_copyCommandsAreMade :
    let s := ceWorld (.cpy fcp)
    ([.cpy fcp, .cpy2d { fcp with imm := 5 }, .cpyMig fcp, .wsigNum { fcp with imm := 5 }, .wsigAdd { fcp with imm := 5 },
      .cfill fcp, .cpym fcp, .cpym2d { fcp with imm := 5 }] : List Instr).all (fun i => i.ready s) = true ∧
      copyBreaks s fcp .copy false false false = none ∧ copyBreaks s fcp .fill false false false = none ∧
      copyBreaks s { fcp with imm := 5 } .wsigNum false true false = none ∧
      copyBreaks s { fcp with imm := 256 } .copy false false false = some (3, 0) ∧
      copyBreaks (withG s 5 4) { fcp with imm := 5 } .wsigAdd false true false = some (9, 4) ∧
      s.ordering s.cur = false ∧ s.cpCmds = [] ∧ (s.release s.cur 2).2 = true ∧
      (Instr.mzero fmx1).reservedOk = true ∧ (encode (.mzero fmx1)).1 ≠ 0 := by decide +kernel

/-- A line that holds CPYM and an MZERO of window register 0 after it. -/
def followLine : LineBits :=
  let a := encode (.cpym fcp)
  let b := encode (.mzero fmx1)
  0x1000#512 ||| (a.1.setWidth 512 <<< 16) ||| (b.1.setWidth 512 <<< 32) |||
    (a.2.setWidth 512 <<< (8 * (64 - tailBytes a.1))) ||| (b.2.setWidth 512 <<< (8 * (64 - tailBytes a.1 - tailBytes b.1)))

theorem witness_followOns :
    let s := { (windowed (ceWorld (.cpym fcp))) with windows := [testWindow] }
    let w := (s.modSeq (.worker wk) fun x => { x with w := { x.w with
      win := x.w.win.setIfInBounds 0 { isOpen := true, cols := 32, rows := 4, pitchl := 2, base := 0x200000, window := 1 } } }).modCore
        fun x => { x with line := some (0x4000, followLine) }
    LineBits.legal followLine = true ∧ w.core.pc = 0x4001 ∧ 1 < LineBits.heads followLine ∧
      decodeSlot .ce followLine 1 = some (.cpym fcp) ∧ decodeSlot .ce followLine 2 = some (.mzero fmx1) ∧
      (match w.followOn with
        | .ok (v, j, l, pc) => j == .mzero fmx1 && pc == 0x4041 && l == followLine && !v.operandsWait j && (markOf j.operands v.core).isNone &&
            (v.prepareFollow j 0).isOk && (State.prepareFollow { w with nextId := w.nextId + 1 } j w.nextId).isOk
        | .error _ => false) = true := by decide +kernel

/-- A copy of 64 bytes of the worker's CE from 0x200100 to 0x200000. -/
def cpCmd (k : CpKind) : CpCmd :=
  { id := 3, src := .ce wk 0, cluster := 0, num := 1, kind := k, dst := 0x200000, source := 0x200100, block := false, rows := 1, width := 64,
    dpitch := 0, spitch := 0, ssp := false, dsp := false, mig := false, flag := 0x200200, follow := none, moved := 0, chunk := 0,
    copied := false, handed := false }

def copying (c : CpCmd) : State := { ceWorld (.nop fn0) with cpCmds := [c] }

theorem witness_chunks :
    (cpCmd .copy).moved < (cpCmd .copy).total ∧ (cpCmd .copy).rows = 1 ∧ (cpCmd .fill).descends = false ∧
      ({ cpCmd .copy with dst := 0x200110 } : CpCmd).descends = true := by decide

theorem witness_copiesAreExecuted :
    let c := cpCmd .copy
    let s := copying c
    let v := s.takeFree.2
    s.copiesOn 0 = [c] ∧ (s.cpCmds.filter fun x => x.id == c.id) = [c] ∧ c.moved < c.total ∧ s.copyWrites c.src = false ∧
      s.mgmt.training = [] ∧ s.homeDie 0x800000 = s.dieOf c.src ∧ v.uncovered 0x800000 = false ∧
      (match v.chunkCheck c c.next with
        | .ok (src, dst) =>
          let u := (v.markAll src false).markAll dst true
          !reachesDevice src && !reachesDevice dst && linesFrom dst == [(0x800000, 64)] && linesFrom src == [(0x800100, 64)] &&
            (u.pinPending 0x800100).isNone && u.net.msgs == [] && u.mem.stage == [] && (u.homeCopy 0x800100).isNone &&
            (u.fetchLine 0x800100).2.1.isNone
        | .error _ => false) = true ∧
      (match v.chunkCheck { c with dst := 0x900000 } ({ c with dst := 0x900000 } : CpCmd).next with
        | .ok _ => false
        | .error e => e.cond == 10) = true ∧
      (copying { c with width := 0 }).copiesOn 0 = [{ c with width := 0 }] ∧ ({ c with width := 0 } : CpCmd).total = 0 := by
  decide +kernel

theorem witness_migrations :
    let m := { cpCmd .copy with mig := true, dst := 0x800000, source := 0x10000000000, width := 64 }
    let v := (copying m).takeFree.2
    (copying m).copiesOn 0 = [m] ∧ m.moved < m.total ∧ v.uncovered 0x800000 = false ∧ v.homeDie 0x800000 = v.dieOf m.src ∧
      v.uncovered 0x10000000000 = false ∧
      ((chunksOf m.next.s.toNat m.next.n).all fun p => !v.lineLost p.1) = true ∧
      ((chunksOf m.next.d.toNat m.next.n).all fun p => !v.lineLost p.1) = true ∧
      ((v.readLive (chunksOf m.next.s.toNat m.next.n)).2.all fun b => !b.2) = true := by decide +kernel

/-- A fill and a signal whose lines lie on die 1. -/
theorem witness_copiesToAnotherDie :
    let f := { cpCmd .fill with dst := 0x400000 }
    let v := (copying f).takeFree.2
    let g := { cpCmd .wsigAdd with copied := true, moved := 64, flag := 0x400200 }
    let s := copying g
    let x := { msgTo 7 0x200000 64 (.publish 0 0 [] false false) with src := .ce wk 0, path := 96 }
    (copying f).copiesOn 0 = [f] ∧ f.moved < f.total ∧ (copying f).copyWrites f.src = false ∧
      (match v.chunkCheck f f.next with
        | .ok (src, dst) => src.isEmpty && !reachesDevice dst && linesFrom dst == [(0x200000, 64)]
        | .error _ => false) = true ∧ (copying f).homeDie 0x200000 = 1 ∧ (copying f).dieOf f.src = 0 ∧
      s.copyOf (.ce wk 0) = some g ∧ s.homeDie 0x200200 = 1 ∧ s.copyWrites (.ce wk 0) = false ∧
      (let u := (s.release (.ce wk 0) 4).1
       match u.checkAccess (u.accessor (.ce wk 0)) ⟨false, true, false, 2, false⟩ g.flag 8 with
        | .ok l => !reachesDevice l && (piecesOf l).map (fun p => p.1) == [0x200200]
        | .error _ => false) = true ∧
      (copying { g with handed := true }).copyOf (.ce wk 0) = some { g with handed := true } ∧
      (sending (copying (cpCmd .copy)) [x]).copyWrites (.ce wk 0) = true := by decide +kernel

theorem witness_signals :
    let c := { cpCmd .wsigNum with copied := true, moved := 64 }
    let s := copying c
    s.copyOf (.ce wk 0) = some c ∧ (s.release (.ce wk 0) 4).2 = true ∧ s.copyWrites (.ce wk 0) = false ∧
      s.homeDie 0x800200 = s.dieOf (.ce wk 0) ∧ s.uncovered 0x800200 = false ∧
      (let u := (s.release (.ce wk 0) 4).1
       match u.checkAccess (u.accessor (.ce wk 0)) ⟨false, true, false, 2, false⟩ c.flag 8 with
        | .ok l => !reachesDevice l && (piecesOf l).map (fun p => p.1) == [0x800200] && (u.markAll l true).net.msgs == [] &&
            (u.markAll l true).mem.stage == [] && ((u.markAll l true).pinPending 0x800200).isNone
        | .error _ => false) = true := by decide +kernel

theorem witness_followOnsAreHanded :
    let d := { mxCmd .zero [0x800000] with follow := some 3, accepted := false, id := 4 }
    let c := { cpCmd .copyM with copied := true, moved := 64, follow := some 4 }
    let s := commanded (copying c) [d]
    s.copyOf (.ce wk 0) = some c ∧ (s.cpCmds.filter fun x => x.id == c.id) = [c] ∧ c.handed = false ∧
      (s.mxCmds.filter fun x => x.id == d.id) = [d] ∧ d.kind = .zero ∧ d.left ≠ [] := by decide +kernel

/-! ## Links, transactions, time -/

/-- The state with that link 0, from die 0 to die 1. -/
def linked (s : State) (l : Link) : State := { s with links := [(0, l)] }

def flit (type seq : Nat) (ack : Option (Bool × Nat)) : Flit := { seq := seq, type := type, msgs := [], ack := ack, credit := 0 }

theorem witness_flits :
    let w := fetched (.nop fn0)
    let on (f : Flit) : State := linked w { Link.reset with wire := [f] }
    (on (flit 1 0 none)).linkUp 0 = true ∧ ((on (flit 1 0 none)).link 0).expected = 0 ∧ behind 5 0 = 4091 ∧ behind 4095 0 = 1 ∧
      ((on (flit 1 0 none)).nextFlit 0 .idle).2 = flit 1 0 none ∧ (flit 1 0 none).received 0 = flit 1 0 none ∧
      flitLost (flit 1 0 none) 0 = false ∧
      ((on (flit 0 0 (some (true, 3)))).link 0).wire = [flit 0 0 (some (true, 3))] ∧ ((w.link (linkBack 0)).buffer) = [] ∧
      (w.link 0).replays = [] ∧ (w.link 0).wire = [] ∧
      (linked w { Link.reset with recovery := true }).linkUp 0 = true ∧ w.linkUp 0 = true ∧ (w.link 0).buffer.length < 512 ∧
      w.readyRecord 0 none [] = none ∧
      reservedHeader (flit 5 0 none).header = true ∧ reservedHeader (flit 4 7 (some (false, 9))).header = false := by
  decide +kernel

/-- Noise on one bit of the CRC field. -/
theorem witness_crcFails : crcFails (BitVec.twoPow 2048 2047) = true := by
  have fold : ∀ l : List Nat, (∀ k ∈ l, k < 2047) →
      l.foldl (fun c k => crcBit c ((BitVec.twoPow 2048 2047).getLsbD k)) 0 = 0 := by
    intro l
    induction l with
    | nil => exact fun _ => rfl
    | cons k l ih =>
      intro h
      have hk : (BitVec.twoPow 2048 2047).getLsbD k = false := by
        have := h k (by simp)
        simp [BitVec.getLsbD_twoPow]
        omega
      rw [List.foldl_cons, hk]
      exact ih fun x hx => h x (by simp [hx])
  have zero : crcOf (BitVec.twoPow 2048 2047) = 0 := fold _ (by simp; omega)
  rw [crcFails, zero]
  decide +kernel

theorem witness_records :
    let x : Msg := { msgTo 7 0x200000 1 (.access (.store 1 255) .shared .none none) with hops := [0] }
    let s := sending (fetched (.nop fn0)) [x]
    s.readyRecord (linkPair 0) none [] = some x ∧ s.linkUp 0 = true ∧ x.body.tagged = true ∧ x.reply = none ∧
      s.mayLeave x = true ∧ x.tag = none ∧ x.flitType = 1 := by decide +kernel

theorem witness_modules :
    let w := fetched (.nop fn0)
    let old := List.replicate 7 (0 : Word)
    let t := linked w { Link.reset with training := true, narrow := true }
    let u := { w with links := (0, { Link.reset with training := true, narrow := true }) ::
      (List.range 5).map fun k => (k + 1, { Link.reset with down := true }) }
    (7 ≤ (((linked w { Link.reset with replays := old }).link 0).replays.filter fun r => decide (50 < r.toNat + 1000000)).length) ∧
      (t.link 0).training = true ∧ ((linked w { Link.reset with training := true }).link 0).narrow = false ∧
      ((pairLinks (linkPair 0)).all fun j => j == 0 || (u.link j).down) = true ∧ (u.link 0).training = true ∧
      u.lost.contains (linkPair 0 / 2) = false ∧ (linked w { Link.reset with narrow := true }).linkUp 0 = true ∧
      (Link.reset).stuck = false := by decide +kernel

theorem witness_transactions :
    let m : Msg := { msgTo 7 0x800040 4 (.access (.store 1 255) .shared .none none) with tag := some 9, floor := 9 }
    let s := sending (fetched (.nop fn0)) [m]
    let f : FilterEntry := { origin := m.origin, dest := m.dest, tag := 9, result := 0, poison := none }
    let r := { m with reply := some (3, none) }
    s.msg? 7 = some m ∧ m.tag = some 9 ∧ m.hops = [] ∧ m.reply = none ∧ s.net.filter = [] ∧
      ([f].find? fun f => f.origin == m.origin && f.dest == m.dest && f.tag == 9) = some f ∧
      (sending s [r]).msg? 7 = some r ∧ 7 < ({ s with nextId := 8 } : State).nextId ∧ m.body.tagged = true := by decide +kernel

/-- Tagged requests that may be taken at once: a store, an AMO, and an operation on a sync register. -/
theorem witness_taggedRequests :
    let w := fetched (.nop fn0)
    let m (b : Body) : Msg := { msgTo 7 0x800040 (w.homeOf 0x800040) b with tag := some 9, floor := 9, path := 96, len := 8 }
    let s (b : Body) := sending w [m b]
    let st : Body := .access (.store 1 255) .shared .none none
    let am : Body := .access (.amo .add 8 1) .shared (.g 3 8 true) none
    let sy : Body := .sync 17 1 5 (some 3) none 0x4001
    let z := { m sy with dest := 512, pa := 0 }
    ([st, am].all fun b => (s b).atHome (m b) && (s b).toCheck (m b) == [] && !(s b).uncovered (lineOf (m b).pa) &&
      ((s b).homeCopy 0x800040).isNone && ((s b).fetchLine 0x800040).2.1.isNone && (filterLeft (s b) (m b)).isEmpty) = true ∧
      (sending w [z]).syncArrived z 17 = true ∧ (filterLeft (sending w [z]) z) = [] := by decide +kernel

theorem witness_time :
    let s := (fetched (.nop fn0)).modDie 0 fun d => { d with time := 1000 }
    let x : Msg := { msgTo 7 0 770 .time with src := .cc 0, path := 96 }
    let t := sending (s.modDie 2 fun d => { d with slew := 5 }) [x]
    s.inService 2 = true ∧ s.timeSource = 0 ∧ (s.die 0).timeSent.toNat + 1000 ≤ (s.die 0).time.toNat ∧
      (t.net.msgs.find? fun m => m.timeFor 2 && m.hops.isEmpty) = some x ∧ x.origin = 0 ∧ (t.die 2).slew = 5 ∧
      5 ≤ t.mgmt.step := by decide +kernel

theorem witness_resignation :
    let s := fetched (.nop fn0)
    let l : State := launched (.nop fn0)
    s.inService 1 = true ∧ s.mustResign 1 = false ∧ ({ s with lost := [1, 0] } : State).bothLost 1 = true ∧
      (l.inService 0 && [0, 1, 2, 3].all fun e => !l.mustResign e) = true ∧ l.net.held = [] ∧ l.ctxNumbers.contains 0 = true ∧
      l.touched 0 0 = true ∧ (launchIn .admitted).torn = false ∧
      ({ s with lost := [1, 3] } : State).joined 2 0 = false ∧
      ([0, 1, 2, 3].all fun e => !(({ s with lost := [1, 3] } : State).inService e &&
        ({ s with lost := [1, 3] } : State).bothLost e)) = true := by decide +kernel

/-! ## The management controller -/

theorem witness_bringUp :
    let s := fetched (.nop fn0)
    let r : State := { (s.modDie 0 fun d => { d with time := 2000000 }) with mgmt := { s.mgmt with step := 6, rising := [(0, 0)] } }
    State.reset.mgmt.failed = false ∧ State.reset.mgmt.step < 6 ∧ (State.reset.getSeq (.cc 0)).isSome = true ∧
      r.mgmt.failed = false ∧ 6 ≤ r.mgmt.step ∧ r.mgmt.rising = [(0, 0)] ∧ 1000000 < (r.die 0).time.toNat ∧
      (s.seqD (.cc 9)).run = .halted ∧ s.inService 1 = true ∧ (s.seqD (.cc 0)).run ≠ .halted ∧
      ((s.setSeq (.cc 9) Seq.reset).getSeq (.cc 9)).isSome = true := by decide +kernel

theorem witness_environment :
    let s := fetched (.nop fn0)
    let t : State := { (s.modDie 0 fun d => { d with time := 1000000 }) with
      mgmt := { s.mgmt with throttling := [(.compute 0, 0, true, false)] } }
    (s.die 0).held = false ∧ (s.getSeq (.cc 0)).isSome = true ∧ t.shareHeld (.compute 0) = true ∧
      (t.mgmt.throttling.any fun p => p.1 == .compute 0 && !p.2.2.2 &&
        decide (p.2.1.toNat + 1000000 ≤ (t.die 0).time.toNat)) = true ∧
      ((s.modDie 1 fun d => { d with held := true }).die 1).held = true := by decide +kernel

theorem witness_channels :
    let s := fetched (.nop fn0)
    let d : State := { s with mgmt := { s.mgmt with due := [(5, 3), (6, 9)] } }
    let t : State := { s with mgmt := { s.mgmt with training := [(5, 7)] } }
    let old := s.modDie 0 fun x => { x with time := BitVec.ofNat 64 1800000000000 }
    let x : Msg := msgTo 7 0x28000 (t.homeOf 0x28000) (.access .load .shared (.g 3 8 false) none)
    assocFind s.mgmt.due 5 = none ∧ s.trains 5 = false ∧ assocFind d.mgmt.due 5 = some 3 ∧
      (d.die 0).time.toNat < 1800000000000 ∧ d.mgmt.training = [] ∧
      (assocGet old.mgmt.retrained 5 0).toNat + 1800000000000 ≤ (old.die 0).time.toNat ∧ s.dueAt 5 = none ∧
      (t.mgmt.training.find? fun y => y.1 == 5) = some (5, 7) ∧ 5 ≤ t.mgmt.step ∧
      (sending t [x]).retraining (lineOf x.pa) = true ∧ (sending t [x]).homeCopy (lineOf x.pa) = none := by decide +kernel

theorem witness_management :
    let s := fetched (.nop fn0)
    let u : State := { s with mgmt := { s.mgmt with updates := [(1, [])] } }
    let n : State := { u with mgmt := { u.mgmt with notices := [(1, 9)] } }
    5 ≤ s.mgmt.step ∧ s.inService 2 = true ∧ State.reset.mgmt.step < 5 ∧ imageOk [] = false ∧
      (∀ e, e < 4 → e ≠ 1 → s.dieUp e = true) ∧ s.noticeRuns 1 = false ∧ s.stackTrains 1 = false ∧
      ((s.modDie 1 fun d => { d with resigned := true }).die 1).resigned = true ∧ n.noticeRuns 1 = true ∧
      u.noticeRuns 1 = false ∧ u.stackTrains 1 = false ∧ (u.modDie 2 fun d => { d with resigned := true }).dieUp 2 = false := by
  decide +kernel

/-! ## Encodings, steps, invariants -/

theorem witness_registerInstructions :
    let s := withG (fetched (.div frg)) 2 3
    writesOnly s (.div frg) = some 3 ∧ writesOnly s (.li { h := 3, imm := 5 }) = some 3 ∧ (Instr.div frg).ready s = true := by
  decide +kernel

theorem witness_encodings :
    (Instr.vfma fv4).isEvent = false ∧ (Instr.vfma fv4).formOk = true ∧ namedOn .vc (.vfma fv4) = true ∧
      (decode .vc 0x2083 0x0081).isSome = true := by decide +kernel

theorem witness_stepsRun :
    let s := placedAt (.nop fn0)
    (match s.takeTurn with
      | (.issue q, s1) =>
        let u := s1.select q
        s1.mayIssue q && u.core.w.pending.isNone && !u.breaks && u.core.line.isNone &&
          (match u.checkAccess (u.accessor u.cur) wantFetch (lineAddr u.core.pc) 64 with
            | .ok l => !reachesDevice l && ((u.markAll l false).readPieces none (u.dieOf u.cur) (piecesOf l)).2.2.isNone
            | .error _ => false) &&
          (match u.fetchLineOf with
            | .ok (v, l) => LineBits.legal l && v.core.pc.toNat % 64 == 1 &&
                decodeSlot (kindOf v.cur) l 1 == some (.nop fn0)
            | .error _ => false)
      | _ => false) = true := by decide +kernel

theorem witness_eventsRun :
    let s := { State.reset with agenda := [⟨0, .event (.powerOn (.step true))⟩] }
    (match s.takeTurn with
      | (.event e, _) => e == .powerOn (.step true) && e.isEvent
      | _ => false) = true := by decide +kernel

theorem witness_idleTurn :
    let s := { State.reset with agenda := [⟨0, .issue (.cc 0)⟩] }
    (match s.takeTurn with
      | (.issue q, s1) => q == .cc 0 && !s1.mayIssue q
      | _ => false) = true := by decide +kernel

theorem witness_invariants : Memory.wf State.reset.mem = true ∧ State.reset.mxCmds = [] ∧
    (match step (placedAt (.nop fn0)) with
      | .next _ => true
      | _ => false) = true ∧ Memory.wf (placedAt (.nop fn0)).mem = true := by decide +kernel

/-! ## What waits, and other clauses of the statements -/

/-- A store of a worker after a fence that still owes its release, to a line that its cluster may stage; a staged store and an
access that wait for a release. -/
theorem witness_storesAfterAnOwedRelease :
    let s := after (.ld fimM) (withG (worker (.ld fimM)) 1 0x200040)
    let o := (s.setPc 0x4001).modCore fun x => { x with relDue := some (3, s.nextId), bank := x.bank.write 1 0x200048 }
    (Instr.st { fimM with h := 2 }).ready { o with core := { o.core with relDue := none } } = true ∧
      (o.releaseBelow o.cur 3 s.nextId).2 = false ∧ kindOf o.cur = .vc ∧
      opens (o.releaseBelow o.cur 3 s.nextId).1 wantStore 0x200048 8 = true := by decide +kernel

theorem witness_messagesThatWait :
    let s := after (.ld fimM) (withG (worker (.ld fimM)) 1 0x200040)
    let w := worker (.nop fn0)
    let x (i : Nat) (b : Body) : Msg := { msgTo i 0x800048 (w.homeOf 0x800048) b with rel := some (3, 5) }
    let st : Body := .staged (.store 1 255) 0
    let ac : Body := .access (.amo .add 8 0) .shared (.g 3 8 true) none
    (sending w [x 7 st]).msg? 7 = some (x 7 st) ∧ (sending w [x 7 ac]).msg? 7 = some (x 7 ac) ∧
      ((sending w [x 7 st]).releaseBelow (.worker wk) 3 5).2 = true ∧
      (s.releaseBelow (.worker wk) 3 s.nextId).2 = false := by decide +kernel

/-- A worker that is woken in RDV when the timeline of what it named is poisoned. -/
theorem witness_rdvWakesPoisoned :
    let s := after (.forkMx forkF) (launched (.forkMx forkF))
    let e := (s.modSeq (.mx wk 0) fun x => { x with run := .ended, tlv := { x.tlv with poison := some 1 } }).modCore fun x =>
      { x with run := .parked (.rdv true false 0) }
    (e.getSeq (.worker wk)).isSome = true ∧ rdvTargets wk e.core.w true false 0 = [.mx wk 0] ∧
      e.forkEnded (.mx wk 0) = true ∧ ((e.wake (.worker wk)).seqD (.mx wk 0)).poisoned = true := by decide +kernel

/-- A record that waits for its release, one that has left, and one behind another of its ring. -/
def aPush (i : Nat) (sent : Option (Nat × Nat)) : Push :=
  { id := i, owner := wk, stage := 1, pages := [], rel := (3, 5), pieces := [(0x801000, 64)], bytes := List.replicate 64 0,
    sent := sent }

theorem witness_pushes :
    let s := launched (.nop fn0)
    let t : State := { s with pushes := [aPush 6 none, aPush 7 (some (8, 9))] }
    let u : State := { s with pushes := [aPush 7 (some (8, 9))] }
    let busy := after (.ld fimM) (withG (worker (.ld fimM)) 1 0x200040)
    (t.releaseBelow (.worker wk) 3 5).2 = true ∧ (busy.releaseBelow (.worker wk) 3 5).2 = false ∧
      t.pushBefore (aPush 7 (some (8, 9))) = true ∧ u.pushBefore (aPush 7 (some (8, 9))) = false ∧
      u.pieceDue 8 9 = false ∧ (sending u [msgTo 8 0x801000 0 (.access (.store 1 255) .shared .none none)]).pieceDue 8 9 = true ∧
      u.launch? 0 0 = some (launchIn .admitted) ∧ (launchIn .admitted).rings.length = 2 ∧
      (withG s 1 0x201000).sourceWaits [(0x801000, 64)] = false := by decide +kernel

theorem witness_atomicsWithRelease :
    let f : FTR := { ftr with gc := 0, imm := 0x2F }
    f.imm.getLsbD 1 = true ∧ (Instr.amo .add f).ready (worker (.amo .add f)) = true := by decide +kernel

/-- A launch whose final word is on its way to another die, and one whose word has arrived. -/
theorem witness_finalWordOnItsWay :
    let l := launchIn (.ended 7)
    let s := withL (world (.nop fn0)) [l]
    let m : Msg := { msgTo 7 0x200000 64 (.publish 1 255 [] false false) with path := 96 }
    s.launch? 0 0 = some l ∧ s.launches = [l] ∧ (sending s [m]).net.msgs.any (fun m => m.id == 7 && m.reply.isNone) = true ∧
      s.net.msgs = [] := by decide +kernel

/-- The launch operations of a control core: taken at once, and behind one that waits. -/
theorem witness_launchOperations :
    let f : FIM := { fim0 with ga := 1 }
    let s : State := { withL (fetched (.preempt f)) [launchIn .admitted] with nextId := 1 }
    let p : State := withL (fetched (.preempt f)) [launchIn .preempting]
    let b := s.setSeq (.cc 3) { Seq.reset with run := .parked (.launchOp 2 3 0 0 0) }
    let q := p.setSeq (.cc 3) { Seq.reset with run := .parked (.preempt 3 0 0) }
    s.opBefore 0 0 s.nextId = false ∧ b.opBefore 0 0 b.nextId = true ∧ p.launch? 0 0 = some (launchIn .preempting) ∧
      (b.getSeq (.cc 3)).isSome = true ∧ (b.seqD (.cc 3)).run = .parked (.launchOp 2 3 0 0 0) ∧
      (q.getSeq (.cc 3)).isSome = true ∧ (q.seqD (.cc 3)).run = .parked (.preempt 3 0 0) := by
  decide +kernel

/-- What a restore reads beside the record: the images of the window registers. -/
theorem witness_restoreWindows :
    (match resuming.restoreSpad wk with
      | some a => (a.frameRead wk 0x300 0x80).isSome && (a.restoreWindowRegs wk).isSome
      | none => false) = true := by decide +kernel

/-- A posted worker whose register a load has still to fill, and one with nothing on its way. -/
theorem witness_releaseWaits :
    let p := (withL (worker (.nop fn0)) [launchIn .admitted]).modCore fun x => { x with run := .parked .kpost }
    let b := p.emptyG 3
    (p.seqD (.worker wk)).run = .parked .kpost ∧ p.returnWaits (.worker wk) = false ∧ p.pushesOf wk = false ∧
      (sending b [msgTo 7 0x800040 0 (.access .load .shared (.g 3 8 false) none)]).returnWaits (.worker wk) = true := by
  decide +kernel

/-- A TLBINV that completes, and one of another core that is older. -/
theorem witness_tlbinvEnds :
    let s := fetched (.nop fn0)
    let q := s.modCore fun x => { x with run := .parked (.tlbinv 3 5 [] [] [(0, 4096)]) }
    let r := q.setSeq (.cc 3) { Seq.reset with run := .parked (.tlbinv 4 2 [] [] [(0, 8192)]) }
    (q.getSeq (.cc 0)).isSome = true ∧ q.rootsBusy [(0, 4096)] = false ∧
      (q.allSeqs.all fun p => p.1 == .cc 0 || match p.2.run with
        | .parked (.tlbinv ..) => false
        | _ => true) = true ∧
      (r.getSeq (.cc 3)).isSome = true ∧ (r.seqD (.cc 3)).run = .parked (.tlbinv 4 2 [] [] [(0, 8192)]) := by decide +kernel

/-- Range register 3 lays a window of FMT 1, code 2 (four lines of 16 bits), over 0x800000 to 0x80FFFF, stored at 0xA00000. -/
def coded (s : State) : State :=
  { s with ranges := s.ranges.setIfInBounds 3 { base := 0x800000, len := 0x10000, store := 0xA00000, ctl := 0x21 } }

/-- A dirty line of that window, both blocks written: 1.0, 2.0, 3.0 and 4.0 twice, which the codec keeps whole. -/
def codedLine : SliceLine :=
  let four : LineBits := 0x3FF0000000000000 + 0x4000000000000000 * 2 ^ 64 + 0x4008000000000000 * 2 ^ 128 + 0x4010000000000000 * 2 ^ 192
  { homeLine 0x800040 (four + four * 2 ^ 256) (some 1) with blocks := 3 }

theorem witness_codedLines :
    let s := coded (world (.nop fn0))
    s.governing 0x800040 = some 3 ∧ (s.range 3).fmt = 1 ∧ (s.range 3).ctl.toNat / 2 ^ 4 % 2 ^ 3 ≤ 4 ∧
      s.homeCopy 0x800040 = none ∧ Memory.wf s.mem = true ∧ codedLine.addr = 0x800040 ∧ codedLine.die < 4 := by decide +kernel

/-- R329's worked block, stored twice by a write-back of that line and read again by a fill, with nothing counted. -/
theorem test_coded_line_is_stored :
    let s := coded (world (.nop fn0))
    let t := s.writeBack codedLine
    cellsNum t.mem.arrays 0xA00010 8 = 0xF80F80F002800401 ∧ cellsNum t.mem.arrays 0xA00018 8 = 0xF80F80F002800401 ∧
      lineData t 0x800040 = codedLine.data ∧ (t.die 0).loss.getD 3 0 = 0 ∧ t.byteAt 0xA00020 = s.byteAt 0xA00020 := by
  decide +kernel

theorem witness_codedSweep :
    let w := coded (worker (.nop fn0))
    let sw : Sweep := { id := 4, src := .worker wk, ctx := 0, region := 0, renew := false, left := [0x800040], num := 1,
                        stranded := 0, pinned := 0, failed := false }
    let s : State := { w.modMem fun m => { m with lines := [codedLine] } with sweeps := [sw] }
    s.sweepAt 4 0x800040 false = true ∧ s.retraining 0x800040 = false ∧ s.net.msgs = [] ∧ s.mem.stage = [] ∧
      s.pinPending 0x800040 = none ∧ s.homeCopy 0x800040 = some codedLine ∧ codedLine.poison = false ∧ Memory.wf s.mem = true ∧
      codedLine.dirty.isSome = true ∧ s.governing 0x800040 = some 3 := by decide +kernel

theorem witness_codec :
    (∀ v ∈ [1, 2 ^ 63, 0x7FF0000000000000, 0x7FF8000000000000], v < 2 ^ 64) ∧ classOf 0x7FF0000000000000 = 1 ∧
      (∀ v ∈ [1, 2 ^ 63, 0x3FF0000000000000, 5], classOf v = 0) ∧ (0x34800 / 2 ^ 11 % 2 = 1) ∧
      0xF80F80F002800401 / 2 ^ 11 % 2 = 0 := by decide +kernel

/-- What a walk on behalf of a waiting sequencer marks. -/
theorem witness_walksMark :
    let s := withG (world (.ld fimM)) 1 0x200040
    (match s.waitingUse (.cc 0) with
      | some ([(l, a, _)], wr) =>
        let v := l.walked.foldl State.walkRead s
        l.ctx == 0 && a.toNat / 4096 == 0x200 && !wr && l.place % 8 == 0 && (v.pinPending (lineOf l.place)).isNone &&
          !v.uncovered (lineOf l.place) && !v.lineLost l.place
      | _ => false) = true := by decide +kernel

/-- A sync operation with no other under way, and one that waits for the mirror of one die alone. -/
theorem witness_mirrorEnds :
    let s := granted (withG (worker (.nop fn0)) 1 17)
    let u := after (.srrdHome { frg1 with gb := 1 }) s
    let o : SyncOp := { id := 5, src := .worker wk, gd := some 3, old := 9, left := [0], reg := 17, pc := 0x4001 }
    let v := sending { s with net := { s.net with syncs := [o] } } [{ msgTo 9 0 768 (.mirror 17 4 2 0 5 false) with len := 0 }]
    u.net.syncs = [] ∧ v.net.syncs = [o] ∧ (v.msg? 9).isSome = true ∧ v.net.msgs.all (fun y => y.id == 9) = true ∧
      v.workers.all (fun p => p.2.run == .running) = true := by decide +kernel

/-- A minimum over no element. -/
theorem witness_minimumOfNothing :
    let f := { fv4 with v := { fsc 14 with vb := 2 }, vc := 0 }
    f.v.et.toNat = 14 ∧ (fdecode 14 0x7FF0000000000001).snan = true ∧ (fdecode 14 0).isNaN = false := by decide +kernel

/-- Two parts in one element group, and an lg6 element over two groups, which lies in the later one. -/
theorem witness_clashes :
    Clash (regPart 0 3 0 32) (regPart 9 3 1024 32) ∧ ¬Clash (regPart 0 3 0 32) (regPart 64 3 2048 32) ∧
      ¬Clash (regPart 341 3 2046 6) (regPart 0 3 0 32) ∧ Clash (regPart 341 3 2046 6) (regPart 64 3 2050 32) := by
  unfold Clash
  decide +kernel

/-- A store in the queue, and a QPUSH of the same worker to other bytes. -/
theorem witness_pushesApart :
    let s := after (.vst fvm) (memWorld (.vst fvm))
    let t : State := { s with pushes := [aPush 6 none] }
    (headEntry s).touches = true ∧ t.pushMeets (.worker wk) (headEntry t).spans = false ∧
      (headEntry s).spans.all (fun r => r.1 + r.2 ≤ 0x801000) = true ∧
      t.pushMeets (.worker wk) [(0x801020, 4)] = true := by decide +kernel

/-- The channel of a window's first line retrains, and the line is not in its slice. -/
def retrainingAt (s : State) (la : Nat) : State :=
  { s with mgmt := { s.mgmt with training := [((s.channelFor la).getD 0, 0)] } }

theorem witness_matrixWaits :
    let w := windowed (matWorld (.nop fn0))
    let c := mxCmd .openLoad [0x800000]
    let z := mxCmd .zero [0x800000]
    let m := { mxCmd .mmas [] with started := true }
    let s := retrainingAt (commanded (unpinned w) [c]) 0x800000
    (s.channelFor 0x800000).isSome = true ∧ s.retraining 0x800000 = true ∧ s.homeCopy 0x800000 = none ∧
      (s.mxCmds.filter fun x => x.id == c.id) = [c] ∧ s.windowOrder c 0x800000 = false ∧
      State.windowOrder (commanded w [z]) z 0x800000 = false ∧ (commanded w [m]).sliceWaits m = false ∧
      (retrainingAt (commanded w [m]) 0x800400).sliceWaits m = true := by decide +kernel

/-- CPYM of a worker's CE whose window register is closed, whose window cannot hold the follow-on, that finds eight commands, or
whose follow-on waits for a register or names an empty one. -/
def cpymWorld (j : Instr) : State :=
  let a := encode (.cpym fcp)
  let b := encode j
  let line : LineBits := 0x1000#512 ||| (a.1.setWidth 512 <<< 16) ||| (b.1.setWidth 512 <<< 32) |||
    (a.2.setWidth 512 <<< (8 * (64 - tailBytes a.1))) ||| (b.2.setWidth 512 <<< (8 * (64 - tailBytes a.1 - tailBytes b.1)))
  ({ (ceWorld (.cpym fcp)) with windows := [testWindow] }).modCore fun x => { x with line := some (0x4000, line) }

/-- What its follow-on meets. -/
def followed (s : State) (p : State → Instr → Bool) : Bool :=
  match s.followOn with
  | .ok (v, j, _, _) => p v j
  | .error _ => false

theorem witness_cpymChecks :
    let s := cpymWorld (.mmas fmx)
    let waits := cpymWorld (.mmas { fmx with ga := 5, ma := true })
    let opened := (windowed s).modSeq (.worker wk) fun x => { x with w := { x.w with
      win := x.w.win.setIfInBounds 0 { isOpen := true, cols := 32, rows := 4, pitchl := 2, base := 0x200000, window := 1 } } }
    let many (v : State) : State := { v with cpCmds := (List.range 8).map fun k => { cpCmd .copy with id := k } }
    let full (v : State) : Nat := ((many v).cpCmds.filter fun c => c.src == v.cur).length
    (Instr.cpym fcp).ready s = true ∧ copyBreaks s fcp .copyM false false false = none ∧ full s = 8 ∧
      followed s (fun v j => !v.operandsWait j && (markOf j.operands v.core).isNone && !(v.winReg 0).isOpen) = true ∧
      followed opened (fun v _ => (v.winReg 0).isOpen && match v.mmaCheck (v.winReg 0) 0x200041 0x200000 1 with
        | .error _ => true
        | .ok _ => false) = true ∧
      followed ((waits.emptyG 5)) (fun v j => v.operandsWait j || j.operands.gs.any fun r => v.core.bank.isEmpty r.1) = true ∧
      followed (s.emptyG 1) (fun v j => v.operandsWait j || j.operands.gs.any fun r => v.core.bank.isEmpty r.1) = true := by
  decide +kernel

/-- The lines of a chunk whose channel retrains. -/
theorem witness_chunksWait :
    let s := copying (cpCmd .copy)
    let r := retrainingAt s 0x800100
    r.retraining (lineOf 0x800100) = true ∧ r.homeCopy (lineOf 0x800100) = none ∧ r.copyWrites (.ce wk 0) = false ∧
      s.retraining (lineOf 0x800100) = false := by decide +kernel

/-- A die that comes up in time and one that does not; a core that is switched on when cores run. -/
theorem witness_bringUpLimits :
    let s := fetched (.nop fn0)
    let r (t0 : Word) : State := { (s.modDie 0 fun d => { d with time := 2000000 }) with
      mgmt := { s.mgmt with step := 6, rising := [(1, t0)] } }
    (r 1500000).mgmt.failed = false ∧ ¬((1500000 : Word).toNat + 1000000 < ((r 1500000).die 0).time.toNat) ∧
      (5 : Word).toNat + 1000000 < ((r 5).die 0).time.toNat ∧ 6 ≤ s.mgmt.step ∧ (s.seqD (.cc 9)).run = .halted := by
  decide +kernel

/-- A channel that is due while an update of its die waits, its notice not running and running. -/
theorem witness_updatesHoldTraining :
    let s := fetched (.nop fn0)
    let d : State := { s with mgmt := { s.mgmt with due := [(5, 3)], updates := [(channelStack 5, [])] } }
    let n : State := { d with mgmt := { d.mgmt with notices := [(channelStack 5, 9)] } }
    d.noticeRuns (channelStack 5) = false ∧ n.noticeRuns (channelStack 5) = true ∧ assocFind n.mgmt.due 5 = some 3 ∧
      n.mgmt.training = [] := by decide +kernel

/-- A code line behind a channel that retrains, and one in a PRIVATE page. -/
theorem witness_codeLines :
    let s := placedAt (.nop fn0)
    let p := (asSeq (world (.nop fn0)) (.worker wk) .u).modCore fun x => { x with pc := 0x600001, line := none }
    (match s.checkAccess (s.accessor s.cur) wantFetch (lineAddr s.core.pc) 64 with
      | .ok l => (piecesOf l).any (fun x => (retrainingAt s x.1).lineWaits (lineOf x.1)) &&
          !(piecesOf l).any fun x => s.lineWaits (lineOf x.1)
      | .error _ => false) = true ∧
    (match p.checkAccess (p.accessor p.cur) wantFetch 0x600000 64 with
      | .ok l => (piecesOf l).map (fun x => x.2.1) == [.priv]
      | .error _ => false) = true := by decide +kernel

/-! ## Words of the spec, one or more for each encoding family -/

/-- The line that the section on instruction lines works to the bit: its bytes 0 to 9 and 48 to 63. -/
theorem test_line_worked_to_the_bit :
    let low : Nat := 0x0300C384230420832000
    let high : Nat := 0x0081000010030003003801010000_0001
    let l : LineBits := BitVec.ofNat 512 (low + 2 ^ 384 * high)
    LineBits.legal l = true ∧ LineBits.heads l = 4 ∧
      decodeSlot .vc l 1 = some (.add frg) ∧
      decodeSlot .vc l 2 = some (.addi { h := 4, ga := 3, ma := false, imm := 16 }) ∧
      decodeSlot .vc l 3 = some (.vfma {
        v := { h := 4, va := 1, ma := false, vb := 2, mb := false, s := false, mask := 0, et := 14, rnd := 0, res := 0 }
        vc := 3, mc := false, res := 0 }) ∧
      decodeSlot .vc l 4 = some (.br { h := 0, sub := false, target := 1 }) ∧
      (((decodeSlot .mx l 3).map fun i => i.runsOn .mx) == some true) = false ∧ LineBits.legal (l ||| 0x0800) = true ∧ LineBits.legal (l &&& ~~~0xFFFF#512) = false := by
  decide +kernel

theorem test_decode_vector_memory :
    decode .vc 0x8901 0x00000702 = some (.vld { h := 1, q := 2, mask := 0, et := 14, mode := 0, nf1 := 0, sreg := 0, idx := 0, res := 0 }) ∧
    decode .vc 0x8B43 0x00070921 = some (.vst { h := 0x43, q := 1, mask := 2, et := 2, mode := 1, nf1 := 0, sreg := 7, idx := 0, res := 0 }) ∧
    decode .vc 0x8904 0x00005680 = some (.vld { h := 4, q := 0, mask := 0, et := 13, mode := 2, nf1 := 2, sreg := 0, idx := 0, res := 0 }) ∧
    decode .vc 0x8500 0x00000205 = some (.qset { h := 0, ga := 5, ma := false, imm := 2 }) ∧
    decode .vc 0x8103 0x00000E04 = some (.vsetl { h := 3, ga := 4, ma := false, imm := 14 }) := by decide +kernel

theorem test_decode_vector_arithmetic :
    decode .vc 0xA588 0x000200444281 = some (.vpmac {
      v := { h := 8, va := 1, ma := false, vb := 5, mb := false, s := true, mask := 0, et := 1, rnd := 0, res := 0 }
      vc := 2, mc := false, res := 0 }) ∧
    decode .vc 0xA709 0x00084308 = some (.vsrar {
      h := 9, va := 8, ma := false, vb := 6, mb := false, s := true, mask := 0, et := 2, rnd := 0, res := 0 }) ∧
    decode .vc 0xC503 (0x00B80101 + 4 * 2 ^ 22) = none := by decide +kernel

theorem test_decode_matrix :
    decode .mx 0xE100 0x000440C2 = some (.mopenZero { h := 0, ga := 2, ma := false, gb := 3, mb := false, gc := 4, mc := false, imm := 0 }) ∧
    decode .mx 0xE700 0x00000103 = some (.mpred { h := 0, ga := 3, ma := false, gb := 4, mb := false, gc := 0, mc := false, imm := 0 }) ∧
    decode .mx 0xED00 0x330000C2 = some (.mfmt { h := 0, ga := 2, ma := false, gb := 3, mb := false, gc := 0, mc := false, imm := 0xCC }) ∧
    decode .mx 0xE900 0x00007185 = some (.mmas { h := 0, ga := 5, ma := false, gb := 6, mb := false, gc := 7, mc := false, imm := 0 }) ∧
    decode .mx 0xE300 0 = some (.mclose { h := 0, ga := 0, ma := false, gb := 0, mb := false, gc := 0, mc := false, imm := 0 }) ∧
    decode .vc 0x9D0A 0x00400009 = some (.vacc { h := 10, ga := 9, ma := false, gb := 0, mb := false, gc := 0, mc := false, imm := 1 }) := by
  decide +kernel

/-- The operands of the copies worked under R398. -/
def copyF (n : BitVec 10) : FTR := { h := 9, ga := 2, ma := false, gb := 3, mb := false, gc := 4, mc := false, imm := n }

theorem test_decode_copies :
    decode .ce 0xF109 0x000040C2 = some (.cpy (copyF 0)) ∧ decode .ce 0xF109 0x014440C2 = some (.cpy2d (copyF 5)) ∧
    decode .ce 0xF109 0x114440C2 = some (.cpy2d (copyF 0x45)) ∧ decode .ce 0xF309 0x000040C2 = some (.cpym (copyF 0)) ∧
    decode .ce 0xF509 0x018440C2 = some (.wsigAdd (copyF 6)) ∧ decode .ce 0xF709 0x000040C2 = some (.cfill (copyF 0)) ∧
    decode .ce 0xF109 0x400040C2 = some (.cpyMig (copyF 256)) := by decide +kernel

theorem test_decode_scalar :
    decode .vc 0x4321 0x00000C02 = some (.st { h := 0x21, ga := 2, ma := false, imm := 0xC }) ∧
    decode .vc 0x1704 0x00001000 = some (.srd { h := 4, ga := 0, ma := false, imm := 0x10 }) ∧
    decode .vc 0x0000 0 = some (.nop fn0) := by decide +kernel

/-! ## Ill-formed instructions, one for each check -/

theorem test_ill_formed_reserved : WellFormed (.br { h := 1, sub := false, target := 1 }) = false ∧
    WellFormed (.nop { h := 1 }) = false ∧
    WellFormed (.vreds .osum { fv4 with v := { fet 14 with s := false }, vc := 0 }) = false ∧
    WellFormed (.vadd { fv3 with rnd := 1 }) = false := by decide +kernel

theorem test_ill_formed_type : WellFormed (.vadd (fet 13)) = false ∧
    WellFormed (.vpmac { fv4 with v := { fsc 2 with et := 2 } }) = false ∧ WellFormed (.vicvt 2 (fnb 2)) = false := by
  decide +kernel

theorem test_ill_formed_segment : WellFormed (.vld { fvm with mode := 2, nf1 := 0 }) = false := by decide +kernel

theorem test_ill_formed_row : WellFormed (.forkMx { forkF with sub := true }) = false ∧
    WellFormed (.srrdHome { frg1 with gb := 0 }) = false := by decide +kernel

theorem test_well_formed : WellFormed (.vadd fv3) = true ∧ WellFormed (.vld { fvm with h := 60, mode := 2, nf1 := 3 }) = true := by
  decide +kernel

/-! ## Values that the spec works out -/

theorem test_conversions_down :
    ftofV 13 0 (fdecode 14 0x3FD5555555555555) = (0x3EAAAAAB, 0x10) ∧ ftofV 13 3 (fdecode 14 0x3FD5555555555555) = (0x3EAAAAAB, 0x10) ∧
    ftofV 13 1 (fdecode 14 0x3FD5555555555555) = (0x3EAAAAAA, 0x10) ∧ ftofV 13 2 (fdecode 14 0x3FD5555555555555) = (0x3EAAAAAA, 0x10) ∧
    ftofV 12 0 (fdecode 13 0x3EAAAAAB) = (0x3EAB, 0x10) ∧
    ftofV 11 0 (fround 13 0 false 70000 0 |>.1 |> fdecode 13) = (0x7C00, 0x14) ∧
    ftofV 11 1 (fround 13 0 false 70000 0 |>.1 |> fdecode 13) = (0x7BFF, 0x14) ∧
    ftofV 9 0 (fdecode 13 0x40533333) = (0x45, 0x10) ∧ ftofV 9 0 (fround 13 0 false 500 0 |>.1 |> fdecode 13) = (0x7E, 0x14) := by
  decide +kernel

theorem test_conversions_to_integers :
    ftoiV 0 1 (fdecode 13 0xC02CCCCD) = (254, 0x10) ∧ ftoiV 0 0 (fdecode 13 0xC02CCCCD) = (253, 0x10) ∧
    ftoiV 0 0 (fround 13 0 false 300 0 |>.1 |> fdecode 13) = (127, 0x01) := by decide +kernel

theorem test_lg6_sum : lgSum 0 0 [(0x14, 0x12), (0x2C, 0x10)] = (0x40150500, 0) := by decide +kernel

/-- R109's filter step: the taps 32,767 and 8,192, VL = 4, XSEL = 6. -/
def filterRegs : Worker :=
  let reg (l : List Int) : VReg := { VReg.reset with
    bits := BitVec.ofNat 131072 (bytesNum (l.flatMap fun v => numBytes 2 (BitVec.ofInt 16 v).toNat)), extent := 8 }
  { Worker.reset with v := (Worker.reset.v.setIfInBounds 1 (reg [1000, -2000, 32767, 0])).setIfInBounds 2 (reg [3, 4, 8192, 6]) }

theorem test_vpmac_filter_step :
    let e := { (fetched (.nop fn0)).entryFor (.nop fn0) 0 with vl := 4, till := 4, xsel := 6, gb := 0x20007FFF }
    let f := { fv4 with v := { fsc 1 with h := 8, va := 1, vb := 5 }, vc := 2 }
    (match performOf 0 (.vpmac f) with
      | some p =>
        (p e filterRegs).vd == some (8, 32, [(0, 32791576), (1, 2 ^ 32 - 65501232), (2, 1140785153), (3, 49152)]) &&
          (p e filterRegs).flags == 0 && (p e filterRegs).capture == [(0, false), (1, false), (2, false), (3, false)]
      | none => false) = true := by decide +kernel

theorem test_vsrar_filter_step :
    let e := { (fetched (.nop fn0)).entryFor (.nop fn0) 0 with vl := 4, till := 4, xsel := 6, gb := 15 }
    let x := { Worker.reset with v := Worker.reset.v.setIfInBounds 8 { VReg.reset with
      bits := 32791576 + (2 ^ 32 - 65501232) * 2 ^ 32 + 1140785153 * 2 ^ 64 + 49152 * 2 ^ 96, extent := 16 } }
    let f := { fsc 2 with h := 9, va := 8, vb := 6 }
    (match performOf 0 (.vsrar f) with
      | some p =>
        (p e x).vd == some (9, 16, [(0, 1001), (1, 2 ^ 16 - 1999), (2, 32767), (3, 2)]) && (p e x).flags == 0x20 &&
          (p e x).capture == [(0, false), (1, false), (2, true), (3, false)]
      | none => false) = true := by decide +kernel

theorem test_codec_exact_block :
    encodeBlock 16 [0x3FF0000000000000, 0x4000000000000000, 0x4008000000000000, 0x4010000000000000] =
      (0xF80F80F002800401, { lossy := false, clamped := false, special := false }) ∧
    decodeBlock 16 0xF80F80F002800401 = [0x3FF0000000000000, 0x4000000000000000, 0x4008000000000000, 0x4010000000000000] := by
  decide +kernel

theorem test_codec_outcomes :
    (encodeBlock 16 (List.replicate 4 0x3FFFFFFFFFFFFFFF)).2 = { lossy := true, clamped := true, special := false } ∧
    encodeBlock 16 [0x3FF0000000000000, 0x7FF0000000000000, 0x7FF8000000000000, 0x8000000000000000] =
      (0x34800, { lossy := true, clamped := false, special := true }) ∧
    decodeBlock 16 (encodeBlock 16 [0x3FF0000000000000, 0x3FF0000000000000, 0x3FF0000000000000, 0x4130000000000000]).1 =
      [0, 0, 0, 0x4130000000000000] := by decide +kernel

/-- The job worked through in the section on pawns, its columns read. -/
def workedJob : Job :=
  { pawnJob with
    block := [0x010000D0DC001107, 0x0003000000000007, 0x5000, 0x5100, 0x6000, 0, 0x5200, 0, 0, 0, 0, 0, 0, 0, 0, 0].map (BitVec.ofNat 64)
    started := [3]
    pins := [(.s0, { vpn := 5, ppn := 0x600, kind := 3, span := 4096 }), (.s1, { vpn := 5, ppn := 0x600, kind := 3, span := 4096 }),
      (.s2, { vpn := 6, ppn := 0x601, kind := 3, span := 4096 }), (.iv, { vpn := 5, ppn := 0x600, kind := 3, span := 4096 })]
    iv := [((192, 0x30010), some 0x4080000040400000400000003F800000)]
    read := [(0x30000, some 0xBF80BF80BF80BF8040803F00C0003F80), (0x30008, some 0x400000003E800000)] }

theorem test_pawn_job_worked_through :
    pbOk workedJob.block = true ∧ (jobbed workedJob).output workedJob 0 = some (0x416C0000, false) ∧
      (jobbed workedJob).output workedJob 1 = some (0, false) := by decide +kernel

/-- Element i of the worked job gives its run the term p: x is dequantised from S0 and m is read from the input vector. -/
theorem workedTerm (i x m p : Nat) (c : BitVec 256)
    (h : (∃ v, (jobbed workedJob).elem workedJob .s0 i = .val v false ∧ x = dequantised (jobbed workedJob) workedJob .s0 13 12 i v) ∧
      elementChannel workedJob i = 192 ∧ assocFind workedJob.iv (192, workedJob.pa .iv (i % 4 * 4) / 32) = some (some c) ∧
      m = (c.extractLsb' (8 * (workedJob.pa .iv (i % 4 * 4) % 32)) 32).toNat ∧
      p = (fmulV 13 0 (fdecode 13 x) (fdecode 13 m)).1) : Term (jobbed workedJob) workedJob i p := by
  obtain ⟨⟨v, hv, hx⟩, hc, hi, hm, hp⟩ := h
  have takes : pbBits workedJob.block 0 10 2 ≠ 2 := by decide +kernel
  have deq : pbBits workedJob.block 0 0 1 = 1 := by decide +kernel
  have mul : pbBits workedJob.block 0 1 1 = 1 := by decide +kernel
  have vec : pbBits workedJob.block 0 9 1 = 0 := by decide +kernel
  have wt : pbBits workedJob.block 0 28 4 = 13 := by decide +kernel
  have fin : pbBits workedJob.block 0 24 4 = 12 := by decide +kernel
  have len : pbBits workedJob.block 1 48 16 = 3 := by decide +kernel
  refine ⟨i, v, x, ⟨fun _ => rfl, fun h => absurd h takes⟩, hv, ?_, fun h => by omega, fun _ => ⟨m, fun _ => ?_, fun h => by omega, ?_⟩⟩
  · rw [if_pos deq, wt, fin]; exact hx
  · refine ⟨by rw [hc]; decide +kernel, c, ?_, ?_⟩
    · rw [hc, wt, len]; exact hi
    · rw [wt, len]; exact hm
  · rw [wt]; exact hp

theorem witness_pawnArithmetic :
    BlockFormed workedJob.block ∧ (fdecode 13 workedJob.lo.toNat).isNaN = false ∧ (fdecode 13 workedJob.hi.toNat).isNaN = false ∧
      (jobbed workedJob).elem workedJob .s1 0 = .val 0x3E800000 false ∧
      (∀ k p, [0x3F800000, 0xC0800000, 0x3FC00000, 0x41800000][k]? = some p → Term (jobbed workedJob) workedJob k p) ∧
      runSum 13 (some 0x3E800000) ([0x3F800000, 0xC0800000, 0x3FC00000, 0x41800000].map some) = some 0x416C0000 ∧
      (jobbed workedJob).output workedJob 0 = some (0x416C0000, false) := by
  have formed : BlockFormed workedJob.block := by
    unfold BlockFormed
    dsimp only
    refine ⟨?_, ?_, ?_, ?_, fun k h1 h2 => by interval_cases k <;> decide +kernel, ?_⟩
    on_goal 5 => repeat' apply And.intro
    all_goals decide +kernel
  refine ⟨formed, by decide +kernel, by decide +kernel, by decide +kernel, ?_, by decide +kernel, by decide +kernel⟩
  intro k p h
  match k, h with
  | 0, h => cases h; exact workedTerm 0 0x3F800000 0x3F800000 _ 0x4080000040400000400000003F800000 ⟨⟨0x3F80, by decide +kernel⟩, by decide +kernel⟩
  | 1, h => cases h; exact workedTerm 1 0xC0000000 0x40000000 _ 0x4080000040400000400000003F800000 ⟨⟨0xC000, by decide +kernel⟩, by decide +kernel⟩
  | 2, h => cases h; exact workedTerm 2 0x3F000000 0x40400000 _ 0x4080000040400000400000003F800000 ⟨⟨0x3F00, by decide +kernel⟩, by decide +kernel⟩
  | 3, h => cases h; exact workedTerm 3 0x40800000 0x40800000 _ 0x4080000040400000400000003F800000 ⟨⟨0x4080, by decide +kernel⟩, by decide +kernel⟩
  | n + 4, h => simp at h

/-- The job before anything is read, and one whose S1 column was read with an error; a job whose every part runs on. -/
theorem witness_pawnSpoils :
    let j := { workedJob with read := [(0x30000, some 0xBF80BF80BF80BF8040803F00C0003F80), (0x30008, none)] }
    (jobbed j).elem j .s1 0 = .val 0 true ∧ ((jobbed j).output j 0).isSome = true ∧
      (let k := { workedJob with read := [] }
       (jobbed k).elem k .s0 0 = .missing) ∧ workedJob.dieChannels 3 = [192] ∧ (jobbed workedJob).partOff workedJob 192 = false := by
  decide +kernel

/-- R284's example: bf16 rows (1, 2^12, −2^12) and (1, 2^12, 2^12), in strict order. -/
theorem test_mmas_strict_order :
    let c := { mxCmd .mmas [] with
      k := 3, st := { (mxCmd .mmas []).st with fa := 12, fb := 12 }, slices := [([0x3F80, 0x4580, 0xC580], [0x3F80, 0x4580, 0x4580])] }
    c.partialAt 0 0 0 = 0 := by decide +kernel

/-- An indexed load of R201's example stops at element 8, the first of a page that is not present. -/
theorem test_vld_stops_at_a_page :
    let f : FVM := { h := 1, q := 2, mask := 0, et := 14, mode := 0, nf1 := 0, sreg := 0, idx := 0, res := 0 }
    let s := (vecWorld (.vld f)).modCore fun x => { x with w := { x.w with
      vl := 12, q := x.w.q.setIfInBounds 2 { set := true, dir := false, boff := 0, base := 0x7FFFC0, slots := [] } } }
    let t := after (.vld f) s
    (match t.core.trap with
      | some r => r.cond == 10 && r.source == 1 && r.eidx == 8 && r.eaddr == 0x800000 && r.vstart == some 8
      | none => false) = true := by decide +kernel

/-! ## Single steps -/

/-- g3 after an instruction with operands in g1 and g2. -/
def result (i : Instr) (a b : Word) : Word := (after i (withG (withG (fetched i) 1 a) 2 b)).g 3

theorem test_alu_wraps : result (.add frg) (-1) 1 = 0 ∧ result (.sub frg) 0 1 = -1 ∧ result (.mul frg) (2 ^ 63) 2 = 0 := by
  decide +kernel

theorem test_alu_high_products : result (.mulh frg) (-1) (-1) = 0 ∧ result (.mulhn frg) (-1) (-1) = -2 ∧ result (.mulh frg) (-1) 1 = -1 := by
  decide +kernel

theorem test_alu_shifts : result (.shl frg) 1 65 = 2 ∧ result (.shr frg) (2 ^ 63) 63 = 1 ∧ result (.sra frg) (2 ^ 63) 127 = -1 := by
  decide +kernel

theorem test_alu_order : result (.slt frg) (-1) 0 = 1 ∧ result (.sltn frg) (-1) 0 = 0 ∧ result (.min frg) (-1) 0 = -1 ∧
    result (.minn frg) (-1) 0 = 0 ∧ result (.max frg) (-1) 0 = 0 ∧ result (.maxn frg) (-1) 0 = -1 := by decide +kernel

theorem test_division : result (.div frg) (-7) 2 = -3 ∧ result (.rem frg) (-7) 2 = -1 ∧ result (.divn frg) (-1) (-1) = 1 ∧
    result (.div frg) (2 ^ 63) (-1) = 2 ^ 63 ∧ result (.rem frg) (2 ^ 63) (-1) = 0 := by decide +kernel

theorem test_division_by_zero :
    let t := after (.div frg) (withG (fetched (.div frg)) 1 7)
    t.g 3 = 0 ∧ t.core.epc = 0x4001 ∧ t.core.priv = .k := by decide +kernel

theorem test_bits : result (.clz frg1) 0 0 = 64 ∧ result (.ctz frg1) 8 0 = 3 ∧ result (.popc frg1) (-1) 0 = 64 ∧
    result (.sext8 frg1) 0x180 0 = -128 ∧ result (.zext16 frg1) (-1) 0 = 0xFFFF := by decide +kernel

theorem test_constants :
    result (.li { h := 3, imm := 0x800000000000 }) 0 0 = 0xFFFF800000000000 ∧
      (after (.lih { h := 3, imm := 0x1234 }) (withG (fetched (.lih { h := 3, imm := 0x1234 })) 3 5)).g 3 = 0x1234000000000005 ∧
      result (.lea { h := 3, ga := 1, ma := false, scale := 3, gb := 2, mb := false, imm := -8 }) 0x1000 3 = 0x1010 := by
  decide +kernel

theorem test_branch_and_link :
    let j := Instr.jal { h := 5, sub := false, target := 33 }
    let b := Instr.bcc .ltn { h := 0, ga := 1, ma := false, gb := 2, mb := false, r15 := false, target := 33, r47 := false }
    (after j (fetched j)).core.pc = 0x4041 ∧ (after j (fetched j)).g 5 = 0x4041 ∧
      (after b (withG (fetched b) 2 (-1))).core.pc = 0x4041 ∧ (after b (withG (fetched b) 1 (-1))).core.pc = 0x4041 := by
  decide +kernel

/-- A word stored by a control core, then loaded: sent, performed at the home slice, landed. -/
def throughMemory (i : Instr) (s : State) : State :=
  let s1 := after i s
  let s2 := after (.homeSliceAccess (lastMsg s1).id false) s1
  match s2.net.landings with
  | l :: _ => after (.landing l.id) s2
  | [] => s2

theorem test_load_extends :
    let s := (withG (worker (.ld fimM)) 1 0x200040).modMem fun m => { m with arrays := cellsPutNum m.arrays 0x800040 8 0x80FF }
    let ld (h : BitVec 7) (n : BitVec 24) : Instr := .ld { h := h, ga := 1, ma := false, imm := n }
    (throughMemory (ld 3 2) s).g 3 = -1 ∧ (throughMemory (ld 3 4) s).g 3 = 0x80FF ∧
      (throughMemory (ld 3 6) s).g 3 = 0xFFFFFFFFFFFF80FF := by decide +kernel

theorem test_atomics_at_the_home_slice :
    let s := (withG (withG (worker (.amo .add { ftr with gc := 0, imm := 0 })) 1 0x200040) 2 1).modMem fun m =>
      { m with arrays := cellsPutNum m.arrays 0x800040 8 0x7FFFFFFFFFFFFFFF }
    let i := Instr.amo .add { ftr with gc := 0, imm := 0x20 }
    let w := Instr.amo .maxn { ftr with gc := 0, imm := 0 }
    (throughMemory i s).g 3 = 0x7FFFFFFFFFFFFFFF ∧ ((throughMemory i s).readHome 0x800040 8).2.1 = 2 ^ 63 ∧
      (throughMemory w s).g 3 = 0xFFFFFFFF ∧ ((throughMemory w s).readHome 0x800040 4).2.1 = 0xFFFFFFFF := by decide +kernel

end Sys2Proof.Tests
end

section
/-! SUPPORT. What keeps the canonical form of memory: a predicate on states and on what an operation answers, and one
lemma for each operation of the model. -/

namespace Sys2Proof.Machine

/-! ## The form of memory, and of what an operation answers -/

/-- The arrays of a state are in canonical form (R444). -/
@[simp] abbrev Formed (s : State) : Prop := Memory.wf s.mem = true

/-- Where an outcome goes on, it goes on to a state in canonical form. -/
inductive OutFormed : Out → Prop
  | next {t : State} (h : Formed t) : OutFormed (.next t)
  | fault {r : Fault} : OutFormed (.fault r)
  | refused {r : Refusal} : OutFormed (.refused r)

/-- What an operation gives, if it gives anything, holds a state in canonical form. -/
inductive OptFormed {α : Type} (f : α → State) : Option α → Prop
  | some {x : α} (h : Formed (f x)) : OptFormed f (some x)
  | none : OptFormed f none

/-- An answer and what stands for it otherwise hold states in canonical form. -/
inductive ExFormed {ε α : Type} (p : ε → Prop) (f : α → State) : Except ε α → Prop
  | ok {x : α} (h : Formed (f x)) : ExFormed p f (.ok x)
  | error {e : ε} (h : p e) : ExFormed p f (.error e)

section
variable {s t : State} {α ε : Type}

theorem OptFormed.of_eq {f : α → State} {o : Option α} {x : α} (h : OptFormed f o) (e : o = Option.some x) :
    Formed (f x) := by
  subst e
  cases h
  assumption

theorem OptFormed.of_some {o : Option State} (h : OptFormed id o) (e : o = Option.some t) : Formed t := h.of_eq e

theorem OptFormed.bind {β : Type} {f : α → State} {g : β → State} {o : Option α} {k : α → Option β}
    (h : OptFormed f o) (hk : ∀ x, Formed (f x) → OptFormed g (k x)) : OptFormed g (o.bind k) := by
  cases h with
  | some h => exact hk _ h
  | none => exact .none

theorem OptFormed.ite {f : α → State} {c : Prop} [Decidable c] {o r : Option α} (h : OptFormed f o)
    (k : OptFormed f r) : OptFormed f (if c then o else r) := by
  split <;> assumption

theorem ExFormed.of_ok {p : ε → Prop} {f : α → State} {o : Except ε α} {x : α} (h : ExFormed p f o) (e : o = .ok x) :
    Formed (f x) := by
  subst e
  cases h
  assumption

theorem OptFormed.of_pair {o : Option (State × α)} {x : α} (h : OptFormed Prod.fst o) (e : o = Option.some (t, x)) :
    Formed t := h.of_eq e

theorem ExFormed.of_pair {p : ε → Prop} {o : Except ε (State × α)} {x : α} (h : ExFormed p Prod.fst o)
    (e : o = .ok (t, x)) : Formed t := h.of_ok e

theorem ExFormed.of_error {p : ε → Prop} {f : α → State} {o : Except ε α} {x : ε} (h : ExFormed p f o)
    (e : o = .error x) : p x := by
  subst e
  cases h
  assumption

theorem OutFormed.of_eq {o : Out} (h : OutFormed o) (e : o = .next t) : Formed t := by
  subst e
  cases h
  assumption

@[simp] theorem outFormed_next : OutFormed (.next s) ↔ Formed s := ⟨fun h => h.of_eq rfl, .next⟩
@[simp] theorem outFormed_fault {r : Fault} : OutFormed (.fault r) := .fault
@[simp] theorem optFormed_some {f : α → State} {x : α} : OptFormed f (some x) ↔ Formed (f x) :=
  ⟨fun h => h.of_eq rfl, .some⟩
@[simp] theorem optFormed_none {f : α → State} : OptFormed f none := .none
@[simp] theorem exFormed_ok {p : ε → Prop} {f : α → State} {x : α} : ExFormed p f (.ok x) ↔ Formed (f x) :=
  ⟨fun h => h.of_ok rfl, .ok⟩
@[simp] theorem exFormed_error {p : ε → Prop} {f : α → State} {e : ε} : ExFormed p f (.error e) ↔ p e :=
  ⟨fun h => h.of_error rfl, .error⟩

/-- The state of a pair, where the pair is known. -/
theorem formed_fst {p : State × α} {x : α} (h : Formed p.1) (e : p = (t, x)) : Formed t := by
  subst e
  exact h

theorem formed_ite {c : Prop} [Decidable c] (h : Formed s) (k : Formed t) : Formed (if c then s else t) := by
  split <;> assumption

/-- A fold of operations that keep the form keeps it. -/
theorem formed_foldl {f : State → α → State} (hf : ∀ a x, Formed a → Formed (f a x)) {l : List α} (h : Formed s) :
    Formed (l.foldl f s) := by
  induction l generalizing s with
  | nil => exact h
  | cons x r ih => exact ih (hf s x h)

/-- So does a fold that may stop. -/
theorem formed_foldOpt {f : State → α → Option State} (hf : ∀ a x, Formed a → OptFormed id (f a x)) {l : List α}
    (h : Formed s) : OptFormed id (foldOpt f l s) := by
  induction l generalizing s with
  | nil => exact .some h
  | cons x r ih =>
    unfold foldOpt
    split
    · exact .none
    · rename_i e
      exact ih ((hf s x h).of_eq e)

/-! ## The parts of the state -/

@[simp] theorem State.setSeq_mem {q : SeqId} {x : Seq} : (s.setSeq q x).mem = s.mem := by
  unfold State.setSeq
  split <;> rfl

@[simp] theorem State.modSeq_mem {q : SeqId} {f : Seq → Seq} : (s.modSeq q f).mem = s.mem := by
  unfold State.modSeq
  split
  · rfl
  · simp

@[simp] theorem State.dropSeq_mem {q : SeqId} : (s.dropSeq q).mem = s.mem := by
  unfold State.dropSeq
  dsimp only
  split <;> rfl

@[simp] theorem formed_select {q : SeqId} (h : Formed s) : Formed (s.select q) := by
  unfold State.select
  extract_lets s1
  have h1 : Formed s1 := by simp [s1, h]
  split <;> exact h1

@[simp] theorem State.jump_mem {pc : Word} : (s.jump pc).mem = s.mem := rfl

@[simp] theorem State.completeOp_mem {q : SeqId} {k n : Nat} {failed : Bool} :
    (s.completeOp q k n failed).mem = s.mem := by
  unfold State.completeOp
  simp

@[simp] theorem State.modRegion_mem {c k : Nat} {f : Region → Region} : (s.modRegion c k f).mem = s.mem := rfl

@[simp] theorem State.countFault_mem {c slot : Nat} : (s.countFault c slot).mem = s.mem := rfl

@[simp] theorem State.settleTraining_mem : s.settleTraining.mem = s.mem := rfl

@[simp] theorem State.passTime_mem {ns : Nat} : (s.passTime ns).mem = s.mem := by
  unfold State.passTime
  split <;> rfl

/-! ## Memory: lines, caches, copies -/

@[simp] theorem State.sendFor_mem {ctx : Option Nat} {rel : Option (Nat × Nat)} {src : SeqId} {path : Nat}
    {pa : Nat} {va : Word} {len : Nat} {body : Body} {fromDie toDie dest : Nat} :
    (s.sendFor ctx rel src path pa va len body fromDie toDie dest).mem = s.mem := rfl

theorem formed_modMem {f : Mem → Mem} (h : Memory.wf (f s.mem) = true) : Formed (s.modMem f) := h

@[simp] theorem formed_breakWords {ws : List Nat} (h : Formed s) :
    Formed (s.breakWords ws) := (quiet_breakWords ..).wf h

@[simp] theorem formed_evict {l : SliceLine} (h : Formed s) : Formed (s.evict l) := (quiet_evict ..).wf h

@[simp] theorem formed_cleanLine {l : SliceLine} (h : Formed s) : Formed (s.cleanLine l) := (quiet_cleanLine ..).wf h

@[simp] theorem formed_ensure {la : Nat} (h : Formed s) : Formed (s.ensure la).1 := (quiet_ensure ..).wf h

@[simp] theorem formed_poisonLine {la : Nat} (h : Formed s) : Formed (s.poisonLine la) := (quiet_poisonLine ..).wf h

@[simp] theorem formed_homeWrite {la : Nat} {d m : LineBits} {poison : Bool} (h : Formed s) :
    Formed (s.homeWrite la d m poison) := (quiet_homeWrite ..).wf h

@[simp] theorem formed_applyEntry {la : Nat} {d m : LineBits} {reds : List PendingRed} {poison : Bool}
    (h : Formed s) : Formed (s.applyEntry la d m reds poison) := (quiet_applyEntry ..).wf h

@[simp] theorem formed_unpinWindow {i : Nat} (h : Formed s) : Formed (s.unpinWindow i) := (quiet_unpinWindow ..).wf h

@[simp] theorem formed_dirAnswer {la c : Nat} (h : Formed s) : Formed (s.dirAnswer la c) := (quiet_dirAnswer ..).wf h

@[simp] theorem formed_gather {la : Nat} {cs : Nat → Bool} (h : Formed s) :
    Formed (s.gather la cs) := (quiet_gather ..).wf h

@[simp] theorem formed_dirRecord {la c : Nat} (h : Formed s) : Formed (s.dirRecord la c) := (quiet_dirRecord ..).wf h

@[simp] theorem formed_dirSplit {la n : Nat} (h : Formed s) : Formed (s.dirSplit la n) := (quiet_dirSplit la n s).wf h

@[simp] theorem formed_bringHome {la : Nat} {but : Option Nat} (h : Formed s) :
    Formed (s.bringHome la but) := (quiet_bringHome ..).wf h

@[simp] theorem formed_forceLine {la : Nat} (h : Formed s) : Formed (s.forceLine la) := (quiet_forceLine ..).wf h

@[simp] theorem formed_coherent {la : Nat} (h : Formed s) : Formed (s.coherent la).1 := (quiet_coherent ..).wf h

@[simp] theorem formed_coherentFor {c : Option Nat} {la : Nat} (h : Formed s) : Formed (s.coherentFor c la).1 := by
  unfold State.coherentFor
  simp [h]

@[simp] theorem formed_readHome {pa n : Nat} (h : Formed s) : Formed (s.readHome pa n).1 := (quiet_readHome ..).wf h

@[simp] theorem formed_writeHome {pa n v : Nat} (h : Formed s) :
    Formed (s.writeHome pa n v) := (quiet_writeHome ..).wf h

@[simp] theorem formed_readL2 {d : Nat} {kind : PageKind} {la : Nat} (h : Formed s) :
    Formed (s.readL2 d kind la).1 := (quiet_readL2 ..).wf h

@[simp] theorem formed_readCached {owner : Option Nat} {d : Nat} {kind : PageKind} {la : Nat} (h : Formed s) :
    Formed (s.readCached owner d kind la).1 := (quiet_readCached ..).wf h

@[simp] theorem formed_writeCached {owner : Option Nat} {path d : Nat} {la : Nat} {data m : LineBits} (h : Formed s) :
    Formed (s.writeCached owner path d la data m) := (quiet_writeCached ..).wf h

@[simp] theorem formed_flushCache {o : Nat} (h : Formed s) : Formed (s.flushCache o) := (quiet_flushCache ..).wf h

@[simp] theorem formed_dropClean {o : Nat} (h : Formed s) : Formed (s.dropClean o) := (quiet_dropClean ..).wf h

@[simp] theorem formed_dropGuests {d : Nat} (h : Formed s) : Formed (s.dropGuests d) := (quiet_dropGuests ..).wf h

@[simp] theorem formed_shrinkCache {o old : Nat} (h : Formed s) :
    Formed (s.shrinkCache o old) := (quiet_shrinkCache ..).wf h

@[simp] theorem formed_clearResv {w : WKey} (h : Formed s) : Formed (s.clearResv w) := (quiet_clearResv ..).wf h

/-! ## Address translation -/

@[simp] theorem formed_walkRead {pa : Nat} (h : Formed s) : Formed (s.walkRead pa) := (quiet_walkRead ..).wf h

@[simp] theorem formed_markUsed {l : Leaf} {write : Bool} (h : Formed s) :
    Formed (s.markUsed l write) := (quiet_markUsed ..).wf h

@[simp] theorem formed_markAll {l : List (Leaf × Word × Nat)} {write : Bool} (h : Formed s) :
    Formed (s.markAll l write) := (quiet_markAll ..).wf h

@[simp] theorem formed_readPieces {o : Option Nat} {d : Nat} {l : List (Nat × PageKind × Nat)} (h : Formed s) :
    Formed (s.readPieces o d l).1 := (quiet_readPieces o d l s).wf h

@[simp] theorem formed_writePieces {o : Option Nat} {d : Nat} {l : List (Nat × PageKind × Nat)} {b : List Byte}
    (h : Formed s) : Formed (s.writePieces o d l b) := (quiet_writePieces o d l s b).wf h

/-! ## Operations many instructions share -/

@[simp] theorem State.sendOrdered_mem {rel : Option (Nat × Nat)} {q : SeqId} {pa : Nat} {va : Word} {len : Nat}
    {body : Body} : (s.sendOrdered rel q pa va len body).mem = s.mem := rfl

@[simp] theorem State.sendAccess_mem {q : SeqId} {pa : Nat} {va : Word} {len : Nat} {body : Body} :
    (s.sendAccess q pa va len body).mem = s.mem := rfl

@[simp] theorem formed_publishAll {c : Nat} (h : Formed s) : Formed (s.publishAll c) := by
  unfold State.publishAll
  refine formed_foldl (fun _ _ ha => ?_) h
  exact ha

@[simp] theorem formed_publishLine {c la : Nat} (h : Formed s) : Formed (s.publishLine c la) := by
  unfold State.publishLine
  split <;> exact h

@[simp] theorem formed_flushCxl (h : Formed s) : Formed s.flushCxl := by
  unfold State.flushCxl
  exact formed_foldl (fun _ _ ha => formed_cleanLine ha) h

@[simp] theorem formed_releaseBelow {q : SeqId} {scope n : Nat} (h : Formed s) :
    Formed (s.releaseBelow q scope n).1 := by
  unfold State.releaseBelow
  split
  · exact h
  · extract_lets s1
    have h1 : Formed s1 := by
      refine formed_ite ?_ h
      split
      · exact formed_flushCache h
      · exact h
    clear_value s1
    split
    rename_i s2 done e
    have h2 : Formed s2 := by
      revert e
      split
      · split
        · rintro ⟨⟩
          exact h1
        · rintro ⟨⟩
          exact formed_publishAll h1
      · rintro ⟨⟩
        exact h1
    split
    · exact formed_flushCxl h2
    · exact h2

@[simp] theorem formed_release {q : SeqId} {scope : Nat} (h : Formed s) : Formed (s.release q scope).1 := by
  unfold State.release
  simp [h]

@[simp] theorem formed_releaseDue {q : SeqId} (h : Formed s) : Formed (s.releaseDue q).1 := by
  unfold State.releaseDue
  split
  · exact h
  · split
    · rename_i t1 _ e2
      have h2 := formed_fst (formed_releaseBelow h) e2
      split
      · simpa using h2
      · exact h2

@[simp] theorem State.oweRelease_mem {q : SeqId} {scope : Nat} : (s.oweRelease q scope).mem = s.mem := by
  unfold State.oweRelease
  simp

@[simp] theorem formed_acquire {q : SeqId} {scope : Nat} (h : Formed s) : Formed (s.acquire q scope) := by
  unfold State.acquire
  extract_lets s1
  have h1 : Formed s1 := by
    simp only [s1]
    split
    · split <;> exact h
    · exact h
  split <;> exact h1

@[simp] theorem formed_writeWords {pa : Nat} {l : List Nat} (h : Formed s) :
    Formed (s.writeWords pa l) := (quiet_writeWords ..).wf h

@[simp] theorem formed_writeRecord {pa : Nat} {l : List Nat} (h : Formed s) : Formed (s.writeRecord pa l) := by
  unfold State.writeRecord
  simp [h]

@[simp] theorem formed_drainPosts {n : Nat} (h : Formed s) : Formed (s.drainPosts n) := by
  induction n generalizing s with
  | zero => exact h
  | succ n ih =>
    unfold State.drainPosts
    split
    · exact h
    · dsimp only
      split
      · exact h
      · split
        · exact h
        · split
          · exact h
          · exact ih (by simp [h])

@[simp] theorem formed_logFault {c slot wid cause : Nat} {body : List Nat} {time : Word} (h : Formed s) :
    Formed (s.logFault c slot wid cause body time) := by
  unfold State.logFault
  extract_lets x log pa s1
  have h1 : Formed s1 := by simp [s1, h]
  split
  · split <;> exact h1
  · simp [h]

@[simp] theorem formed_logUnstated {c slot cause : Nat} {time : Word} (h : Formed s) :
    Formed (s.logUnstated c slot cause time) := by
  unfold State.logUnstated
  simp [h]

@[simp] theorem formed_reportFault {q : SeqId} {c cause : Nat} {body : List Nat} (h : Formed s) :
    Formed (s.reportFault q c cause body) := by
  unfold State.reportFault
  split
  · simp [h]
  · exact formed_logFault h

@[simp] theorem formed_frameFault {w : WKey} (h : Formed s) : Formed (s.frameFault w) := by
  unfold State.frameFault
  simp [h]

@[simp] theorem formed_frameWrite {w : WKey} {off : Nat} {bs : List Byte} (h : Formed s) :
    OptFormed id (s.frameWrite w off bs) := by
  cases e : s.frameWrite w off bs with
  | none => exact .none
  | some t => exact .some ((quiet_frameWrite e).wf h)

@[simp] theorem formed_frameRead {w : WKey} {off n : Nat} (h : Formed s) :
    OptFormed Prod.fst (s.frameRead w off n) := by
  cases e : s.frameRead w off n with
  | none => exact .none
  | some p => exact .some ((quiet_frameRead (b := p.2) e).wf h)

theorem formed_saveBlocks {w : WKey} (h : Formed s) : OptFormed id (s.saveBlocks w) := by
  unfold State.saveBlocks
  refine formed_foldOpt (fun a k ha => ?_) h
  dsimp only
  split
  · exact .none
  · rename_i b e
    have hb : Formed b := by
      refine OptFormed.of_eq (formed_foldOpt (fun c j hc => ?_) ha) e
      split
      · exact formed_frameWrite hc
      · exact .some hc
    exact .some (by simpa using hb)

theorem formed_saveMasks {w : WKey} (h : Formed s) : OptFormed id (s.saveMasks w) := by
  unfold State.saveMasks
  exact formed_foldOpt (fun _ _ ha => formed_frameWrite ha) h

theorem formed_saveExtents {w : WKey} (h : Formed s) : OptFormed id (s.saveExtents w) := by
  unfold State.saveExtents
  extract_lets x
  clear_value x
  split
  · exact .none
  · rename_i e
    exact formed_frameWrite ((formed_frameWrite h).of_some e)

@[simp] theorem formed_frameModify {w : WKey} {off mask val : Nat} (h : Formed s) :
    OptFormed id (s.frameModify w off mask val) := by
  cases e : s.frameModify w off mask val with
  | none => exact .none
  | some t => exact .some ((quiet_frameModify e).wf h)

theorem formed_saveVector {w : WKey} (h : Formed s) : OptFormed id (s.saveVector w) := by
  unfold State.saveVector
  dsimp only
  split
  · exact .some h
  · split
    · exact .none
    · rename_i t1 e2
      have h2 := (formed_saveBlocks h).of_some e2
      split
      · simp
      · rename_i t3 e4
        have h4 := (formed_saveMasks h2).of_some e4
        split
        · simp
        · rename_i t5 e6
          have h6 := (formed_saveExtents h4).of_some e6
          split
          · simp
          · rename_i t7 e8
            have h8 := (formed_frameWrite h6).of_some e8
            split
            · simp
            · rename_i t9 e10
              have h10 := (formed_frameModify h8).of_some e10
              simpa using h10

theorem formed_loadVector {w : WKey} (h : Formed s) : OptFormed id (s.loadVector w) := by
  unfold State.loadVector
  -- Behind a variable, so that no read at a literal offset is evaluated.
  have hread := @formed_frameRead
  obtain ⟨read, e⟩ : ∃ f, f = State.frameRead := ⟨_, rfl⟩
  rw [← e] at hread ⊢
  split
  · exact .none
  · rename_i e1
    split
    · exact .none
    · rename_i e2
      have h2 := (hread ((hread h).of_eq e1)).of_eq e2
      exact .some (by simpa using h2)

theorem formed_postWorker {w : WKey} {operand : Word} {nested direct : Bool} (h : Formed s) :
    OptFormed id (s.postWorker w operand nested direct) := by
  unfold State.postWorker
  dsimp only
  split
  · exact .none
  · rename_i t1 e2
    have h2 := (formed_saveVector h).of_some e2
    split
    · simp
    · rename_i t3 e4
      have h4 := (formed_frameWrite h2).of_some e4
      split
      · simp
      · rename_i t5 e6
        have h6 := (formed_frameModify h4).of_some e6
        simpa using h6

@[simp] theorem formed_takeWorkerTrap {w : WKey} {t : Trap} (h : Formed s) : Formed (s.takeWorkerTrap w t) := by
  unfold State.takeWorkerTrap
  extract_lets q nested s1 x written
  have h1 : Formed s1 := by simp [s1, h]
  have hw : OptFormed id written := by
    simp only [written]
    split
    · exact .some h1
    · exact formed_frameWrite h1
  clear_value written
  split
  · exact formed_frameFault h1
  · rename_i s2
    have h2 : Formed s2 := hw.of_eq rfl
    split
    · split
      · exact formed_frameFault h2
      · rename_i s3 e3
        exact (formed_postWorker h2).of_some e3
    · simpa using h2

@[simp] theorem formed_takeCoreTrap {n : Nat} {t : Trap} (h : Formed s) : Formed (s.takeCoreTrap n t) := by
  unfold State.takeCoreTrap
  extract_lets q x fromK stop __src y s1 __src
  have h1 : Formed s1 := by simp [s1, h]
  split <;> exact h1

@[simp] theorem formed_stopFork {q : SeqId} {t : Trap} (h : Formed s) : Formed (s.stopFork q t) := by
  unfold State.stopFork
  simp [h]

@[simp] theorem formed_takeDrained {w : WKey} {t : Trap} (h : Formed s) : Formed (s.takeDrained w t) := by
  unfold State.takeDrained
  dsimp only
  split
  · exact formed_takeWorkerTrap h
  · simp [h]

theorem formed_enterTrap {q : SeqId} (h : Formed s) : OptFormed id (s.enterTrap q) := by
  unfold State.enterTrap
  split
  · exact .none
  · split
    · split
      · exact .some (formed_takeDrained h)
      · exact .none
    · split
      · exact .some (formed_takeCoreTrap h)
      · exact .none
    · exact .some (formed_stopFork h)

@[simp] theorem formed_raiseOn {q : SeqId} {t : Trap} (h : Formed s) : Formed (s.raiseOn q t) := by
  unfold State.raiseOn
  extract_lets s1
  have h1 : Formed s1 := by simp [s1, h]
  split
  · rename_i t1 e2
    exact (formed_enterTrap h1).of_some e2
  · exact h1

@[simp] theorem formed_raise {cond : Nat} {eaddr : Word} (h : Formed s) : Formed (s.raise cond eaddr) := by
  unfold State.raise
  exact formed_raiseOn h

@[simp] theorem formed_raiseFrom {source cond : Nat} {eaddr : Word} (h : Formed s) :
    Formed (s.raiseFrom source cond eaddr) := by
  unfold State.raiseFrom
  exact formed_raiseOn h

@[simp] theorem formed_raiseAcc {source : Nat} {f : AccFault} (h : Formed s) : Formed (s.raiseAcc source f) := by
  unfold State.raiseAcc
  exact formed_raiseFrom h

@[simp] theorem formed_returnWorker {w : WKey} (h : Formed s) : Formed (s.returnWorker w) := by
  unfold State.returnWorker
  extract_lets q loaded
  have hl : OptFormed id loaded := by
    simp only [loaded]
    split
    · exact formed_loadVector h
    · exact .some h
  clear_value loaded
  split
  · exact formed_frameFault h
  · rename_i s1
    have h1 : Formed s1 := hl.of_eq rfl
    split
    · exact formed_frameFault h1
    · rename_i s2 r e2
      have h2 := (formed_frameRead h1).of_eq e2
      split
      · extract_lets s3
        have h3 : Formed s3 := by simpa [s3] using h2
        split
        · exact formed_frameFault h3
        · rename_i s4 e4
          exact (formed_postWorker h3).of_some e4
      · split
        · exact formed_frameFault h2
        · rename_i s3 e3
          simpa using (formed_frameModify h2).of_eq e3

/-! ## Operands, queues, traps -/

@[simp] theorem formed_raiseMark {m : Mark} (h : Formed s) : Formed (s.raiseMark m) := by
  unfold State.raiseMark
  exact formed_raiseFrom h

theorem formed_afterFences {i : Instr} {e : State → Out} (h : Formed s) (k : ∀ t, Formed t → OutFormed (e t)) :
    OutFormed (afterFences i s e) := by
  have h1 := formed_releaseDue (q := s.cur) h
  rcases afterFences_cases i s e with c | c | c
  · rw [c]
    exact k s h
  · rw [c]
    exact k _ h1
  · rw [c]
    exact .next h1

/-- An instruction whose effect keeps the form of memory keeps it. -/
theorem formed_checked {i : Instr} {e : State → Out} (h : Formed s) (k : ∀ t, Formed t → OutFormed (e t)) :
    OutFormed (checked i s e) := by
  rcases checked_cases i s e with ⟨src, cond, -, c⟩ | ⟨-, -, c⟩ | ⟨m, -, -, -, -, c⟩ | ⟨-, -, -, -, c⟩
  · rw [c]
    exact .next (formed_raiseFrom h)
  · rw [c]
    exact .next h
  · rw [c]
    exact .next (formed_raiseMark h)
  · rw [c]
    exact formed_afterFences h k

/-! ## Accesses at their home slice -/

@[simp] theorem formed_landParts {m : Msg} {entry : Nat} {whole : Bool} {parts : List Part} {v : Nat}
    {p : Option Mark} {long : Bool} {acq : Option (BitVec 3)} (h : Formed s) :
    Formed (s.landParts m entry whole parts v p long acq) := by
  unfold State.landParts
  refine formed_foldl (fun _ _ ha => ?_) h
  exact ha

@[simp] theorem formed_deliver {m : Msg} {v : Nat} {p : Option Bool} (h : Formed s) : Formed (s.deliver m v p) := by
  unfold State.deliver
  split
  · exact h
  · exact formed_landParts h
  · exact h
  · exact formed_landParts h
  · exact h

@[simp] theorem formed_answer {m : Msg} {v : Nat} {p : Option Bool} (h : Formed s) : Formed (s.answer m v p) := by
  unfold State.answer
  dsimp only
  split
  · exact formed_deliver h
  · exact h

@[simp] theorem formed_readFor {c : Option Nat} {q : SeqId} {la off n : Nat} (h : Formed s) :
    Formed (s.readFor c q la off n).1 := by
  unfold State.readFor
  dsimp only
  split
  · split <;> simp [h]
  · simp [h]

@[simp] theorem formed_perform {m : Msg} (h : Formed s) : Formed (s.perform m) := by
  unfold State.perform
  dsimp only
  split
  · split
    · split <;> simp [h]
    · simp [h]
    · refine formed_answer ?_
      simp [h]
    · refine formed_answer ?_
      split <;> simp [h]
    · refine formed_answer ?_
      simp [h]
    · refine formed_answer ?_
      split
      · refine formed_foldl (fun a x ha => ?_) ?_
        · exact ha
        · simp [h]
      · simp [h]
    · refine formed_answer ?_
      split
      · exact formed_homeWrite h
      · exact h
  · exact h

@[simp] theorem formed_poisonFound {m : Msg} {kind : PageKind} {la : Nat} (h : Formed s) :
    Formed (s.poisonFound m kind la) := by
  unfold State.poisonFound
  dsimp only
  split
  · split
    · exact h
    · split
      · exact h
      · simp [h]
  · split
    · exact h
    · split
      · exact h
      · simp [h]

@[simp] theorem formed_poisonRead {m : Msg} {la : Nat} (h : Formed s) : Formed (s.poisonRead m la) := by
  unfold State.poisonRead
  dsimp only
  split
  · split
    · exact formed_poisonFound h
    · split
      · exact h
      · exact formed_poisonLine h
  · exact formed_poisonLine h

@[simp] theorem formed_arrive {m : Msg} {ue : Bool} (h : Formed s) : Formed (s.arrive m ue) := by
  unfold State.arrive
  extract_lets la s0 s1
  have h0 : Formed s0 := by simp [s0, h]
  have h1 : Formed s1 := formed_ite (formed_poisonRead h0) h0
  clear_value s1
  split
  · split
    · exact formed_perform h1
    · split
      · exact formed_perform h1
      · exact formed_foldl (fun _ _ ha => by simpa using ha) (formed_dirSplit h1)
  · exact h1

@[simp] theorem formed_answered {la c : Nat} (h : Formed s) : Formed (s.answered la c) := by
  unfold State.answered
  exact formed_foldl (fun _ _ ha => formed_perform ha) h

@[simp] theorem formed_padAct {m : Msg} {o : WKey} {st : Option (Nat × Nat)} (h : Formed s) :
    Formed (s.padAct m o st) := by
  unfold State.padAct
  dsimp only
  split
  · exact formed_deliver h
  · simpa using h

@[simp] theorem formed_releaseUpTo {q : SeqId} {scope n : Nat} (h : Formed s) : Formed (s.releaseUpTo q scope n).1 := by
  unfold State.releaseUpTo
  split
  · exact h
  · simp [h]

@[simp] theorem formed_releaseFor {m : Msg} {r : Nat × Nat} (h : Formed s) : Formed (s.releaseFor m r) := by
  unfold State.releaseFor
  dsimp only
  split <;> simp [h]

theorem formed_execHomeSliceAccess {m : Nat} {ue : Bool} (h : Formed s) : OutFormed (execHomeSliceAccess m ue s) := by
  unfold execHomeSliceAccess
  split
  · split
    · exact .next (formed_releaseFor h)
    · split
      · exact .next h
      · exact .next (formed_padAct h)
    · exact .next h
    · split
      · exact .next (formed_arrive h)
      · exact .next h
    · exact .next h
  · exact .next h

theorem formed_execReductionUpdate {m : Nat} {ue : Bool} (h : Formed s) : OutFormed (execReductionUpdate m ue s) := by
  unfold execReductionUpdate
  split
  · split
    · exact .next (formed_releaseFor h)
    · split
      · exact .next (formed_arrive h)
      · exact .next h
    · exact .next h
  · exact .next h

@[simp] theorem formed_stageStore {c la : Nat} {d mask : LineBits} (h : Formed s) :
    Formed (s.stageStore c la d mask) := by
  unfold State.stageStore
  extract_lets s1
  have h1 : Formed s1 := by
    simp only [s1]
    split
    · split <;> exact h
    · exact h
  split <;> exact h1

@[simp] theorem formed_stageRed {c la : Nat} {r : PendingRed} {combine : Bool} (h : Formed s) :
    Formed (s.stageRed c la r combine) := by
  unfold State.stageRed
  extract_lets n word meets same s1
  have h1 : Formed s1 := by
    simp only [s1]
    split
    · split <;> exact h
    · exact h
  dsimp only
  split <;> exact h1

@[simp] theorem formed_stageRoom {c la : Nat} (h : Formed s) : Formed (s.stageRoom c la) := by
  unfold State.stageRoom
  dsimp only
  split
  · exact h
  · split <;> exact h

theorem formed_execStage {m : Nat} {combine : Bool} (h : Formed s) : OutFormed (execStage m combine s) := by
  unfold execStage
  dsimp only
  split
  · split
    · exact .next (formed_releaseFor h)
    · split
      · exact .next h
      · split
        · split <;> simp [h]
        · split <;> simp [h]
        · split
          · exact .next (formed_stageRoom h)
          · simp [h]
    · exact .next h
  · exact .next h

theorem formed_execHolderRecord {m : Nat} (h : Formed s) : OutFormed (execHolderRecord m s) := by
  unfold execHolderRecord
  split
  · split
    · simp [h]
    · exact .next h
  · exact .next h

@[simp] theorem formed_applyPublish {la c : Nat} {d mask : LineBits} {reds : List PendingRed} {poison : Bool}
    (h : Formed s) : Formed (s.applyPublish la c d mask reds poison) := by
  unfold State.applyPublish
  refine formed_answered ?_
  refine formed_dirAnswer ?_
  simp [h]

theorem formed_execPublish {m : Nat} {ue : Bool} (h : Formed s) : OutFormed (execPublish m ue s) := by
  unfold execPublish
  split
  · split
    · split
      · exact .next (formed_applyPublish h)
      · exact .next h
    · exact .next h
  · exact .next h

theorem formed_execCheck {m : Nat} (h : Formed s) : OutFormed (execCheck m s) := by
  unfold execCheck
  dsimp only
  split
  · split
    · split
      · split <;> exact .next h
      · exact .next h
    · exact .next h
  · exact .next h

theorem formed_execCheckReply {m : Nat} (h : Formed s) : OutFormed (execCheckReply m s) := by
  unfold execCheckReply
  split
  · split
    · split
      · simp [h]
      · exact .next h
    · exact .next h
  · exact .next h

theorem formed_execDirectoryMerge {die slice base : Nat} (h : Formed s) :
    OutFormed (execDirectoryMerge die slice base s) := by
  unfold execDirectoryMerge
  split
  · split
    · split <;> exact .next h
    · exact .next h
  · exact .next h

theorem formed_execEarlyClean {die slice : Nat} (h : Formed s) : OutFormed (execEarlyClean die slice s) := by
  unfold execEarlyClean
  split
  · split
    · exact .next h
    · exact .next (formed_cleanLine h)
  · exact .next h

theorem formed_execLanding {k : Nat} (h : Formed s) : OutFormed (execLanding k s) := by
  unfold execLanding
  dsimp only
  split
  · split
    · simp [h]
    · simpa using h
  · exact .next h

@[simp] theorem formed_peerWrite {la : Nat} {d : LineBits} {mask : BitVec 64} (h : Formed s) :
    Formed (s.peerWrite la d mask) := cellsPutLine_wf la d mask h

theorem formed_execBackInvalidation {w : PeerWrite} (h : Formed s) : OutFormed (execBackInvalidation w s) := by
  unfold execBackInvalidation
  dsimp only
  split
  · split
    · split
      · simp [h]
      · exact .next h
    · exact .next (formed_peerWrite h)
  · exact .next h

/-! ## Control flow -/

theorem formed_execNop {f : FN} (h : Formed s) : OutFormed (execNop f s) := by
  unfold execNop
  exact formed_checked h fun _ h => .next h

theorem formed_execBr {f : FJP} (h : Formed s) : OutFormed (execBr f s) := by
  unfold execBr
  exact formed_checked h fun _ h => .next h

theorem formed_execBcc {c : Cond} {f : FCJ} (h : Formed s) : OutFormed (execBcc c f s) := by
  unfold execBcc
  refine formed_checked h fun s h => ?_
  split <;> exact .next h

theorem formed_execJal {f : FJP} (h : Formed s) : OutFormed (execJal f s) := by
  unfold execJal
  exact formed_checked h fun _ h => .next h

theorem formed_execJr {f : FRG} (h : Formed s) : OutFormed (execJr f s) := by
  unfold execJr
  exact formed_checked h fun _ h => .next h

theorem formed_execLoop {f : FIM} (h : Formed s) : OutFormed (execLoop f s) := by
  unfold execLoop
  refine formed_checked h fun s h => ?_
  dsimp only
  split
  · exact .next h
  · split
    · exact .next (formed_raise h)
    · exact .next h

theorem formed_execEndl {f : FN} (h : Formed s) : OutFormed (execEndl f s) := by
  unfold execEndl
  refine formed_checked h fun s h => ?_
  dsimp only
  split
  · exact .next (formed_raise h)
  · exact .next h

theorem formed_execLidx {f : FIM} (h : Formed s) : OutFormed (execLidx f s) := by
  unfold execLidx
  refine formed_checked h fun s h => ?_
  split
  · exact .next (formed_raise h)
  · exact .next h

theorem formed_execTrap {f : FIM} (h : Formed s) : OutFormed (execTrap f s) := by
  unfold execTrap
  exact formed_checked h fun _ h => .next (formed_raiseOn h)

theorem formed_execEret {f : FN} (h : Formed s) : OutFormed (execEret f s) := by
  unfold execEret
  refine formed_checked h fun s h => ?_
  split
  · exact .next h
  · split
    · exact .next (formed_returnWorker h)
    · exact .next (formed_raise h)

theorem formed_execEretK {f : FN} (h : Formed s) : OutFormed (execEretK f s) := by
  unfold execEretK
  refine formed_checked h fun s h => ?_
  split <;> exact .next h

theorem formed_execHalt {f : FN} (h : Formed s) : OutFormed (execHalt f s) := by
  unfold execHalt
  refine formed_checked h fun s h => ?_
  dsimp only
  split
  · split
    · exact .next h
    · exact .next (formed_raise h)
  · exact .next (formed_raise h)

theorem formed_execTrapEntry {w : WKey} (h : Formed s) : OutFormed (execTrapEntry w s) := by
  unfold execTrapEntry
  split
  · rename_i t1 e2
    have h2 := (formed_enterTrap h).of_some e2
    simpa using h2
  · exact .next h

theorem formed_execKernelTrapEntry {cc : Nat} (h : Formed s) : OutFormed (execKernelTrapEntry cc s) := by
  unfold execKernelTrapEntry
  split
  · rename_i t1 e2
    have h2 := (formed_enterTrap h).of_some e2
    simpa using h2
  · exact .next h

/-! ## Fetching -/

@[simp] theorem formed_takeTurn (h : Formed s) : Formed (s.takeTurn).2 := by
  unfold State.takeTurn
  dsimp only
  split <;> simpa using h

theorem formed_readCode {a : Word} (h : Formed s) : ExFormed OutFormed Prod.fst (s.readCode a) := by
  unfold State.readCode
  split
  · exact .error (.next (formed_raiseAcc h))
  · split
    · exact .error .fault
    · split
      · exact .error (.next h)
      · split
        rename_i l _ _ _ s1 bs m e
        have h1 := formed_fst (formed_readPieces (formed_markAll h)) e
        split
        · exact .error (.next (formed_raiseFrom h1))
        · exact .ok h1

theorem formed_fetchLineOf (h : Formed s) : ExFormed OutFormed Prod.fst (s.fetchLineOf) := by
  unfold State.fetchLineOf
  dsimp only
  split
  · split
    · exact .ok h
    · exact formed_readCode h
  · exact formed_readCode h

/-! ## Scalar memory instructions -/

theorem formed_openAccess {w : Want} {va : Word} {size : Nat} (h : Formed s) :
    ExFormed OutFormed Prod.fst (s.openAccess w va size) := by
  unfold State.openAccess
  split
  · simp [h]
  · split
    · simp [h]
    · split
      · simp
      · split
        · split
          · simpa using h
          · simp [h]
        · simpa using h

theorem formed_execLd {f : FIM} (h : Formed s) : OutFormed (execLd f s) := by
  unfold execLd
  refine formed_checked h fun s h => ?_
  dsimp only
  split
  · rename_i e1
    exact (formed_openAccess h).of_error e1
  · rename_i t1 _ _ e2
    have h2 := (formed_openAccess h).of_pair e2
    simpa using h2

theorem formed_sendStore {pa : Nat} {kind : PageKind} {va : Word} {n : Nat} {d m : LineBits} (h : Formed s) :
    OptFormed id (s.sendStore pa kind va n d m) := by
  unfold State.sendStore
  split
  · split <;> exact .some h
  · split <;> exact .some h
  · split
    · exact .none
    · exact .some (formed_writeCached h)

theorem formed_execSt {f : FIM} (h : Formed s) : OutFormed (execSt f s) := by
  unfold execSt
  refine formed_checked h fun s h => ?_
  dsimp only
  split
  · rename_i e1
    exact (formed_openAccess h).of_error e1
  · rename_i t1 _ _ e2
    have h2 := (formed_openAccess h).of_pair e2
    split
    · rename_i t3 e4
      have h4 := (formed_sendStore h2).of_some e4
      simpa using h4
    · simpa using h

theorem formed_beforeHome {q : SeqId} {la : Nat} (h : Formed s) : OptFormed id (s.beforeHome q la) := by
  unfold State.beforeHome
  split
  · exact .none
  · split
    · exact .some (formed_publishLine h)
    · exact .some h

theorem formed_atomicAccess {f : FTR} {op : MemOp} {size : Nat} {signed : Bool} (h : Formed s) :
    OutFormed (atomicAccess f op size signed s) := by
  unfold atomicAccess
  dsimp only
  split
  · rename_i e1
    exact (formed_openAccess h).of_error e1
  · rename_i t1 _ _ e2
    have h2 := (formed_openAccess h).of_pair e2
    split
    · simpa using h2
    · rename_i t3 e4
      have h4 := (formed_beforeHome h2).of_some e4
      simpa using h4

theorem formed_execAmo {op : AmoOp} {f : FTR} (h : Formed s) : OutFormed (execAmo op f s) := by
  unfold execAmo
  exact formed_checked h fun _ h => formed_atomicAccess h

theorem formed_execCas {f : FTR} (h : Formed s) : OutFormed (execCas f s) := by
  unfold execCas
  exact formed_checked h fun _ h => formed_atomicAccess h

theorem formed_execRed {op : RedOp} {f : FTR} (h : Formed s) : OutFormed (execRed op f s) := by
  unfold execRed
  refine formed_checked h fun s h => ?_
  dsimp only
  split
  · rename_i e1
    exact (formed_openAccess h).of_error e1
  · rename_i t1 _ _ e2
    have h2 := (formed_openAccess h).of_pair e2
    split
    · simpa using h2
    · split
      · simpa using h2
      · rename_i t3 e4
        have h4 := (formed_beforeHome h2).of_some e4
        simpa using h4

theorem formed_execPref {f : FIM} (h : Formed s) : OutFormed (execPref f s) := by
  unfold execPref
  exact formed_checked h fun _ h => .next h

@[simp] theorem formed_fence {ord : BitVec 2} {scope : Nat} (h : Formed s) : Formed (s.fence ord scope).1 := by
  unfold State.fence
  split
  rename_i s1 done e
  have h1 : Formed s1 := by
    revert e
    split
    · exact formed_fst (formed_release h)
    · rintro ⟨⟩
      exact h
  split
  · exact h1
  · split
    · split
      · exact h1
      · exact formed_acquire h1
    · exact h1

theorem formed_fenceBody {f : FIM} (h : Formed s) : OutFormed (fenceBody f s) := by
  unfold fenceBody
  split
  · simp [h]
  · split
    · rename_i t1 _ e2
      have h2 := formed_fst (formed_fence h) e2
      split <;> simpa using h2

theorem formed_execFence {f : FIM} (h : Formed s) : OutFormed (execFence f s) := by
  unfold execFence
  refine formed_checked h fun s h => ?_
  split
  · exact .next h
  · exact formed_fenceBody h

@[simp] theorem formed_wake {q : SeqId} (h : Formed s) : Formed (s.wake q) := by
  unfold State.wake
  simp [h]

theorem formed_execWaitt {f : FRG} (h : Formed s) : OutFormed (execWaitt f s) := by
  unfold execWaitt
  refine formed_checked h fun s h => ?_
  dsimp only
  split <;> exact .next h

theorem formed_execWaittExpiry {q : SeqId} (h : Formed s) : OutFormed (execWaittExpiry q s) := by
  unfold execWaittExpiry
  split
  · split
    · simp [h]
    · exact .next h
  · exact .next h

theorem formed_waitmBody {f : FTR} {pa : Nat} (h : Formed s) : OutFormed (waitmBody f pa s) := by
  unfold waitmBody
  dsimp only
  split
  · simp [h]
  · split <;> split <;> simp [h]

theorem formed_waitmAgain {f : FTR} {pa : Nat} (h : Formed s) : OutFormed (waitmAgain f pa s) := by
  unfold waitmAgain
  split
  · exact .next (formed_raiseFrom h)
  · exact formed_waitmBody h

theorem formed_execWaitm {f : FTR} (h : Formed s) : OutFormed (execWaitm f s) := by
  unfold execWaitm
  refine formed_checked h fun s h => ?_
  split
  · exact .next h
  · split
    · rename_i e1
      exact (formed_openAccess h).of_error e1
    · rename_i t pa _ e1
      have h1 : Formed t := (formed_openAccess h).of_pair e1
      split
      · exact .next h
      · exact formed_waitmBody h1

theorem formed_execWaitmWake {q : SeqId} (h : Formed s) : OutFormed (execWaitmWake q s) := by
  unfold execWaitmWake
  split
  · exact formed_waitmAgain (formed_wake h)
  · exact .next h

theorem formed_execWaitmDeadline {q : SeqId} (h : Formed s) : OutFormed (execWaitmDeadline q s) := by
  unfold execWaitmDeadline
  dsimp only
  split
  · split
    · exact formed_waitmAgain (formed_wake h)
    · exact .next h
  · exact .next h

/-! ## The vector queue -/

@[simp] theorem State.enqueue_mem {e : VEntry} : (s.enqueue e).mem = s.mem := rfl

/-! ## Sync registers -/

theorem formed_syncIndex {home : Bool} {ga : Word} (h : Formed s) :
    ExFormed OutFormed (fun _ => s) (s.syncIndex home ga) := by
  unfold State.syncIndex
  split
  · exact .error (.next (formed_raise h))
  · split
    · split
      · exact .error (.next (formed_raiseFrom h))
      · exact .error (.next h)
    · exact .ok h

@[simp] theorem formed_syncReady (h : Formed s) : Formed (s.syncReady).1 := by
  unfold State.syncReady
  split
  · exact h
  · simp [h]

@[simp] theorem State.sendSync_mem {q : SeqId} {i op : Nat} {v : Word} {gd : Option (BitVec 5)} {group : Option Nat} :
    (s.sendSync q i op v gd group).mem = s.mem := rfl

theorem formed_syncAccess {op : Nat} {ga gb : Word} {gd : Option (BitVec 5)} (h : Formed s) :
    OutFormed (syncAccess op ga gb gd s) := by
  unfold syncAccess
  dsimp only
  split
  · rename_i e1
    exact (formed_syncIndex h).of_error e1
  · split
    · simp [h]
    · split <;> simp [h]

theorem formed_execSrts {f : FRG} (h : Formed s) : OutFormed (execSrts f s) := by
  unfold execSrts
  exact formed_checked h fun _ h => formed_syncAccess h

theorem formed_execSrfa {f : FRG} (h : Formed s) : OutFormed (execSrfa f s) := by
  unfold execSrfa
  exact formed_checked h fun _ h => formed_syncAccess h

theorem formed_execSrrd {f : FRG} (h : Formed s) : OutFormed (execSrrd f s) := by
  unfold execSrrd
  refine formed_checked h fun s h => ?_
  dsimp only
  split
  · rename_i e1
    exact (formed_syncIndex h).of_error e1
  · split <;> simp [h]

theorem formed_execSrrdHome {f : FRG} (h : Formed s) : OutFormed (execSrrdHome f s) := by
  unfold execSrrdHome
  exact formed_checked h fun _ h => formed_syncAccess h

theorem formed_execSrwr {f : FRG} (h : Formed s) : OutFormed (execSrwr f s) := by
  unfold execSrwr
  exact formed_checked h fun _ h => formed_syncAccess h

@[simp] theorem formed_syncUpdate {src : SeqId} {i : Nat} {v : Word} {isBar : Bool} {op : Nat} (h : Formed s) :
    Formed (s.syncUpdate src i v isBar op) := by
  unfold State.syncUpdate
  refine formed_foldl (fun _ _ ha => ?_) h
  exact ha

@[simp] theorem State.noteReset_mem {i : Nat} : (s.noteReset i).mem = s.mem := rfl

@[simp] theorem formed_settleSyncs (h : Formed s) : Formed s.settleSyncs := by
  unfold State.settleSyncs
  refine formed_foldl (fun a x ha => ?_) h
  split
  · exact ha
  · exact formed_acquire ha

@[simp] theorem formed_applySync {x : Msg} {i op : Nat} {v : Word} {gd : Option (BitVec 5)} {group : Option Nat}
    {pc : Word} (h : Formed s) : Formed (s.applySync x i op v gd group pc) := by
  unfold State.applySync
  dsimp only
  split
  · split
    · exact h
    · have h1 (v : Word) : Formed (s.syncUpdate x.src i v true x.id) := formed_syncUpdate h
      split
      · exact h1 _
      · split
        · exact formed_acquire (formed_wake (h1 _))
        · simpa using h1 _
  · split
    · exact formed_settleSyncs h
    · simp [h]

theorem formed_execSyncRegisterUpdate {m : Nat} (h : Formed s) : OutFormed (execSyncRegisterUpdate m s) := by
  unfold execSyncRegisterUpdate
  split
  · split
    · split
      · exact .next (formed_applySync h)
      · exact .next h
    · exact .next h
  · exact .next h

@[simp] theorem formed_syncApplied {op d : Nat} (h : Formed s) : Formed (s.syncApplied op d) := by
  unfold State.syncApplied
  simp [h]

@[simp] theorem formed_barMeets {w : WKey} {i : Nat} {v : Word} {seq : Nat} {isBar : Bool} (h : Formed s) :
    Formed (s.barMeets w i v seq isBar) := by
  unfold State.barMeets
  split
  · split
    · exact h
    · split
      · exact h
      · split
        · split
          · simp [h]
          · exact h
        · simp [h]
  · exact h

theorem formed_execMirrorUpdate {m : Nat} (h : Formed s) : OutFormed (execMirrorUpdate m s) := by
  unfold execMirrorUpdate
  split
  · split
    · dsimp only
      split
      · exact .next h
      · exact .next (formed_syncApplied (formed_foldl (fun _ _ ha => formed_barMeets ha) h))
    · exact .next h
  · exact .next h

theorem formed_execBar {f : FIM} (h : Formed s) : OutFormed (execBar f s) := by
  unfold execBar
  refine formed_checked h fun s h => ?_
  dsimp only
  split
  · split
    · exact .next (formed_raise h)
    · split
      · exact .next (formed_raise h)
      · split
        · exact .next h
        · split <;> simp [h]
  · exact .next (formed_raise h)

/-! ## The launch unit -/

@[simp] theorem formed_createWorker {l : Launch} {k : Nat} {p : Place} {frame : Nat} (h : Formed s) :
    Formed (s.createWorker l k p frame) := by
  unfold State.createWorker
  extract_lets key __src x s1
  have h1 : Formed s1 := by simp [s1, h]
  exact h1

@[simp] theorem formed_restartWorker {l : Launch} {w : WKey} {k : Nat} (h : Formed s) :
    Formed (s.restartWorker l w k) := by
  unfold State.restartWorker
  simp [h]

/-! ## Threads: forks, rendezvous, rings -/

theorem formed_forkAccess {f : FJP} {ce : Bool} (h : Formed s) : OutFormed (forkAccess f ce s) := by
  unfold forkAccess
  dsimp only
  split
  · split
    · exact .next h
    · split
      · split
        · exact .next (formed_raise h)
        · split <;> simp [h]
      · split
        · exact .next (formed_raise h)
        · split <;> simp [h]
  · exact .next (formed_raise h)

theorem formed_execForkMx {f : FJP} (h : Formed s) : OutFormed (execForkMx f s) := by
  unfold execForkMx
  exact formed_checked h fun _ h => formed_forkAccess h

theorem formed_execForkCe {f : FJP} (h : Formed s) : OutFormed (execForkCe f s) := by
  unfold execForkCe
  exact formed_checked h fun _ h => formed_forkAccess h

@[simp] theorem State.freeFork_mem {q : SeqId} : (s.freeFork q).mem = s.mem := by
  unfold State.freeFork
  split
  · simp
  · simp
  · rfl

@[simp] theorem formed_rdvBody {w : WKey} {all ce : Bool} {n : Nat} {p : Park} (h : Formed s) :
    Formed (rdvBody w all ce n p s).1 := by
  unfold rdvBody
  extract_lets l
  split
  · have h1 : Formed ((l.foldl State.freeFork s).acquire s.cur 3) :=
      formed_acquire (formed_foldl (fun _ _ ha => by simpa using ha) h)
    split
    · exact formed_raise h1
    · exact h1
  · exact h

theorem formed_execRdv {f : FIM} (h : Formed s) : OutFormed (execRdv f s) := by
  unfold execRdv
  refine formed_checked h fun s h => ?_
  dsimp only
  split
  · split
    · exact .next h
    · split
      · exact .next (formed_raise h)
      · split <;> simp [h]
  · exact .next (formed_raise h)

@[simp] theorem State.releaseRecord_mem {w : WKey} : (s.releaseRecord w).mem = s.mem := by
  unfold State.releaseRecord
  dsimp only
  split
  · rfl
  · simp

@[simp] theorem formed_removeWorker {w : WKey} (h : Formed s) : Formed (s.removeWorker w) := by
  unfold State.removeWorker
  simp [h]

theorem formed_endWorker {w : WKey} (h : Formed s) : OutFormed (endWorker w s) := by
  unfold endWorker
  dsimp only
  split <;> simp [h]

theorem formed_endBody {w : WKey} (h : Formed s) : OutFormed (endBody w s) := by
  unfold endBody
  split
  · rename_i t1 _ e2
    have h2 := formed_fst (formed_rdvBody h) e2
    split
    · exact formed_endWorker h2
    · exact .next h2

theorem formed_execEndProg {f : FN} (h : Formed s) : OutFormed (execEndProg f s) := by
  unfold execEndProg
  refine formed_checked h fun s h => ?_
  split
  · split
    · exact .next h
    · exact formed_endBody h
  · exact .next h

theorem formed_execRdvWake {q : SeqId} (h : Formed s) : OutFormed (execRdvWake q s) := by
  unfold execRdvWake
  split
  · split
    · split
      · rename_i t1 _ e2
        have h2 := formed_fst (formed_rdvBody (formed_wake h)) e2
        split <;> exact .next h2
    · exact .next h
  · split
    · exact formed_endBody (formed_wake h)
    · exact .next h
  · exact .next h

theorem formed_popNow {w : WKey} {l : Launch} {gd : BitVec 5} {since : Nat} (h : Formed s) :
    OptFormed Prod.fst (s.popNow w l gd since) := by
  unfold State.popNow
  extract_lets k s1 r st at_ s1
  have h1 : Formed s1 := by simp [s1, h]
  have h1 : Formed s1 := by simp [s1, h]
  dsimp only
  split
  · split <;> exact .some h1
  · split
    · simp [h]
    · split
      · exact .some h1
      · exact .none

theorem formed_execQpop {f : FN} (h : Formed s) : OutFormed (execQpop f s) := by
  unfold execQpop
  refine formed_checked h fun s h => ?_
  dsimp only
  split
  · split
    · exact .next h
    · split
      · simpa using h
      · split
        · simpa using h
        · split
          · rename_i t1 e2
            have h2 := (formed_popNow (by simpa using h)).of_pair e2
            simp [h2]
          · rename_i t1 e2
            have h2 := (formed_popNow (by simpa using h)).of_pair e2
            exact .next h2
          · simpa using h
  · exact .next (formed_raise h)

theorem formed_execQpopWake {q : SeqId} (h : Formed s) : OutFormed (execQpopWake q s) := by
  unfold execQpopWake
  split
  · split
    · exact .next h
    · split
      · exact .next h
      · split
        · rename_i t1 e2
          have h2 := (formed_popNow (formed_wake h)).of_pair e2
          exact .next h2
        · rename_i t1 e2
          have h2 := (formed_popNow (formed_wake h)).of_pair e2
          exact .next h2
        · simpa using h
  · exact .next h

theorem formed_qpushBody {w : WKey} {l : Launch} {src : Word} (h : Formed s) : OutFormed (qpushBody w l src s) := by
  unfold qpushBody
  extract_lets k st
  split
  · exact .next h
  · split
    · exact .next (formed_raiseAcc h)
    · split
      · exact .next (formed_raiseAcc h)
      · split
        · exact .fault
        · split
          · exact .next h
          · split
            rename_i e
            have h1 := formed_fst (formed_readPieces (formed_markAll (formed_markAll h))) e
            split
            · exact .next (formed_raiseMark h1)
            · exact .next h1

theorem formed_execQpush {f : FRG} (h : Formed s) : OutFormed (execQpush f s) := by
  unfold execQpush
  refine formed_checked h fun s h => ?_
  dsimp only
  split
  · split
    · exact .next h
    · split
      · exact .next h
      · split
        · exact .next (formed_raise h)
        · split
          · exact .next (formed_raise h)
          · split
            · exact .next (formed_raiseAcc h)
            · exact formed_qpushBody h
  · exact .next (formed_raise h)

theorem formed_execQpushWake {q : SeqId} (h : Formed s) : OutFormed (execQpushWake q s) := by
  unfold execQpushWake
  split
  · split
    · exact .next h
    · split
      · exact .next h
      · exact formed_qpushBody (formed_wake h)
  · exact .next h

@[simp] theorem State.sendPieces_mem {q : SeqId} {l : List (Nat × Nat)} {b : List Byte} :
    (s.sendPieces q l b).mem = s.mem := by
  induction l generalizing s b with
  | nil => rfl
  | cons c r ih => exact ih

@[simp] theorem formed_settlePush {p : Push} (h : Formed s) : Formed (s.settlePush p) := by
  unfold State.settlePush
  dsimp only
  split
  · split <;> simp [h]
  · split <;> exact h

@[simp] theorem formed_settlePushes (h : Formed s) : Formed s.settlePushes := by
  unfold State.settlePushes
  exact formed_foldl (fun _ _ ha => formed_settlePush ha) h

theorem formed_twaitBody {gd sel : BitVec 5} {n owner : Word} (h : Formed s) :
    OutFormed (twaitBody gd sel n owner s) := by
  unfold twaitBody
  split
  · exact .next (formed_raise h)
  · split
    · exact .next (formed_raise h)
    · split
      · simp [h]
      · exact .next h

theorem formed_execTwait {f : FTR} (h : Formed s) : OutFormed (execTwait f s) := by
  unfold execTwait
  refine formed_checked h fun s h => ?_
  split
  · exact .next h
  · exact formed_twaitBody h

theorem formed_execTwaitWake {q : SeqId} (h : Formed s) : OutFormed (execTwaitWake q s) := by
  unfold execTwaitWake
  split
  · exact formed_twaitBody (formed_wake h)
  · exact .next h

theorem formed_execTread {f : FTR} (h : Formed s) : OutFormed (execTread f s) := by
  unfold execTread
  refine formed_checked h fun s h => ?_
  split
  · exact .next (formed_raise h)
  · exact .next h

/-! ## Launches and workers -/

@[simp] theorem formed_unitWrite {d pa n v : Nat} (h : Formed s) : Formed (s.unitWrite d pa n v) := by
  unfold State.unitWrite
  split
  · exact formed_writeHome h
  · exact h

@[simp] theorem formed_writeCword {l : Launch} {v : Nat} (h : Formed s) : Formed (s.writeCword l v) := by
  unfold State.writeCword
  split
  · exact h
  · split
    · exact h
    · refine formed_foldl (fun a x ha => ?_) ?_
      · exact formed_unitWrite ha
      · exact formed_markAll h

@[simp] theorem State.dropLaunch_mem {c slot : Nat} : (s.dropLaunch c slot).mem = s.mem := rfl

@[simp] theorem State.answerCore_mem {q : SeqId} {gd : BitVec 5} {status : Nat} :
    (s.answerCore q gd status).mem = s.mem := by
  unfold State.answerCore
  simp

@[simp] theorem formed_wakeAborts {c slot : Nat} (h : Formed s) : Formed (s.wakeAborts c slot) := by
  unfold State.wakeAborts
  refine formed_foldl (fun a x ha => ?_) ?_
  · split
    · split
      · simpa using ha
      · exact ha
    · exact ha
  · exact h

@[simp] theorem formed_writeFinal {l : Launch} {v : Nat} (h : Formed s) : Formed (s.writeFinal l v) := by
  unfold State.writeFinal
  extract_lets s1
  have h1 : Formed s1 := by simp [s1, h]
  split
  · exact h1
  · exact formed_wakeAborts h1

@[simp] theorem formed_enterLaunch {c slot : Nat} {b : BitVec 4096} {gd : BitVec 5} (h : Formed s) :
    Formed (s.enterLaunch c slot b gd) := by
  unfold State.enterLaunch
  extract_lets l s1
  have h1 : Formed s1 := by
    simp only [s1]
    split
    · exact h
    · exact formed_writeCword h
  exact h1

theorem formed_execLaunch {f : FIM} (h : Formed s) : OutFormed (execLaunch f s) := by
  unfold execLaunch
  refine formed_checked h fun s h => ?_
  dsimp only
  split
  · exact .next h
  · split
    · simp [h]
    · split
      · simp [h]
      · split
        · simp [h]
        · split
          · simp [h]
          · split
            · exact .fault
            · split
              · refine .next ?_
                refine formed_raiseMark ?_
                refine formed_readPieces ?_
                simp [h]
              · split
                · refine .next ?_
                  refine formed_raise ?_
                  refine formed_readPieces ?_
                  simp [h]
                · split
                  · refine .next ?_
                    refine formed_raiseAcc ?_
                    refine formed_readPieces ?_
                    simp [h]
                  · split
                    · exact .fault
                    · refine .next ?_
                      refine formed_enterLaunch ?_
                      refine formed_readPieces ?_
                      simp [h]

theorem formed_execEligibility {ctx slot : Nat} (h : Formed s) : OutFormed (execEligibility ctx slot s) := by
  unfold execEligibility
  split
  · split <;> exact .next h
  · exact .next h

theorem formed_readGroups {l : Launch} (h : Formed s) : OptFormed Prod.fst (s.readGroups l) := by
  unfold State.readGroups
  dsimp only
  split
  · exact .some h
  · split
    · exact .none
    · split
      · exact .none
      · split
        · simp [h]
        · exact .none

theorem formed_admissionOk {l : Launch} (h : Formed s) : OptFormed Prod.fst (s.admissionOk l) := by
  unfold State.admissionOk
  dsimp only
  split
  · exact formed_readGroups h
  · exact .none

theorem formed_execAdmissionChecks {die : Nat} (h : Formed s) : OutFormed (execAdmissionChecks die s) := by
  unfold execAdmissionChecks
  split
  · split
    · exact .next h
    · split
      · rename_i t1 _ e2
        have h2 := (formed_admissionOk h).of_pair e2
        exact .next h2
      · exact .next (formed_writeFinal h)
  · exact .next h

theorem formed_tryCreate {c slot k : Nat} (h : Formed s) : OptFormed id (s.tryCreate c slot k) := by
  unfold State.tryCreate
  split
  · exact .none
  · split
    · exact .some (formed_createWorker h)
    · exact .none

@[simp] theorem formed_zeroGroups {gs : List Group} (h : Formed s) : Formed (s.zeroGroups gs) := by
  unfold State.zeroGroups
  refine formed_foldl (fun a x ha => ?_) ?_
  · simp [ha]
  · exact h

theorem formed_execAdmission {die : Nat} (h : Formed s) : OutFormed (execAdmission die s) := by
  unfold execAdmission
  split
  · split
    · exact .next h
    · extract_lets s1
      have h1 : Formed s1 := by simp [s1, h]
      split
      · rename_i e
        exact .next ((formed_foldOpt (fun _ _ ha => formed_tryCreate ha) h1).of_some e)
      · exact .next h
  · exact .next h

theorem formed_execWorkerCreation {ctx slot : Nat} (h : Formed s) : OutFormed (execWorkerCreation ctx slot s) := by
  unfold execWorkerCreation
  split
  · split
    · exact .next h
    · split
      · exact .next (formed_createWorker h)
      · exact .next h
  · exact .next h

@[simp] theorem State.stopAtOnce_mem {q : SeqId} : (s.stopAtOnce q).mem = s.mem := rfl

@[simp] theorem formed_stopWorker {w : WKey} (h : Formed s) : Formed (s.stopWorker w) := by
  unfold State.stopWorker
  extract_lets forks s1 x
  have h1 : Formed s1 := by
    simp only [s1]
    refine formed_foldl (fun a x ha => ?_) ?_
    · simpa using ha
    · exact h
  refine formed_removeWorker ?_
  split
  · exact h1
  · exact formed_flushCache h1

@[simp] theorem formed_dropWindows {c slot : Nat} (h : Formed s) : Formed (s.dropWindows c slot) := by
  unfold State.dropWindows
  exact formed_foldl (fun _ _ ha => formed_unpinWindow ha) h

@[simp] theorem State.dropUndone_mem {c slot : Nat} : (s.dropUndone c slot).mem = s.mem := rfl

@[simp] theorem formed_sweepTorn (h : Formed s) : Formed s.sweepTorn := by
  unfold State.sweepTorn
  refine formed_foldl (fun a l ha => ?_) h
  split
  · have h1 : Formed ((a.launchWorkers l.ctx l.slot).foldl (fun b p => b.stopWorker p.1) a) :=
      formed_foldl (fun _ _ hb => formed_stopWorker hb) ha
    exact formed_dropWindows h1
  · exact ha

@[simp] theorem formed_reportWindow {q : SeqId} {w : Window} {num : Nat} (h : Formed s) :
    Formed (s.reportWindow q w num) := by
  unfold State.reportWindow
  split
  · exact h
  · exact formed_reportFault h

@[simp] theorem formed_closeWindows {c slot : Nat} (h : Formed s) : Formed (s.closeWindows c slot) := by
  unfold State.closeWindows
  refine formed_foldl (fun a x ha => ?_) ?_
  · simp [ha]
  · exact h

@[simp] theorem formed_finishLaunch {c slot status : Nat} (h : Formed s) : Formed (s.finishLaunch c slot status) := by
  unfold State.finishLaunch
  split
  · exact formed_writeFinal h
  · exact h

@[simp] theorem formed_settleEnded (h : Formed s) : Formed s.settleEnded := by
  unfold State.settleEnded
  refine formed_foldl (fun a x ha => ?_) ?_
  · split
    · split
      · exact ha
      · exact formed_wakeAborts ha
    · exact ha
  · exact h

@[simp] theorem formed_releaseLaunch {l : Launch} (h : Formed s) : Formed (s.releaseLaunch l).1 := by
  unfold State.releaseLaunch
  extract_lets cs s1
  have h1 : Formed s1 := formed_foldl (fun _ _ ha => formed_publishAll ha) h
  split
  · exact h1
  · simp [h1]

theorem formed_execLaunchEnd {ctx slot : Nat} (h : Formed s) : OutFormed (execLaunchEnd ctx slot s) := by
  unfold execLaunchEnd
  dsimp only
  split
  · split
    · exact .next h
    · split
      · split
        · split
          · simp [h]
          · refine .next ?_
            refine formed_finishLaunch ?_
            simp [h]
        · exact .next h
      · split <;> simp [h]
      · exact .next h
  · exact .next h

theorem formed_execWatchdog {ctx slot : Nat} (h : Formed s) : OutFormed (execWatchdog ctx slot s) := by
  unfold execWatchdog
  dsimp only
  split
  · split
    · split
      · simp [h]
      · exact .next h
    · split
      · simp [h]
      · exact .next h
    · split
      · simp [h]
      · exact .next h
    · simpa using h
  · exact .next h

theorem formed_saveForks {w : WKey} (h : Formed s) : OptFormed id (s.saveForks w) := by
  unfold State.saveForks
  refine formed_foldOpt (fun a x ha => ?_) ?_
  · simp [ha]
  · exact h

theorem formed_saveSpad {w : WKey} (h : Formed s) : OptFormed id (s.saveSpad w) := by
  unfold State.saveSpad
  simp [h]

theorem formed_saveWindowRegs {w : WKey} (h : Formed s) : OptFormed id (s.saveWindowRegs w) := by
  unfold State.saveWindowRegs
  simp [h]

theorem formed_saveRecord {w : WKey} (h : Formed s) : OptFormed id (s.saveRecord w) := by
  unfold State.saveRecord
  extract_lets x
  split
  · exact .none
  · rename_i e1
    have h1 := (formed_frameWrite h).of_some e1
    split
    · exact .none
    · rename_i e2
      have h2 := (formed_frameWrite h1).of_some e2
      split
      · exact .none
      · rename_i e3
        have h3 := (formed_saveExtents h2).of_some e3
        split
        · exact .none
        · rename_i e4
          exact formed_saveMasks ((formed_saveBlocks h3).of_some e4)

@[simp] theorem formed_saveWorker {w : WKey} (h : Formed s) : Formed (s.saveWorker w) := by
  unfold State.saveWorker
  extract_lets posted done
  have hd : OptFormed id done :=
    (OptFormed.ite (.some h) (formed_saveRecord h)).bind fun _ h1 =>
      (formed_saveWindowRegs h1).bind fun _ h2 => (formed_saveSpad h2).bind fun _ h3 => formed_saveForks h3
  clear_value done
  split
  · exact formed_frameFault h
  · rename_i s4
    extract_lets s5
    have h5 : Formed s5 := formed_foldl (fun _ _ ha => by simpa using ha) (hd.of_some rfl)
    simp [h5]

@[simp] theorem formed_takePending {w : WKey} (h : Formed s) : Formed (s.takePending w) := by
  unfold State.takePending
  dsimp only
  split
  · split
    · exact h
    · simp [h]
  · exact h

@[simp] theorem formed_stopStep {w : WKey} (h : Formed s) : Formed (s.stopStep w) := by
  unfold State.stopStep
  dsimp only
  split
  · exact h
  · split
    · exact formed_takePending h
    · split
      · exact formed_saveWorker h
      · exact h

@[simp] theorem State.stallCore_mem {q : SeqId} {p : Park} : (s.stallCore q p).mem = s.mem := by
  unfold State.stallCore
  simp

@[simp] theorem formed_takePreempt {q : SeqId} {gd : BitVec 5} {l : Launch} (h : Formed s) :
    Formed (s.takePreempt q gd l) := by
  unfold State.takePreempt
  extract_lets start
  have htart : Formed start := by simp [start, h]
  split
  · split
    · simpa using h
    · exact htart
  · exact htart
  · simpa using h

@[simp] theorem State.takeResume_mem {q : SeqId} {gd : BitVec 5} {l : Launch} : (s.takeResume q gd l).mem = s.mem := by
  unfold State.takeResume
  split <;> simp

@[simp] theorem formed_takeAbort {q : SeqId} {gd : BitVec 5} {l : Launch} (h : Formed s) :
    Formed (s.takeAbort q gd l) := by
  unfold State.takeAbort
  extract_lets wait tear
  have hw (n : Nat) : Formed (wait n) := by simp [wait, h]
  have ht : Formed tear := hw 0
  split
  · exact formed_writeFinal (hw 0)
  · exact hw 2
  · exact hw 2
  · split
    · simpa using h
    · exact ht
  · exact ht

@[simp] theorem formed_takeOp {q : SeqId} {op : Nat} {gd : BitVec 5} {l : Launch} (h : Formed s) :
    Formed (s.takeOp q op gd l) := by
  unfold State.takeOp
  split
  · exact formed_takePreempt h
  · split
    · simpa using h
    · exact formed_takeAbort h

@[simp] theorem formed_launchOp {op : Nat} {gd : BitVec 5} {ga : Word} (h : Formed s) :
    Formed (s.launchOp op gd ga) := by
  unfold State.launchOp
  split
  · simpa using h
  · split
    · simpa using h
    · exact formed_takeOp h

theorem formed_execPreempt {f : FIM} (h : Formed s) : OutFormed (execPreempt f s) := by
  unfold execPreempt
  exact formed_checked h fun _ h => .next (formed_launchOp h)

theorem formed_execResume {f : FIM} (h : Formed s) : OutFormed (execResume f s) := by
  unfold execResume
  exact formed_checked h fun _ h => .next (formed_launchOp h)

theorem formed_execAbort {f : FIM} (h : Formed s) : OutFormed (execAbort f s) := by
  unfold execAbort
  exact formed_checked h fun _ h => .next (formed_launchOp h)

@[simp] theorem formed_preemptStep {l : Launch} (h : Formed s) : Formed (s.preemptStep l) := by
  unfold State.preemptStep
  extract_lets s1
  have h1 : Formed s1 := formed_foldl (fun _ _ ha => formed_stopStep ha) h
  split <;> exact h1

@[simp] theorem State.servePreempt_mem {q : SeqId} : (s.servePreempt q).mem = s.mem := by
  unfold State.servePreempt
  split
  · split
    · simp
    · rfl
  · rfl

@[simp] theorem formed_serveOp {q : SeqId} (h : Formed s) : Formed (s.serveOp q) := by
  unfold State.serveOp
  split
  · split
    · simpa using h
    · split
      · exact h
      · exact formed_takeOp h
  · exact h

@[simp] theorem formed_serveLaunches (h : Formed s) : Formed s.serveLaunches := by
  unfold State.serveLaunches
  extract_lets s1 qs
  have h1 : Formed s1 := formed_foldl (fun _ _ ha => formed_preemptStep ha) h
  refine formed_foldl (fun a x ha => ?_) ?_
  · exact formed_serveOp ha
  · refine formed_foldl (fun a x ha => ?_) ?_
    · simpa using ha
    · exact h1

theorem formed_restoreFork {w : WKey} {q : SeqId} (h : Formed s) : OptFormed id (s.restoreFork w q) := by
  unfold State.restoreFork
  dsimp only
  split
  · exact .none
  · rename_i t1 _ e2
    have h2 := (formed_frameRead h).of_pair e2
    simpa using h2

theorem formed_restoreSpad {w : WKey} (h : Formed s) : OptFormed id (s.restoreSpad w) := by
  unfold State.restoreSpad
  dsimp only
  split
  · exact .none
  · rename_i t1 _ e2
    have h2 := (formed_frameRead h).of_pair e2
    simpa using h2

theorem formed_restoreWindowRegs {w : WKey} (h : Formed s) : OptFormed id (s.restoreWindowRegs w) := by
  unfold State.restoreWindowRegs
  dsimp only
  split
  · exact .none
  · rename_i t1 _ e2
    have h2 := (formed_frameRead h).of_pair e2
    simpa using h2

theorem formed_restoreRecord {w : WKey} (h : Formed s) : OptFormed Prod.fst (s.restoreRecord w) := by
  unfold State.restoreRecord
  dsimp only
  split
  · exact .none
  · rename_i t1 e2
    have h2 := (formed_loadVector h).of_some e2
    split
    · exact .none
    · rename_i t3 _ e4
      have h4 := (formed_frameRead h2).of_pair e4
      simpa using h4

@[simp] theorem formed_rejoin {w : WKey} {bw : Nat} {bar : Word} (h : Formed s) : Formed (s.rejoin w bw bar) := by
  unfold State.rejoin
  dsimp only
  split
  · exact h
  · split
    · split
      · exact formed_raiseOn h
      · split
        · exact formed_acquire h
        · simpa using h
    · exact h

@[simp] theorem formed_restoreAt {w : WKey} {p : Place} (h : Formed s) : Formed (s.restoreAt w p) := by
  unfold State.restoreAt
  extract_lets q s0 done
  have h0 : Formed s0 := by simp [s0, h]
  have hd : OptFormed Prod.fst done :=
    ((formed_restoreSpad (by simp [h0])).bind fun _ h1 => formed_restoreWindowRegs h1).bind fun _ h2 =>
      formed_restoreRecord h2
  clear_value done
  split
  · exact formed_frameFault h0
  · rename_i s2 bw
    have h2 : Formed s2 := hd.of_pair rfl
    split
    · exact formed_frameFault h2
    · rename_i s3 e
      have h3 : Formed s3 := (formed_foldOpt (fun _ _ ha => formed_restoreFork ha) h2).of_some e
      simp [h3]

theorem formed_placeOne {l : Launch} {w : WKey} (h : Formed s) : OptFormed id (s.placeOne l w) := by
  unfold State.placeOne
  cases s.choosePlace l (s.stageD w) with
  | none => exact .none
  | some p => exact .some (formed_restoreAt h)

theorem formed_execRestore {w : WKey} (h : Formed s) : OutFormed (execRestore w s) := by
  unfold execRestore
  split
  · split
    · exact .next h
    · split
      · exact .next h
      · rename_i s1 e
        have h1 : Formed s1 := (formed_foldOpt (fun _ _ ha => formed_placeOne ha) h).of_some e
        exact .next h1
  · exact .next h

theorem formed_execRelease {w : WKey} (h : Formed s) : OutFormed (execRelease w s) := by
  unfold execRelease
  dsimp only
  split
  · exact .next h
  · split
    · exact .next (formed_frameFault h)
    · rename_i t1 _ e2
      have h2 := (formed_frameRead h).of_pair e2
      split
      · exact .next h
      · split
        · split
          · exact .next h
          · exact .next (formed_returnWorker h2)
        · split
          · exact .next h
          · refine .next ?_
            refine formed_stopWorker ?_
            split
            · exact h2
            · simp [h2]

theorem formed_execWorkerSwitch {vc : Nat} (h : Formed s) : OutFormed (execWorkerSwitch vc s) := by
  unfold execWorkerSwitch
  extract_lets here busy
  split
  · split
    · exact .next h
    · rename_i s1 _ _ _ _ _
      have h1 : Formed s1 := formed_foldl (fun _ _ ha => by simpa using ha) h
      exact .next (by simpa using h1)
  · exact .next h

/-! ## The kernel’s operations on frames and contexts -/

@[simp] theorem formed_dropTranslations {d : Drop} (h : Formed s) : Formed (s.dropTranslations d) := by
  unfold State.dropTranslations
  extract_lets s1
  have h1 : Formed s1 := h
  refine formed_foldl (fun a x ha => ?_) ?_
  · dsimp only
    split
    · simpa using ha
    · exact ha
  · exact h1

@[simp] theorem formed_dropReplicas {pages : List Nat} (h : Formed s) : Formed (s.dropReplicas pages) := by
  unfold State.dropReplicas
  exact h

@[simp] theorem formed_setRoot {c : Nat} {r : Word} (h : Formed s) : Formed (s.setRoot c r) := by
  unfold State.setRoot
  split <;> exact h

@[simp] theorem formed_startDrop {d : Drop} {gd : BitVec 5} (h : Formed s) : Formed (s.startDrop d gd) := by
  unfold State.startDrop
  simp [h]

theorem formed_tlbinvAccess {f : FTR} {d : Drop} {ok : Bool} (h : Formed s) : OutFormed (tlbinvAccess f d ok s) := by
  unfold tlbinvAccess
  split
  · exact .next h
  · split
    · rename_i t1 _ e2
      have h2 := formed_fst (formed_release h) e2
      split
      · exact .next h2
      · split
        · exact .next h2
        · exact .next (formed_startDrop h2)

theorem formed_execTlbinvPage {f : FTR} (h : Formed s) : OutFormed (execTlbinvPage f s) := by
  unfold execTlbinvPage
  refine formed_checked h fun s h => ?_
  dsimp only
  exact formed_tlbinvAccess h

theorem formed_execTlbinvCtx {f : FTR} (h : Formed s) : OutFormed (execTlbinvCtx f s) := by
  unfold execTlbinvCtx
  exact formed_checked h fun _ h => formed_tlbinvAccess h

theorem formed_execTlbinvAll {f : FTR} (h : Formed s) : OutFormed (execTlbinvAll f s) := by
  unfold execTlbinvAll
  exact formed_checked h fun _ h => formed_tlbinvAccess h

@[simp] theorem formed_endDrop {q : SeqId} {gd : BitVec 5} {num : Nat} {pages : List Nat} {roots : List (Nat × Word)}
    (h : Formed s) : Formed (s.endDrop q gd num pages roots) := by
  unfold State.endDrop
  extract_lets s1
  have h1 : Formed s1 := by
    simpa [s1] using formed_dropReplicas (formed_foldl (fun _ _ ha => formed_setRoot ha) h)
  exact formed_foldl (fun _ _ ha => by simpa using ha) h1

@[simp] theorem formed_endDrops (h : Formed s) : Formed s.endDrops := by
  unfold State.endDrops
  refine formed_foldl (fun a x ha => ?_) ?_
  · split
    · split
      · exact ha
      · exact formed_endDrop ha
    · exact ha
  · exact h

@[simp] theorem formed_tlbPut {t : TlbEntry} (h : Formed s) : Formed (s.tlbPut t) := by
  unfold State.tlbPut
  exact h

theorem formed_execPageWalk {ctx : Nat} {va : BitVec 64} {use : WalkUse} {holder : Nat} (h : Formed s) :
    OutFormed (execPageWalk ctx va use holder s) := by
  unfold execPageWalk
  extract_lets s1
  have h1 : Formed s1 := by
    simp only [s1]
    split
    · split
      · simp [h]
      · exact h
    · exact h
  split
  · exact .next h1
  · split
    · split
      · exact .next h1
      · exact .next (formed_tlbPut (formed_foldl (fun _ _ ha => formed_walkRead ha) h1))
    · split
      · exact .next h1
      · split
        · exact .next h1
        · exact .next (formed_tlbPut (formed_foldl (fun _ _ ha => formed_walkRead ha) h1))

theorem formed_threadAccess {va : Word} {write : Bool} (h : Formed s) :
    ExFormed OutFormed Prod.fst (threadAccess va write s) := by
  unfold threadAccess
  split
  · simp [h]
  · split
    · simp [h]
    · split
      · simp
      · split
        · simpa using h
        · simp [h]

theorem formed_execCtxsv {f : FIM} (h : Formed s) : OutFormed (execCtxsv f s) := by
  unfold execCtxsv
  refine formed_checked h fun s h => ?_
  dsimp only
  split
  · rename_i e1
    exact (formed_threadAccess h).of_error e1
  · rename_i t1 _ e2
    have h2 := (formed_threadAccess h).of_pair e2
    simp [h2]

theorem formed_execCtxld {f : FIM} (h : Formed s) : OutFormed (execCtxld f s) := by
  unfold execCtxld
  refine formed_checked h fun s h => ?_
  split
  · rename_i e
    exact (formed_threadAccess h).of_error e
  · rename_i s1 l e
    have h1 : Formed s1 := (formed_threadAccess h).of_pair e
    clear e
    split
    rename_i s2 r m e2
    have h2 : Formed s2 := formed_fst (formed_readPieces h1) e2
    clear e2
    split
    · exact .next (formed_raiseMark h2)
    · generalize (threadOk r && s2.enabled (wordAt r 1 % 2 ^ 9)) = c
      split
      · exact .next (by simpa using h2)
      · exact .next (by simpa using h2)

theorem formed_execCtxsvV {f : FIM} (h : Formed s) : OutFormed (execCtxsvV f s) := by
  unfold execCtxsvV
  refine formed_checked h fun s h => ?_
  split
  · exact .next h
  · split
    · split
      · rename_i t1 e2
        have h2 := (formed_saveVector h).of_some e2
        exact .next h2
      · exact .next (formed_frameFault h)
    · exact .next (formed_raise h)

theorem formed_execCtxldV {f : FIM} (h : Formed s) : OutFormed (execCtxldV f s) := by
  unfold execCtxldV
  refine formed_checked h fun s h => ?_
  split
  · exact .next h
  · split
    · split
      · exact .next h
      · split
        · rename_i t1 e2
          have h2 := (formed_loadVector h).of_some e2
          exact .next h2
        · exact .next (formed_frameFault h)
    · exact .next (formed_raise h)

theorem formed_spillAll {w : WKey} (h : Formed s) : OptFormed id (s.spillAll w) := by
  unfold State.spillAll
  dsimp only
  split
  · exact .none
  · rename_i t1 e2
    have h2 := (formed_saveBlocks h).of_some e2
    simpa using h2

theorem formed_execCtxsvVK {f : FIM} (h : Formed s) : OutFormed (execCtxsvVK f s) := by
  unfold execCtxsvVK
  refine formed_checked h fun s h => ?_
  split
  · exact .next h
  · split
    · rename_i t1 e2
      have h2 := (formed_spillAll h).of_some e2
      exact .next h2
    · simp [h]

theorem formed_execCtxldVK {f : FIM} (h : Formed s) : OutFormed (execCtxldVK f s) := by
  unfold execCtxldVK
  refine formed_checked h fun s h => ?_
  dsimp only
  split
  · exact .next h
  · simpa using h

/-! ## Regions and sweeps -/

theorem formed_execRgset {f : FTR} (h : Formed s) : OutFormed (execRgset f s) := by
  unfold execRgset
  refine formed_checked h fun s h => ?_
  dsimp only
  split
  · exact .next (formed_raise h)
  · split
    · exact .next (formed_raise h)
    · split
      · exact .next (formed_raise h)
      · split
        · exact .next (formed_raise h)
        · split
          · exact .next h
          · split <;> simp [h]

theorem formed_execRgrd {f : FTR} (h : Formed s) : OutFormed (execRgrd f s) := by
  unfold execRgrd
  refine formed_checked h fun s h => ?_
  dsimp only
  split
  · exact .next (formed_raise h)
  · exact .next h

@[simp] theorem formed_publishOwn (h : Formed s) : Formed (s.publishOwn).1 := by
  unfold State.publishOwn
  dsimp only
  split
  · exact h
  · split
    · exact h
    · simp [h]

theorem formed_sweepAccess {f : FIM} {renew : Bool} (h : Formed s) : OutFormed (sweepAccess f renew s) := by
  unfold sweepAccess
  dsimp only
  split
  · exact .next h
  · split
    · exact .next (formed_raise h)
    · split
      · exact .next (formed_raiseAcc h)
      · split
        · simp [h]
        · split <;> simp [h]

theorem formed_execSettle {f : FIM} (h : Formed s) : OutFormed (execSettle f s) := by
  unfold execSettle
  exact formed_checked h fun _ h => formed_sweepAccess h

theorem formed_execRenew {f : FIM} (h : Formed s) : OutFormed (execRenew f s) := by
  unfold execRenew
  exact formed_checked h fun _ h => formed_sweepAccess h

@[simp] theorem State.sweptLine_mem {i line stranded pinned : Nat} :
    (s.sweptLine i line stranded pinned).mem = s.mem := rfl

@[simp] theorem formed_settleLine {la : Nat} (h : Formed s) : Formed (s.settleLine la) := by
  unfold State.settleLine
  extract_lets s1
  have h1 : Formed s1 := by simp [s1, h]
  split
  · split
    · exact formed_cleanLine h1
    · exact h1
  · exact h1

theorem formed_execSettlePoint {sweep line : Nat} (h : Formed s) : OutFormed (execSettlePoint sweep line s) := by
  unfold execSettlePoint
  split
  · simp [h]
  · exact .next h

@[simp] theorem formed_dropReplicaLine {la : Nat} (h : Formed s) : Formed (s.dropReplicaLine la) := by
  unfold State.dropReplicaLine
  exact h

@[simp] theorem formed_renewLine {la : Nat} (h : Formed s) : Formed (s.renewLine la).1 := by
  unfold State.renewLine
  extract_lets s1
  have h1 : Formed s1 := by simp [s1, h]
  split
  · split
    · exact h1
    · split <;> exact h1
  · exact h1

theorem formed_execRenewPoint {sweep line : Nat} (h : Formed s) : OutFormed (execRenewPoint sweep line s) := by
  unfold execRenewPoint
  split
  · simp [h]
  · exact .next h

@[simp] theorem State.dropSweep_mem {i : Nat} : (s.dropSweep i).mem = s.mem := rfl

@[simp] theorem formed_endSweep {w : Sweep} (h : Formed s) : Formed (s.endSweep w) := by
  unfold State.endSweep
  extract_lets s1
  have h1 : Formed s1 := by simp [s1, h]
  split
  · simp [h1]
  · exact h1

theorem formed_execSettleCompletion {sweep : Nat} (h : Formed s) : OutFormed (execSettleCompletion sweep s) := by
  unfold execSettleCompletion
  dsimp only
  split
  · exact .next (formed_endSweep h)
  · exact .next h

theorem formed_execRenewCompletion {sweep : Nat} (h : Formed s) : OutFormed (execRenewCompletion sweep s) := by
  unfold execRenewCompletion
  dsimp only
  split
  · simp [h]
  · exact .next h

/-! ## The matrix unit -/

@[simp] theorem State.setWinReg_mem {k : BitVec 3} {r : WindowReg} : (s.setWinReg k r).mem = s.mem := by
  unfold State.setWinReg
  dsimp only
  split
  · simp
  · rfl

@[simp] theorem formed_newCmd {kind : MxKind} {follow : Option Nat} {window : Nat} {a b : Word} {k : Nat}
    {pages : List PageMap} {left : List Nat} (h : Formed s) :
    Formed (s.newCmd kind follow window a b k pages left).1 := by
  unfold State.newCmd
  dsimp only
  split <;> exact h

@[simp] theorem State.endCopy_mem {c : CpCmd} {isFailed : Bool} : (s.endCopy c isFailed).mem = s.mem := by
  unfold State.endCopy
  simp

@[simp] theorem formed_reportCopy {c : CpCmd} {cause off : Nat} {eaddr : Word} (h : Formed s) :
    Formed (s.reportCopy c cause off eaddr) := by
  unfold State.reportCopy
  simp [h]

@[simp] theorem formed_endCmd {c : MxCmd} (h : Formed s) : Formed (s.endCmd c) := by
  unfold State.endCmd
  extract_lets s1
  have h1 : Formed s1 := h
  clear_value s1
  split
  · rename_i s2 _ _
    have h2 : Formed s2 := by
      simp only [s2]
      split
      · exact formed_reportFault h1
      · exact h1
    simpa using h2
  · split
    · exact h1
    · split
      · simp [h1]
      · simp [h1]

@[simp] theorem formed_settleCmd {i : Nat} (h : Formed s) : Formed (s.settleCmd i) := by
  unfold State.settleCmd
  split
  · exact h
  · split
    · split
      · exact formed_endCmd h
      · exact h
    · split
      · exact formed_endCmd h
      · exact h
    · split
      · exact formed_endCmd h
      · exact h
    · split
      · exact formed_endCmd h
      · exact h
    · split
      · exact formed_endCmd h
      · exact h
    · exact h

@[simp] theorem formed_acceptCmd {i : Nat} (h : Formed s) : Formed (s.acceptCmd i) := by
  unfold State.acceptCmd
  exact formed_settleCmd h

@[simp] theorem formed_issueCmd {i : Instr} {c : MxCmd} (h : Formed s) : Formed (s.issueCmd i c) := by
  unfold State.issueCmd
  dsimp only
  split
  · exact h
  · simp [h]

theorem formed_openWindow {i : Instr} {f : FTR} {zero : Bool} (h : Formed s) : OutFormed (openWindow i f zero s) := by
  unfold openWindow
  extract_lets k
  split
  · exact .next h
  · split
    · exact .next (formed_raiseFrom h)
    · split
      · exact .next (formed_raiseAcc h)
      · split
        · exact .fault
        · split
          rename_i w s1 e
          have h1 : Formed s1 := by
            have h2 : Formed (w, s1).2 := e ▸ formed_markAll h
            exact h2
          extract_lets ls win s2
          have h2 : Formed s2 := by simpa [s2] using h1
          clear_value s2
          split
          rename_i s3 c e3
          exact .next (formed_issueCmd (formed_fst (formed_newCmd h2) e3))

theorem formed_execMopenLoad {f : FTR} (h : Formed s) : OutFormed (execMopenLoad f s) := by
  unfold execMopenLoad
  exact formed_checked h fun _ h => formed_openWindow h

theorem formed_execMopenZero {f : FTR} (h : Formed s) : OutFormed (execMopenZero f s) := by
  unfold execMopenZero
  exact formed_checked h fun _ h => formed_openWindow h

theorem formed_execMclose {f : FTR} (h : Formed s) : OutFormed (execMclose f s) := by
  unfold execMclose
  refine formed_checked h fun s h => ?_
  dsimp only
  split
  · exact .next h
  · split
    · exact .next (formed_raiseFrom h)
    · simp [h]

theorem formed_prepareZero {f : FTR} {follow : Option Nat} (h : Formed s) :
    ExFormed (fun _ => True) Prod.fst (s.prepareZero f follow) := by
  unfold State.prepareZero
  extract_lets r
  split
  · exact .error trivial
  · split
    · exact .error trivial
    · exact .ok (formed_newCmd h)

theorem formed_execMzero {f : FTR} (h : Formed s) : OutFormed (execMzero f s) := by
  unfold execMzero
  refine formed_checked h fun s h => ?_
  split
  · exact .next h
  · split
    · exact .next (formed_raiseAcc h)
    · rename_i t1 _ e2
      have h2 := (formed_prepareZero h).of_pair e2
      exact .next (formed_issueCmd h2)

@[simp] theorem State.issueState_mem {i : Instr} : (s.issueState i).mem = s.mem := by
  unfold State.issueState
  split <;> rfl

theorem formed_execMpred {f : FTR} (h : Formed s) : OutFormed (execMpred f s) := by
  unfold execMpred
  refine formed_checked h fun s h => ?_
  dsimp only
  split
  · exact .next h
  · split
    · exact .next (formed_raiseFrom h)
    · simpa using h

theorem formed_execMfmt {f : FTR} (h : Formed s) : OutFormed (execMfmt f s) := by
  unfold execMfmt
  refine formed_checked h fun s h => ?_
  dsimp only
  split
  · exact .next h
  · split
    · exact .next (formed_raiseFrom h)
    · split
      · exact .next (formed_raiseFrom h)
      · split
        · exact .next (formed_raiseFrom h)
        · split
          · exact .next (formed_raiseFrom h)
          · simpa using h

theorem formed_prepareMma {f : FTR} {strict : Bool} {follow : Option Nat} (h : Formed s) :
    ExFormed (fun _ => True) Prod.fst (s.prepareMma f strict follow) := by
  unfold State.prepareMma
  extract_lets r
  split
  · exact .error trivial
  · split
    · exact .error trivial
    · exact .ok (formed_newCmd (formed_markAll h))

theorem formed_mmaAccess {i : Instr} {f : FTR} {strict : Bool} (h : Formed s) : OutFormed (mmaAccess i f strict s) := by
  unfold mmaAccess
  split
  · exact .next h
  · split
    · exact .next (formed_raiseAcc h)
    · rename_i t1 _ e2
      have h2 := (formed_prepareMma h).of_pair e2
      split
      · exact .fault
      · split
        · exact .next (formed_issueCmd h2)
        · split
          · rename_i t3 _ e4
            have h4 := formed_fst (formed_release h) e4
            split
            · split
              · exact .next (formed_raiseAcc h4)
              · rename_i t5 _ e6
                have h6 := (formed_prepareMma h4).of_pair e6
                exact .next (formed_issueCmd h6)
            · exact .next h4

theorem formed_execMmas {f : FTR} (h : Formed s) : OutFormed (execMmas f s) := by
  unfold execMmas
  exact formed_checked h fun _ h => formed_mmaAccess h

theorem formed_execMmaf {f : FTR} (h : Formed s) : OutFormed (execMmaf f s) := by
  unfold execMmaf
  exact formed_checked h fun _ h => formed_mmaAccess h

@[simp] theorem formed_reached {c : MxCmd} {la : Nat} (h : Formed s) : Formed (s.reached c la) := by
  unfold State.reached
  exact formed_settleCmd h

@[simp] theorem formed_zeroLine {la : Nat} (h : Formed s) : Formed (s.zeroLine la) := by
  unfold State.zeroLine
  split
  · rename_i t1 _ e2
    have h2 := formed_fst (formed_coherent h) e2
    split
    · exact h2
    · exact formed_homeWrite h2

theorem formed_execWindowPin {cmd line : Nat} (h : Formed s) : OutFormed (execWindowPin cmd line s) := by
  unfold execWindowPin
  split
  · exact .next h
  · split
    · exact .next h
    · split
      · split
        · exact .next h
        · simp [h]
      · simp [h]
      · split
        · exact .next h
        · simp [h]
      · exact .next h

theorem formed_execMcloseCompletion {cmd : Nat} (h : Formed s) : OutFormed (execMcloseCompletion cmd s) := by
  unfold execMcloseCompletion
  dsimp only
  split
  · exact .next h
  · split
    · exact .next h
    · split
      · exact .next (formed_endCmd h)
      · simp [h]

theorem formed_execMxCommandStart {cluster : Nat} (h : Formed s) : OutFormed (execMxCommandStart cluster s) := by
  unfold execMxCommandStart
  dsimp only
  split
  · exact .next h
  · split <;> exact .next h

@[simp] theorem formed_fetchOperand {c : MxCmd} {va : Word} (h : Formed s) : Formed (s.fetchOperand c va).1 := by
  unfold State.fetchOperand
  split
  · split <;> simp [h]

@[simp] theorem formed_fetchSpan {c : MxCmd} {n : Nat} {va : Word} {acc : List (Word × SliceLine)} (h : Formed s) :
    Formed (s.fetchSpan c n va acc).1 := by
  induction n generalizing s va acc with
  | zero => exact h
  | succ n ih =>
    unfold State.fetchSpan
    split
    · exact ih h
    · exact ih (formed_fetchOperand h)

@[simp] theorem formed_fetchSpans {c : MxCmd} {l : List (Word × Nat)} {acc : List (Word × SliceLine)} (h : Formed s) :
    Formed (s.fetchSpans c l acc).1 := by
  induction l generalizing s acc with
  | nil => exact h
  | cons p r ih => exact ih (formed_fetchSpan h)

@[simp] theorem formed_sendPartials {c : MxCmd} {pick : Nat} (h : Formed s) : Formed (s.sendPartials c pick) := by
  unfold State.sendPartials
  split
  · exact formed_endCmd h
  · exact formed_foldl (fun _ _ ha => by simpa using ha) h

@[simp] theorem formed_readSlice {c : MxCmd} (h : Formed s) : Formed (s.readSlice c).1 := by
  unfold State.readSlice
  exact formed_fetchSpans h

theorem formed_execKSlice {cluster array : Nat} {ue : Bool} (h : Formed s) :
    OutFormed (execKSlice cluster array ue s) := by
  unfold execKSlice
  dsimp only
  split
  · exact .next h
  · split
    · exact .next h
    · split
      · split
        · refine .next ?_
          refine formed_sendPartials ?_
          simp [h]
        · simp [h]
      · split <;> simp [h]

@[simp] theorem formed_addToLine {la : Nat} {vals : List (BitVec 32)} (h : Formed s) :
    Formed (s.addToLine la vals) := by
  unfold State.addToLine
  split
  · rename_i t1 _ e2
    have h2 := formed_fst (formed_coherent h) e2
    split
    · exact h2
    · simp [h2]

@[simp] theorem formed_settlePartials {i : Nat} (h : Formed s) : Formed (s.settlePartials i) := by
  unfold State.settlePartials
  dsimp only
  split
  · exact h
  · split
    · exact formed_endCmd h
    · exact h

theorem formed_takePartial {m : Msg} {ue : Bool} (h : Formed s) : OptFormed id (s.takePartial m ue) := by
  unfold State.takePartial
  split
  · split
    · exact .some h
    · split
      · have h1 : Formed (s.dropMsg m.id) := h
        refine .some (formed_settlePartials (formed_addToLine ?_))
        split
        · exact formed_poisonLine h1
        · exact h1
      · exact .none
  · exact .none

theorem formed_execPartialApplication {m : Nat} {ue : Bool} (h : Formed s) :
    OutFormed (execPartialApplication m ue s) := by
  unfold execPartialApplication
  split
  · split
    · split
      · rename_i t1 e2
        have h2 := (formed_takePartial h).of_some e2
        exact .next h2
      · exact .next h
    · exact .next h
  · exact .next h

/-! ## The register file and what an entry writes -/

theorem formed_vectorIssue {i : Instr} {types : List Nat} {ga gb gc : Word} {gd : Option (BitVec 5)} (h : Formed s) :
    OutFormed (vectorIssue i types ga gb gc gd s) := by
  unfold vectorIssue
  dsimp only
  split
  · exact .next (formed_raiseFrom h)
  · split <;> exact .next h

theorem formed_issueV3 {i : Instr} {f : FV3} {types : List Nat} (h : Formed s) : OutFormed (issueV3 i f types s) := by
  unfold issueV3
  exact formed_checked h fun _ h => formed_vectorIssue h

theorem formed_issueV4 {i : Instr} {f : FV4} {types : List Nat} (h : Formed s) : OutFormed (issueV4 i f types s) := by
  unfold issueV4
  exact formed_checked h fun _ h => formed_vectorIssue h

@[simp] theorem State.modVReg_mem {q : SeqId} {k : Nat} {f : VReg → VReg} : (s.modVReg q k f).mem = s.mem := by
  unfold State.modVReg
  simp

theorem formed_spillBlock {w : WKey} {k b : Nat} (h : Formed s) : OptFormed id (s.spillBlock w k b) := by
  unfold State.spillBlock
  extract_lets x r bit done
  have hdone {a : State} (ha : Formed a) : Formed (done a) := by simpa [done] using ha
  clear_value done
  split
  · generalize e : s.frameWrite w (blockOffset x.vncode k b) (blockBytes r.bits b) = o
    have ho : OptFormed id o := e ▸ formed_frameWrite h
    cases ho with
    | some h1 => exact .some (hdone h1)
    | none => exact .none
  · exact .some (hdone h)

theorem formed_roomForGranule {w : WKey} (h : Formed s) : ExFormed Formed id (s.roomForGranule w) := by
  unfold State.roomForGranule
  dsimp only
  split
  · exact .ok h
  · split
    · exact .ok h
    · split
      · exact .ok h
      · split
        · rename_i t1 e2
          have h2 := (formed_spillBlock h).of_some e2
          exact .ok h2
        · simp [h]

theorem formed_needBlock {w : WKey} {k b : Nat} (h : Formed s) : ExFormed Formed id (s.needBlock w k b) := by
  unfold State.needBlock
  extract_lets q
  split
  · exact .ok h
  · split
    · rename_i e
      exact .error ((formed_roomForGranule h).of_error e)
    · rename_i e
      have h1 := (formed_roomForGranule h).of_ok e
      extract_lets x
      split
      · split
        · exact .error (formed_frameFault h1)
        · rename_i e2
          have h2 := (formed_frameRead h1).of_pair e2
          exact .ok (by simpa using h2)
      · exact .ok (by simpa using h1)

theorem formed_needBlocks {w : WKey} {l : List (Nat × Nat)} (h : Formed s) : ExFormed Formed id (s.needBlocks w l) := by
  induction l generalizing s with
  | nil => exact .ok h
  | cons p r ih =>
    unfold State.needBlocks
    split
    · rename_i e
      exact .error ((formed_needBlock h).of_error e)
    · rename_i e
      exact ih ((formed_needBlock h).of_ok e)

@[simp] theorem State.raiseFlags_mem {q : SeqId} {f : BitVec 8} : (s.raiseFlags q f).mem = s.mem := by
  unfold State.raiseFlags
  simp

@[simp] theorem State.putMask_mem {q : SeqId} {k : Nat} {l : List (Nat × Bool)} : (s.putMask q k l).mem = s.mem := by
  unfold State.putMask
  simp

@[simp] theorem formed_applyEffect {q : SeqId} {by_ : Nat} {o : Operands} {ef : Effect} (h : Formed s) :
    Formed (s.applyEffect q by_ o ef) := by
  unfold State.applyEffect
  extract_lets m s1 s2 s3
  have h1 : Formed s1 := by
    simp only [s1]
    split
    · simpa using h
    · exact h
  have h2 : Formed s2 := by
    simp only [s2]
    split
    · simpa using h1
    · exact h1
  have h3 : Formed s3 := by simp [s3, h2]
  split
  · split
    · simpa using h3
    · exact h3
  · exact h3

theorem formed_runEffect {w : WKey} {by_ : Nat} {o : Operands} {index reads : Worker → List Part} {f : Worker → Effect}
    (h : Formed s) : ExFormed Formed id (s.runEffect w by_ o index reads f) := by
  unfold State.runEffect
  extract_lets q
  split
  · rename_i e
    exact .error ((formed_needBlocks h).of_error e)
  · rename_i e
    have h1 := (formed_needBlocks h).of_ok e
    split
    · rename_i e2
      exact .error ((formed_needBlocks h1).of_error e2)
    · rename_i e2
      have h2 := (formed_needBlocks h1).of_ok e2
      extract_lets ef
      split
      · rename_i e3
        exact .error ((formed_needBlocks h2).of_error e3)
      · rename_i e3
        exact .ok (formed_applyEffect ((formed_needBlocks h2).of_ok e3))

/-! ## Vector arithmetic -/

theorem formed_execVget {f : FV3} (h : Formed s) : OutFormed (execVget f s) := by
  unfold execVget
  refine formed_checked h fun s h => ?_
  split
  · exact .next (formed_raiseFrom h)
  · exact .next h

theorem formed_execVput {f : FV3} (h : Formed s) : OutFormed (execVput f s) := by
  unfold execVput
  refine formed_checked h fun s h => ?_
  dsimp only
  split
  · exact .next (formed_raiseFrom h)
  · exact .next h

@[simp] theorem State.clearStart_mem : s.clearStart.mem = s.mem := rfl

theorem formed_execMpop {f : FV3} (h : Formed s) : OutFormed (execMpop f s) := by
  unfold execMpop
  refine formed_checked h fun s h => ?_
  dsimp only
  split <;> exact .next h

theorem formed_execMfirst {f : FV3} (h : Formed s) : OutFormed (execMfirst f s) := by
  unfold execMfirst
  refine formed_checked h fun s h => ?_
  split
  · exact .next h
  · split <;> exact .next h

/-! ## Vector permutations -/

theorem formed_execVslideup {f : FV4} (h : Formed s) : OutFormed (execVslideup f s) := by
  unfold execVslideup
  refine formed_checked h fun s h => ?_
  split
  · exact .next (formed_raiseFrom h)
  · exact formed_vectorIssue h

theorem formed_execVbfx {f : FV3} (h : Formed s) : OutFormed (execVbfx f s) := by
  unfold execVbfx
  refine formed_checked h fun s h => ?_
  dsimp only
  split
  · exact .next (formed_raiseFrom h)
  · exact formed_vectorIssue h

theorem formed_execVreds {op : RedsOp} {f : FV4} (h : Formed s) : OutFormed (execVreds op f s) := by
  unfold execVreds
  exact formed_checked h fun _ h => formed_vectorIssue h

theorem formed_execVdot {f : FV4} (h : Formed s) : OutFormed (execVdot f s) := by
  unfold execVdot
  exact formed_checked h fun _ h => formed_vectorIssue h

theorem formed_execVlgdot {f : FV3} (h : Formed s) : OutFormed (execVlgdot f s) := by
  unfold execVlgdot
  refine formed_checked h fun s h => ?_
  split
  · exact .next (formed_raiseFrom h)
  · split
    · exact .next h
    · exact formed_vectorIssue h

/-! ## Vector memory instructions -/

theorem formed_execVsetl {f : FIM} (h : Formed s) : OutFormed (execVsetl f s) := by
  unfold execVsetl
  exact formed_checked h fun _ h => .next h

theorem formed_execVdecl {f : FIM} (h : Formed s) : OutFormed (execVdecl f s) := by
  unfold execVdecl
  refine formed_checked h fun s h => ?_
  extract_lets s1
  have h1 : Formed s1 := by simp [s1, h]
  split
  · exact .next h1
  · split <;> exact .next h1

@[simp] theorem State.setStream_mem {q : BitVec 4} {r : Stream} : (s.setStream q r).mem = s.mem := rfl

theorem formed_execQset {f : FIM} (h : Formed s) : OutFormed (execQset f s) := by
  unfold execQset
  exact formed_checked h fun _ h => .next h

theorem formed_execQadv {f : FIM} (h : Formed s) : OutFormed (execQadv f s) := by
  unfold execQadv
  refine formed_checked h fun s h => ?_
  dsimp only
  split
  · exact .next (formed_raise h)
  · exact .next h

theorem formed_execWalkAhead {w : WKey} {q : BitVec 4} {slot : Nat} (h : Formed s) :
    OutFormed (execWalkAhead w q slot s) := by
  unfold execWalkAhead
  dsimp only
  split
  · exact .next h
  · split
    · exact .next h
    · split
      · exact .next h
      · simpa using h

@[simp] theorem State.padPut_mem {w : WKey} {vmt : BitVec 2} {a : Word} {d m : Byte} :
    (s.padPut w vmt a d m).mem = s.mem := by
  unfold State.padPut
  dsimp only
  split
  · rfl
  · simp

@[simp] theorem formed_padStore {w : WKey} {vmt : BitVec 2} {p : Piece} {v : Nat} (h : Formed s) :
    Formed (s.padStore w vmt p v) := by
  unfold State.padStore
  refine formed_foldl (fun a x ha => ?_) ?_
  · simpa using ha
  · exact h

@[simp] theorem State.pushEntry_mem {e : VEntry} : (s.pushEntry e).mem = s.mem := rfl

theorem formed_computedIssue {i : Instr} {f : FVM} {want : Want} (h : Formed s) :
    OutFormed (computedIssue i f want s) := by
  unfold computedIssue
  refine formed_checked h fun s h => ?_
  split
  · exact .next (formed_raiseFrom h)
  · split
    · exact .next (formed_raiseFrom h)
    · split
      · split
        rename_i id s1 e1
        have h1 : Formed s1 := by
          have h2 : Formed (id, s1).2 := e1 ▸ h
          exact h2
        extract_lets _ e pieces
        clear_value e
        split
        split
        · exact .fault
        · extract_lets s2 e2 e3
          have h3 : Formed s2 := formed_markAll h1
          clear_value s2 e2 e3
          split
          · exact .next (by simpa using h3)
          · exact .next (formed_raiseOn (by simpa using h3))
      · exact .next h

theorem formed_indexedIssue {i : Instr} {f : FVM} (h : Formed s) : OutFormed (indexedIssue i f s) := by
  unfold indexedIssue
  refine formed_checked h fun s h => ?_
  split
  · exact .next (formed_raiseFrom h)
  · split
    · exact .next (formed_raiseFrom h)
    · exact .next h

theorem formed_execVacc {f : FTR} (h : Formed s) : OutFormed (execVacc f s) := by
  unfold execVacc
  refine formed_checked h fun s h => ?_
  dsimp only
  split
  · exact .next (formed_raiseFrom h)
  · split
    · exact .next (formed_raiseFrom h)
    · split
      · exact .next (formed_raiseFrom h)
      · split
        · exact .next h
        · exact .next (formed_raiseFrom h)

@[simp] theorem State.sendPiece_mem {q : SeqId} {e : VEntry} {p : Piece} {body : Body} :
    (s.sendPiece q e p body).mem = s.mem := rfl

theorem formed_openReads {w : WKey} {index reads : Worker → List Part} (h : Formed s) :
    ExFormed Formed id (s.openReads w index reads) := by
  unfold State.openReads
  extract_lets q
  split
  · rename_i e
    exact .error ((formed_needBlocks h).of_error e)
  · rename_i e
    exact formed_needBlocks ((formed_needBlocks h).of_ok e)

theorem formed_openDests {w : WKey} {e : VEntry} {dst : List Nat} {bytes : Nat} {m : Option Mark} (h : Formed s) :
    ExFormed Formed id (s.openDests w e dst bytes m) := by
  unfold State.openDests
  extract_lets q
  split
  · rename_i e1
    exact .error ((formed_needBlocks h).of_error e1)
  · rename_i e1
    exact .ok (formed_foldl (fun _ _ ha => by simpa using ha) ((formed_needBlocks h).of_ok e1))

@[simp] theorem State.padLoad_mem {w : WKey} {e : VEntry} {whole : Bool} {p : Piece} :
    (s.padLoad w e whole p).mem = s.mem := rfl

@[simp] theorem State.sendPad_mem {w o : WKey} {off : Nat} {p : Piece} {store : Option (Nat × Nat)} {dest : Dest} :
    (s.sendPad w o off p store dest).mem = s.mem := rfl

@[simp] theorem State.loadPad_mem {w : WKey} {e : VEntry} {whole : Bool} {p : Piece} :
    (s.loadPad w e whole p).mem = s.mem := by
  unfold State.loadPad
  split
  · split <;> rfl
  · rfl

@[simp] theorem formed_loadPieces {w : WKey} {e : VEntry} {op : Piece → MemOp} {whole : Bool}
    {acq : Option (BitVec 3)} {l : List Piece} (h : Formed s) : Formed (s.loadPieces w e op whole acq l) := by
  unfold State.loadPieces
  dsimp only
  split
  · refine formed_foldl (fun a x ha => ?_) ?_
    · simpa using ha
    · exact h
  · split
    · refine formed_foldl (fun _ _ ha => ?_) h
      exact ha
    · refine formed_foldl (fun _ _ ha => ?_) h
      exact ha

@[simp] theorem formed_storeLine {w : WKey} {e : VEntry} {y : Writing} (h : Formed s) : Formed (s.storeLine w e y) := by
  unfold State.storeLine
  dsimp only
  split
  · exact formed_writeCached h
  · exact h

@[simp] theorem formed_storePad {w : WKey} {e : VEntry} {p : Piece} (h : Formed s) : Formed (s.storePad w e p) := by
  unfold State.storePad
  dsimp only
  split
  · split
    · exact formed_padStore h
    · exact h
  · exact h

@[simp] theorem formed_storePieces {w : WKey} {e : VEntry} {l : List Piece} (h : Formed s) :
    Formed (s.storePieces w e l) := by
  unfold State.storePieces
  dsimp only
  split
  · exact formed_foldl (fun _ _ ha => formed_storeLine ha) h
  · exact formed_foldl (fun _ _ ha => formed_storePad ha) h

theorem formed_beforeHomes {q : SeqId} {e : VEntry} {l : List Piece} (h : Formed s) :
    OptFormed id (s.beforeHomes q e l) := by
  unfold State.beforeHomes
  exact formed_foldOpt (fun _ _ ha => formed_beforeHome ha) h

@[simp] theorem State.unmarkChecked_mem {w : WKey} {e : VEntry} : (s.unmarkChecked w e).mem = s.mem := by
  unfold State.unmarkChecked
  dsimp only
  split
  · simp
  · rfl

theorem formed_checkIndexed {w : WKey} {e : VEntry} {f : FVM} {reg : Nat} {want : Want} {spaces : Bool}
    (h : Formed s) : OptFormed Prod.fst (s.checkIndexed w e f reg want spaces) := by
  unfold State.checkIndexed
  dsimp only
  split
  · exact .none
  · simp [h]

@[simp] theorem formed_vwaitRead {c : Cond} {f : FVX} {p : Nat × Nat} (h : Formed s) : Formed (s.vwaitRead c f p) := by
  unfold State.vwaitRead
  dsimp only
  split <;> simp [h]

@[simp] theorem formed_vwaitEnd {f : FVX} {w : WKey} {i : Instr} (h : Formed s) : Formed (s.vwaitEnd f w i) := by
  unfold State.vwaitEnd
  extract_lets q width e got marked vd ef
  clear_value ef
  split
  · rename_i e1
    exact (formed_needBlocks h).of_error e1
  · rename_i s1 e1
    extract_lets s2 s3
    have h2 : Formed s2 := by simpa [s2] using formed_applyEffect ((formed_needBlocks h).of_ok e1)
    have h3 : Formed s3 := h2
    clear_value s3
    split
    · simpa using formed_acquire h3
    · simpa using h3

theorem formed_vwaitBody {c : Cond} {f : FVX} {w : WKey} {places : List (Nat × Nat)} (h : Formed s) :
    OutFormed (vwaitBody c f w places s) := by
  unfold vwaitBody
  extract_lets s1
  have h1 : Formed s1 := formed_foldl (fun _ _ ha => formed_vwaitRead ha) h
  split
  · exact .next (formed_vwaitEnd h1)
  · exact .next h1

theorem formed_execVwait {c : Cond} {f : FVX} (h : Formed s) : OutFormed (execVwait c f s) := by
  unfold execVwait
  refine formed_checked h fun s h => ?_
  dsimp only
  split
  · exact .next (formed_raiseFrom h)
  · split
    · exact .next (formed_raiseFrom h)
    · split
      · exact .next h
      · split
        · split
          · rename_i t1 e2
            exact .next ((formed_openReads h).of_error e2)
          · rename_i t1 e2
            have h2 := (formed_openReads h).of_ok e2
            split
            · exact .fault
            · rename_i t3 _ _ e4
              have h4 := (formed_checkIndexed h2).of_pair e4
              split
              · exact .next (formed_raiseOn h4)
              · split
                · exact .next h
                · exact formed_vwaitBody h4
        · exact .next h

theorem formed_execVwaitWake {w : WKey} (h : Formed s) : OutFormed (execVwaitWake w s) := by
  unfold execVwaitWake
  split
  · exact formed_vwaitBody (formed_wake h)
  · exact .next h

theorem formed_execVfence {f : FIM} (h : Formed s) : OutFormed (execVfence f s) := by
  unfold execVfence
  refine formed_checked h fun s h => ?_
  split
  · exact .next h
  · split
    · rename_i t1 _ e2
      have h2 := formed_fst (formed_fence h) e2
      split <;> exact .next h2

/-! ## The vector unit -/

/-- The state that an execution goes on with is in canonical form. -/
inductive DidFormed : Did → Prop
  | wait {t : State} (h : Formed t) : DidFormed (.wait t)
  | done {t : State} {y : Option Trap} (h : Formed t) : DidFormed (.done t y)
  | device : DidFormed .device

theorem DidFormed.of_wait {d : Did} (h : DidFormed d) (e : d = .wait t) : Formed t := by
  subst e
  cases h
  assumption

theorem DidFormed.of_done {d : Did} {y : Option Trap} (h : DidFormed d) (e : d = .done t y) : Formed t := by
  subst e
  cases h
  assumption

theorem formed_loadBody {dst : List Nat} {width : Nat} {mask : BitVec 3} {op : Piece → MemOp} {acq : Option (BitVec 3)}
    {w : WKey} {e : VEntry} {l : List Piece} (h : Formed s) : DidFormed (loadBody dst width mask op acq w e l s) := by
  unfold loadBody
  have h1 : Formed (s.unmarkChecked w e) := by simpa using h
  extract_lets q bytes whole
  generalize (if l.isEmpty then [] else dst) = regs
  split
  · rename_i e1
    exact .done ((formed_openDests h1).of_error e1)
  · rename_i e1
    exact .done (formed_loadPieces ((formed_openDests h1).of_ok e1))

theorem formed_performVld {f : FVM} {e : VEntry} {w : WKey} (h : Formed s) : DidFormed (performVld f e w s) := by
  unfold performVld
  split
  · rename_i e1
    exact .done ((formed_loadBody h).of_done e1)
  · exact formed_loadBody h

theorem formed_performVst {f : FVM} {e : VEntry} {w : WKey} (h : Formed s) : DidFormed (performVst f e w s) := by
  unfold performVst
  extract_lets q l
  split
  · exact .wait h
  · split
    · rename_i e1
      exact .done ((formed_openReads h).of_error e1)
    · rename_i e1
      exact .done (formed_storePieces ((formed_openReads h).of_ok e1))

/-- An indexed form keeps the form of memory where what it does with its checked pieces keeps it. -/
theorem formed_indexed {f : FVM} {reg : Nat} {want : Want} {spaces : Bool} {e : VEntry} {w : WKey}
    {go : VEntry → List Piece → State → Did} (h : Formed s) (hgo : ∀ e l t, Formed t → DidFormed (go e l t)) :
    DidFormed (indexed f reg want spaces e w s go) := by
  unfold indexed
  split
  · rename_i e1
    exact .done ((formed_openReads h).of_error e1)
  · rename_i e1
    have h1 := (formed_openReads h).of_ok e1
    split
    · exact .device
    · rename_i e2
      split
      · exact .wait h
      · exact hgo _ _ _ ((formed_checkIndexed h1).of_pair e2)

theorem formed_performVgath {f : FVM} {e : VEntry} {w : WKey} (h : Formed s) : DidFormed (performVgath f e w s) :=
  formed_indexed h fun _ _ _ h1 => formed_loadBody h1

theorem formed_performVscat {f : FVM} {e : VEntry} {w : WKey} (h : Formed s) : DidFormed (performVscat f e w s) := by
  refine formed_indexed h fun e2 l s1 h1 => ?_
  split
  · exact .wait h
  · exact .done (formed_storePieces h1)

theorem formed_performVldl {f : FVM} {e : VEntry} {w : WKey} (h : Formed s) : DidFormed (performVldl f e w s) := by
  refine formed_indexed h fun e2 l s1 h1 => ?_
  split
  · exact .wait h
  · rename_i e3
    split
    · exact .wait h
    · exact formed_loadBody ((formed_beforeHomes h1).of_some e3)

theorem formed_performVstc {f : FVM} {e : VEntry} {w : WKey} (h : Formed s) : DidFormed (performVstc f e w s) := by
  refine formed_indexed h fun e2 l s1 h1 => ?_
  split
  · exact .wait h
  · rename_i e3
    split
    · exact .wait h
    · exact .done (formed_foldl (fun _ _ ha => by simpa using ha) ((formed_beforeHomes h1).of_some e3))

theorem formed_performVamo {op : AmoOp} {f : FVX} {e : VEntry} {w : WKey} (h : Formed s) :
    DidFormed (performVamo op f e w s) := by
  unfold performVamo
  extract_lets q
  split
  rename_i s0 ready e0
  have h0 : Formed s0 := by
    split at e0
    · exact formed_fst (formed_release h) e0
    · exact formed_fst h e0
  split
  · exact .wait h0
  · refine formed_indexed h0 fun e2 l s1 h1 => ?_
    split
    · exact .wait h0
    · rename_i e3
      have h2 := (formed_beforeHomes h1).of_some e3
      extract_lets x
      split
      · rename_i e4
        have h3 := (formed_loadBody h2).of_done e4
        split
        · exact .done (formed_acquire h3)
        · exact .done h3
      · exact formed_loadBody h2

theorem formed_performVred {op : RedOp} {f : FVX} {e : VEntry} {w : WKey} (h : Formed s) :
    DidFormed (performVred op f e w s) := by
  refine formed_indexed h fun e2 l s1 h1 => ?_
  extract_lets x
  split
  · exact .done (formed_foldl (fun _ _ ha => by simpa using ha) h1)
  · split
    · exact .wait h
    · rename_i e3
      exact .done (formed_foldl (fun _ _ ha => by simpa using ha) ((formed_beforeHomes h1).of_some e3))

theorem formed_performVacc {f : FTR} {e : VEntry} {w : WKey} (h : Formed s) : DidFormed (performVacc f e w s) := by
  unfold performVacc
  split
  · exact .wait h
  · exact formed_loadBody h

theorem formed_memoryOf {i : Instr} {p : VEntry → WKey → State → Did} (hp : memoryOf i = some p) {e : VEntry} {w : WKey}
    (h : Formed s) : DidFormed (p e w s) := by
  unfold memoryOf at hp
  split at hp <;> cases hp
  · exact formed_performVld h
  · exact formed_performVst h
  · exact formed_performVgath h
  · exact formed_performVscat h
  · exact formed_performVldl h
  · exact formed_performVstc h
  · exact formed_performVamo h
  · exact formed_performVred h
  · exact formed_performVacc h

theorem formed_dispatchMatrix {e : VEntry} {w : WKey} (h : Formed s) : DidFormed (dispatchMatrix e w s) := by
  unfold dispatchMatrix
  extract_lets product
  have hp : DidFormed product := by
    simp only [product]
    have h1 : Formed (s.release (.worker w) 2).1 := formed_release h
    split
    · exact .done (formed_acceptCmd h1)
    · exact .wait h1
  split
  · exact hp
  · exact hp
  · exact .done h
  · exact .done h
  · exact .done (formed_acceptCmd h)

theorem formed_execute {w : WKey} {e : VEntry} (h : Formed s) : DidFormed (s.execute w e) := by
  unfold State.execute
  split
  · rename_i e1
    exact formed_memoryOf e1 h
  · split
    rename_i pick s1 e1
    have h1 : Formed s1 := by
      split at e1
      · exact (Prod.mk.inj e1).2 ▸ h
      · exact (Prod.mk.inj e1).2 ▸ h
    split
    · split
      · rename_i e2
        exact .done ((formed_runEffect h1).of_ok e2)
      · rename_i e2
        exact .done ((formed_runEffect h1).of_error e2)
    · exact formed_dispatchMatrix h

@[simp] theorem formed_afterCheck {w : WKey} {x : Worker} {e : VEntry} {lane : LaneCheck} {wasChecked : Bool}
    (h : Formed s) : Formed (s.afterCheck w x e lane wasChecked) := by
  unfold State.afterCheck
  extract_lets q
  split
  · split
    · simpa using h
    · exact h
  · split
    · exact h
    · rename_i s1 _ s2 _ _ _ _ _ _
      have h1 : Formed s1 := formed_foldl (fun _ _ ha => by simpa using ha) h
      have h2 : Formed s2 := by
        simp only [s2]
        split
        · simpa using h1
        · split
          · exact h1
          · exact h1
      simpa using h2
  · exact h

@[simp] theorem State.dropQueued_mem {w : WKey} {e : VEntry} : (s.dropQueued w e).mem = s.mem := by
  unfold State.dropQueued
  dsimp only
  split
  · rfl
  · split <;> simp

@[simp] theorem formed_rollBack {w : WKey} {e : VEntry} (h : Formed s) : Formed (s.rollBack w e) := by
  unfold State.rollBack
  extract_lets q l s1 refill s2
  have h1 : Formed s1 := by
    simp only [s1]
    refine formed_foldl (fun a x ha => ?_) ?_
    · split
      · exact ha
      · simpa using ha
    · exact h
  have h2 : Formed s2 := by simp [s2, h1]
  exact formed_raiseOn h2

@[simp] theorem State.ranTo_mem {w : WKey} {e : VEntry} {n : Nat} : (s.ranTo w e n).mem = s.mem := by
  unfold State.ranTo
  simp

theorem formed_runEntry {w : WKey} {e : VEntry} {n : Nat} {lane : LaneCheck} (h : Formed s) :
    OutFormed (s.runEntry w e n lane) := by
  unfold State.runEntry
  extract_lets x now
  split
  · rename_i e1
    exact .next ((formed_execute h).of_wait e1)
  · exact .fault
  · rename_i s1 t e1
    extract_lets s2
    have h2 : Formed s2 := by
      simpa [s2] using formed_afterCheck (w := w) (x := x) (e := now) (lane := lane) ((formed_execute h).of_done e1)
    clear_value s2
    refine .next ?_
    split
    · exact formed_raiseOn h2
    · exact h2

theorem formed_execVectorDispatch {w : WKey} {lane : LaneCheck} (h : Formed s) :
    OutFormed (execVectorDispatch w lane s) := by
  unfold execVectorDispatch
  dsimp only
  split
  · exact .next h
  · split
    · exact .next (formed_rollBack h)
    · split
      · split
        · refine formed_runEntry ?_
          simp [h]
        · simp [h]
      · split
        · exact formed_runEntry h
        · exact .next h

@[simp] theorem formed_landBits {l : ElemLanding} (h : Formed s) : Formed (s.landBits l) := by
  unfold State.landBits
  extract_lets s1
  have h1 : Formed s1 := by simp [s1, h]
  split
  · simpa using h1
  · exact h1

theorem formed_execElementGroupLanding {k : Nat} (h : Formed s) : OutFormed (execElementGroupLanding k s) := by
  unfold execElementGroupLanding
  split
  · exact .next h
  · extract_lets _ s1
    have h1 : Formed s1 := h
    clear_value s1
    split
    · refine .next ?_
      split
      · simpa using h1
      · exact h1
    · split
      · exact .next h
      · split
        · split
          · rename_i e2
            exact .next ((formed_needBlocks h1).of_error e2)
          · rename_i e2
            have h3 := formed_landBits (l := ‹ElemLanding›) ((formed_needBlocks h1).of_ok e2)
            refine .next ?_
            split
            · split
              · exact h3
              · exact formed_acquire h3
            · exact h3
        · exact .next h1

/-! ## The copy engine -/

theorem formed_copyGo {go : State → Out} (h : Formed s) (k : ∀ t, Formed t → OutFormed (go t)) :
    OutFormed (copyGo s go) := by
  unfold copyGo
  split
  · exact .next h
  · split
    · exact .next h
    · split
      rename_i e
      have h1 := formed_fst (formed_release h) e
      split
      · exact k _ h1
      · exact .next h1

@[simp] theorem State.newCopy_mem {c : CopyForm} {f : FTR} {id : Nat} {follow : Option Nat} :
    (s.newCopy c f id follow).mem = s.mem := rfl

theorem formed_copyIssue {i : Instr} {c : CopyForm} {f : FTR} (h : Formed s) : OutFormed (copyIssue i c f s) := by
  unfold copyIssue
  refine formed_checked h fun s h => ?_
  split
  · exact .next (formed_raiseAcc h)
  · exact formed_copyGo h fun _ h1 => .next h1

theorem formed_followOn (h : Formed s) : ExFormed OutFormed Prod.fst s.followOn := by
  unfold State.followOn
  extract_lets pc line
  have hl : ExFormed OutFormed Prod.fst line := by
    simp only [line]
    split
    · split
      · exact .ok h
      · exact formed_readCode h
    · exact formed_readCode h
  clear_value line
  split
  · exact .error (hl.of_error rfl)
  · rename_i s1 l
    have h1 : Formed s1 := hl.of_ok rfl
    split
    · exact .error (.next (formed_raise h1))
    · split
      · exact .error (.next (formed_raise h1))
      · extract_lets ok
        clear_value ok
        split
        · exact .error (.next (formed_raise h1))
        · split
          · exact .error (.next (formed_raise h1))
          · exact .ok h1

theorem formed_prepareFollow {i : Instr} {copy : Nat} (h : Formed s) :
    ExFormed (fun _ => True) Prod.fst (s.prepareFollow i copy) := by
  unfold State.prepareFollow
  split
  · exact formed_prepareMma h
  · exact formed_prepareMma h
  · exact formed_prepareZero h
  · exact .error trivial

theorem formed_copyPair {i : Instr} {c : CopyForm} {f : FTR} (h : Formed s) : OutFormed (copyPair i c f s) := by
  unfold copyPair
  refine formed_checked h fun s h => ?_
  split
  · exact .next (formed_raiseAcc h)
  · split
    · rename_i e1
      exact (formed_followOn h).of_error e1
    · rename_i e1
      have h1 := (formed_followOn h).of_ok e1
      split
      · exact .next h1
      · split
        · exact .next (formed_raise h1)
        · split
          · exact .next (formed_raiseMark h1)
          · split
            · exact .next (formed_raiseAcc h1)
            · split
              · exact .fault
              · refine formed_copyGo h1 fun s2 h2 => ?_
                split
                rename_i id s3 e3
                have h3 : Formed s3 := by
                  have h4 : Formed (id, s3).2 := e3 ▸ h2
                  exact h4
                split
                · exact .next (formed_raiseAcc h3)
                · rename_i e4
                  have h4 := (formed_prepareFollow h3).of_ok e4
                  exact .next (by simpa using h4)

@[simp] theorem formed_readLive {l : List (Nat × Nat)} (h : Formed s) : Formed (s.readLive l).1 := by
  induction l generalizing s with
  | nil => exact h
  | cons p r ih => exact ih (formed_readHome (n := p.2) h)

@[simp] theorem formed_writeLive {q : SeqId} {ctx : Option Nat} {va : Word} {l : List (Nat × Nat)} {b : Moved}
    (h : Formed s) : Formed (s.writeLive q ctx va l b) := by
  induction l generalizing s va b with
  | nil => exact h
  | cons p r ih =>
    unfold State.writeLive
    refine ih ?_
    dsimp only
    split
    · split
      · exact formed_poisonLine (formed_homeWrite (formed_forceLine h))
      · exact formed_homeWrite (formed_forceLine h)
    · simpa using h

@[simp] theorem State.writePads_mem {w : WKey} {a : Word} {l : Moved} : (s.writePads w a l).mem = s.mem := by
  induction l generalizing s a with
  | nil => rfl
  | cons b r ih => exact ih.trans State.padPut_mem

@[simp] theorem formed_failCopy {c : CpCmd} {off : Nat} {e : AccFault} (h : Formed s) :
    Formed (s.failCopy c off e) := by
  unfold State.failCopy
  extract_lets s1 s2
  have h1 : Formed s1 := by simp [s1, h]
  have h2 : Formed s2 := by
    simp only [s2]
    split <;> exact h1
  simpa using h2

@[simp] theorem State.modCopy_mem {i : Nat} {f : CpCmd → CpCmd} : (s.modCopy i f).mem = s.mem := rfl

@[simp] theorem State.chunkDone_mem {c : CpCmd} {n : Nat} : (s.chunkDone c n).mem = s.mem := by
  unfold State.chunkDone
  dsimp only
  split
  · simp
  · rfl

/-- The lines a chunk is read from, the first marked poisoned where its source met an error. -/
theorem formed_poisonFirst {ue : Bool} {l : List (Nat × Nat)} (h : Formed s) :
    Formed (match ue, l with
      | true, p :: _ => s.poisonLine (lineOf p.1)
      | _, _ => s) := by
  split
  · exact formed_poisonLine h
  · exact h

/-- What a chunk is read as comes with a state in canonical form, whichever place it is read from. -/
theorem formed_chunkSource {p q : Prop} [Decidable p] [Decidable q] {a b : Moved} {c : State × Moved} (h : Formed s)
    (hc : Formed c.1) : Formed (if p then (s, a) else if q then (s, b) else c).1 := by
  split
  · exact h
  · split
    · exact h
    · exact hc

theorem formed_moveChunk {c : CpCmd} {k : Chunk} {ue : Bool} (h : Formed s) : OutFormed (s.moveChunk c k ue) := by
  unfold State.moveChunk
  split
  · exact .next (formed_failCopy h)
  · split
    · exact .fault
    · split
      · exact .next h
      · extract_lets s0 s1
        have h1 : Formed s1 := formed_poisonFirst (formed_markAll (formed_markAll h))
        clear_value s1
        split
        rename_i s2 data e2
        have h2 := formed_fst (formed_chunkSource h1 (formed_readLive h1)) e2
        extract_lets s3
        have h3 : Formed s3 := by
          simp only [s3]
          split
          · simpa using h2
          · exact formed_writeLive h2
        exact .next (by simpa using h3)

@[simp] theorem formed_uncounted {fills : List Nat} (h : Formed s) : Formed (s.uncounted fills) := by
  unfold State.uncounted
  exact h

theorem formed_migrateChunk {c : CpCmd} {k : Chunk} {ue : Bool} (h : Formed s) : OutFormed (s.migrateChunk c k ue) := by
  unfold State.migrateChunk
  extract_lets source dst
  split
  · exact .fault
  · split
    · exact .next (formed_failCopy h)
    · split
      · exact .next h
      · rename_i s1 _ _ _ _
        have h1 : Formed s1 := by
          simp only [s1]
          split
          · exact formed_poisonLine h
          · exact h
        clear_value s1
        split
        rename_i s2 data e2
        have h2 := formed_fst (formed_readLive h1) e2
        split
        · exact .next (formed_failCopy (formed_uncounted h2))
        · exact .next (by simpa using formed_uncounted (formed_writeLive h2))

theorem formed_execChunk {cluster : Nat} {ue : Bool} (h : Formed s) : OutFormed (execChunk cluster ue s) := by
  unfold execChunk
  dsimp only
  split
  · exact .next h
  · split
    · exact .next h
    · split
      · simpa using h
      · split
        · exact formed_migrateChunk h
        · exact formed_moveChunk h

@[simp] theorem formed_signalAt {c : CpCmd} {pa : Nat} (h : Formed s) : Formed (s.signalAt c pa) := by
  unfold State.signalAt
  split
  · split <;> simp [h]
  · exact h

theorem formed_execSignal {q : SeqId} (h : Formed s) : OutFormed (execSignal q s) := by
  unfold execSignal
  split
  · exact .next h
  · split
    · exact .next h
    · split
      · simpa using h
      · split
        · rename_i t1 _ e2
          have h2 := formed_fst (formed_release h) e2
          split
          · exact .next h2
          · split
            · exact .next (formed_failCopy h2)
            · split
              · exact .fault
              · split
                · simp [h2]
                · exact .next h2

theorem formed_execFollowOn {q : SeqId} (h : Formed s) : OutFormed (execFollowOn q s) := by
  unfold execFollowOn
  split
  · exact .next h
  · split
    · split
      · exact .next (formed_acceptCmd h)
      · exact .next h
    · exact .next h

/-! ## Pawns -/

theorem formed_startJob {b : List Word} {gate : Option (Nat × Word)} {l : List (PawnStream × Leaf × Word × Nat)}
    (h : Formed s) : OptFormed Prod.fst (s.startJob b gate l) := by
  unfold State.startJob
  dsimp only
  split
  · exact .none
  · exact .some h

theorem formed_nbgoBody {f : FTR} {gated : Bool} {b : List Word} (h : Formed s) : OutFormed (nbgoBody f gated b s) := by
  unfold nbgoBody
  extract_lets ga a
  split
  · exact .next (formed_raiseFrom h)
  · split
    · exact .next (formed_raiseFrom h)
    · split
      · exact .next (formed_raiseAcc h)
      · split
        · exact .next (formed_raiseAcc h)
        · extract_lets s1
          have h1 : Formed s1 := formed_foldl (fun _ _ ha => formed_markUsed ha) h
          clear_value s1
          split
          · exact .next h
          · rename_i e2
            have h2 := (formed_startJob h1).of_pair e2
            exact .next h2

theorem formed_nbgoAccess {f : FTR} {gated : Bool} (h : Formed s) : OutFormed (nbgoAccess f gated s) := by
  unfold nbgoAccess
  dsimp only
  split
  · exact .next (formed_raiseFrom h)
  · split
    · exact .next (formed_raiseAcc h)
    · split
      · exact .fault
      · split
        · exact .next h
        · split
          · refine .next ?_
            refine formed_raiseMark ?_
            simp [h]
          · refine formed_nbgoBody ?_
            simp [h]

theorem formed_execNbgo {f : FTR} (h : Formed s) : OutFormed (execNbgo f s) := by
  unfold execNbgo
  exact formed_checked h fun _ h => formed_nbgoAccess h

theorem formed_execNbgoSg {f : FTR} (h : Formed s) : OutFormed (execNbgoSg f s) := by
  unfold execNbgoSg
  exact formed_checked h fun _ h => formed_nbgoAccess h

@[simp] theorem State.modJob_mem {i : Nat} {f : Job → Job} : (s.modJob i f).mem = s.mem := rfl

@[simp] theorem formed_writeOutput {j : Job} {o v : Nat} {bad : Bool} (h : Formed s) :
    Formed (s.writeOutput j o v bad) := by
  unfold State.writeOutput
  exact formed_modMem (cellsPutNum_wf _ _ _ h)

@[simp] theorem formed_writeFree {j : Job} {o : Nat} (h : Formed s) : Formed (s.writeFree j o) := by
  unfold State.writeFree
  simp [h]

@[simp] theorem formed_meetFault {i bank cond : Nat} {k : Option Nat} (h : Formed s) :
    Formed (s.meetFault i bank cond k) := by
  unfold State.meetFault
  split
  rename_i lo hi s1 e1
  have h1 : Formed s1 := by
    split at e1
    · exact (Prod.mk.inj e1).2 ▸ h
    · exact (Prod.mk.inj e1).2 ▸ h
  extract_lets s2
  have h2 : Formed s2 := h1
  clear_value s2
  split
  · exact h2
  · exact formed_foldl (fun _ _ ha => formed_foldl (fun _ _ hb => formed_writeFree hb) ha) h2

@[simp] theorem formed_takeIndex {j : Job} {bank : Nat} (h : Formed s) : Formed (s.takeIndex j bank).2 := by
  unfold State.takeIndex
  exact h

@[simp] theorem formed_readColumn {j : Job} {col : Nat} {ue : Bool} (h : Formed s) :
    Formed (s.readColumn j col ue) := by
  unfold State.readColumn
  dsimp only
  split
  · exact formed_meetFault h
  · split
    · refine formed_foldl (fun a x ha => ?_) ?_
      · split
        · split
          · exact formed_meetFault ha
          · exact ha
        · exact ha
      · exact h
    · exact h

@[simp] theorem formed_writeColumn {j : Job} {col : Nat} {l : List (Nat × Nat × Bool)} (h : Formed s) :
    Formed (s.writeColumn j col l) := by
  unfold State.writeColumn
  dsimp only
  refine formed_foldl (fun a x ha => ?_) ?_
  · split
    · exact formed_writeFree ha
    · exact formed_writeOutput ha
  · exact h

@[simp] theorem formed_dispatchJob {j : Job} {die : Nat} (h : Formed s) : Formed (s.dispatchJob j die) := by
  unfold State.dispatchJob
  extract_lets off s1
  have h1 : Formed s1 := by simp [s1, h]
  refine formed_foldl (fun a x ha => ?_) ?_
  · exact formed_foldl (fun _ _ ha => formed_meetFault ha) ha
  · exact h1

@[simp] theorem formed_loadIv {j : Job} {ch col : Nat} {ue : Bool} (h : Formed s) : Formed (s.loadIv j ch col ue) := by
  unfold State.loadIv
  extract_lets pa bank bad bits s1
  have h1 : Formed s1 := by simp [s1, h]
  split
  · exact formed_meetFault h1
  · exact h1

theorem formed_execColumnAccess {job column : Nat} {ue : Bool} (h : Formed s) :
    OutFormed (execColumnAccess job column ue s) := by
  unfold execColumnAccess
  dsimp only
  split
  · exact .next h
  · split
    · exact .next h
    · split
      · exact .next h
      · exact .next (formed_loadIv h)
      · exact .next (formed_readColumn h)
      · exact .next (formed_writeColumn h)

theorem formed_execJobDispatch {die : Nat} (h : Formed s) : OutFormed (execJobDispatch die s) := by
  unfold execJobDispatch
  split
  · exact .next h
  · split
    · exact .next (formed_dispatchJob h)
    · exact .next h

theorem formed_execJobCompletion {job : Nat} (h : Formed s) : OutFormed (execJobCompletion job s) := by
  unfold execJobCompletion
  split
  · exact .next h
  · split
    · exact .next h
    · extract_lets lost s1 s2
      have h1 : Formed s1 := h
      have h2 : Formed s2 := formed_foldl (fun _ _ ha => formed_reportFault ha) h1
      exact .next (by simpa using h2)

theorem formed_execNbpart {f : FTR} (h : Formed s) : OutFormed (execNbpart f s) := by
  unfold execNbpart
  refine formed_checked h fun s h => ?_
  dsimp only
  split
  · exact .next (formed_raise h)
  · split
    · exact .next h
    · split <;> exact .next h

/-! ## Links and messages -/

@[simp] theorem State.giveTag_mem {m : Msg} : (s.giveTag m).mem = s.mem := by
  unfold State.giveTag
  split
  · rfl
  · dsimp only
    split <;> rfl

@[simp] theorem State.packRecords_mem {k n : Nat} {t : Option Nat} {l : List Nat} :
    (s.packRecords k n t l).1.mem = s.mem := by
  induction n generalizing s t l with
  | zero => rfl
  | succ n ih =>
    unfold State.packRecords
    split
    · rfl
    · exact ih.trans State.giveTag_mem

@[simp] theorem formed_takeDue {k : Nat} (h : Formed s) : Formed (s.takeDue k).1 := by
  unfold State.takeDue
  exact h

@[simp] theorem formed_formFlit {k : Nat} {form : FlitForm} (h : Formed s) : Formed (s.formFlit k form).1 := by
  unfold State.formFlit
  split
  rename_i s1 ack credit e1
  have h1 : Formed s1 := formed_fst (formed_takeDue h) e1
  clear e1
  extract_lets idle l keep
  split
  · exact h1
  · split
    · exact h1
    · exact h1
    · split
      rename_i s2 _ _ e2
      split
      · exact h1
      · have h2 : Formed s2 := formed_fst (by simpa using h1) e2
        exact h2

@[simp] theorem State.crossed_mem {f : Flit} {h : Nat} : (s.crossed f h).mem = s.mem := rfl

@[simp] theorem State.resend_mem {ids : List Nat} {h : Nat} : (s.resend ids h).mem = s.mem := rfl

@[simp] theorem State.startRetrain_mem {k : Nat} {narrow : Bool} : (s.startRetrain k narrow).mem = s.mem := rfl

@[simp] theorem formed_countReplay {k : Nat} {now : Word} (h : Formed s) : Formed (s.countReplay k now) := by
  unfold State.countReplay
  extract_lets s1 n
  have h1 : Formed s1 := by simp [s1, h]
  split <;> exact h1

@[simp] theorem formed_takeAck {k : Nat} {ack : Option (Bool × Nat)} {now : Word} (h : Formed s) :
    Formed (s.takeAck k ack now) := by
  unfold State.takeAck
  dsimp only
  split
  · exact h
  · split
    · exact h
    · exact formed_countReplay h

@[simp] theorem formed_takeFields {k : Nat} {f : Flit} {now : Word} (h : Formed s) : Formed (s.takeFields k f now) := by
  unfold State.takeFields
  exact formed_takeAck h

@[simp] theorem formed_receiveFlit {k : Nat} {f : Flit} {lost : Bool} (h : Formed s) :
    Formed (s.receiveFlit k f lost) := by
  unfold State.receiveFlit
  extract_lets now l s1
  have h1 : Formed s1 := by simp [s1, h]
  split
  · exact h1
  · split
    · exact formed_takeFields h1
    · split
      · exact formed_takeFields h1
      · split <;> exact h1

@[simp] theorem formed_nextFlit {k : Nat} {form : FlitForm} (h : Formed s) : Formed (s.nextFlit k form).1 := by
  unfold State.nextFlit
  split
  · exact h
  · simp [h]

theorem formed_execFlit {link : Nat} {turn : FlitTurn} (h : Formed s) : OutFormed (execFlit link turn s) := by
  unfold execFlit
  split
  · exact .next h
  · simp [h]

theorem formed_execRecoveryTimer {link : Nat} (h : Formed s) : OutFormed (execRecoveryTimer link s) := by
  unfold execRecoveryTimer
  dsimp only
  split <;> exact .next h

theorem formed_execWidthRetry {link : Nat} (h : Formed s) : OutFormed (execWidthRetry link s) := by
  unfold execWidthRetry
  extract_lets l b now quiet s1
  have h1 : Formed s1 := by simp [s1, h]
  split <;> exact .next h1

@[simp] theorem State.acknowledge_mem {m : Msg} : (s.acknowledge m).mem = s.mem := rfl

@[simp] theorem State.freeFilter_mem {m : Msg} : (s.freeFilter m).mem = s.mem := rfl

theorem formed_applyOnce {m : Msg} (h : Formed s) : OptFormed id (s.applyOnce m) := by
  unfold State.applyOnce
  split
  · split
    · exact .some (formed_arrive h)
    · exact .none
  · split
    · exact .some (by simp [h])
    · exact .none
  · generalize e : s.takePartial m false = o
    have ho : OptFormed id o := e ▸ formed_takePartial h
    cases ho with
    | some h1 => exact .some (by simpa using h1)
    | none => exact .none
  · split
    · exact .some (formed_applySync h)
    · exact .none
  · exact .none

@[simp] theorem formed_settleAnswer {m : Msg} (h : Formed s) : Formed (s.settleAnswer m) := by
  unfold State.settleAnswer
  split
  · exact formed_settlePartials h
  · exact formed_settleSyncs h
  · exact h

theorem formed_execTransactionRequest {m : Nat} (h : Formed s) : OutFormed (execTransactionRequest m s) := by
  unfold execTransactionRequest
  split
  · exact .next h
  · rename_i x _
    split
    · exact .next h
    · split
      · exact .next h
      · extract_lets s1
        have h1 : Formed s1 := h
        clear_value s1
        split
        · exact .next (formed_settleAnswer h1)
        · split
          · rename_i e2
            exact .next ((formed_applyOnce h1).of_some e2)
          · exact .next h

theorem formed_execTransactionResponse {m : Nat} (h : Formed s) : OutFormed (execTransactionResponse m s) := by
  unfold execTransactionResponse
  dsimp only
  split
  · exact .next h
  · split
    · split
      · exact .next h
      · simp [h]
    · exact .next h

@[simp] theorem formed_sendTime {src : Nat} (h : Formed s) : Formed (s.sendTime src) := by
  unfold State.sendTime
  dsimp only
  refine formed_foldl (fun _ _ ha => ?_) h
  exact ha

theorem formed_execTimeFlit {die : Nat} (h : Formed s) : OutFormed (execTimeFlit die s) := by
  unfold execTimeFlit
  dsimp only
  split
  · exact .next h
  · split
    · split
      · exact .next (formed_sendTime h)
      · exact .next h
    · split <;> exact .next h

@[simp] theorem formed_loseLaunch {l : Launch} (h : Formed s) : Formed (s.loseLaunch l) := by
  unfold State.loseLaunch
  extract_lets leaving x s1
  have h1 : Formed s1 := by simp [s1, h]
  split
  · exact h1
  · split
    · exact h1
    · simp [h1]

@[simp] theorem State.rerouteAll_mem : s.rerouteAll.mem = s.mem := rfl

@[simp] theorem State.refill_mem {q : SeqId} {gd : Option (BitVec 5)} : (s.refill q gd).mem = s.mem := by
  unfold State.refill
  dsimp only
  split
  · simp
  · rfl

@[simp] theorem formed_loseSync {q : SeqId} {reg : Nat} {gd : Option (BitVec 5)} {pc : Word} (h : Formed s) :
    Formed (s.loseSync q reg gd pc) := by
  unfold State.loseSync
  split
  · simp [h]
  · exact h

@[simp] theorem formed_loseCopy {m : Msg} {signal : Bool} (h : Formed s) : Formed (s.loseCopy m signal) := by
  unfold State.loseCopy
  split
  · split
    · split
      · exact h
      · exact formed_failCopy h
    · split
      · exact h
      · exact formed_failCopy h
  · exact h

@[simp] theorem formed_loseMsg {m : Msg} (h : Formed s) : Formed (s.loseMsg m) := by
  unfold State.loseMsg
  split
  · exact formed_deliver h
  · exact formed_deliver h
  · exact formed_deliver h
  · exact formed_loseCopy h
  · exact formed_loseCopy h
  · split
    · exact h
    · exact formed_loseSync h
  · exact h

@[simp] theorem formed_fence_ {d : Nat} (h : Formed s) : Formed (s.fence_ d) := by
  unfold State.fence_
  extract_lets all gone __src s1 s2
  have h1 : Formed s1 := by simp [s1, h]
  have h2 : Formed s2 := formed_foldl (fun _ _ ha => formed_loseMsg ha) h1
  exact h2

@[simp] theorem formed_dropHolders {d : Nat} (h : Formed s) : Formed (s.dropHolders d) := by
  unfold State.dropHolders
  refine formed_foldl (fun a x ha => ?_) ?_
  · exact formed_foldl (fun _ _ ha => formed_answered ha) ha
  · exact h

@[simp] theorem formed_dropDie {d : Nat} (h : Formed s) : Formed (s.dropDie d) := by
  unfold State.dropDie
  exact h

@[simp] theorem formed_dropSyncs {d : Nat} (h : Formed s) : Formed (s.dropSyncs d) := by
  unfold State.dropSyncs
  extract_lets lost __src s1 s2
  have h1 : Formed s1 := by simp [s1, h]
  have h2 : Formed s2 := formed_foldl (fun _ _ ha => formed_loseSync ha) h1
  exact formed_foldl (fun _ _ ha => formed_syncApplied ha) h2

@[simp] theorem State.dropWork_mem {d : Nat} : (s.dropWork d).mem = s.mem := rfl

@[simp] theorem formed_stopCores {d : Nat} (h : Formed s) : Formed (s.stopCores d) := by
  unfold State.stopCores
  extract_lets s1 __src
  have h1 : Formed s1 := by
    simp only [s1]
    refine formed_foldl (fun a x ha => ?_) ?_
    · simpa using ha
    · exact h
  exact h1

@[simp] theorem formed_resign {d : Nat} (h : Formed s) : Formed (s.resign d) := by
  unfold State.resign
  extract_lets hit s1 s2 s3 s4
  have h2 : Formed s2 := formed_foldl (fun _ _ ha => by simpa using ha) h
  have h3 : Formed s3 := formed_foldl (fun _ _ ha => formed_loseLaunch ha) h2
  have h4 : Formed s4 := h3
  clear_value s4
  simpa using formed_dropDie (formed_dropHolders (formed_fence_ (formed_dropSyncs (formed_stopCores h4))))

@[simp] theorem formed_resignAll {due : Nat → Bool} (h : Formed s) : Formed (s.resignAll due) := by
  unfold State.resignAll
  exact formed_foldl (fun _ _ ha => formed_resign ha) h

@[simp] theorem formed_settleDies (h : Formed s) : Formed s.settleDies := by
  unfold State.settleDies
  simp [h]

@[simp] theorem formed_losePair {p : Nat} (h : Formed s) : Formed (s.losePair p) := by
  unfold State.losePair
  exact formed_settleDies h

theorem formed_execRetrainCompletion {link : Nat} {trained : Bool} (h : Formed s) :
    OutFormed (execRetrainCompletion link trained s) := by
  unfold execRetrainCompletion
  extract_lets l
  split
  · exact .next h
  · have hb (f : Link → Link) : Formed ((s.modLink link f).modLink (linkBack link) f) := h
    split
    · exact .next (hb _)
    · split
      · exact .next (hb _)
      · split
        · exact .next (formed_losePair (hb _))
        · exact .next (hb _)

theorem formed_execResignation {die : Nat} (h : Formed s) : OutFormed (execResignation die s) := by
  unfold execResignation
  split
  · refine .next ?_
    split
    · exact formed_settleDies h
    · exact formed_settleDies (formed_resign h)
  · exact .next h

/-! ## Special registers and module registers -/

theorem formed_execSrd {f : FIM} (h : Formed s) : OutFormed (execSrd f s) := by
  unfold execSrd
  refine formed_checked h fun s h => ?_
  dsimp only
  split <;> exact .next h

/-- A change of a part of the state that an attempt may give leaves memory as it is. -/
theorem optFormed_map {o : Option α} {f : α → State} (h : ∀ x, Formed (f x)) : OptFormed id (o.map f) := by
  cases o with
  | some x => exact .some (h x)
  | none => exact .none

theorem formed_writeSr {n : Nat} {v : Word} (h : Formed s) : OptFormed id (s.writeSr n v) := by
  have hone (c : Prop) [Decidable c] (t : State) (ht : Formed t) : OptFormed id (if c then some t else none) :=
    .ite (.some ht) .none
  unfold State.writeSr
  exact .ite (optFormed_map fun _ => h) <| .ite (hone _ _ h) <| .ite (.some h) <| .ite (.some h) <|
    .ite (hone _ _ h) <| .ite (.some h) <| .ite (hone _ _ h) <| .ite (hone _ _ h) <|
    .ite (optFormed_map fun _ => h) (optFormed_map fun _ => h)

theorem formed_execSwr {f : FIM} (h : Formed s) : OutFormed (execSwr f s) := by
  unfold execSwr
  refine formed_checked h fun s h => ?_
  split
  · rename_i t1 e2
    have h2 := (formed_writeSr h).of_some e2
    exact .next h2
  · exact .next (formed_raise h)

theorem formed_execXfWrite {f : FIM} (h : Formed s) : OutFormed (execXfWrite f s) := by
  unfold execXfWrite
  refine formed_checked h fun s h => ?_
  dsimp only
  split
  · exact .next h
  · split
    · exact .next h
    · exact .next (formed_raise h)

theorem formed_execKpost {f : FIM} (h : Formed s) : OutFormed (execKpost f s) := by
  unfold execKpost
  refine formed_checked h fun s h => ?_
  split
  · exact .next h
  · split
    · split
      · rename_i t1 e2
        have h2 := (formed_postWorker h).of_some e2
        exact .next h2
      · exact .next (formed_frameFault h)
    · exact .next (formed_raise h)

@[simp] theorem formed_restartCore {n : Nat} (h : Formed s) : Formed (s.restartCore n) := by
  unfold State.restartCore
  extract_lets x __src s1 __src
  have h1 : Formed s1 := by simp [s1, h]
  split
  · exact h1
  · exact h

theorem formed_execCcrun {f : FIM} (h : Formed s) : OutFormed (execCcrun f s) := by
  unfold execCcrun
  refine formed_checked h fun s h => ?_
  dsimp only
  split
  · refine .next ?_
    refine formed_foldl (fun a x ha => ?_) ?_
    · split
      · exact formed_restartCore ha
      · exact ha
    · exact h
  · exact .next (formed_raise h)

theorem formed_execCctl {f : FIM} (h : Formed s) : OutFormed (execCctl f s) := by
  unfold execCctl
  refine formed_checked h fun s h => ?_
  dsimp only
  split
  · exact .next (formed_raise h)
  · split
    · exact .next h
    · split
      · split <;> exact .next h
      · split
        · exact .next (formed_raise h)
        · exact .next h

theorem formed_execRangeRegisterWrite {f : FIM} (h : Formed s) : OutFormed (execRangeRegisterWrite f s) := by
  unfold execRangeRegisterWrite
  refine formed_checked h fun s h => ?_
  dsimp only
  split
  · exact .next h
  · exact .next (formed_raise h)

@[simp] theorem formed_setCodecCount {n : Nat} {v : Word} (h : Formed s) : Formed (s.setCodecCount n v) := by
  unfold State.setCodecCount
  refine formed_foldl (fun a d ha => ?_) h
  split
  · exact ha
  · simpa using ha

theorem formed_execCdloss {f : FIM} (h : Formed s) : OutFormed (execCdloss f s) := by
  unfold execCdloss
  refine formed_checked h fun s h => ?_
  simp [h]

@[simp] theorem formed_releaseDie {d : Nat} (h : Formed s) : Formed (s.releaseDie d) := by
  unfold State.releaseDie
  extract_lets s1 __src
  have h1 : Formed s1 := by simp [s1, h]
  split <;> exact h1

theorem formed_execCdrel {f : FIM} (h : Formed s) : OutFormed (execCdrel f s) := by
  unfold execCdrel
  refine formed_checked h fun s h => ?_
  extract_lets v
  split
  · exact .next (formed_raise h)
  · rename_i s1 _
    have h1 : Formed s1 := h
    clear_value s1
    refine .next (formed_foldl (fun a d ha => ?_) h1)
    split
    · exact formed_releaseDie ha
    · exact ha

/-! ## Management and bring-up -/

@[simp] theorem State.reply_mem {a : Answer} : (s.reply a).mem = s.mem := rfl

@[simp] theorem State.measureImage_mem {d : Nat} {b : List Byte} : (s.measureImage d b).mem = s.mem := rfl

@[simp] theorem State.takeBaseImages_mem : s.takeBaseImages.mem = s.mem := by
  have hstep (a : State) (d : Nat) : (if imageOk (a.imageFor (d + 1)) then a.measureImage d (a.imageFor (d + 1))
      else a.modDie d fun x => { x with resigned := true }).mem = a.mem := by
    generalize imageOk (a.imageFor (d + 1)) = c
    split <;> rfl
  unfold State.takeBaseImages
  generalize List.range 4 = l
  induction l generalizing s with
  | nil => rfl
  | cons d r ih => exact ih.trans (hstep s d)

@[simp] theorem State.boot_mem : s.boot.mem = s.mem := by
  unfold State.boot
  simp

@[simp] theorem State.stopBringup_mem : s.stopBringup.mem = s.mem := rfl

@[simp] theorem formed_endStep (h : Formed s) : Formed s.endStep := by
  unfold State.endStep
  extract_lets k s1
  have h1 : Formed s1 := h
  clear_value s1
  split
  · generalize imageOk (s.imageFor 0) = c
    split
    · exact h1
    · exact h
  · split
    · simpa using h1
    · split
      · split
        · exact h1
        · exact h
      · split
        · simpa using h1
        · exact h1

@[simp] theorem State.raiseDie_mem : s.raiseDie.mem = s.mem := by
  unfold State.raiseDie
  split <;> rfl

@[simp] theorem formed_repower : Formed s.repower := rfl

@[simp] theorem formed_powerStep {ok : Bool} (h : Formed s) : Formed (s.powerStep ok) := by
  unfold State.powerStep
  split
  · exact h
  · split
    · split
      · exact h
      · split
        · simpa using h
        · exact h
    · split
      · exact formed_endStep h
      · exact h

theorem formed_execPowerOn {act : PowerAct} (h : Formed s) : OutFormed (execPowerOn act s) := by
  unfold execPowerOn
  split
  · exact .next (formed_powerStep h)
  · exact .next formed_repower
  · split
    · exact .next (formed_restartCore h)
    · exact .next h

theorem formed_execBringupTimeout {step : Nat} (h : Formed s) : OutFormed (execBringupTimeout step s) := by
  unfold execBringupTimeout
  split <;> exact .next h

theorem formed_execDroopTrip {die cluster : Nat} (h : Formed s) : OutFormed (execDroopTrip die cluster s) := by
  unfold execDroopTrip
  exact .next h

theorem formed_execThermalTrip {die : Nat} (h : Formed s) : OutFormed (execThermalTrip die s) := by
  unfold execThermalTrip
  split <;> exact .next h

theorem formed_execThermalResume {die : Nat} (h : Formed s) : OutFormed (execThermalResume die s) := by
  unfold execThermalResume
  exact .next h

theorem formed_execThrottling {consumer : Consumer} {throttle : Throttle} (h : Formed s) :
    OutFormed (execThrottling consumer throttle s) := by
  unfold execThrottling
  exact .next h

theorem formed_execPowerLimit {consumer : Consumer} (h : Formed s) : OutFormed (execPowerLimit consumer s) := by
  unfold execPowerLimit
  dsimp only
  split <;> exact .next h

theorem formed_execChannelRetraining {r : Retraining} (h : Formed s) : OutFormed (execChannelRetraining r s) := by
  unfold execChannelRetraining
  dsimp only
  split <;> split <;> exact .next h

theorem formed_execCxlError {addr : BitVec 64} (h : Formed s) : OutFormed (execCxlError addr s) := by
  unfold execCxlError
  exact .next h

theorem formed_execDynamicAddressAssignment {addr : BitVec 7} (h : Formed s) :
    OutFormed (execDynamicAddressAssignment addr s) := by
  unfold execDynamicAddressAssignment
  exact .next h

theorem formed_execMctpControl {msg : List (BitVec 8)} (h : Formed s) : OutFormed (execMctpControl msg s) := by
  unfold execMctpControl
  exact .next h

theorem formed_execStatus (h : Formed s) : OutFormed (execStatus s) := by
  unfold execStatus
  exact .next h

theorem formed_execMeasure {nonce : BitVec 256} (h : Formed s) : OutFormed (execMeasure nonce s) := by
  unfold execMeasure
  exact .next h

theorem formed_execNotice {die : Nat} {deadline : BitVec 64} (h : Formed s) :
    OutFormed (execNotice die deadline s) := by
  unfold execNotice
  split <;> exact .next h

theorem formed_execCap {watts : Nat} (h : Formed s) : OutFormed (execCap watts s) := by
  unfold execCap
  refine .next ?_
  split <;> exact h

theorem formed_execUnsupported {code : BitVec 8} (h : Formed s) : OutFormed (execUnsupported code s) := by
  unfold execUnsupported
  split <;> exact .next h

@[simp] theorem formed_zeroStack {d : Nat} (h : Formed s) : Formed (s.zeroStack d) := by
  unfold State.zeroStack
  exact formed_modMem (cellsWf_filter _ h)

@[simp] theorem State.zeroDie_mem {d : Nat} : (s.zeroDie d).mem = s.mem := rfl

@[simp] theorem State.trainDie_mem {d : Nat} : (s.trainDie d).mem = s.mem := rfl

@[simp] theorem State.retrainStack_mem {d : Nat} : (s.retrainStack d).mem = s.mem := rfl

@[simp] theorem formed_rejoinDie {d : Nat} {image : List Byte} (h : Formed s) : Formed (s.rejoinDie d image) := by
  unfold State.rejoinDie
  simp [h]

@[simp] theorem formed_takeUpdate {u : Nat × List Byte} (h : Formed s) : Formed (s.takeUpdate u) := by
  unfold State.takeUpdate
  split
  · exact h
  · extract_lets s1
    have h1 : Formed s1 := h
    clear_value s1
    split
    · rename_i s2 s3 _
      have h2 : Formed s2 := by
        simp only [s2]
        split
        · exact formed_resign h1
        · exact h1
      have h3 : Formed s3 := h2
      clear_value s3
      simpa using formed_rejoinDie h3
    · exact h1

@[simp] theorem formed_takeUpdates (h : Formed s) : Formed s.takeUpdates := by
  unfold State.takeUpdates
  exact formed_foldl (fun _ _ ha => formed_takeUpdate ha) h

theorem formed_execUpdate {die : Nat} {image : List Byte} (h : Formed s) : OutFormed (execUpdate die image s) := by
  unfold execUpdate
  generalize (!decide (die < 4) || !s.othersUp die || !imageOk image) = c
  split
  · exact .next h
  · split
    · exact .next h
    · exact .next (formed_takeUpdate h)

/-! ## Scalar arithmetic -/

theorem formed_aluRG {i : Instr} {f : FRG} {op : Word → Word → Word} (h : Formed s) : OutFormed (aluRG i f op s) := by
  unfold aluRG
  exact formed_checked h fun _ h => .next h

theorem formed_divRG {i : Instr} {f : FRG} {op : Word → Word → Word} (h : Formed s) : OutFormed (divRG i f op s) := by
  unfold divRG
  refine formed_checked h fun s h => ?_
  split
  · exact .next (formed_raise h)
  · exact .next h

theorem formed_aluIM {i : Instr} {f : FIM} {op : Word → Word → Word} (h : Formed s) : OutFormed (aluIM i f op s) := by
  unfold aluIM
  exact formed_checked h fun _ h => .next h

theorem formed_execLi {f : FWI} (h : Formed s) : OutFormed (execLi f s) := by
  unfold execLi
  exact formed_checked h fun _ h => .next h

theorem formed_execLih {f : FKS} (h : Formed s) : OutFormed (execLih f s) := by
  unfold execLih
  exact formed_checked h fun _ h => .next h

theorem formed_execLea {f : FLEA} (h : Formed s) : OutFormed (execLea f s) := by
  unfold execLea
  exact formed_checked h fun _ h => .next h

theorem formed_execSel {f : FTR} (h : Formed s) : OutFormed (execSel f s) := by
  unfold execSel
  exact formed_checked h fun _ h => .next h

/-! ## Turns -/

@[simp] theorem formed_postNotice {pa unit count : Nat} {summary : Bool} (h : Formed s) :
    Formed (s.postNotice pa unit count summary) := by
  unfold State.postNotice
  simp [h]

@[simp] theorem formed_settleOwed (h : Formed s) : Formed s.settleOwed := by
  unfold State.settleOwed
  dsimp only
  split
  · split
    · simp [h]
    · exact h
  · exact h

@[simp] theorem formed_putCounter {at_ v : Nat} (h : Formed s) : Formed (s.putCounter at_ v) := by
  unfold State.putCounter
  simp [h]

@[simp] theorem formed_countFill {la : Nat} (h : Formed s) : Formed (s.countFill la) := by
  unfold State.countFill
  split
  · exact h
  · extract_lets at_ e c crossed base
    split
    · exact formed_putCounter h
    · rename_i s1 _ _
      have h1 : Formed s1 := formed_settleOwed h
      split
      · exact formed_putCounter (formed_postNotice h1)
      · have h2 : Formed (s1.putCounter at_ (base ||| 2 ^ 30)) := formed_putCounter h1
        exact h2

@[simp] theorem formed_housekeep (h : Formed s) : Formed s.housekeep := by
  unfold State.housekeep
  extract_lets s1 s2
  have h1 : Formed s1 := formed_foldl (fun _ _ ha => formed_countFill ha) h
  have h2 : Formed s2 := by
    simp only [s2]
    refine formed_takeUpdates ?_
    refine formed_endDrops ?_
    refine formed_settleEnded ?_
    refine formed_sweepTorn ?_
    refine formed_serveLaunches ?_
    simp [h1]
  exact formed_drainPosts h2

/-! ## Every instruction and every event, and a step -/

/-- What an instruction or an event does keeps the form of memory. -/
theorem formed_exec (i : Instr) (h : Formed s) : OutFormed (exec i s) := by
  unfold exec
  cases i with
  | nop _ => exact formed_execNop h
  | br _ => exact formed_execBr h
  | bcc _ _ => exact formed_execBcc h
  | jal _ => exact formed_execJal h
  | jr _ => exact formed_execJr h
  | loop _ => exact formed_execLoop h
  | endl _ => exact formed_execEndl h
  | lidx _ => exact formed_execLidx h
  | trap _ => exact formed_execTrap h
  | eret _ => exact formed_execEret h
  | eretK _ => exact formed_execEretK h
  | halt _ => exact formed_execHalt h
  | srd _ => exact formed_execSrd h
  | swr _ => exact formed_execSwr h
  | xfWrite _ => exact formed_execXfWrite h
  | kpost _ => exact formed_execKpost h
  | ccrun _ => exact formed_execCcrun h
  | cctl _ => exact formed_execCctl h
  | rangeRegisterWrite _ => exact formed_execRangeRegisterWrite h
  | cdloss _ => exact formed_execCdloss h
  | cdrel _ => exact formed_execCdrel h
  | fence _ => exact formed_execFence h
  | waitt _ => exact formed_execWaitt h
  | waittExpiry _ => exact formed_execWaittExpiry h
  | waitm _ => exact formed_execWaitm h
  | waitmWake _ => exact formed_execWaitmWake h
  | waitmDeadline _ => exact formed_execWaitmDeadline h
  | add _ => exact formed_aluRG h
  | sub _ => exact formed_aluRG h
  | and _ => exact formed_aluRG h
  | or _ => exact formed_aluRG h
  | xor _ => exact formed_aluRG h
  | shl _ => exact formed_aluRG h
  | shr _ => exact formed_aluRG h
  | sra _ => exact formed_aluRG h
  | mul _ => exact formed_aluRG h
  | mulh _ => exact formed_aluRG h
  | mulhn _ => exact formed_aluRG h
  | div _ => exact formed_divRG h
  | divn _ => exact formed_divRG h
  | rem _ => exact formed_divRG h
  | remn _ => exact formed_divRG h
  | min _ => exact formed_aluRG h
  | max _ => exact formed_aluRG h
  | minn _ => exact formed_aluRG h
  | maxn _ => exact formed_aluRG h
  | slt _ => exact formed_aluRG h
  | sltn _ => exact formed_aluRG h
  | addi _ => exact formed_aluIM h
  | andi _ => exact formed_aluIM h
  | ori _ => exact formed_aluIM h
  | xori _ => exact formed_aluIM h
  | shli _ => exact formed_aluIM h
  | shri _ => exact formed_aluIM h
  | srai _ => exact formed_aluIM h
  | slti _ => exact formed_aluIM h
  | sltni _ => exact formed_aluIM h
  | li _ => exact formed_execLi h
  | lih _ => exact formed_execLih h
  | lea _ => exact formed_execLea h
  | clz _ => exact formed_aluRG h
  | ctz _ => exact formed_aluRG h
  | popc _ => exact formed_aluRG h
  | sext8 _ => exact formed_aluRG h
  | sext16 _ => exact formed_aluRG h
  | sext32 _ => exact formed_aluRG h
  | zext8 _ => exact formed_aluRG h
  | zext16 _ => exact formed_aluRG h
  | zext32 _ => exact formed_aluRG h
  | sel _ => exact formed_execSel h
  | ld _ => exact formed_execLd h
  | st _ => exact formed_execSt h
  | amo _ _ => exact formed_execAmo h
  | cas _ => exact formed_execCas h
  | red _ _ => exact formed_execRed h
  | pref _ => exact formed_execPref h
  | srts _ => exact formed_execSrts h
  | srfa _ => exact formed_execSrfa h
  | srrd _ => exact formed_execSrrd h
  | srrdHome _ => exact formed_execSrrdHome h
  | srwr _ => exact formed_execSrwr h
  | syncRegisterUpdate _ => exact formed_execSyncRegisterUpdate h
  | mirrorUpdate _ => exact formed_execMirrorUpdate h
  | forkMx _ => exact formed_execForkMx h
  | forkCe _ => exact formed_execForkCe h
  | rdv _ => exact formed_execRdv h
  | rdvWake _ => exact formed_execRdvWake h
  | endProg _ => exact formed_execEndProg h
  | qpop _ => exact formed_execQpop h
  | qpopWake _ => exact formed_execQpopWake h
  | qpush _ => exact formed_execQpush h
  | qpushWake _ => exact formed_execQpushWake h
  | twait _ => exact formed_execTwait h
  | twaitWake _ => exact formed_execTwaitWake h
  | tread _ => exact formed_execTread h
  | bar _ => exact formed_execBar h
  | launch _ => exact formed_execLaunch h
  | preempt _ => exact formed_execPreempt h
  | resume _ => exact formed_execResume h
  | restore _ => exact formed_execRestore h
  | abort _ => exact formed_execAbort h
  | tlbinvPage _ => exact formed_execTlbinvPage h
  | tlbinvCtx _ => exact formed_execTlbinvCtx h
  | tlbinvAll _ => exact formed_execTlbinvAll h
  | ctxsv _ => exact formed_execCtxsv h
  | ctxld _ => exact formed_execCtxld h
  | ctxsvV _ => exact formed_execCtxsvV h
  | ctxldV _ => exact formed_execCtxldV h
  | ctxsvVK _ => exact formed_execCtxsvVK h
  | ctxldVK _ => exact formed_execCtxldVK h
  | settle _ => exact formed_execSettle h
  | settlePoint _ _ => exact formed_execSettlePoint h
  | settleCompletion _ => exact formed_execSettleCompletion h
  | renew _ => exact formed_execRenew h
  | renewPoint _ _ => exact formed_execRenewPoint h
  | renewCompletion _ => exact formed_execRenewCompletion h
  | rgset _ => exact formed_execRgset h
  | rgrd _ => exact formed_execRgrd h
  | nbgo _ => exact formed_execNbgo h
  | nbgoSg _ => exact formed_execNbgoSg h
  | nbpart _ => exact formed_execNbpart h
  | vsetl _ => exact formed_execVsetl h
  | vdecl _ => exact formed_execVdecl h
  | qset _ => exact formed_execQset h
  | qadv _ => exact formed_execQadv h
  | walkAhead _ _ _ => exact formed_execWalkAhead h
  | vld _ => exact formed_computedIssue h
  | vst _ => exact formed_computedIssue h
  | vgath _ => exact formed_indexedIssue h
  | vscat _ => exact formed_indexedIssue h
  | vldl _ => exact formed_indexedIssue h
  | vstc _ => exact formed_indexedIssue h
  | vamo _ _ => exact formed_indexedIssue h
  | vwait _ _ => exact formed_execVwait h
  | vwaitWake _ => exact formed_execVwaitWake h
  | vfence _ => exact formed_execVfence h
  | vred _ _ => exact formed_indexedIssue h
  | vacc _ => exact formed_execVacc h
  | vget _ => exact formed_execVget h
  | vput _ => exact formed_execVput h
  | vbcast _ => exact formed_issueV3 h
  | vadd _ => exact formed_issueV3 h
  | vsub _ => exact formed_issueV3 h
  | vmul _ => exact formed_issueV3 h
  | vmulh _ => exact formed_issueV3 h
  | vand _ => exact formed_issueV3 h
  | vor _ => exact formed_issueV3 h
  | vxor _ => exact formed_issueV3 h
  | vshl _ => exact formed_issueV3 h
  | vshr _ => exact formed_issueV3 h
  | vsra _ => exact formed_issueV3 h
  | vmin _ => exact formed_issueV3 h
  | vmax _ => exact formed_issueV3 h
  | vabs _ => exact formed_issueV3 h
  | vsadd _ => exact formed_issueV3 h
  | vssub _ => exact formed_issueV3 h
  | vmac _ => exact formed_issueV4 h
  | vpmac _ => exact formed_issueV4 h
  | vsrar _ => exact formed_issueV3 h
  | vcmp _ _ => exact formed_issueV3 h
  | vmerge _ => exact formed_issueV3 h
  | mand _ => exact formed_issueV3 h
  | mor _ => exact formed_issueV3 h
  | mxor _ => exact formed_issueV3 h
  | mnot _ => exact formed_issueV3 h
  | mpop _ => exact formed_execMpop h
  | mfirst _ => exact formed_execMfirst h
  | mset _ => exact formed_issueV3 h
  | viota _ => exact formed_issueV3 h
  | vicvt _ _ => exact formed_issueV3 h
  | vfadd _ => exact formed_issueV3 h
  | vfsub _ => exact formed_issueV3 h
  | vfmul _ => exact formed_issueV3 h
  | vfdiv _ => exact formed_issueV3 h
  | vfsqrt _ => exact formed_issueV3 h
  | vfmin _ => exact formed_issueV3 h
  | vfmax _ => exact formed_issueV3 h
  | vfabs _ => exact formed_issueV3 h
  | vfneg _ => exact formed_issueV3 h
  | vfma _ => exact formed_issueV4 h
  | vfms _ => exact formed_issueV4 h
  | vfnma _ => exact formed_issueV4 h
  | vfnms _ => exact formed_issueV4 h
  | vfcmp _ _ => exact formed_issueV3 h
  | vfclass _ => exact formed_issueV3 h
  | vfcvt _ _ => exact formed_issueV3 h
  | vlgmul _ => exact formed_issueV3 h
  | vlgdot _ => exact formed_execVlgdot h
  | vslideup _ => exact formed_execVslideup h
  | vslidedn _ => exact formed_issueV4 h
  | vperm _ => exact formed_issueV3 h
  | vtlu _ => exact formed_issueV3 h
  | vcomp _ => exact formed_issueV3 h
  | vexp _ => exact formed_issueV3 h
  | vbfx _ => exact formed_execVbfx h
  | vreds _ _ => exact formed_execVreds h
  | vdot _ => exact formed_execVdot h
  | mopenLoad _ => exact formed_execMopenLoad h
  | mopenZero _ => exact formed_execMopenZero h
  | windowPin _ _ => exact formed_execWindowPin h
  | mclose _ => exact formed_execMclose h
  | mcloseCompletion _ => exact formed_execMcloseCompletion h
  | mzero _ => exact formed_execMzero h
  | mpred _ => exact formed_execMpred h
  | mfmt _ => exact formed_execMfmt h
  | mmas _ => exact formed_execMmas h
  | mmaf _ => exact formed_execMmaf h
  | mxCommandStart _ => exact formed_execMxCommandStart h
  | partialApplication _ _ => exact formed_execPartialApplication h
  | cpy _ => exact formed_copyIssue h
  | cpy2d _ => exact formed_copyIssue h
  | cpyMig _ => exact formed_copyIssue h
  | cpym _ => exact formed_copyPair h
  | cpym2d _ => exact formed_copyPair h
  | wsigNum _ => exact formed_copyIssue h
  | wsigAdd _ => exact formed_copyIssue h
  | cfill _ => exact formed_copyIssue h
  | chunk _ _ => exact formed_execChunk h
  | signal _ => exact formed_execSignal h
  | followOn _ => exact formed_execFollowOn h
  | landing _ => exact formed_execLanding h
  | vectorDispatch _ _ => exact formed_execVectorDispatch h
  | trapEntry _ => exact formed_execTrapEntry h
  | kernelTrapEntry _ => exact formed_execKernelTrapEntry h
  | release _ => exact formed_execRelease h
  | workerSwitch _ => exact formed_execWorkerSwitch h
  | eligibility _ _ => exact formed_execEligibility h
  | admissionChecks _ => exact formed_execAdmissionChecks h
  | admission _ => exact formed_execAdmission h
  | workerCreation _ _ => exact formed_execWorkerCreation h
  | launchEnd _ _ => exact formed_execLaunchEnd h
  | watchdog _ _ => exact formed_execWatchdog h
  | homeSliceAccess _ _ => exact formed_execHomeSliceAccess h
  | stage _ _ => exact formed_execStage h
  | check _ => exact formed_execCheck h
  | publish _ _ => exact formed_execPublish h
  | directoryMerge _ _ _ => exact formed_execDirectoryMerge h
  | reductionUpdate _ _ => exact formed_execReductionUpdate h
  | earlyClean _ _ => exact formed_execEarlyClean h
  | jobDispatch _ => exact formed_execJobDispatch h
  | columnAccess _ _ _ => exact formed_execColumnAccess h
  | jobCompletion _ => exact formed_execJobCompletion h
  | flit _ _ => exact formed_execFlit h
  | recoveryTimer _ => exact formed_execRecoveryTimer h
  | retrainCompletion _ _ => exact formed_execRetrainCompletion h
  | widthRetry _ => exact formed_execWidthRetry h
  | transactionRequest _ => exact formed_execTransactionRequest h
  | transactionResponse _ => exact formed_execTransactionResponse h
  | timeFlit _ => exact formed_execTimeFlit h
  | resignation _ => exact formed_execResignation h
  | powerOn _ => exact formed_execPowerOn h
  | bringupTimeout _ => exact formed_execBringupTimeout h
  | droopTrip _ _ => exact formed_execDroopTrip h
  | thermalTrip _ => exact formed_execThermalTrip h
  | thermalResume _ => exact formed_execThermalResume h
  | powerLimit _ => exact formed_execPowerLimit h
  | channelRetraining _ => exact formed_execChannelRetraining h
  | mctpControl _ => exact formed_execMctpControl h
  | status => exact formed_execStatus h
  | measure _ => exact formed_execMeasure h
  | notice _ _ => exact formed_execNotice h
  | update _ _ => exact formed_execUpdate h
  | cap _ => exact formed_execCap h
  | unsupported _ => exact formed_execUnsupported h
  | pageWalk _ _ _ _ => exact formed_execPageWalk h
  | holderRecord _ => exact formed_execHolderRecord h
  | checkReply _ => exact formed_execCheckReply h
  | elementGroupLanding _ => exact formed_execElementGroupLanding h
  | kSlice _ _ _ => exact formed_execKSlice h
  | backInvalidation _ => exact formed_execBackInvalidation h
  | cxlError _ => exact formed_execCxlError h
  | throttling _ _ => exact formed_execThrottling h
  | dynamicAddressAssignment _ => exact formed_execDynamicAddressAssignment h

theorem formed_fetch_stop {o : Out} (h : Formed s) (e : s.fetch = .stop o) : OutFormed o := by
  unfold State.fetch at e
  split at e
  · cases e
    refine .next ?_
    split
    · exact h
    · exact formed_raiseOn h
  · split at e
    · cases e
      exact .next (formed_raise h)
    · split at e
      · rename_i e1
        cases e
        exact (formed_fetchLineOf h).of_error e1
      · rename_i e1
        have h1 := (formed_fetchLineOf h).of_pair e1
        dsimp only at e
        split at e
        · cases e
          exact .next (formed_raise h1)
        · split at e
          · cases e
            exact .next (formed_raise h1)
          · split at e
            · cases e
              exact .next (formed_raise h1)
            · cases e

theorem formed_fetch_run {i : Instr} (h : Formed s) (e : s.fetch = .run i t) : Formed t := by
  unfold State.fetch at e
  split at e
  · cases e
  · split at e
    · cases e
    · split at e
      · cases e
      · rename_i e1
        have h1 := (formed_fetchLineOf h).of_pair e1
        dsimp only at e
        split at e
        · cases e
        · split at e
          · cases e
          · split at e
            · cases e
            · cases e
              exact h1

theorem formed_issue_stop {q : SeqId} {o : Out} (h : Formed s) (e : s.issue q = .stop o) : OutFormed o := by
  unfold State.issue at e
  split at e
  · exact formed_fetch_stop (formed_select h) e
  · cases e
    exact .next h

theorem formed_issue_run {q : SeqId} {i : Instr} (h : Formed s) (e : s.issue q = .run i t) : Formed t := by
  unfold State.issue at e
  split at e
  · exact formed_fetch_run (formed_select h) e
  · cases e

theorem formed_finish {o : Out} (h : OutFormed o) : OutFormed (finish o) := by
  cases h with
  | next h => exact .next (formed_housekeep h)
  | fault => exact .fault
  | refused => exact .refused

theorem formed_step (h : Formed s) : OutFormed (step s) := by
  unfold step
  split
  · rename_i e1
    have h1 := formed_takeTurn h
    rw [e1] at h1
    split
    · rename_i e2
      exact formed_finish (formed_issue_stop h1 e2)
    · rename_i e2
      exact formed_finish (formed_exec _ (formed_issue_run h1 e2))
  · rename_i e1
    have h1 := formed_takeTurn h
    rw [e1] at h1
    split
    · exact formed_finish (formed_exec _ h1)
    · exact formed_finish (.next h1)

end

/-- Settles O58: each of a step's operations on memory keeps the form of its arrays, and a step is made of them. -/
theorem stepsKeepTheFormOfMemory : Obligations.StepsKeepTheFormOfMemory := by
  unfold Obligations.StepsKeepTheFormOfMemory
  intro s t h e
  exact (formed_step h).of_eq e

end Sys2Proof.Machine
end

section
/-! SUPPORT. What a turn of a sequencer fetches, and what it runs (R60, R61, R85). -/

namespace Sys2Proof.Machine

open Sys2Proof.Claims (lineAddr)

/-! ## The current sequencer -/

/-- A value put under one key leaves the others. -/
theorem assocFind_assocPut_ne {α β : Type} [DecidableEq α] {k k' : α} (h : k' ≠ k) (v : β) (l : List (α × β)) :
    assocFind (assocPut l k v) k' = assocFind l k' := by
  induction l with
  | nil => simp [assocPut, assocFind, h.symm]
  | cons p r ih =>
    obtain ⟨k₀, v₀⟩ := p
    by_cases e : k₀ = k
    · subst e
      simp [assocPut, assocFind, h.symm]
    · simp [assocPut, assocFind, e, ih]

@[simp] theorem State.select_cur (s : State) (q : SeqId) : (s.select q).cur = q := by
  unfold State.select
  split
  · rename_i e
    exact e.symm
  · rfl

theorem State.select_core (s : State) (q : SeqId) : (s.select q).core = s.seqD q := by
  unfold State.select State.seqD State.getSeq
  by_cases e : q = s.cur
  · simp [e]
  · simp [e, assocFind_assocPut_ne e]

/-! ## The line and the slot of a PC, and the bytes of a line -/

theorem pcLine_eq_lineAddr (pc : Word) : pcLine pc = lineAddr pc := by
  have h63 (i : Nat) : (63#64).getLsbD i = decide (i < 6) := by
    rw [BitVec.getLsbD_ofNat, show 63 = 2 ^ 6 - 1 from rfl, Nat.testBit_two_pow_sub_one]
    simp only [Bool.and_eq_right_iff_imp, decide_eq_true_eq]
    omega
  apply BitVec.eq_of_getLsbD_eq
  intro i hi
  rw [pcLine, lineAddr, BitVec.getLsbD_and, BitVec.getLsbD_not, h63, BitVec.getLsbD_append, BitVec.getLsbD_extractLsb']
  by_cases h6 : i < 6
  · simp [h6]
  · have hbits : i - 6 < 58 := by omega
    simp [h6, hi, hbits, Nat.add_sub_cancel' (Nat.le_of_not_lt h6)]

theorem pcSlot_eq_mod (pc : Word) : pcSlot pc = pc.toNat % 64 := by
  simp [pcSlot, BitVec.extractLsb'_toNat]

/-- Byte k of a number of bytes is the k-th of them. -/
theorem bytesNum_byte (l : List Byte) (k : Nat) : bytesNum l / 2 ^ (8 * k) % 256 = (l.getD k 0).toNat := by
  induction l generalizing k with
  | nil => simp [bytesNum]
  | cons b r ih =>
    have hb : b.toNat < 256 := b.isLt
    cases k with
    | zero =>
      simp only [bytesNum, Nat.mul_zero, Nat.pow_zero, Nat.div_one, List.getD_cons_zero]
      omega
    | succ k =>
      have hdiv : (b.toNat + 256 * bytesNum r) / 256 = bytesNum r := by omega
      have hpow : 2 ^ (8 * (k + 1)) = 256 * 2 ^ (8 * k) := by
        rw [Nat.mul_succ, Nat.pow_add, Nat.mul_comm]
      rw [bytesNum, hpow, ← Nat.div_div_eq_div_mul, hdiv, ih, List.getD_cons_succ]

theorem ofNat_bytesNum_byte {l : List Byte} {k w : Nat} (hk : 8 * k + 8 ≤ w) :
    (BitVec.ofNat w (bytesNum l)).extractLsb' (8 * k) 8 = l.getD k 0 := by
  obtain ⟨n, rfl⟩ := Nat.exists_eq_add_of_le hk
  have hpow : 2 ^ (8 * k + 8 + n) = 2 ^ (8 * k) * (256 * 2 ^ n) := by
    rw [Nat.pow_add, Nat.pow_add, Nat.mul_assoc]
  apply BitVec.eq_of_toNat_eq
  rw [BitVec.extractLsb'_toNat, BitVec.toNat_ofNat, Nat.shiftRight_eq_div_pow, ← bytesNum_byte, hpow,
    Nat.mod_mul_right_div_self, Nat.mod_mod_of_dvd _ (Nat.dvd_mul_right 256 _)]

/-! ## The line a fetch takes -/

/-- A page that is not PRIVATE shows the bytes as they were read (R301). -/
theorem State.withOwn_of_ne_priv {s : State} {kind : PageKind} (h : kind ≠ .priv) (la : Nat) (b : LineBits) :
    s.withOwn kind la b = b := by
  simp [State.withOwn, h]

/-- On a PRIVATE page the core's own writes lie over the bytes read (log entry 79). -/
theorem State.withOwn_priv (s : State) (la : Nat) (b : LineBits) :
    s.withOwn .priv la b =
      ((s.cacheOf s.cur).bind fun o => s.cacheCopy o la false).elim b fun c => mergeLine b c.data c.mask := by
  unfold State.withOwn
  rw [if_pos rfl]
  cases (s.cacheOf s.cur).bind fun o => s.cacheCopy o la false <;> rfl

theorem foldl_withOwn_of_ne_priv {s : State} {l : List (Nat × PageKind × Nat)} (h : ∀ p ∈ l, p.2.1 ≠ .priv)
    (b : LineBits) : l.foldl (fun acc p => s.withOwn p.2.1 (lineOf p.1) acc) b = b := by
  induction l with
  | nil => rfl
  | cons p r ih =>
    rw [List.foldl_cons, State.withOwn_of_ne_priv (h p (by simp)), ih fun x hx => h x (by simp [hx])]

/-- The line that is read over: the bytes of the access, with the core's own writes over them. -/
def State.codeLine (s : State) (l : List (Nat × PageKind × Nat)) (bs : List Byte) : LineBits :=
  l.foldl (fun acc p => s.withOwn p.2.1 (lineOf p.1) acc) (BitVec.ofNat 512 (bytesNum bs))

section
variable {s v : State} {a : Word} {tl : List (Leaf × Word × Nat)} {bs : List Byte}

theorem State.readCode_waits (hc : s.checkAccess (s.accessor s.cur) wantFetch a 64 = .ok tl)
    (hd : reachesDevice tl = false) (hw : ∃ p ∈ piecesOf tl, s.lineWaits (lineOf p.1) = true) :
    s.readCode a = .error (.next s) := by
  simp only [State.readCode, hc, hd, List.any_eq_true.mpr hw, if_true, Bool.false_eq_true, if_false]

theorem State.readCode_ok (hc : s.checkAccess (s.accessor s.cur) wantFetch a 64 = .ok tl)
    (hd : reachesDevice tl = false) (hw : ∀ p ∈ piecesOf tl, s.lineWaits (lineOf p.1) = false)
    (hr : (s.markAll tl false).readPieces none (s.dieOf s.cur) (piecesOf tl) = (v, bs, none)) :
    s.readCode a = .ok (v.modCore fun x => { x with line := some (a, v.codeLine (piecesOf tl) bs) },
      v.codeLine (piecesOf tl) bs) := by
  have hn : ((piecesOf tl).any fun p => s.lineWaits (lineOf p.1)) = false := by
    rw [List.any_eq_false]
    exact fun p hp => by simp [hw p hp]
  simp only [State.readCode, hc, hd, hn, hr, Bool.false_eq_true, if_false, State.codeLine]

end

theorem State.fetchLineOf_kept {u : State} {l : LineBits} (h : u.core.line = some (lineAddr u.core.pc, l)) :
    u.fetchLineOf = .ok (u, l) := by
  simp only [State.fetchLineOf, h, pcLine_eq_lineAddr, if_true]

theorem State.fetchLineOf_read {u : State} (h : ∀ l, u.core.line ≠ some (lineAddr u.core.pc, l)) :
    u.fetchLineOf = u.readCode (lineAddr u.core.pc) := by
  simp only [State.fetchLineOf, pcLine_eq_lineAddr]
  split
  · rename_i b l e
    split
    · rename_i hb
      exact absurd (hb ▸ e) (h l)
    · rfl
  · rfl

/-! ## A turn -/

theorem State.fetch_decoded {u v : State} {l : LineBits} {i : Instr} (hp : u.core.w.pending = none)
    (hb : u.breaks = false) (hf : u.fetchLineOf = .ok (v, l)) (hl : LineBits.legal l = true)
    (h0 : v.core.pc.toNat % 64 ≠ 0) (hn : v.core.pc.toNat % 64 ≤ LineBits.heads l)
    (hi : decodeSlot (kindOf v.cur) l (v.core.pc.toNat % 64) = some i) : u.fetch = .run i v := by
  have hslot : ¬ (v.core.pc.toNat % 64 = 0 ∨ LineBits.heads l < v.core.pc.toNat % 64) := by omega
  simp only [State.fetch, hp, hb, hf, hl, hi, pcSlot_eq_mod, hslot, Bool.not_true, Bool.false_eq_true, if_false]

theorem State.issue_of_mayIssue {s : State} {q : SeqId} (h : s.mayIssue q = true) :
    s.issue q = (s.select q).fetch := if_pos h

theorem State.issue_of_not_mayIssue {s : State} {q : SeqId} (h : s.mayIssue q = false) :
    s.issue q = .stop (.next s) := by
  simp [State.issue, h]

theorem step_stop {s s1 : State} {q : SeqId} {o : Out} (h : s.takeTurn = (.issue q, s1)) (e : s1.issue q = .stop o) :
    step s = finish o := by
  simp only [step, h, e]

theorem step_run {s s1 s2 : State} {q : SeqId} {i : Instr} (h : s.takeTurn = (.issue q, s1))
    (e : s1.issue q = .run i s2) : step s = finish (exec i s2) := by
  simp only [step, h, e]

theorem step_event {s s1 : State} {e : Instr} (h : s.takeTurn = (.event e, s1)) (he : e.isEvent = true) :
    step s = finish (exec e s1) := by
  simp only [step, h, he, if_true]

/-- Settles O56: by what `issue` fetches, and by which line `fetchLineOf` takes. -/
theorem stepsRunWhatIsDecoded : Obligations.StepsRunWhatIsDecoded := by
  unfold Obligations.StepsRunWhatIsDecoded
  refine ⟨?_, ?_, fun s s1 e => step_event, ?_, ?_, ?_, fun u l => State.fetchLineOf_kept, ?_⟩
  · intro s s1 v q l i ht hq u hp hb hf hl slot h0 hn hi
    exact step_run ht ((State.issue_of_mayIssue hq).trans (State.fetch_decoded hp hb hf hl h0 hn hi))
  · intro s s1 q ht hq
    exact step_stop ht (State.issue_of_not_mayIssue hq)
  · intro s t r h
    simp only [State.takeTurn, h]
  · exact fun s t h => (Host.Outcome.next.inj h).symm
  · exact fun s q => ⟨s.select_cur q, fun _ => s.select_core q⟩
  · intro u tl hline hc hd
    rw [State.fetchLineOf_read hline]
    refine ⟨State.readCode_waits hc hd, fun v bs hw hr => ?_⟩
    refine ⟨_, _, State.readCode_ok hc hd hw hr, rfl, rfl, rfl, BitVec.ofNat 512 (bytesNum bs), ?_, ?_, ?_⟩
    · exact fun _ k hk => ofNat_bytesNum_byte (by omega)
    · exact fun hpriv => foldl_withOwn_of_ne_priv hpriv _
    · intro p hp hk
      rw [State.codeLine, hp, List.foldl_cons, List.foldl_nil, hk, State.withOwn_priv]

end Sys2Proof.Machine
end

section
/-! SUPPORT. What the management controller and the environment do: bring-up (R444), restarts (R155, R454), power and
heat (R446 to R448) and the retraining of channels (R449). -/

namespace Sys2Proof.Machine

open Sys2Proof.Claims (Posts)

/-! ## The events -/

theorem exec_powerOn_step (ok : Bool) (s : State) : exec (.powerOn (.step ok)) s = .next (s.powerStep ok) := rfl

theorem exec_powerOn_module (s : State) : exec (.powerOn .module) s = .next s.repower := rfl

theorem exec_powerOn_core (n : Nat) (s : State) : exec (.powerOn (.core n)) s =
    if n < 32 ∧ 6 ≤ s.mgmt.step then .next (s.restartCore n) else .next s := rfl

theorem exec_bringupTimeout (step : Nat) (s : State) : exec (.bringupTimeout step) s =
    if !s.mgmt.failed && s.overLimit step then .next s.stopBringup else .next s := rfl

theorem exec_droopTrip (die cluster : Nat) (s : State) :
    exec (.droopTrip die cluster) s = execDroopTrip die cluster s :=
  rfl

theorem exec_thermalTrip (die : Nat) (s : State) : exec (.thermalTrip die) s = execThermalTrip die s := rfl

theorem exec_thermalResume (die : Nat) (s : State) : exec (.thermalResume die) s =
    .next (s.modDie die fun x => { x with held := false }) := rfl

theorem exec_cxlError (a : Word) (s : State) : exec (.cxlError a) s = .next (s.postHardware 53 0 0 (some a)) := rfl

theorem exec_channelRetraining_drift (c : Nat) (s : State) : exec (.channelRetraining ⟨c, .drift⟩) s =
    if (assocFind s.mgmt.due c).isSome || s.trains c then .next s
    else .next (s.modMgmt fun m => { m with due := m.due ++ [(c, (s.die 0).time)] }) := rfl

theorem exec_channelRetraining_start (c : Nat) (s : State) : exec (.channelRetraining ⟨c, .start⟩) s =
    if s.mayTrain c then
      .next (s.modMgmt fun m =>
        { m with due := assocDrop m.due c, training := m.training ++ [(c, (s.die 0).time)] })
    else .next s := rfl

theorem exec_channelRetraining_finish_some {c : Nat} {s : State} {p : Nat × Word}
    (h : s.mgmt.training.find? (fun x => x.1 == c) = some p) : exec (.channelRetraining ⟨c, .finish⟩) s =
      .next (s.modMgmt fun m => m.endTraining p (s.die 0).time) := by
  change execChannelRetraining ⟨c, .finish⟩ s = _
  simp only [execChannelRetraining, h]

theorem exec_channelRetraining_finish_none {c : Nat} {s : State}
    (h : s.mgmt.training.find? (fun x => x.1 == c) = none) : exec (.channelRetraining ⟨c, .finish⟩) s = .next s := by
  change execChannelRetraining ⟨c, .finish⟩ s = _
  simp only [execChannelRetraining, h]

/-! ## Values under a key, and sequencers -/

theorem assocFind_assocPut_same {α β : Type} [DecidableEq α] (k : α) (v : β) (l : List (α × β)) :
    assocFind (assocPut l k v) k = some v := by
  induction l with
  | nil => simp [assocPut, assocFind]
  | cons p r ih =>
    by_cases e : p.1 = k
    · simp [assocPut, assocFind, e]
    · simp [assocPut, assocFind, e, ih]

theorem assocFind_assocDrop_same {α β : Type} [DecidableEq α] (k : α) (l : List (α × β)) :
    assocFind (assocDrop l k) k = none := by
  induction l with
  | nil => rfl
  | cons p r ih =>
    by_cases e : p.1 = k
    · simpa [assocDrop, e] using ih
    · simpa [assocDrop, assocFind, e] using ih

@[simp] theorem State.getSeq_setSeq_same (s : State) (q : SeqId) (x : Seq) : (s.setSeq q x).getSeq q = some x := by
  by_cases e : q = s.cur
  · simp [State.setSeq, State.getSeq, e]
  · simp [State.setSeq, State.getSeq, e, assocFind_assocPut_same]

theorem State.seqD_setSeq_same (s : State) (q : SeqId) (x : Seq) : (s.setSeq q x).seqD q = x := by
  simp [State.seqD]

theorem State.seqD_modSeq_same {s : State} {q : SeqId} (f : Seq → Seq) (h : (s.getSeq q).isSome = true) :
    (s.modSeq q f).seqD q = f (s.seqD q) := by
  obtain ⟨x, hx⟩ := Option.isSome_iff_exists.mp h
  simp [State.modSeq, State.seqD, hx]

@[simp] theorem State.modSeq_mgmt (s : State) (q : SeqId) (f : Seq → Seq) : (s.modSeq q f).mgmt = s.mgmt := by
  unfold State.modSeq State.setSeq
  split
  · rfl
  · split <;> rfl

@[simp] theorem State.modSeq_dies (s : State) (q : SeqId) (f : Seq → Seq) : (s.modSeq q f).dies = s.dies := by
  unfold State.modSeq State.setSeq
  split
  · rfl
  · split <;> rfl

@[simp] theorem State.setSeq_regs (s : State) (q : SeqId) (x : Seq) : (s.setSeq q x).regs = s.regs := by
  unfold State.setSeq
  split <;> rfl

/-! ## Bring-up (R444) -/

@[simp] theorem State.stopBringup_mgmt (s : State) : s.stopBringup.mgmt = { s.mgmt with failed := true } := rfl

/-- Step 2 for one base die: its image is measured, or it stays out of service. -/
def State.takeBaseImage (s : State) (d : Nat) : State :=
  if imageOk (s.imageFor (d + 1)) then s.measureImage d (s.imageFor (d + 1))
  else s.modDie d fun x => { x with resigned := true }

theorem State.takeBaseImages_eq (s : State) : s.takeBaseImages = (List.range 4).foldl State.takeBaseImage s := rfl

theorem State.takeBaseImage_of_ok {s : State} {d : Nat} (h : imageOk (s.imageFor (d + 1)) = true) :
    s.takeBaseImage d = s.measureImage d (s.imageFor (d + 1)) := if_pos h

theorem State.takeBaseImage_of_not_ok {s : State} {d : Nat} (h : imageOk (s.imageFor (d + 1)) = false) :
    s.takeBaseImage d = s.modDie d fun x => { x with resigned := true } := if_neg (by simp [h])

/-- A base image changes nothing of the controller but its log. -/
theorem State.takeBaseImage_mgmt (s : State) (d : Nat) :
    (s.takeBaseImage d).mgmt = { s.mgmt with log := (s.takeBaseImage d).mgmt.log } := by
  cases h : imageOk (s.imageFor (d + 1)) with
  | true =>
    rw [State.takeBaseImage_of_ok h]
    rfl
  | false =>
    rw [State.takeBaseImage_of_not_ok h]
    rfl

theorem State.inService_resigned (s : State) (n d : Nat) :
    (s.modDie n fun x => { x with resigned := true }).inService d = true ↔ s.inService d = true ∧ d ≠ n := by
  simp only [State.inService, die_modDie, Bool.and_eq_true, decide_eq_true_eq]
  by_cases e : d = n
  · subst e
    by_cases h4 : d < 4 <;> simp [h4]
  · simp [e]

theorem State.takeBaseImage_inService (s : State) (n d : Nat) :
    (s.takeBaseImage n).inService d = true ↔
      s.inService d = true ∧ (d = n → imageOk (s.imageFor (d + 1)) = true) := by
  cases h : imageOk (s.imageFor (n + 1)) with
  | true =>
    rw [State.takeBaseImage_of_ok h]
    exact ⟨fun hs => ⟨hs, fun e => e ▸ h⟩, fun hs => hs.1⟩
  | false =>
    rw [State.takeBaseImage_of_not_ok h, State.inService_resigned]
    refine and_congr_right fun _ => ⟨fun hne e => absurd e hne, fun hi e => ?_⟩
    rw [e, h] at hi
    exact absurd (hi rfl) (by simp)

theorem State.takeBaseImage_imageFor (s : State) (n k : Nat) : (s.takeBaseImage n).imageFor k = s.imageFor k := by
  unfold State.imageFor
  rw [State.takeBaseImage_mgmt]

theorem foldl_takeBaseImage_mgmt (l : List Nat) (s : State) :
    (l.foldl State.takeBaseImage s).mgmt = { s.mgmt with log := (l.foldl State.takeBaseImage s).mgmt.log } := by
  induction l generalizing s with
  | nil => rfl
  | cons n r ih =>
    rw [List.foldl_cons, ih, State.takeBaseImage_mgmt]

theorem foldl_takeBaseImage_inService (l : List Nat) (s : State) (d : Nat) :
    (l.foldl State.takeBaseImage s).inService d = true ↔
      s.inService d = true ∧ (d ∈ l → imageOk (s.imageFor (d + 1)) = true) := by
  induction l generalizing s with
  | nil => simp
  | cons n r ih =>
    rw [List.foldl_cons, ih, State.takeBaseImage_inService, State.takeBaseImage_imageFor, List.mem_cons]
    tauto

@[simp] theorem State.boot_mgmt (s : State) : s.boot.mgmt = s.mgmt := State.modSeq_mgmt ..

@[simp] theorem State.boot_dies (s : State) : s.boot.dies = s.dies := State.modSeq_dies ..

theorem State.boot_core0 {s : State} (h : (s.getSeq (.cc 0)).isSome = true) :
    s.boot.seqD (.cc 0) = { s.seqD (.cc 0) with run := .running, priv := .k, pc := s.entryPc } :=
  State.seqD_modSeq_same _ h

section
variable {s : State}

/-- The state with the next step of bring-up counted. -/
def State.stepped (s : State) : State := s.modMgmt fun m => { m with step := s.mgmt.step + 1 }

theorem State.endStep_one (h : s.mgmt.step = 0) : s.endStep =
    if imageOk (s.imageFor 0) then s.stepped.measureImage 0 (s.imageFor 0) else s.stopBringup := by
  simp only [State.endStep, State.stepped, h, if_true]

theorem State.endStep_two (h : s.mgmt.step = 1) : s.endStep =
    (s.stepped.modMgmt fun m => { m with rails := true }).takeBaseImages := by
  simp only [State.endStep, State.stepped, h, Nat.reduceAdd, Nat.reduceEqDiff, if_true, if_false]

theorem State.endStep_five (h : s.mgmt.step = 4) : s.endStep =
    if s.inService 0 then s.stepped else s.stopBringup := by
  simp only [State.endStep, State.stepped, h, Nat.reduceAdd, Nat.reduceEqDiff, if_true, if_false]
  rfl

theorem State.endStep_six (h : s.mgmt.step = 5) : s.endStep = s.stepped.boot := by
  simp only [State.endStep, State.stepped, h, Nat.reduceAdd, Nat.reduceEqDiff, if_true, if_false]

theorem State.endStep_other (h : s.mgmt.step = 2 ∨ s.mgmt.step = 3) : s.endStep = s.stepped := by
  rcases h with h | h <;>
    simp only [State.endStep, State.stepped, h, Nat.reduceAdd, Nat.reduceEqDiff, if_false]

/-- What the end of a step of bring-up gives (R444, steps 1 to 6). -/
def EndsStep (s t : State) : Prop :=
  t.mgmt.step = (if t.mgmt.failed then s.mgmt.step else s.mgmt.step + 1) ∧
    (s.mgmt.step ∈ [2, 3, 5] → t.mgmt.failed = false ∧ t.dies = s.dies) ∧
    (s.mgmt.step = 0 → (t.mgmt.failed = false ↔ imageOk (s.imageFor 0) = true)) ∧
    (s.mgmt.step = 1 → t.mgmt.rails = true ∧ ∀ d, d < 4 →
      (t.inService d = true ↔ s.inService d = true ∧ imageOk (s.imageFor (d + 1)) = true)) ∧
    (s.mgmt.step = 4 → (t.mgmt.failed = false ↔ s.inService 0 = true)) ∧
    (s.mgmt.step = 5 → t.regs.ccrun = 1 ∧ ((s.getSeq (.cc 0)).isSome = true →
      (t.seqD (.cc 0)).run = .running ∧ (t.seqD (.cc 0)).priv = .k ∧ (t.seqD (.cc 0)).pc = s.entryPc))

theorem endsStep_one (hf : s.mgmt.failed = false) (h : s.mgmt.step = 0) : EndsStep s s.endStep := by
  rw [State.endStep_one h]
  cases hi : imageOk (s.imageFor 0) with
  | true => simp [EndsStep, State.stepped, State.measureImage, State.modMgmt, h, hf, hi]
  | false => simp [EndsStep, h, hi]

theorem endsStep_two (hf : s.mgmt.failed = false) (h : s.mgmt.step = 1) : EndsStep s s.endStep := by
  rw [State.endStep_two h, State.takeBaseImages_eq]
  have hm := foldl_takeBaseImage_mgmt (List.range 4) (s.stepped.modMgmt fun m => { m with rails := true })
  have hs := foldl_takeBaseImage_inService (List.range 4) (s.stepped.modMgmt fun m => { m with rails := true })
  generalize (List.range 4).foldl State.takeBaseImage (s.stepped.modMgmt fun m => { m with rails := true }) = t at hm hs
  have hservice (d : Nat) : (s.stepped.modMgmt fun m => { m with rails := true }).inService d = s.inService d := rfl
  have himage (d : Nat) : (s.stepped.modMgmt fun m => { m with rails := true }).imageFor d = s.imageFor d := rfl
  have hd (d : Nat) (h4 : d < 4) :
      t.inService d = true ↔ s.inService d = true ∧ imageOk (s.imageFor (d + 1)) = true := by
    rw [hs, hservice, himage]
    simp [h4]
  refine ⟨?_, ?_, ?_, fun _ => ⟨?_, hd⟩, ?_, ?_⟩
  · rw [hm]
    simp [State.stepped, State.modMgmt, hf]
  · simp [h]
  · simp [h]
  · rw [hm]
    rfl
  · simp [h]
  · simp [h]

theorem endsStep_other (hf : s.mgmt.failed = false) (h : s.mgmt.step = 2 ∨ s.mgmt.step = 3) : EndsStep s s.endStep := by
  rw [State.endStep_other h]
  rcases h with h | h <;> simp [EndsStep, State.stepped, State.modMgmt, h, hf]

theorem endsStep_five (hf : s.mgmt.failed = false) (h : s.mgmt.step = 4) : EndsStep s s.endStep := by
  rw [State.endStep_five h]
  cases hi : s.inService 0 with
  | true => simp [EndsStep, State.stepped, State.modMgmt, h, hf, hi]
  | false => simp [EndsStep, h, hi]

theorem endsStep_six (hf : s.mgmt.failed = false) (h : s.mgmt.step = 5) : EndsStep s s.endStep := by
  rw [State.endStep_six h]
  refine ⟨?_, ?_, ?_, ?_, ?_, fun _ => ⟨rfl, fun hc => ?_⟩⟩
  · simp [State.stepped, State.modMgmt, hf]
  · simp [State.stepped, State.modMgmt, hf]
  · simp [h]
  · simp [h]
  · simp [h]
  · rw [State.boot_core0 (s := s.stepped) hc]
    exact ⟨rfl, rfl, rfl⟩

theorem endsStep (hf : s.mgmt.failed = false) (h : s.mgmt.step < 6) : EndsStep s s.endStep := by
  have hcases : s.mgmt.step = 0 ∨ s.mgmt.step = 1 ∨ (s.mgmt.step = 2 ∨ s.mgmt.step = 3) ∨ s.mgmt.step = 4 ∨
      s.mgmt.step = 5 := by omega
  rcases hcases with h0 | h1 | h23 | h4 | h5
  · exact endsStep_one hf h0
  · exact endsStep_two hf h1
  · exact endsStep_other hf h23
  · exact endsStep_five hf h4
  · exact endsStep_six hf h5

theorem State.powerStep_early (hf : s.mgmt.failed = false) (h : s.mgmt.step < 6) (ok : Bool) :
    s.powerStep ok = if ok then s.endStep else s.stopBringup := by
  simp only [State.powerStep, hf, Nat.not_le.mpr h, Bool.false_eq_true, if_false]

theorem State.powerStep_late (hf : s.mgmt.failed = false) (h : 6 ≤ s.mgmt.step) (ok : Bool) :
    s.powerStep ok =
      if s.mgmt.rising.isEmpty then s else if ok && !s.overLimit 7 then s.raiseDie else s.stopBringup := by
  simp only [State.powerStep, hf, h, Bool.false_eq_true, if_true, if_false]

theorem State.powerStep_failed (hf : s.mgmt.failed = true) (ok : Bool) : s.powerStep ok = s := by
  simp only [State.powerStep, hf, if_true]

theorem State.overLimit_early {k : Nat} (hk : k ≠ 7) :
    s.overLimit k = true ↔ k = s.mgmt.step + 1 ∧ k ≤ 4 := by
  simp only [State.overLimit, hk, if_false, decide_eq_true_eq]

theorem State.overLimit_seven : s.overLimit 7 = true ↔ 6 ≤ s.mgmt.step ∧ ∃ d t0 rest,
    s.mgmt.rising = (d, t0) :: rest ∧ t0.toNat + 1000000 < (s.die 0).time.toNat := by
  cases hr : s.mgmt.rising with
  | nil => simp [State.overLimit, hr]
  | cons p rest =>
    obtain ⟨d, t0⟩ := p
    simp [State.overLimit, hr]

theorem State.raiseDie_of_rising {d : Nat} {t0 : Word} {rest : List (Nat × Word)}
    (hr : s.mgmt.rising = (d, t0) :: rest) : s.raiseDie = (s.modDie d fun x => { x with up := true }).modMgmt fun m =>
      { m with step := if rest.isEmpty then 7 else m.step, rising := rest.map fun p => (p.1, (s.die 0).time) } := by
  simp only [State.raiseDie, hr]

end

theorem bringUp_early (s : State) (hf : s.mgmt.failed = false) (h : s.mgmt.step < 6) :
    (∃ t, exec (.powerOn (.step true)) s = .next t ∧ EndsStep s t) ∧
      ∃ t, exec (.powerOn (.step false)) s = .next t ∧ t.mgmt = { s.mgmt with failed := true } := by
  refine ⟨⟨s.endStep, ?_, endsStep hf h⟩, s.stopBringup, ?_, rfl⟩
  · rw [exec_powerOn_step, State.powerStep_early hf h, if_pos rfl]
  · rw [exec_powerOn_step, State.powerStep_early hf h, if_neg (by simp)]

theorem bringUp_rising {s : State} {d : Nat} {t0 : Word} {rest : List (Nat × Word)} (hf : s.mgmt.failed = false)
    (h : 6 ≤ s.mgmt.step) (hr : s.mgmt.rising = (d, t0) :: rest) :
    (∀ ok, ok = false ∨ t0.toNat + 1000000 < (s.die 0).time.toNat →
      ∃ t, exec (.powerOn (.step ok)) s = .next t ∧ t.mgmt = { s.mgmt with failed := true }) ∧
    (¬ t0.toNat + 1000000 < (s.die 0).time.toNat →
      ∃ t, exec (.powerOn (.step true)) s = .next t ∧ (d < 4 → (t.die d).up = true) ∧
        t.mgmt.step = (if rest = [] then 7 else s.mgmt.step) ∧
        t.mgmt.rising = rest.map fun p => (p.1, (s.die 0).time)) := by
  have hover : s.overLimit 7 = decide (t0.toNat + 1000000 < (s.die 0).time.toNat) := by
    simp [State.overLimit, hr, h]
  have hne : s.mgmt.rising.isEmpty = false := by simp [hr]
  have hstep (ok : Bool) := State.powerStep_late hf h ok
  simp only [hover, hne, Bool.false_eq_true, if_false] at hstep
  refine ⟨fun ok hlate => ⟨s.stopBringup, ?_, rfl⟩, fun hin => ⟨s.raiseDie, ?_, ?_⟩⟩
  · rw [exec_powerOn_step, hstep, if_neg]
    rcases hlate with hok | hlate
    · simp [hok]
    · simp [hlate]
  · rw [exec_powerOn_step, hstep, if_pos (by simpa using hin)]
  · rw [State.raiseDie_of_rising hr]
    refine ⟨fun h4 => ?_, ?_, rfl⟩
    · change ((s.modDie d fun x => { x with up := true }).die d).up = true
      rw [die_modDie, if_pos ⟨rfl, h4⟩]
    · simp [State.modMgmt]

theorem bringUp_timeout (s : State) (step : Nat) :
    let late := s.mgmt.failed = false ∧ (step ≤ 4 ∧ step = s.mgmt.step + 1 ∨
      step = 7 ∧ 6 ≤ s.mgmt.step ∧ ∃ d t0 rest, s.mgmt.rising = (d, t0) :: rest ∧
        t0.toNat + 1000000 < (s.die 0).time.toNat)
    ∃ t, exec (.bringupTimeout step) s = .next t ∧ (late → t.mgmt = { s.mgmt with failed := true }) ∧
      (¬late → t = s) := by
  intro late
  have hlate : (!s.mgmt.failed && s.overLimit step) = true ↔ late := by
    rw [Bool.and_eq_true, Bool.not_eq_true']
    refine and_congr_right fun _ => ?_
    by_cases h7 : step = 7
    · subst h7
      rw [State.overLimit_seven]
      simp
    · rw [State.overLimit_early h7]
      simp [h7, and_comm]
  rw [exec_bringupTimeout]
  by_cases hl : late
  · exact ⟨_, if_pos (hlate.mpr hl), fun _ => rfl, fun hn => absurd hl hn⟩
  · exact ⟨_, if_neg (mt hlate.mp hl), fun hl' => absurd hl' hl, fun _ => rfl⟩

theorem State.passTime_early {s : State} (h : s.mgmt.step < 5) (ns : Nat) : s.passTime ns = s := if_pos h

theorem bringUpGoesStepByStep : Claims.BringUpGoesStepByStep := by
  refine ⟨bringUp_early, ?_, ?_, bringUp_timeout, ?_⟩
  · intro s hf h
    refine ⟨fun hr ok => ?_, fun d t0 rest hr => bringUp_rising hf h hr⟩
    rw [exec_powerOn_step, State.powerStep_late hf h, hr]
    rfl
  · intro s ok hf
    rw [exec_powerOn_step, State.powerStep_failed hf]
  · intro s ns d h
    rw [State.passTime_early h]

/-! ## Restarts (R155, R418, R425, R454) -/

/-- The state with a control core running at K from its EPC. -/
def State.coreAtK (s : State) (n : Nat) : State :=
  s.setSeq (.cc n) { (s.seqD (.cc n)).atK with run := .running, pc := (s.seqD (.cc n)).epc, line := none }

theorem State.restartCore_of_halted {s : State} {n : Nat} (hr : (s.seqD (.cc n)).run = .halted)
    (hs : s.inService (n / 8) = true) : s.restartCore n =
      { s.coreAtK n with
        regs := { (s.coreAtK n).regs with ccrun := (s.coreAtK n).regs.ccrun ||| BitVec.twoPow 32 n } } :=
  if_pos ⟨hr, hs⟩

theorem State.restartCore_of_not {s : State} {n : Nat}
    (h : (s.seqD (.cc n)).run ≠ .halted ∨ s.inService (n / 8) = false) : s.restartCore n = s := by
  refine if_neg fun hc => ?_
  rcases h with h | h
  · exact h hc.1
  · simp [h] at hc

@[simp] theorem Seq.atK_priv (x : Seq) : x.atK.priv = .k := by
  unfold Seq.atK
  split
  · assumption
  · rfl

theorem Seq.atK_bank (x : Seq) : x.atK.bank = if x.priv = .k then x.bank else x.other := by
  unfold Seq.atK
  split <;> rfl

theorem coreStartsAgain {s : State} {n : Nat} (hn : n < 32) (hr : (s.seqD (.cc n)).run = .halted)
    (hs : s.inService (n / 8) = true) (h6 : 6 ≤ s.mgmt.step) :
    ∃ t, exec (.powerOn (.core n)) s = .next t ∧
      ((s.getSeq (.cc n)).isSome = true → let y := t.seqD (.cc n)
        y.run = .running ∧ y.priv = .k ∧ y.pc = (s.seqD (.cc n)).epc ∧
          y.bank = (if (s.seqD (.cc n)).priv = .k then (s.seqD (.cc n)).bank else (s.seqD (.cc n)).other)) ∧
      t.regs.ccrun = s.regs.ccrun ||| BitVec.twoPow 32 n ∧ t.mem = s.mem := by
  refine ⟨s.restartCore n, (exec_powerOn_core n s).trans (if_pos ⟨hn, h6⟩), ?_⟩
  rw [State.restartCore_of_halted hr hs]
  have hseq : (s.coreAtK n).seqD (.cc n) = _ := State.seqD_setSeq_same ..
  refine ⟨fun _ => ?_, by simp [State.coreAtK], by simp [State.coreAtK]⟩
  intro y
  have hy : y = _ := hseq
  rw [hy]
  exact ⟨rfl, Seq.atK_priv _, rfl, Seq.atK_bank _⟩

theorem theModuleStartsAgain : Claims.TheModuleStartsAgain := by
  refine ⟨fun s n hn => ⟨coreStartsAgain hn, fun h => ?_⟩, fun s => ⟨s.repower, exec_powerOn_module s, ?_⟩⟩
  · rw [exec_powerOn_core]
    split
    · rename_i hc
      have hstep : ¬ s.mgmt.step < 6 := by omega
      rw [State.restartCore_of_not (by tauto)]
    · rfl
  · exact ⟨rfl, rfl, rfl, rfl, rfl, rfl, rfl⟩

/-! ## Power and heat (R446 to R448) -/

theorem posts_postHardware (s : State) (cond : Nat) (e : Option Word) :
    Posts s (s.postHardware cond 0 0 e) cond 0 0 e := by
  refine ⟨_, rfl, rfl, rfl, rfl, rfl, rfl, rfl, fun w hw => ?_⟩
  rw [hw]
  rfl

theorem State.shareHeld_iff (s : State) (x : Consumer) :
    s.shareHeld x = true ↔ ∃ p ∈ s.mgmt.throttling, p.1 = x ∧ p.2.2.1 = true := by
  simp [State.shareHeld]

/-- An event of the environment goes to a state that differs in the controller alone, and not in its step and limit. -/
theorem environment_of_modMgmt {s : State} {o : Out} {f : Mgmt → Mgmt} (ho : o = .next (s.modMgmt f))
    (hstep : (f s.mgmt).step = s.mgmt.step) (hlimit : (f s.mgmt).limit = s.mgmt.limit) :
    ∃ t, o = .next t ∧ t = { s with mgmt := t.mgmt } ∧ t.mgmt.step = s.mgmt.step ∧ t.mgmt.limit = s.mgmt.limit :=
  ⟨_, ho, rfl, hstep, hlimit⟩

theorem channelRetraining_changes_rates (s : State) (c : Nat) (p : RetrainPhase) :
    ∃ t, exec (.channelRetraining ⟨c, p⟩) s = .next t ∧ t = { s with mgmt := t.mgmt } ∧ t.mgmt.step = s.mgmt.step ∧
      t.mgmt.limit = s.mgmt.limit := by
  have hsame {o : Out} (ho : o = .next s) : ∃ t, o = .next t ∧ t = { s with mgmt := t.mgmt } ∧
      t.mgmt.step = s.mgmt.step ∧ t.mgmt.limit = s.mgmt.limit := ⟨s, ho, rfl, rfl, rfl⟩
  cases p with
  | drift =>
    rw [exec_channelRetraining_drift]
    split
    · exact hsame rfl
    · exact environment_of_modMgmt rfl rfl rfl
  | start =>
    rw [exec_channelRetraining_start]
    split
    · exact environment_of_modMgmt rfl rfl rfl
    · exact hsame rfl
  | finish =>
    cases hf : s.mgmt.training.find? fun x => x.1 == c with
    | none => exact hsame (exec_channelRetraining_finish_none hf)
    | some p => exact environment_of_modMgmt (exec_channelRetraining_finish_some hf) rfl rfl

/-- The throttled shares after THROTTLING at a moment (R446, R448). -/
def throttled (l : List (Consumer × Word × Bool × Bool)) (x : Consumer) (on hold : Bool) (now : Word) :
    List (Consumer × Word × Bool × Bool) :=
  if on then
    if l.any fun t => t.1 == x then mapIf l (fun t => t.1 == x) fun t => (t.1, t.2.1, hold || t.2.2.2, t.2.2.2)
    else l ++ [(x, now, hold, false)]
  else l.filter fun t => t.1 != x

theorem exec_throttling_eq (x : Consumer) (on hold : Bool) (s : State) : exec (.throttling x ⟨on, hold⟩) s =
    .next (s.modMgmt fun m => { m with throttling := throttled m.throttling x on hold (s.die 0).time }) := by
  change execThrottling x ⟨on, hold⟩ s = _
  unfold execThrottling throttled
  refine congrArg Host.Outcome.next (congrArg s.modMgmt (funext fun m => ?_))
  cases on with
  | false => rfl
  | true =>
    simp only [if_true]
    split <;> rfl

theorem exists_mem_mapIf {α : Type} {l : List α} {c : α → Bool} {f : α → α} {p : α → Prop} :
    (∃ x ∈ mapIf l c f, p x) ↔ ∃ x ∈ l, p (if c x then f x else x) := by
  simp [mapIf]

theorem held_throttled (l : List (Consumer × Word × Bool × Bool)) (x : Consumer) (on hold : Bool) (now : Word) :
    (∃ p ∈ throttled l x on hold now, p.1 = x ∧ p.2.2.1 = true) ↔
      on = true ∧ (hold = true ∨ ∃ p ∈ l, p.1 = x ∧ p.2.2.2 = true) := by
  cases on with
  | false => simp [throttled]
  | true =>
    by_cases hx : (l.any fun t => t.1 == x) = true
    · have helem (p : Consumer × Word × Bool × Bool) :
          ((if p.1 == x then (p.1, p.2.1, hold || p.2.2.2, p.2.2.2) else p).1 = x ∧
            (if p.1 == x then (p.1, p.2.1, hold || p.2.2.2, p.2.2.2) else p).2.2.1 = true) ↔
          p.1 = x ∧ (hold = true ∨ p.2.2.2 = true) := by
        by_cases hp : p.1 = x <;> simp [hp]
      rw [throttled, if_pos rfl, if_pos hx, exists_mem_mapIf]
      simp only [helem]
      have hany : ∃ p ∈ l, p.1 = x := by simpa using hx
      cases hold with
      | true => simpa using hany
      | false => simp
    · rw [throttled, if_pos rfl, if_neg hx]
      have hnone (p) (hp : p ∈ l) (e : p.1 = x) : False := hx (List.any_eq_true.mpr ⟨p, hp, by simpa using e⟩)
      constructor
      · rintro ⟨p, hp, hpx, hheld⟩
        rcases List.mem_append.mp hp with hp | hp
        · exact (hnone p hp hpx).elim
        · obtain rfl := List.mem_singleton.mp hp
          exact ⟨rfl, .inl hheld⟩
      · rintro ⟨-, hheld | ⟨p, hp, hpx, -⟩⟩
        · exact ⟨(x, now, hold, false), by simp, rfl, hheld⟩
        · exact (hnone p hp hpx).elim

theorem held_throttled_other (l : List (Consumer × Word × Bool × Bool)) {x y : Consumer} (hy : y ≠ x) (on hold : Bool)
    (now : Word) : (∃ p ∈ throttled l x on hold now, p.1 = y ∧ p.2.2.1 = true) ↔ ∃ p ∈ l, p.1 = y ∧ p.2.2.1 = true := by
  have hxy : x ≠ y := hy.symm
  unfold throttled
  split
  · split
    · rw [exists_mem_mapIf]
      refine exists_congr fun p => and_congr_right fun _ => ?_
      by_cases hp : p.1 = x
      · simp [hp, hxy]
      · simp [hp]
    · simp [or_and_right, exists_or, hxy]
  · refine exists_congr fun p => ?_
    by_cases hp : p.1 = y <;> simp [hp, hy]

theorem throttlingHolds (s : State) (x : Consumer) (on hold : Bool) :
    ∃ t, exec (.throttling x ⟨on, hold⟩) s = .next t ∧
      (t.shareHeld x = true ↔ on = true ∧ (hold = true ∨ ∃ p ∈ s.mgmt.throttling, p.1 = x ∧ p.2.2.2 = true)) ∧
      ∀ y, y ≠ x → t.shareHeld y = s.shareHeld y := by
  refine ⟨_, exec_throttling_eq x on hold s, ?_, fun y hy => ?_⟩
  · rw [State.shareHeld_iff]
    exact held_throttled ..
  · rw [Bool.eq_iff_iff, State.shareHeld_iff, State.shareHeld_iff]
    exact held_throttled_other _ hy ..

theorem State.clustersHeld_iff (s : State) (d : Nat) :
    s.clustersHeld d = true ↔ (s.die d).held = true ∨ s.shareHeld (.compute d) = true := by
  simp [State.clustersHeld]

theorem State.mayIssue_of_baseHeld {s : State} {n : Nat} (h : s.shareHeld (.base (n / 8)) = true) :
    s.mayIssue (.cc n) = false := by
  unfold State.mayIssue
  split
  · rfl
  · simp [h]

theorem State.mayIssue_of_clustersHeld {s : State} {q : SeqId} (hq : ∀ n, q ≠ .cc n)
    (h : s.clustersHeld (s.dieOf q) = true) : s.mayIssue q = false := by
  unfold State.mayIssue
  split
  · rfl
  · cases q with
    | cc n => exact absurd rfl (hq n)
    | worker w => simp [h]
    | mx w _ => simp [h]
    | ce w _ => simp [h]

/-- The throttling of a share has lasted 1 ms and has not been posted (R448). -/
def State.limitDue (s : State) (x : Consumer) (p : Consumer × Word × Bool × Bool) : Bool :=
  p.1 == x && !p.2.2.2 && decide (p.2.1.toNat + 1000000 ≤ (s.die 0).time.toNat)

theorem State.limitDue_iff (s : State) (x : Consumer) (p : Consumer × Word × Bool × Bool) : s.limitDue x p = true ↔
    p.1 = x ∧ p.2.2.2 = false ∧ p.2.1.toNat + 1000000 ≤ (s.die 0).time.toNat := by
  simp [State.limitDue, and_assoc]

theorem exec_powerLimit_eq (x : Consumer) (s : State) : exec (.powerLimit x) s =
    if s.mgmt.throttling.any (s.limitDue x) then
      .next ((s.modMgmt fun m =>
        { m with throttling := mapIf m.throttling (s.limitDue x) fun t => (t.1, t.2.1, true, true) }).postHardware
          48 0 0 none)
    else .next s := rfl

theorem powerLimitPosts (s : State) (x : Consumer) : ∃ t, exec (.powerLimit x) s = .next t ∧
    let due (p : Consumer × Word × Bool × Bool) : Prop :=
      p.1 = x ∧ p.2.2.2 = false ∧ p.2.1.toNat + 1000000 ≤ (s.die 0).time.toNat
    ((∃ p ∈ s.mgmt.throttling, due p) →
      Posts s t 48 0 0 none ∧ t.shareHeld x = true ∧ t.mem = s.mem ∧ t.seqs = s.seqs ∧ t.core = s.core) ∧
    ((∀ p ∈ s.mgmt.throttling, ¬due p) → t = s) := by
  rw [exec_powerLimit_eq]
  by_cases hd : ∃ p ∈ s.mgmt.throttling, s.limitDue x p = true
  · refine ⟨_, if_pos (List.any_eq_true.mpr hd), fun _ => ⟨posts_postHardware _ 48 none, ?_, rfl, rfl, rfl⟩,
      fun hn => ?_⟩
    · obtain ⟨p, hp, hdue⟩ := hd
      rw [State.shareHeld_iff, State.postHardware_mgmt]
      refine exists_mem_mapIf.mpr ⟨p, hp, ?_⟩
      rw [if_pos hdue]
      exact ⟨((s.limitDue_iff x p).mp hdue).1, rfl⟩
    · obtain ⟨p, hp, hdue⟩ := hd
      exact absurd ((s.limitDue_iff x p).mp hdue) (hn p hp)
  · refine ⟨s, if_neg (mt List.any_eq_true.mp hd), fun ⟨p, hp, hdue⟩ => ?_, fun _ => rfl⟩
    exact absurd ⟨p, hp, (s.limitDue_iff x p).mpr hdue⟩ hd

theorem thermalTripStops (s : State) {d : Nat} (h4 : d < 4) : ∃ t, exec (.thermalTrip d) s = .next t ∧
    (t.die d).held = true ∧ ((s.die d).held = false → Posts s t 47 0 0 none) ∧ ((s.die d).held = true → t = s) := by
  rw [exec_thermalTrip, execThermalTrip]
  cases hh : (s.die d).held with
  | false =>
    refine ⟨_, if_pos ⟨h4, rfl⟩, ?_, fun _ => posts_postHardware _ 47 none, fun hn => absurd hn (by simp)⟩
    change ((s.modDie d fun x => { x with held := true }).die d).held = true
    rw [die_modDie, if_pos ⟨rfl, h4⟩]
  | true => exact ⟨s, if_neg (by simp), hh, fun hn => absurd hn (by simp), fun _ => rfl⟩

theorem environmentChangesOnlyRates : Claims.EnvironmentChangesOnlyRates := by
  refine ⟨?_, throttlingHolds, fun s q _ => ⟨?_, ?_⟩, powerLimitPosts, fun s d h4 => ⟨thermalTripStops s h4, ?_⟩, ?_⟩
  · rintro s i (⟨d, c, rfl⟩ | ⟨x, on, hold, rfl⟩ | ⟨c, p, rfl⟩)
    · exact environment_of_modMgmt (exec_droopTrip d c s) rfl rfl
    · exact environment_of_modMgmt (exec_throttling_eq x on hold s) rfl rfl
    · exact channelRetraining_changes_rates s c p
  · rintro n rfl h
    exact State.mayIssue_of_baseHeld h
  · exact fun hq h => State.mayIssue_of_clustersHeld hq ((s.clustersHeld_iff _).mpr h)
  · refine ⟨_, exec_thermalResume d s, ?_, rfl, rfl⟩
    rw [die_modDie, if_pos ⟨rfl, h4⟩]
  · exact fun s a => ⟨_, exec_cxlError a s, posts_postHardware s 53 (some a), rfl⟩

/-! ## The retraining of channels (R449) -/

theorem State.dueAt_early {s : State} (h : (s.die 0).time.toNat < halfHour) (c : Nat) :
    s.dueAt c = (assocFind s.mgmt.due c).map BitVec.toNat := by
  have hnew : decide ((assocGet s.mgmt.retrained c 0).toNat + halfHour ≤ (s.die 0).time.toNat) = false :=
    decide_eq_false (by omega)
  simp only [State.dueAt, hnew]
  cases assocFind s.mgmt.due c <;> rfl

theorem State.dueAt_old {s : State} {c : Nat}
    (h : (assocGet s.mgmt.retrained c 0).toNat + halfHour ≤ (s.die 0).time.toNat) : (s.dueAt c).isSome = true := by
  simp only [State.dueAt, decide_eq_true h]
  cases assocFind s.mgmt.due c <;> rfl

theorem State.mayTrain_iff (s : State) (c : Nat) : s.mayTrain c = true ↔ ∃ t, s.dueAt c = some t ∧
    s.stackTrains (channelStack c) = false ∧ s.noneDueBefore (channelStack c) t = true ∧
      s.updateReady (channelStack c) = false := by
  unfold State.mayTrain
  cases s.dueAt c <;> simp [and_assoc]

theorem State.stackTrains_iff (s : State) (d : Nat) :
    s.stackTrains d = true ↔ ∃ p ∈ s.mgmt.training, channelStack p.1 = d := by
  simp [State.stackTrains]

theorem State.updateReady_iff (s : State) (d : Nat) :
    s.updateReady d = true ↔ ∃ u ∈ s.mgmt.updates, u.1 = d ∧ s.noticeRuns u.1 = false := by
  simp only [State.updateReady, List.any_eq_true, Bool.and_eq_true, beq_iff_eq, Bool.not_eq_true']
  refine exists_congr fun u => and_congr_right fun _ => and_congr_right fun e => ?_
  rw [e]

theorem State.trains_iff (s : State) (c : Nat) : s.trains c = true ↔ ∃ p ∈ s.mgmt.training, p.1 = c := by
  simp [State.trains]

/-- Before 30 minutes have passed only the channels due by temperature count (R449). -/
theorem State.noneDueBefore_early {s : State} {d : Nat} {t0 : Word} (h : (s.die 0).time.toNat < halfHour)
    (hall : ∀ x u, assocFind s.mgmt.due x = some u → channelStack x = d → t0.toNat ≤ u.toNat) :
    s.noneDueBefore d t0.toNat = true := by
  simp only [State.noneDueBefore, Bool.and_eq_true, List.all_eq_true, Bool.or_eq_true, bne_iff_ne, decide_eq_true_eq]
  refine ⟨fun p _ => ?_, .inl h⟩
  by_cases hs : channelStack p.1 = d
  · right
    rw [State.dueAt_early h]
    cases hu : assocFind s.mgmt.due p.1 with
    | none => rfl
    | some u => simpa using hall p.1 u hu hs
  · exact .inl hs

/-- A channel of the stack that became due before another keeps it from starting (R449). -/
theorem State.noneDueBefore_of_earlier {s : State} {d x u t : Nat} (hx : x ∈ stackChannels d)
    (ht : halfHour ≤ (s.die 0).time.toNat) (hu : s.dueAt x = some u) (hlt : u < t) : s.noneDueBefore d t = false := by
  rw [← Bool.not_eq_true]
  intro hn
  simp only [State.noneDueBefore, Bool.and_eq_true, List.all_eq_true, Bool.or_eq_true, decide_eq_true_eq] at hn
  rcases hn.2 with hearly | hall
  · omega
  · have hle := hall x hx
    rw [hu] at hle
    have : t ≤ u := by simpa using hle
    omega

theorem State.not_mayTrain {s : State} {c : Nat}
    (h : s.dueAt c = none ∨ (∃ p ∈ s.mgmt.training, channelStack p.1 = channelStack c) ∨
      (∃ u ∈ s.mgmt.updates, u.1 = channelStack c ∧ s.noticeRuns u.1 = false) ∨
      (∃ x u t0, x ∈ stackChannels (channelStack c) ∧ (s.die 0).time.toNat ≥ 1800000000000 ∧ s.dueAt x = some u ∧
        s.dueAt c = some t0 ∧ u < t0)) : ¬ s.mayTrain c = true := by
  rw [State.mayTrain_iff]
  rintro ⟨t, ht, htrain, hnone, hready⟩
  rcases h with h | h | h | ⟨x, u, t0, hx, htime, hu, ht0, hlt⟩
  · simp [h] at ht
  · simp [(s.stackTrains_iff _).mpr h] at htrain
  · simp [(s.updateReady_iff _).mpr h] at hready
  · obtain rfl : t0 = t := Option.some.inj (ht0.symm.trans ht)
    simp [State.noneDueBefore_of_earlier hx htime hu hlt] at hnone

theorem channelStarts (s : State) (c : Nat) (t0 : Word) (hdue : assocFind s.mgmt.due c = some t0)
    (htime : (s.die 0).time.toNat < 1800000000000) (htrain : ∀ p ∈ s.mgmt.training, channelStack p.1 ≠ channelStack c)
    (hup : ∀ u ∈ s.mgmt.updates, u.1 = channelStack c → s.noticeRuns u.1 = true)
    (hfirst : ∀ x u, assocFind s.mgmt.due x = some u → channelStack x = channelStack c → t0.toNat ≤ u.toNat) :
    ∃ t, exec (.channelRetraining ⟨c, .start⟩) s = .next t ∧ t.trains c = true ∧
      t.mgmt.training = s.mgmt.training ++ [(c, (s.die 0).time)] ∧ assocFind t.mgmt.due c = none := by
  have hmay : s.mayTrain c = true := by
    refine (s.mayTrain_iff c).mpr ⟨t0.toNat, ?_, ?_, State.noneDueBefore_early htime hfirst, ?_⟩
    · rw [State.dueAt_early htime, hdue]
      rfl
    · rw [← Bool.not_eq_true, State.stackTrains_iff]
      exact fun ⟨p, hp, e⟩ => htrain p hp e
    · rw [← Bool.not_eq_true, State.updateReady_iff]
      rintro ⟨u, hu, e, hn⟩
      simp [hup u hu e] at hn
  refine ⟨_, (exec_channelRetraining_start c s).trans (if_pos hmay), ?_, rfl, assocFind_assocDrop_same ..⟩
  exact (State.trains_iff _ c).mpr ⟨(c, (s.die 0).time), List.mem_append_right _ (by simp), rfl⟩

theorem channelFinishes {s : State} {c : Nat} {p : Nat × Word}
    (h : s.mgmt.training.find? (fun x => x.1 == c) = some p) :
    ∃ t, exec (.channelRetraining ⟨c, .finish⟩) s = .next t ∧ t.trains c = false ∧
      assocFind t.mgmt.retrained c = some (s.die 0).time := by
  obtain rfl : p.1 = c := by simpa using List.find?_some h
  refine ⟨_, exec_channelRetraining_finish_some h, ?_, assocFind_assocPut_same ..⟩
  rw [← Bool.not_eq_true, State.trains_iff]
  rintro ⟨x, hx, e⟩
  have hne := (List.mem_filter.mp hx).2
  simp [e] at hne

/-- The trainings that are left after some have ended were there before, and are none of those. -/
theorem mem_training_endAll {l : List (Nat × Word)} {f : Nat × Word → Word} {m : Mgmt} {p : Nat × Word}
    (h : p ∈ (l.foldl (fun m t => m.endTraining t (f t)) m).training) : p ∈ m.training ∧ p ∉ l := by
  induction l generalizing m with
  | nil => exact ⟨h, by simp⟩
  | cons t r ih =>
    obtain ⟨hm, hr⟩ := ih h
    obtain ⟨hp, hne⟩ := List.mem_filter.mp hm
    refine ⟨hp, fun hmem => ?_⟩
    rcases List.mem_cons.mp hmem with rfl | hmem
    · simp at hne
    · exact hr hmem

theorem State.settleTraining_young {s : State} {p : Nat × Word} (h : p ∈ s.settleTraining.mgmt.training) :
    (s.settleTraining.die 0).time.toNat < p.2.toNat + 4000 := by
  obtain ⟨hp, hn⟩ := mem_training_endAll (f := fun t => t.2 + 4000) h
  have hyoung : ¬ s.trained p = true := fun ht => hn (List.mem_filter.mpr ⟨hp, ht⟩)
  have : ¬ p.2.toNat + 4000 ≤ (s.die 0).time.toNat := by simpa [State.trained] using hyoung
  change (s.die 0).time.toNat < _
  omega

/-- An access whose line lies behind a channel that retrains, and is in no slice, waits (R449). -/
theorem accessWaits {s : State} {m : Nat} {x : Msg} {op : MemOp} {kind : PageKind} {dest : Dest}
    {acq : Option (BitVec 3)} (hm : s.msg? m = some x) (hrel : x.rel = none) (hb : x.body = .access op kind dest acq)
    (hr : s.retraining (lineOf x.pa) = true) (hc : s.homeCopy (lineOf x.pa) = none) :
    exec (.homeSliceAccess m false) s = .next s := by
  have hwait : s.atHome x = false := by simp [State.atHome, State.lineWaits, hr, hc]
  change execHomeSliceAccess m false s = _
  simp only [execHomeSliceAccess, hm, hrel, hb, hwait, Bool.false_and, Bool.false_eq_true, if_false]
  cases op <;> rfl

theorem channelsRetrain : Claims.ChannelsRetrain := by
  refine ⟨?_, channelStarts, fun s c => State.dueAt_old, ?_, fun s c p => channelFinishes, ?_, ?_⟩
  · intro s c hdue htrains
    exact ⟨_, (exec_channelRetraining_drift c s).trans (if_neg (by simp [hdue, htrains])), rfl⟩
  · intro s c h
    exact (exec_channelRetraining_start c s).trans (if_neg (State.not_mayTrain h))
  · intro s ns h5 p hp
    rw [State.passTime, if_neg (by omega)] at hp ⊢
    exact State.settleTraining_young hp
  · intro s m x op kind dest acq hm hrel hb hr hc
    exact accessWaits hm hrel hb hr hc

/-- Settles O51: bring-up by the step that ends, the restarts, the environment's events, and the retraining of
channels. -/
theorem bringUpAndEnvironment : Obligations.BringUpAndEnvironment := by
  unfold Obligations.BringUpAndEnvironment
  exact ⟨bringUpGoesStepByStep, theModuleStartsAgain, environmentChangesOnlyRates, channelsRetrain⟩

end Sys2Proof.Machine
end

section
/-! SUPPORT. Where a sequencer goes on (R58, R59), what an acquire leaves (R343), and the sequencers and launches of a
state after they have been changed. -/

namespace Sys2Proof.Machine

open Sys2Proof.Claims (following target lineAddr acquired privateIn goesTo)

/-! ## Where a sequencer goes on -/

theorem nextPc_eq_following (n : Nat) (pc : Word) : nextPc n pc = following n pc := by
  rw [nextPc, following, pcSlot_eq_mod, pcLine_eq_lineAddr, BitVec.add_assoc]
  rfl

theorem State.nextPc_eq (s : State) : s.nextPc = following s.core.heads s.core.pc :=
  nextPc_eq_following ..

/-! ## What an acquire leaves -/

theorem State.dropClean_eq_acquired {s : State} {q : SeqId} {o : Nat} (h : s.cacheOf q = some o) :
    s.dropClean o = acquired s q 1 := by
  have hp (c : CacheLine) : privateIn s q c = (c.owner == o && !c.readonly) := by
    simp [privateIn, h, Bool.beq_eq_decide_eq, eq_comm]
  simp [State.dropClean, State.modMem, acquired, mapIf, hp, bne]

theorem State.acquired_one_of_no_cache {s : State} {q : SeqId} (h : s.cacheOf q = none) : acquired s q 1 = s := by
  have hp (c : CacheLine) : privateIn s q c = false := by simp [privateIn, h]
  simp [acquired, hp]

theorem State.acquire_eq_acquired (s : State) (q : SeqId) : s.acquire q 3 = acquired s q 3 := by
  have hthree : acquired s q 3 = (acquired s q 1).dropGuests (s.dieOf q) := rfl
  rw [hthree, State.acquire]
  cases h : s.cacheOf q with
  | none => simp [State.acquired_one_of_no_cache h]
  | some o => simp [State.dropClean_eq_acquired h]

end Sys2Proof.Machine
end

section
/-! SUPPORT. Timelines and the counters of regions, as TWAIT and TREAD find them (R41 to R43, R182, R183). -/

namespace Sys2Proof.Machine

open Sys2Proof.Claims (Waits CounterIs acquired Gives)

theorem Timeline.poisonedAt_eq_any (t : Timeline) (n : Nat) : t.poisonedAt n = t.poison.any (· ≤ n) := by
  unfold Timeline.poisonedAt
  cases t.poison <;> rfl

/-- What `counter` finds is what its two fields select. -/
theorem State.counter_of_counterIs {s : State} {tlk owner : Nat} {gb : Word} {c : Nat} {p : Option Nat}
    (h : CounterIs s tlk owner gb c p) (n : Nat) : s.counter tlk owner gb n = .ok (c, p.any (· ≤ n)) := by
  rcases h with ⟨ht, rfl, rfl, rfl⟩ | ⟨ht, ho, w, hw, hh, rfl, rfl⟩ | ⟨rfl, rfl, hb, rfl, rfl⟩ | ⟨rfl, rfl, hb, rfl, rfl⟩
  · simp [State.counter, Nat.not_le.mpr ht, Timeline.poisonedAt_eq_any]
  · have hne : owner ≠ 0 := by omega
    have hid : forkId w (owner == 2) gb.toNat = if owner = 2 then .ce w gb.toNat else .mx w gb.toNat := by
      simp [forkId]
    simp [State.counter, Nat.not_le.mpr ht, hne, hw, hid, hh, Timeline.poisonedAt_eq_any]
  · simp [State.counter, hb]
  · simp [State.counter, hb]

theorem twait_fields (sel : BitVec 5) :
    (sel.extractLsb' 0 3).toNat = sel.toNat % 8 ∧ (sel.extractLsb' 3 2).toNat = sel.toNat / 8 := by
  have := sel.isLt
  simp [BitVec.extractLsb'_toNat, Nat.shiftRight_eq_div_pow]
  omega

/-- TWAIT traps on a poisoned number, returns the counter that has come so far, and else parks. -/
theorem twaitBody_waits (gd sel : BitVec 5) (n owner : Word) (s : State) :
    Waits s gd sel n owner (twaitBody gd sel n owner s) := by
  intro c p hc
  obtain ⟨h1, h2⟩ := twait_fields sel
  simp only [twaitBody, h1, h2, State.counter_of_counterIs hc]
  refine ⟨fun k hk hn => by simp [hk, hn], fun hp => ?_⟩
  have hbad : p.any (· ≤ n.toNat) = false := by
    cases p with
    | none => rfl
    | some k => simpa using hp k rfl
  refine ⟨fun hn => ?_, fun hn => ?_⟩
  · simp [hbad, hn, State.acquire_eq_acquired]
  · simp [hbad, Nat.not_le.mpr hn, State.park, State.modCore]

/-- Settles O26: TWAIT and its wake look at the counter that their fields select, which TREAD only reads. -/
theorem timelineWaitsAndReads : Obligations.TimelineWaitsAndReads := by
  unfold Obligations.TimelineWaitsAndReads
  refine ⟨fun f s hr hw => ?_, fun s q gd sel n owner hq => ?_, fun f s c p hr hc => ?_⟩
  · have h : exec (.twait f) s = twaitBody (hReg f.h) (f.imm.extractLsb' 0 5) (s.g f.ga) (s.g f.gb) s := by
      change execTwait f s = _
      rw [execTwait, checked_of_ready hr, if_neg (by simp [hw])]
    exact h ▸ twaitBody_waits _ _ _ _ _
  · have h : exec (.twaitWake q) s = twaitBody gd sel n owner (s.wake q) := by
      change execTwaitWake q s = _
      simp only [execTwaitWake, hq]
    exact h ▸ twaitBody_waits _ _ _ _ _
  · have hsel : timelineSel f = (f.imm.extractLsb' 0 5).toNat % 8 := by
      simp [timelineSel, BitVec.extractLsb'_toNat]
    have hown : timelineOwner f = (f.imm.extractLsb' 0 5).toNat / 8 := by
      simp [timelineOwner, BitVec.extractLsb'_toNat, Nat.shiftRight_eq_div_pow]
      omega
    change execTread f s = _
    rw [execTread, checked_of_ready hr, hsel, hown]
    simp only [State.counter_of_counterIs hc]

end Sys2Proof.Machine
end

section
/-! SUPPORT. Sequencers that are selected, changed or dropped, launches that are changed, and releases. -/

namespace Sys2Proof.Machine

open Sys2Proof.Claims (acquired privateIn)

/-! ## Sequencers -/

theorem assocFind_assocDrop_ne {α β : Type} [DecidableEq α] {k k' : α} (h : k' ≠ k) (l : List (α × β)) :
    assocFind (assocDrop l k) k' = assocFind l k' := by
  induction l with
  | nil => rfl
  | cons p r ih =>
    by_cases e : p.1 = k
    · subst e
      simpa [assocDrop, assocFind, h.symm] using ih
    · by_cases e' : p.1 = k'
      · have hk : (p.1 != k) = true := by simpa using e
        rw [assocDrop, List.filter_cons_of_pos (by exact hk)]
        simp [assocFind, e']
      · simpa [assocDrop, assocFind, e, e'] using ih

@[simp] theorem State.getSeq_cur (s : State) : s.getSeq s.cur = some s.core := by simp [State.getSeq]

@[simp] theorem State.seqD_cur (s : State) : s.seqD s.cur = s.core := by simp [State.seqD]

theorem State.seqD_of_getSeq {s : State} {q : SeqId} {x : Seq} (h : s.getSeq q = some x) : s.seqD q = x := by
  simp [State.seqD, h]

@[simp] theorem State.setSeq_cur (s : State) (q : SeqId) (x : Seq) : (s.setSeq q x).cur = s.cur := by
  unfold State.setSeq
  split <;> rfl

theorem State.getSeq_setSeq_ne {s : State} {q r : SeqId} (x : Seq) (h : r ≠ q) :
    (s.setSeq q x).getSeq r = s.getSeq r := by
  by_cases e : q = s.cur
  · subst e
    simp [State.setSeq, State.getSeq, h]
  · by_cases er : r = s.cur
    · simp [State.setSeq, State.getSeq, e, er]
    · simp [State.setSeq, State.getSeq, e, er, assocFind_assocPut_ne h]

@[simp] theorem State.modSeq_cur (s : State) (q : SeqId) (f : Seq → Seq) : (s.modSeq q f).cur = s.cur := by
  unfold State.modSeq
  split
  · rfl
  · exact State.setSeq_cur ..

theorem State.getSeq_modSeq_ne {s : State} {q r : SeqId} (f : Seq → Seq) (h : r ≠ q) :
    (s.modSeq q f).getSeq r = s.getSeq r := by
  unfold State.modSeq
  split
  · rfl
  · exact State.getSeq_setSeq_ne _ h

theorem State.getSeq_modSeq_same (s : State) (q : SeqId) (f : Seq → Seq) :
    (s.modSeq q f).getSeq q = (s.getSeq q).map f := by
  unfold State.modSeq
  cases h : s.getSeq q <;> simp [h]

theorem State.seqD_modSeq_ne {s : State} {q r : SeqId} (f : Seq → Seq) (h : r ≠ q) :
    (s.modSeq q f).seqD r = s.seqD r := by
  simp [State.seqD, State.getSeq_modSeq_ne f h]

theorem State.modSeq_of_cur {s : State} {q : SeqId} (h : s.cur = q) (f : Seq → Seq) : s.modSeq q f = s.modCore f := by
  subst h
  simp [State.modSeq, State.setSeq, State.modCore]

theorem State.getSeq_dropSeq_same {s : State} {q : SeqId} (h : q ≠ s.cur) : (s.dropSeq q).getSeq q = none := by
  simp [State.dropSeq, State.getSeq, h, assocFind_assocDrop_same]

/-- Another sequencer's turn changes nothing of a sequencer that exists. -/
theorem State.getSeq_select {s : State} {q r : SeqId} (h : (s.getSeq q).isSome = true) :
    (s.select q).getSeq r = s.getSeq r := by
  by_cases e : q = s.cur
  · simp [State.select, e]
  · have hput (k : SeqId) (hk : k ≠ s.cur) : assocFind (assocPut s.seqs s.cur s.core) k = assocFind s.seqs k :=
      assocFind_assocPut_ne hk _ _
    by_cases er : r = q
    · subst er
      obtain ⟨x, hx⟩ := Option.isSome_iff_exists.mp h
      have hx' : assocFind s.seqs r = some x := by simpa [State.getSeq, e] using hx
      simp [State.select, State.getSeq, e, hput r e, hx']
    · by_cases ec : r = s.cur
      · subst ec
        simp [State.select, State.getSeq, e, er, assocFind_assocDrop_ne er, assocFind_assocPut_same]
      · simp [State.select, State.getSeq, e, er, ec, assocFind_assocDrop_ne er, hput r ec]

@[simp] theorem State.select_mem (s : State) (q : SeqId) : (s.select q).mem = s.mem := by
  unfold State.select
  split <;> rfl

@[simp] theorem State.select_net (s : State) (q : SeqId) : (s.select q).net = s.net := by
  unfold State.select
  split <;> rfl

@[simp] theorem State.select_launches (s : State) (q : SeqId) : (s.select q).launches = s.launches := by
  unfold State.select
  split <;> rfl

@[simp] theorem State.select_pushes (s : State) (q : SeqId) : (s.select q).pushes = s.pushes := by
  unfold State.select
  split <;> rfl

@[simp] theorem State.select_nextId (s : State) (q : SeqId) : (s.select q).nextId = s.nextId := by
  unfold State.select
  split <;> rfl

/-! ## A sequencer that wakes -/

@[simp] theorem State.wake_cur (s : State) (q : SeqId) : (s.wake q).cur = q := by simp [State.wake]

theorem State.wake_core {s : State} {q : SeqId} {y : Seq} (h : s.getSeq q = some y) :
    (s.wake q).core = { y with run := .running } := by
  simp [State.wake, State.select_core, State.seqD_of_getSeq h]

@[simp] theorem State.wake_mem (s : State) (q : SeqId) : (s.wake q).mem = s.mem := by simp [State.wake]
@[simp] theorem State.wake_net (s : State) (q : SeqId) : (s.wake q).net = s.net := by simp [State.wake]
@[simp] theorem State.wake_launches (s : State) (q : SeqId) : (s.wake q).launches = s.launches := by simp [State.wake]
@[simp] theorem State.wake_pushes (s : State) (q : SeqId) : (s.wake q).pushes = s.pushes := by simp [State.wake]
@[simp] theorem State.wake_nextId (s : State) (q : SeqId) : (s.wake q).nextId = s.nextId := by simp [State.wake]

theorem State.getSeq_wake_ne {s : State} {q r : SeqId} (h : (s.getSeq q).isSome = true) (hr : r ≠ q) :
    (s.wake q).getSeq r = s.getSeq r := by
  have : (s.wake q).getSeq r = (s.select q).getSeq r := by
    simp [State.wake, State.getSeq, hr]
  rw [this, State.getSeq_select h]

/-- An acquire looks at the memory, and at the place of the sequencer's worker. -/
theorem acquired_mem_congr {s t : State} {w : WKey} (hm : t.mem = s.mem)
    (hp : (t.seqD (.worker w)).w.place = (s.seqD (.worker w)).w.place) (scope : Nat) :
    (acquired t (.worker w) scope).mem = (acquired s (.worker w) scope).mem := by
  have hpriv (c : CacheLine) : privateIn t (.worker w) c = privateIn s (.worker w) c := by
    simp [privateIn, State.cacheOf, State.ownerSeq, ownerOf, hp]
  have hdie : t.dieOf (.worker w) = s.dieOf (.worker w) := by
    simp [State.dieOf, State.ownerSeq, ownerOf, hp]
  simp [acquired, hm, hpriv, hdie]

@[simp] theorem acquired_cur (s : State) (q : SeqId) (scope : Nat) : (acquired s q scope).cur = s.cur := rfl
@[simp] theorem acquired_core (s : State) (q : SeqId) (scope : Nat) : (acquired s q scope).core = s.core := rfl
@[simp] theorem acquired_seqs (s : State) (q : SeqId) (scope : Nat) : (acquired s q scope).seqs = s.seqs := rfl
@[simp] theorem acquired_launches (s : State) (q : SeqId) (scope : Nat) : (acquired s q scope).launches = s.launches := rfl

/-! ## Launches -/

theorem find?_mapIf {α : Type} {p : α → Bool} {f : α → α} (hf : ∀ x, p x = true → p (f x) = true) (l : List α) :
    (mapIf l p f).find? p = (l.find? p).map f := by
  induction l with
  | nil => rfl
  | cons a r ih =>
    unfold mapIf at ih ⊢
    by_cases h : p a = true
    · simp [h, hf a h]
    · simp [h, ih]

theorem find?_mapIf_of_disjoint {α : Type} {p c : α → Bool} {f : α → α} (hp : ∀ x, p x = true → c x = false)
    (hf : ∀ x, c x = true → p (f x) = false) (l : List α) : (mapIf l c f).find? p = l.find? p := by
  induction l with
  | nil => rfl
  | cons a r ih =>
    unfold mapIf at ih ⊢
    by_cases hc : c a = true
    · have hpa : p a ≠ true := fun h => by simp [hp a h] at hc
      simp [hc, hf a hc, hpa, ih]
    · simp [hc, List.find?_cons, ih]

/-- A launch that is changed, but not in its context and slot. -/
theorem State.launch?_modLaunch {s : State} {c k : Nat} {f : Launch → Launch}
    (hf : ∀ l, (f l).ctx = l.ctx ∧ (f l).slot = l.slot) : (s.modLaunch c k f).launch? c k = (s.launch? c k).map f :=
  find?_mapIf (fun l h => by simpa [hf l] using h) _

theorem State.launch?_modLaunch_some {s : State} {c k : Nat} {l : Launch} (f : Launch → Launch) (hl : s.launch? c k = some l)
    (hf : ∀ l, (f l).ctx = l.ctx ∧ (f l).slot = l.slot) : (s.modLaunch c k f).launch? c k = some (f l) := by
  rw [State.launch?_modLaunch hf, hl]
  rfl

theorem State.launch?_key {s : State} {c k : Nat} {l : Launch} (h : s.launch? c k = some l) : l.ctx = c ∧ l.slot = k := by
  simpa using List.find?_some h

theorem State.launch?_congr {s t : State} (h : t.launches = s.launches) (c k : Nat) : t.launch? c k = s.launch? c k := by
  simp [State.launch?, h]

/-! ## Releases -/

theorem quiet_publishAll (s : State) (c : Nat) : Quiet s (s.publishAll c) :=
  Quiet.fold _ (fun t (e : StageEntry) => (Quiet.beside (s := t) (fun m =>
    { m with stage := m.stage.filter fun x => !(x.cluster == e.cluster && x.addr == e.addr) }) rfl).trans (quiet_send ..)) _ _

theorem quiet_flushCxl (s : State) : Quiet s s.flushCxl := Quiet.fold _ quiet_cleanLine _ _

theorem quiet_releaseBelow (s : State) (q : SeqId) (scope n : Nat) : Quiet s (s.releaseBelow q scope n).1 := by
  unfold State.releaseBelow
  split
  · exact Quiet.refl s
  · extract_lets s1
    have h1 : Quiet s s1 := by
      refine Quiet.ite _ ?_ (Quiet.refl s)
      cases s.cacheOf q with
      | none => exact Quiet.refl s
      | some o => exact quiet_flushCache s o
    clear_value s1
    refine h1.trans ?_
    split
    rename_i s2 done e
    have h2 : Quiet s1 s2 := by
      revert e
      split
      · split
        · rintro ⟨⟩
          exact Quiet.refl s1
        · rintro ⟨⟩
          exact quiet_publishAll s1 _
      · rintro ⟨⟩
        exact Quiet.refl s1
    split
    · exact h2.trans (quiet_flushCxl s2)
    · exact h2

theorem quiet_release {s u : State} {q : SeqId} {scope : Nat} {b : Bool} (h : s.release q scope = (u, b)) : Quiet s u := by
  have := quiet_releaseBelow s q scope s.nextId
  rw [show s.releaseBelow q scope s.nextId = (u, b) from h] at this
  exact this

/-! ## Registers -/

theorem Bank.write_of_ne_zero (b : Bank) {r : BitVec 5} (h : r ≠ 0) (v : Word) :
    b.write r v = { b with
      g := b.g.setIfInBounds r.toNat v
      empty := b.empty &&& ~~~(BitVec.twoPow 32 r.toNat)
      marks := b.marks.setIfInBounds r.toNat none } := if_neg h

theorem Bank.write_zero (b : Bank) (v : Word) : b.write 0 v = b := if_pos rfl

theorem Bank.read_of_ne_zero (b : Bank) {r : BitVec 5} (h : r ≠ 0) : b.read r = b.g[r.toNat]'r.isLt := by
  have hr : r.toNat < b.g.toArray.size := by simpa using r.isLt
  rw [Bank.read, if_neg h, Vector.getD, Array.getD, dif_pos hr]
  rfl

theorem Bank.mark_of_ne_zero (b : Bank) {r : BitVec 5} (h : r ≠ 0) : b.mark r = b.marks[r.toNat]'r.isLt := by
  have hr : r.toNat < b.marks.toArray.size := by simpa using r.isLt
  rw [Bank.mark, if_neg h, Vector.getD, Array.getD, dif_pos hr]
  rfl

@[simp] theorem Bank.read_zero (b : Bank) : b.read 0 = 0 := if_pos rfl

@[simp] theorem Bank.mark_zero (b : Bank) : b.mark 0 = none := if_pos rfl

theorem Bank.read_write_same (b : Bank) {r : BitVec 5} (h : r ≠ 0) (v : Word) : (b.write r v).read r = v := by
  rw [Bank.read_of_ne_zero _ h, Bank.write_of_ne_zero _ h]
  exact Vector.getElem_setIfInBounds_self _

theorem Bank.read_write_ne (b : Bank) {r k : BitVec 5} (h : k ≠ r) (v : Word) : (b.write r v).read k = b.read k := by
  by_cases hr : r = 0
  · rw [hr, Bank.write_zero]
  · by_cases hk : k = 0
    · rw [hk, Bank.read_zero, Bank.read_zero]
    · have hne : r.toNat ≠ k.toNat := fun e => h (BitVec.eq_of_toNat_eq e.symm)
      rw [Bank.read_of_ne_zero _ hk, Bank.read_of_ne_zero _ hk, Bank.write_of_ne_zero _ hr]
      exact Vector.getElem_setIfInBounds_ne _ hne

theorem Bank.mark_write (b : Bank) (r k : BitVec 5) (v : Word) :
    (b.write r v).mark k = if k = r then none else b.mark k := by
  by_cases hk : k = 0
  · rw [hk, Bank.mark_zero, Bank.mark_zero]
    exact (ite_self none).symm
  · rw [Bank.mark_of_ne_zero _ hk, Bank.mark_of_ne_zero _ hk]
    by_cases hr : r = 0
    · rw [hr, Bank.write_zero, if_neg hk]
    · rw [Bank.write_of_ne_zero _ hr]
      have hiff : (r.toNat = k.toNat) = (k = r) := by
        simp [← BitVec.toNat_inj, eq_comm]
      simp [Vector.getElem_setIfInBounds, hiff]

theorem Bank.isEmpty_write (b : Bank) (r k : BitVec 5) (v : Word) :
    (b.write r v).isEmpty k = (b.isEmpty k && k != r) := by
  by_cases hr : r = 0
  · subst hr
    rw [Bank.write_zero]
    by_cases hk : k = 0
    · subst hk
      rfl
    · simp [Bank.isEmpty]
      exact fun h _ => h
  · rw [Bank.write_of_ne_zero _ hr]
    have hlt := k.isLt
    have hiff : (r.toNat = k.toNat) = (k = r) := by
      simp [← BitVec.toNat_inj, eq_comm]
    simp only [Bank.isEmpty, BitVec.getLsbD_and, BitVec.getLsbD_not, BitVec.getLsbD_twoPow, hiff]
    by_cases h : k = r
    · simp [h]
    · have hw : k.toNat < 32 := hlt
      simp [h, hw]

@[simp] theorem Bank.write_xf (b : Bank) (r : BitVec 5) (v : Word) : (b.write r v).xf = b.xf := by
  unfold Bank.write
  split <;> rfl

@[simp] theorem Bank.write_loops (b : Bank) (r : BitVec 5) (v : Word) : (b.write r v).loops = b.loops := by
  unfold Bank.write
  split <;> rfl

@[simp] theorem Bank.read_reset (r : BitVec 5) : Bank.reset.read r = 0 := by
  by_cases h : r = 0
  · rw [h, Bank.read_zero]
  · rw [Bank.read_of_ne_zero _ h]
    exact Vector.getElem_replicate _

@[simp] theorem Bank.mark_reset (r : BitVec 5) : Bank.reset.mark r = none := by
  by_cases h : r = 0
  · rw [h, Bank.mark_zero]
  · rw [Bank.mark_of_ne_zero _ h]
    exact Vector.getElem_replicate _

@[simp] theorem Bank.isEmpty_reset (r : BitVec 5) : Bank.reset.isEmpty r = false := by
  simp [Bank.isEmpty, Bank.reset]

end Sys2Proof.Machine
end

section
/-! SUPPORT. Forked sequencers: their handles, and what RDV leaves of them (R39, R178). -/

namespace Sys2Proof.Machine

open Sys2Proof.Claims (Joined GoesOn following acquired)

/-! ## Handles -/

theorem Worker.mem_held_true {x : Worker} {h : Nat} : h ∈ x.held true ↔ x.ceHeld.getLsbD h = true := by
  simp only [Worker.held, if_true, List.mem_filter, List.mem_range, and_iff_right_iff_imp]
  exact BitVec.lt_of_getLsbD

theorem Worker.mem_held_false {x : Worker} {h : Nat} : h ∈ x.held false ↔ x.mxHeld.getLsbD h = true := by
  simp only [Worker.held, Bool.false_eq_true, if_false, List.mem_filter, List.mem_range, and_iff_right_iff_imp]
  exact BitVec.lt_of_getLsbD

/-- How many handles a class has (R39). -/
def handles (ce : Bool) : Nat := if ce then 4 else 2

theorem Worker.lt_of_mem_held {x : Worker} {ce : Bool} {h : Nat} (m : h ∈ x.held ce) : h < handles ce := by
  cases ce
  · exact BitVec.lt_of_getLsbD (Worker.mem_held_false.mp m)
  · exact BitVec.lt_of_getLsbD (Worker.mem_held_true.mp m)

theorem Worker.mem_held_setHeld_false {x : Worker} {ce c : Bool} {h k : Nat} :
    k ∈ (x.setHeld ce h false).held c ↔ k ∈ x.held c ∧ ¬(c = ce ∧ k = h) := by
  have hbit (n : Nat) (b : BitVec n) : (b &&& ~~~(BitVec.twoPow n h)).getLsbD k = true ↔ b.getLsbD k = true ∧ ¬k = h := by
    cases hb : b.getLsbD k with
    | false => simp [hb]
    | true => simp [hb, BitVec.lt_of_getLsbD hb]
  cases c <;> cases ce <;>
    simp only [Worker.mem_held_true, Worker.mem_held_false, Worker.setHeld, if_true, if_false, Bool.false_eq_true, hbit] <;>
    simp

theorem Worker.mem_held_setHeld_true {x : Worker} {ce : Bool} {h : Nat} (hh : h < handles ce) :
    h ∈ (x.setHeld ce h true).held ce := by
  cases ce <;> simp [handles] at hh <;>
    simp [Worker.mem_held_true, Worker.mem_held_false, Worker.setHeld, hh]

/-! ## Forked contexts that are given up -/

/-- The handle of a forked sequencer is given back. -/
def Worker.dropHandle (x : Worker) (q : SeqId) : Worker :=
  match q with
  | .mx _ h => x.setHeld false h false
  | .ce _ h => x.setHeld true h false
  | _ => x

theorem Worker.mem_held_dropHandle {x : Worker} {q : SeqId} {c : Bool} {k : Nat} (h : k ∈ (x.dropHandle q).held c) :
    k ∈ x.held c ∧ ∀ w, q ≠ forkId w c k := by
  cases q with
  | cc n => exact ⟨h, fun w => by cases c <;> simp [forkId]⟩
  | worker w' => exact ⟨h, fun w => by cases c <;> simp [forkId]⟩
  | mx w' n =>
    obtain ⟨hk, hn⟩ := Worker.mem_held_setHeld_false.mp h
    exact ⟨hk, fun w e => by cases c <;> simp_all [forkId]⟩
  | ce w' n =>
    obtain ⟨hk, hn⟩ := Worker.mem_held_setHeld_false.mp h
    exact ⟨hk, fun w e => by cases c <;> simp_all [forkId]⟩

theorem Worker.mem_held_foldl_dropHandle {l : List SeqId} {x : Worker} {c : Bool} {k : Nat}
    (h : k ∈ (l.foldl Worker.dropHandle x).held c) : k ∈ x.held c ∧ ∀ w, forkId w c k ∉ l := by
  induction l generalizing x with
  | nil => exact ⟨h, fun _ => by simp⟩
  | cons q r ih =>
    obtain ⟨hq, hr⟩ := ih h
    obtain ⟨hx, hne⟩ := Worker.mem_held_dropHandle hq
    exact ⟨hx, fun w hw => (List.mem_cons.mp hw).elim (fun e => hne w e.symm) (hr w)⟩

@[simp] theorem Worker.foldl_dropHandle_place (l : List SeqId) (x : Worker) :
    (l.foldl Worker.dropHandle x).place = x.place := by
  induction l generalizing x with
  | nil => rfl
  | cons q r ih =>
    rw [List.foldl_cons, ih]
    cases q <;> rfl

theorem assocFind_foldl_assocDrop_of_none {α β : Type} [DecidableEq α] {k : α} (ks : List α) {l : List (α × β)}
    (h : assocFind l k = none) : assocFind (ks.foldl assocDrop l) k = none := by
  induction ks generalizing l with
  | nil => exact h
  | cons a r ih =>
    refine ih ?_
    by_cases e : k = a
    · rw [e, assocFind_assocDrop_same]
    · rw [assocFind_assocDrop_ne e, h]

theorem assocFind_foldl_assocDrop {α β : Type} [DecidableEq α] {k : α} {ks : List α} (hk : k ∈ ks) (l : List (α × β)) :
    assocFind (ks.foldl assocDrop l) k = none := by
  induction ks generalizing l with
  | nil => simp at hk
  | cons a r ih =>
    rcases List.mem_cons.mp hk with rfl | hk
    · exact assocFind_foldl_assocDrop_of_none r (assocFind_assocDrop_same ..)
    · exact ih hk _

/-- The forked sequencers `l` of worker w. -/
def ForksOf (w : WKey) (l : List SeqId) : Prop := ∀ q ∈ l, ∃ ce h, q = forkId w ce h

theorem forksOf_rdvTargets (w : WKey) (x : Worker) (all ce : Bool) (h : Nat) : ForksOf w (rdvTargets w x all ce h) := by
  intro q hq
  unfold rdvTargets at hq
  split at hq
  · simp only [List.mem_append, List.mem_map] at hq
    obtain ⟨k, -, rfl⟩ | ⟨k, -, rfl⟩ := hq
    · exact ⟨false, k, rfl⟩
    · exact ⟨true, k, rfl⟩
  · exact ⟨ce, h, List.mem_singleton.mp hq⟩

theorem forkId_ne_worker (w v : WKey) (ce : Bool) (h : Nat) : forkId w ce h ≠ .worker v := by
  cases ce <;> simp [forkId]

theorem State.freeFork_fork {v : State} {w : WKey} (hv : v.cur = .worker w) (ce : Bool) (h : Nat) :
    v.freeFork (forkId w ce h) =
      { v with seqs := assocDrop v.seqs (forkId w ce h)
               core := { v.core with w := v.core.w.dropHandle (forkId w ce h) } } := by
  cases ce <;> simp [forkId, State.freeFork, State.dropSeq, hv, State.modSeq, State.getSeq, State.setSeq, Worker.dropHandle]

/-- What is left of a worker's state, the worker's own turn, once forked sequencers of it are given up. -/
theorem State.foldl_freeFork {v : State} {w : WKey} {l : List SeqId} (hv : v.cur = .worker w) (hl : ForksOf w l) :
    l.foldl State.freeFork v =
      { v with seqs := l.foldl assocDrop v.seqs, core := { v.core with w := l.foldl Worker.dropHandle v.core.w } } := by
  induction l generalizing v with
  | nil => rfl
  | cons q r ih =>
    obtain ⟨ce, h, rfl⟩ := hl _ (List.mem_cons_self ..)
    rw [List.foldl_cons, State.freeFork_fork hv,
      ih (by exact hv) fun q hq => hl q (List.mem_cons_of_mem _ hq)]
    rfl

/-- The worker's state with the forked sequencers `l` given up, and what they did acquired. -/
def joinedState (v : State) (l : List SeqId) : State := (l.foldl State.freeFork v).acquire v.cur 3

section
variable {v : State} {w : WKey} {l : List SeqId} (hv : v.cur = .worker w) (hl : ForksOf w l)
include hv hl

theorem joinedState_eq : joinedState v l = { v with
    seqs := l.foldl assocDrop v.seqs, core := { v.core with w := l.foldl Worker.dropHandle v.core.w }
    mem := (acquired v (.worker w) 3).mem } := by
  have hm : (acquired (l.foldl State.freeFork v) (.worker w) 3).mem = (acquired v (.worker w) 3).mem :=
    acquired_mem_congr (by rw [State.foldl_freeFork hv hl]) (by
      simp [State.foldl_freeFork hv hl, State.seqD, State.getSeq, hv]) 3
  have hj : joinedState v l = acquired (l.foldl State.freeFork v) (.worker w) 3 := by
    rw [joinedState, State.acquire_eq_acquired, hv]
  rw [hj, ← hm, State.foldl_freeFork hv hl]
  rfl

theorem getSeq_joinedState {q : SeqId} (hq : q ∈ l) : (joinedState v l).getSeq q = none := by
  obtain ⟨ce, h, rfl⟩ := hl q hq
  rw [joinedState_eq hv hl]
  simp [State.getSeq, hv, forkId_ne_worker, assocFind_foldl_assocDrop hq]

/-- RDV's join is what the statement says of it, in the state itself and in the one that goes on. -/
theorem joined_joinedState {s : State} (hr : v.core.run = .running) (hm : v.mem = s.mem)
    (hp : (s.seqD (.worker w)).w.place = v.core.w.place) :
    Joined s (joinedState v l) w l v.core.pc ∧
    Joined s (joinedState v l).advance w l (following v.core.heads v.core.pc) := by
  have hmem : (acquired v (.worker w) 3).mem = (acquired s (.worker w) 3).mem :=
    acquired_mem_congr hm (by simp [State.seqD, State.getSeq, hv] at hp ⊢; exact hp.symm) 3
  have hheld (c : Bool) (h : Nat) (hq : forkId w c h ∈ l) : h ∉ (joinedState v l).core.w.held c := by
    rw [joinedState_eq hv hl]
    exact fun hmem => (Worker.mem_held_foldl_dropHandle hmem).2 w hq
  refine ⟨⟨fun q => getSeq_joinedState hv hl, hheld false, hheld true, ?_, ?_⟩,
    ⟨fun q hq => ?_, hheld false, hheld true, ?_, ?_⟩⟩
  · rw [joinedState_eq hv hl]
    exact ⟨hv, hr, rfl⟩
  · rw [joinedState_eq hv hl]
    exact hmem
  · have := getSeq_joinedState hv hl hq
    obtain ⟨ce, h, rfl⟩ := hl q hq
    have hc : (joinedState v l).cur = .worker w := by rw [joinedState_eq hv hl]; exact hv
    simpa [State.getSeq, hc, forkId_ne_worker] using this
  · rw [joinedState_eq hv hl]
    exact ⟨hv, hr, State.nextPc_eq _⟩
  · rw [joinedState_eq hv hl]
    exact hmem

end

/-! ## RDV -/

section
variable {s : State} {w : WKey} {all ce : Bool} {h : Nat} {p : Park}

theorem rdvBody_joins (he : ∀ q ∈ rdvTargets w s.core.w all ce h, s.forkEnded q = true)
    (hp : ∀ q ∈ rdvTargets w s.core.w all ce h, (s.seqD q).poisoned = false) :
    rdvBody w all ce h p s = (joinedState s (rdvTargets w s.core.w all ce h), true) := by
  have hbad : ((rdvTargets w s.core.w all ce h).any fun q => (s.seqD q).poisoned) = false := by
    rw [List.any_eq_false]
    exact fun q hq => by simp [hp q hq]
  simp [rdvBody, List.all_eq_true.mpr he, hbad, joinedState]

theorem rdvBody_traps (he : ∀ q ∈ rdvTargets w s.core.w all ce h, s.forkEnded q = true)
    (hp : ∃ q ∈ rdvTargets w s.core.w all ce h, (s.seqD q).poisoned = true) :
    rdvBody w all ce h p s = ((joinedState s (rdvTargets w s.core.w all ce h)).raise 19 0, false) := by
  simp [rdvBody, List.all_eq_true.mpr he, List.any_eq_true.mpr hp, joinedState]

theorem rdvBody_parks (he : ∃ q ∈ rdvTargets w s.core.w all ce h, s.forkEnded q = false) :
    rdvBody w all ce h p s = (s.park p, false) := by
  have hn : (rdvTargets w s.core.w all ce h).all s.forkEnded = false := by
    simpa [List.all_eq_false] using he
  simp [rdvBody, hn]

/-- Whether a forked sequencer has ended does not depend on whose turn it is. -/
theorem State.forkEnded_wake (hw : (s.getSeq (.worker w)).isSome = true) {q : SeqId} (hq : q ≠ .worker w) :
    (s.wake (.worker w)).forkEnded q = s.forkEnded q := by
  simp [State.forkEnded, State.seqD, State.getSeq_wake_ne hw hq, State.unperformed, State.unperformedBelow]

theorem forkEnded_rdvTargets_wake (hw : (s.getSeq (.worker w)).isSome = true) {x : Worker}
    (he : ∀ q ∈ rdvTargets w x all ce h, s.forkEnded q = true) :
    ∀ q ∈ rdvTargets w x all ce h, (s.wake (.worker w)).forkEnded q = true := by
  intro q hq
  obtain ⟨c, k, rfl⟩ := forksOf_rdvTargets w x all ce h q hq
  rw [State.forkEnded_wake hw (forkId_ne_worker _ _ _ _), he _ hq]

end

theorem execRdv_of_ready {f : FIM} {s : State} {w : WKey} (hr : (Instr.rdv f).ready s = true) (hw : s.cur = .worker w)
    (hv : s.waitsVector = false) : exec (.rdv f) s =
      (let all := f.imm.getLsbD 1
       let ce := f.imm.getLsbD 0
       let h := (s.g (hReg f.h)).toNat
       if !all && !(s.core.w.held ce).contains h then .next (s.raise 37 0)
       else
        let (s1, done) := rdvBody w all ce h (.rdv all ce h) s
        .next (if done then s1.advance else s1)) := by
  change execRdv f s = _
  rw [execRdv, checked_of_ready hr]
  simp only [hw, hv, Bool.false_eq_true, if_false]

theorem execRdvWake_of_parked {s : State} {w : WKey} {y : Seq} {all ce : Bool} {h : Nat}
    (hy : s.getSeq (.worker w) = some y) (hr : y.run = .parked (.rdv all ce h))
    (he : ∀ q ∈ rdvTargets w y.w all ce h, s.forkEnded q = true) : exec (.rdvWake (.worker w)) s =
      (let (s1, done) := rdvBody w all ce h (.rdv all ce h) (s.wake (.worker w))
       .next (if done then s1.advance else s1)) := by
  change execRdvWake (.worker w) s = _
  simp only [execRdvWake, State.seqD_of_getSeq hy, hr, List.all_eq_true.mpr he, if_true]

/-- Settles O24: RDV, at once or on waking, joins its targets once all have ended. -/
theorem rdvJoins : Obligations.RdvJoins := by
  unfold Obligations.RdvJoins
  refine ⟨fun f s w hr hw hv hrun => ?_, fun s w y all ce h => ?_⟩
  · intro all ce h l
    have hl : ForksOf w l := forksOf_rdvTargets _ _ _ _ _
    obtain ⟨hstay, hgo⟩ := joined_joinedState (s := s) hw hl hrun rfl (by rw [← hw, State.seqD_cur])
    refine ⟨fun ha hh => ?_, fun hh => ?_⟩
    · rw [Claims.Raises, execRdv_of_ready hr hw hv]
      have hno : (!all && !(s.core.w.held ce).contains h) = true := by simp [ha, hh]
      exact if_pos hno
    · have hgoes : (!all && !(s.core.w.held ce).contains h) = false := by
        rcases hh with ha | hh
        · simp [ha]
        · simp [hh]
      have hexec : exec (.rdv f) s = .next (if (rdvBody w all ce h (.rdv all ce h) s).2 then
          (rdvBody w all ce h (.rdv all ce h) s).1.advance else (rdvBody w all ce h (.rdv all ce h) s).1) :=
        (execRdv_of_ready hr hw hv).trans (if_neg (by rw [hgoes]; simp))
      refine ⟨fun he hp => ⟨_, ?_, hgo⟩, fun he hp => ⟨_, ?_, hstay⟩, fun he => ?_⟩
      · rw [hexec, rdvBody_joins he hp]
        rfl
      · rw [hexec, rdvBody_traps he hp]
        rfl
      · rw [hexec, rdvBody_parks he]
        rfl
  · intro l hy hr he
    have hl : ForksOf w l := forksOf_rdvTargets _ _ _ _ _
    have hcore := State.wake_core hy
    have htargets : rdvTargets w (s.wake (.worker w)).core.w all ce h = l := by rw [hcore]
    have hends := forkEnded_rdvTargets_wake (by rw [hy]; rfl) he
    obtain ⟨hstay, hgo⟩ := joined_joinedState (s := s) (State.wake_cur s (.worker w)) hl (by rw [hcore])
      (State.wake_mem ..) (by rw [hcore, State.seqD_of_getSeq hy])
    rw [hcore] at hstay hgo
    rw [execRdvWake_of_parked hy hr he]
    refine ⟨fun hp => ⟨_, ?_, hgo⟩, fun hp => ⟨_, ?_, hstay⟩⟩
    · rw [rdvBody_joins (htargets ▸ hends) (htargets ▸ hp), htargets]
      rfl
    · rw [rdvBody_traps (htargets ▸ hends) (htargets ▸ hp), htargets]
      rfl

end Sys2Proof.Machine
end

section
/-! SUPPORT. FORK and END: a forked sequencer starts, and a worker leaves (R39, R44, R177). -/

namespace Sys2Proof.Machine

open Sys2Proof.Claims (following target lineAddr Ends)

/-! ## The lowest free handle -/

theorem exists_free_handle {x : Worker} {ce : Bool} {n : Nat} (h : (x.held ce).length < n) :
    ∃ k, k < n ∧ k ∉ x.held ce := by
  by_contra hall
  have hsub : List.range n ⊆ x.held ce := fun k hk => by
    by_contra hne
    exact hall ⟨k, List.mem_range.mp hk, hne⟩
  have := (List.nodup_range.subperm hsub).length_le
  simp at this
  omega

theorem lowest_free_handle {x : Worker} {ce : Bool} {n : Nat} (hn : n ≤ handles ce) (h : (x.held ce).length < n) :
    let k := ((List.range 4).find? fun k => !(x.held ce).contains k).getD 0
    k < handles ce ∧ k ∉ x.held ce ∧ ∀ j, j < k → j ∈ x.held ce := by
  obtain ⟨f, hf, hfree⟩ := exists_free_handle h
  have hf4 : f < 4 := by
    have : handles ce ≤ 4 := by cases ce <;> simp [handles]
    omega
  cases hk : (List.range 4).find? fun k => !(x.held ce).contains k with
  | none =>
    have := List.find?_eq_none.mp hk f (List.mem_range.mpr hf4)
    simp [hfree] at this
  | some k =>
    obtain ⟨hkf, -, hlow⟩ := List.find?_range_eq_some.mp hk
    have hlow' : ∀ j, j < k → j ∈ x.held ce := fun j hj => by simpa using hlow j hj
    have hle : k ≤ f := by
      by_contra hgt
      exact hfree (hlow' f (by omega))
    exact ⟨by simp; omega, by simpa using hkf, hlow'⟩

/-! ## What a forked sequencer starts with -/

/-- The copy of a bank's unmarked registers into a bank. -/
def copied (b : Bank) (ks : List Nat) (acc : Bank) : Bank :=
  ks.foldl (fun a k => a.write (BitVec.ofNat 5 k) (b.read (BitVec.ofNat 5 k))) acc

theorem Bank.read_copied (b : Bank) {ks : List Nat} (hk : ∀ k ∈ ks, k < 32) (acc : Bank) (r : BitVec 5) :
    (copied b ks acc).read r = if r.toNat ∈ ks then b.read r else acc.read r := by
  induction ks generalizing acc with
  | nil => simp [copied]
  | cons k ks ih =>
    have hk32 : k < 32 := hk k (by simp)
    rw [copied, List.foldl_cons, ← copied, ih fun j hj => hk j (by simp [hj])]
    by_cases hr : r.toNat = k
    · have hofNat : BitVec.ofNat 5 k = r := by rw [← hr]; simp
      by_cases h0 : r = 0
      · have hz (c : Bank) : c.read r = 0 := h0 ▸ c.read_zero
        simp [hz]
      · simp [hr, hofNat, Bank.read_write_same _ h0]
    · have hne : r ≠ BitVec.ofNat 5 k := fun e => hr (by rw [e]; simp; omega)
      simp [hr, Bank.read_write_ne _ hne]

theorem Bank.mark_copied (b : Bank) (ks : List Nat) {acc : Bank} (ha : ∀ r, acc.mark r = none) (r : BitVec 5) :
    (copied b ks acc).mark r = none := by
  induction ks generalizing acc with
  | nil => exact ha r
  | cons k ks ih => exact ih fun r => by rw [Bank.mark_write, ha, ite_self]

@[simp] theorem Bank.loops_copied (b : Bank) (ks : List Nat) (acc : Bank) : (copied b ks acc).loops = acc.loops := by
  induction ks generalizing acc with
  | nil => rfl
  | cons k ks ih => exact (ih _).trans (Bank.write_loops ..)

theorem forkState_bank {b : Bank} (h : ∀ k : BitVec 5, k.toNat < 8 → b.mark k = none) (mx : MatrixState) (pc : Word) :
    (forkState b mx pc).bank = copied b (List.range 8) Bank.reset := by
  refine List.foldl_ext _ _ _ fun acc k hk => ?_
  have hk8 : k < 8 := List.mem_range.mp hk
  simp only [h (BitVec.ofNat 5 k) (by simp; omega)]

/-- A FORK that issues finds g1 to g7 full and without a mark (R118, R121). -/
theorem fork_sources {s : State} {i : Instr} {f : FJP} (hi : i = .forkMx f ∨ i = .forkCe f) (hr : i.ready s = true)
    (k : BitVec 5) (hk : k.toNat < 8) : s.core.bank.isEmpty k = false ∧ s.core.bank.mark k = none := by
  by_cases h0 : k = 0
  · subst h0
    exact ⟨rfl, rfl⟩
  · have hmem : (k, false) ∈ i.operands.gs := by
      have hpos : k.toNat ≠ 0 := fun e => h0 (BitVec.eq_of_toNat_eq e)
      have hk' : (k, false) = (BitVec.ofNat 5 (k.toNat - 1 + 1), false) := by
        rw [Nat.sub_add_cancel (by omega)]; simp
      rcases hi with rfl | rfl <;>
        exact hk' ▸ List.mem_map_of_mem (f := fun j => (BitVec.ofNat 5 (j + 1), false)) (List.mem_range.mpr (by omega))
    constructor
    · have := operandsWait_of_ready hr
      simp only [State.operandsWait, Bool.or_eq_false_iff, List.any_eq_false] at this
      simpa using this.1.1 _ hmem
    · have := markOf_of_ready hr
      unfold markOf at this
      split at this
      · simp at this
      · rename_i hnone
        exact List.findSome?_eq_none_iff.mp hnone _ hmem

/-- R59: a branch target, over the integers. -/
theorem branchTarget_eq_target (pc : Word) (t : BitVec 31) : branchTarget pc t = target pc t := by
  have hline : BitVec.ofInt 64 ((lineAddr pc).toNat : Int) = lineAddr pc := by simp
  have hslot : BitVec.ofInt 64 ((t.toNat % 32 : Nat) : Int) = (t.extractLsb' 0 5).setWidth 64 := by
    rw [BitVec.ofInt_natCast]
    apply BitVec.eq_of_toNat_eq
    simp [BitVec.extractLsb'_toNat]
  have hdelta : BitVec.ofInt 64 ((t.extractLsb' 5 26).toInt * 64) = (t.extractLsb' 5 26).signExtend 64 <<< 6 := by
    rw [BitVec.ofInt_mul, BitVec.shiftLeft_eq_mul_twoPow]
    rfl
  rw [branchTarget, target, pcLine_eq_lineAddr, BitVec.ofInt_add, BitVec.ofInt_add, hline, hdelta, hslot]

/-- FORK that issues, and what of it waits (R142, R175). -/
theorem forkAccess_of_ready {s u : State} {w : WKey} {f : FJP} {ce : Bool} (hw : s.cur = .worker w)
    (hv : s.waitsVector = false) (ho : s.ordering s.cur = false)
    (he : ∀ k : BitVec 5, k.toNat < 8 → s.core.bank.isEmpty k = false) : 
    ((if ce then min 4 (s.stageD w).cen else min 2 (s.stageD w).mxn) ≤ (s.core.w.held ce).length →
      forkAccess f ce s = .next (s.raise 37 0)) ∧
    ((s.core.w.held ce).length < (if ce then min 4 (s.stageD w).cen else min 2 (s.stageD w).mxn) →
      s.release s.cur 3 = (u, true) → forkAccess f ce s =
        (let h := ((List.range 4).find? fun k => !(s.core.w.held ce).contains k).getD 0
         .next (((u.setSeq (forkId w ce h)
            (forkState u.core.bank u.core.mx (branchTarget u.core.pc f.target))).modCore fun y =>
              { y with w := y.w.setHeld ce h true }).put (hReg f.h) (BitVec.ofNat 64 h)))) := by
  have hany : ((List.range 8).any fun k => s.core.bank.isEmpty (BitVec.ofNat 5 k)) = false := by
    rw [List.any_eq_false]
    intro k hk
    have hk8 : k < 8 := List.mem_range.mp hk
    simp [he (BitVec.ofNat 5 k) (by simp; omega)]
  have hwait : (s.waitsVector || s.ordering (.worker w) || (List.range 8).any fun k =>
      s.core.bank.isEmpty (BitVec.ofNat 5 k)) = false := by rw [← hw, hv, ho, hany]; rfl
  unfold forkAccess
  simp only [hw, hwait]
  refine ⟨fun hm => ?_, fun hm hrel => ?_⟩
  · exact if_pos hm
  · rw [hrel]
    exact if_neg (Nat.not_le.mpr hm)

/-- What FORK leaves: the handle is taken, and its sequencer stands at the target with the copied registers. -/
theorem fork_starts {s : State} {w : WKey} {ce : Bool} {h : Nat} {pc : Word} {r : BitVec 5} (hw : s.cur = .worker w)
    (hh : h < handles ce) (hm : ∀ k : BitVec 5, k.toNat < 8 → s.core.bank.mark k = none) :
    let t := ((s.setSeq (forkId w ce h) (forkState s.core.bank s.core.mx pc)).modCore fun y =>
      { y with w := y.w.setHeld ce h true }).put r (BitVec.ofNat 64 h)
    (r ≠ 0 → t.g r = BitVec.ofNat 64 h) ∧ t.core.pc = following s.core.heads s.core.pc ∧ h ∈ t.core.w.held ce ∧
      ∃ y, t.getSeq (forkId w ce h) = some y ∧ y.pc = pc ∧ y.priv = .u ∧ y.run = .running ∧ y.bank.loops = [] ∧
        y.mx = s.core.mx ∧ y.tlv = Timeline.reset ∧ y.tlm = Timeline.reset ∧ y.tlc = Timeline.reset ∧
        y.tln = Timeline.reset ∧
        (∀ k : BitVec 5, k.toNat < 8 → y.bank.read k = s.core.bank.read k ∧ y.bank.mark k = none) ∧
        ∀ k : BitVec 5, 8 ≤ k.toNat → y.bank.read k = 0 := by
  have hne : forkId w ce h ≠ s.cur := hw ▸ forkId_ne_worker _ _ _ _
  have hcore : (s.setSeq (forkId w ce h) (forkState s.core.bank s.core.mx pc)).core = s.core := by
    rw [State.setSeq, if_neg hne]
  have hbank := forkState_bank hm s.core.mx pc
  have h8 : ∀ k ∈ List.range 8, k < 32 := fun k hk => by have := List.mem_range.mp hk; omega
  intro t
  refine ⟨fun hr => ?_, ?_, ?_, forkState s.core.bank s.core.mx pc, ?_, rfl, rfl, rfl, ?_, rfl, rfl, rfl, rfl, rfl, ?_, ?_⟩
  · exact Bank.read_write_same _ hr _
  · exact (State.nextPc_eq _).trans (by simp [hcore]; rfl)
  · exact Worker.mem_held_setHeld_true hh
  · have := State.getSeq_setSeq_same s (forkId w ce h) (forkState s.core.bank s.core.mx pc)
    simpa [t, State.getSeq, hne, State.put] using this
  · rw [hbank, Bank.loops_copied]
    rfl
  · intro k hk
    rw [hbank, Bank.read_copied _ h8, if_pos (List.mem_range.mpr hk)]
    exact ⟨rfl, Bank.mark_copied _ _ Bank.mark_reset k⟩
  · intro k hk
    rw [hbank, Bank.read_copied _ h8, if_neg (by simpa using hk), Bank.read_reset]

theorem forkStartsASequencer : Claims.ForkStartsASequencer := by
  intro ce f s w i held most hr hw hv ho
  have hexec : exec i s = forkAccess f ce s := by
    cases ce
    · exact checked_of_ready hr _
    · exact checked_of_ready hr _
  have hsrc := fork_sources (f := f) (by cases ce <;> simp [i]) hr
  rw [Claims.Raises, hexec]
  refine ⟨fun hm => (forkAccess_of_ready (u := s) hw hv ho fun k hk => (hsrc k hk).1).1 hm, fun u hm hrel => ?_⟩
  have hq := quiet_release hrel
  have hmost : most ≤ handles ce := by cases ce <;> simp [most, handles]
  obtain ⟨hh, hfree, hlow⟩ := lowest_free_handle hmost hm
  have hstart := fork_starts (pc := branchTarget u.core.pc f.target) (r := hReg f.h) (hq.cur.trans hw) hh
    (fun k hk => hq.core ▸ (hsrc k hk).2)
  rw [hq.core, branchTarget_eq_target] at hstart
  have hid (h : Nat) : forkId w ce h = if ce then .ce w h else .mx w h := rfl
  rw [hid] at hstart
  obtain ⟨hg, hpc, hheld, hy⟩ := hstart
  exact ⟨_, _, ((forkAccess_of_ready hw hv ho fun k hk => (hsrc k hk).1).2 hm hrel).trans (by rw [hq.core, branchTarget_eq_target]; rfl),
    hfree, hlow, hg, hpc, hheld, hy⟩

/-! ## END -/

/-- Record p of the input of stage k, which a worker popped, is given up (R30). -/
def Launch.giveUp (l : Launch) (k p : Nat) : Launch :=
  l.setRing k { l.ring k with owned := (l.ring k).owned.erase p }

theorem State.releaseRecord_none {s : State} {w : WKey} (h : (s.seqD (.worker w)).w.record = none) :
    s.releaseRecord w = s := by
  simp only [State.releaseRecord, h]

theorem State.releaseRecord_some {s : State} {w : WKey} {p : Nat} (hw : s.cur = .worker w)
    (h : s.core.w.record = some p) :
    s.releaseRecord w = (s.modLaunch w.ctx w.slot fun l => l.giveUp s.core.w.stage p).modCore fun y =>
      { y with w := { y.w with record := none } } := by
  simp only [State.releaseRecord, ← hw, State.seqD_cur, h]
  exact State.modSeq_of_cur rfl _

/-- `t` is `s` in which worker w, whose turn it is, has given up its popped record: of its launch only the rings
differ. -/
structure RecordReleased (s t : State) (w : WKey) : Prop where
  cur : t.cur = s.cur
  seqs : t.seqs = s.seqs
  mem : t.mem = s.mem
  core : t.core = { s.core with w := { s.core.w with record := none } }
  launch : ∀ l, s.launch? w.ctx w.slot = some l → ∃ rs, t.launch? w.ctx w.slot = some { l with rings := rs }

theorem recordReleased {s : State} {w : WKey} (hw : s.cur = .worker w) : RecordReleased s (s.releaseRecord w) w := by
  cases h : s.core.w.record with
  | none =>
    have hd : (s.seqD (.worker w)).w.record = none := by rw [← hw, State.seqD_cur, h]
    rw [State.releaseRecord_none hd]
    exact ⟨rfl, rfl, rfl, by rw [← h], fun l hl => ⟨l.rings, hl⟩⟩
  | some p =>
    rw [State.releaseRecord_some hw h]
    refine ⟨rfl, rfl, rfl, rfl, fun l hl => ⟨(l.giveUp s.core.w.stage p).rings, ?_⟩⟩
    exact State.launch?_modLaunch_some (fun l => l.giveUp s.core.w.stage p) hl fun l => ⟨rfl, rfl⟩

/-- A worker that leaves its VC for good: its place stays as ended, and its reservations are gone. -/
theorem removeWorker_leaves {s : State} {w : WKey} (hw : s.cur = .worker w) :
    (s.removeWorker w).core.run = .ended ∧ (∀ r ∈ (s.removeWorker w).mem.resv, r.owner ≠ w) ∧
    (∀ q, q ≠ .worker w → (s.removeWorker w).getSeq q = s.getSeq q) ∧
    ∀ l, s.launch? w.ctx w.slot = some l → ∃ rs, (s.removeWorker w).launch? w.ctx w.slot = some { l with rings := rs } := by
  have h := recordReleased hw
  have hdrop : s.removeWorker w =
      { (s.releaseRecord w).clearResv w with core := { Seq.reset with run := .ended } } :=
    if_pos (hw.symm.trans h.cur.symm)
  rw [hdrop]
  refine ⟨rfl, fun r hr => ?_, fun q hq => ?_, h.launch⟩
  · simpa using (List.mem_filter.mp hr).2
  · simp [State.getSeq, State.clearResv, h.cur, hw, hq, h.seqs]

/-- END of a worker whose forked contexts are joined. -/
theorem endWorker_ends {v : State} {w : WKey} {forks : List SeqId} (hw : v.cur = .worker w) (hf : ForksOf w forks)
    (hgone : ∀ q ∈ forks, v.getSeq q = none) : Ends v w forks (endWorker w v) := by
  intro u l hrel hg htv htm htn hl
  have hq := quiet_release hrel
  have hend : endWorker w v = .next ((u.modLaunch w.ctx w.slot fun x =>
      { x with flags := x.flags ||| u.core.bank.xf, retired := x.retired + 1 }).removeWorker w) := by
    simp [endWorker, hrel, hg, Timeline.idle, htv, htm, htn]
  obtain ⟨hrun, hresv, hother, hlaunch⟩ := removeWorker_leaves (w := w) (s := u.modLaunch w.ctx w.slot fun x =>
      { x with flags := x.flags ||| u.core.bank.xf, retired := x.retired + 1 }) (hq.cur.trans hw)
  obtain ⟨rs, hl'⟩ := hlaunch _ (State.launch?_modLaunch_some _ ((State.launch?_congr hq.launches _ _).trans hl)
    fun l => ⟨rfl, rfl⟩)
  refine ⟨_, _, hend, hl', by rw [hq.core], rfl, hrun, hresv, fun q hqf => ?_⟩
  obtain ⟨ce, h, rfl⟩ := hf q hqf
  rw [hother _ (forkId_ne_worker _ _ _ _), ← hgone _ hqf, ← hq.getSeq]
  rfl

theorem endBody_ends {v : State} {w : WKey} (hw : v.cur = .worker w) :
    let forks := rdvTargets w v.core.w true false 0
    (∀ q ∈ forks, v.forkEnded q = true) → (∀ q ∈ forks, (v.seqD q).poisoned = false) →
    Ends (joinedState v forks) w forks (endBody w v) := by
  intro forks he hp
  have hf : ForksOf w forks := forksOf_rdvTargets _ _ _ _ _
  have hbody : endBody w v = endWorker w (joinedState v forks) := by
    rw [endBody, rdvBody_joins he hp]
    rfl
  rw [hbody]
  refine endWorker_ends ?_ hf fun q hq => getSeq_joinedState hw hf hq
  rw [joinedState_eq hw hf]
  exact hw

theorem endEnds : Claims.EndEnds := by
  refine ⟨fun f s hr hk => ?_, fun f s w hr hw hv ho => ?_, fun s w y hy hrun => ?_⟩
  · change checked _ s _ = _
    rw [checked_of_ready hr]
    cases hc : s.cur with
    | cc n => simp [hc, kindOf] at hk
    | worker w => simp [hc, kindOf] at hk
    | mx w n => simp [hc, State.modCore]
    | ce w n => simp [hc, State.modCore]
  · have hexec : exec (.endProg f) s = endBody w s := by
      change checked _ s _ = _
      rw [checked_of_ready hr]
      simp only [hw, hv, hw ▸ ho, Bool.or_self, Bool.false_eq_true, if_false]
    rw [hexec]
    refine ⟨fun he => ?_, endBody_ends hw⟩
    rw [endBody, rdvBody_parks he]
    rfl
  · intro forks v he hp
    have hexec : exec (.rdvWake (.worker w)) s = endBody w v := by
      change execRdvWake (.worker w) s = _
      simp only [execRdvWake, State.seqD_of_getSeq hy, hrun]
      exact if_pos (List.all_eq_true.mpr he)
    have htargets : rdvTargets w v.core.w true false 0 = forks := by rw [State.wake_core hy]
    have hends := forkEnded_rdvTargets_wake (by rw [hy]; rfl) he
    rw [hexec]
    have := endBody_ends (State.wake_cur s (.worker w))
    rw [htargets] at this
    exact this hends hp

/-- Settles O23: FORK by the lowest free handle and what it copies; END by the join of RDV. -/
theorem forksStartAndEnd : Obligations.ForksStartAndEnd := by
  unfold Obligations.ForksStartAndEnd
  exact ⟨forkStartsASequencer, endEnds⟩

end Sys2Proof.Machine
end

section
/-! SUPPORT. The traps of workers and of forked sequencers, and the return from one (R39, R86, R252, R256). -/

namespace Sys2Proof.Machine

open Sys2Proof.Claims (trapTaken errorTaken ToSupervisor SupervisorEntered trapRecord trapHere)

/-! ## A worker takes a trap -/

/-- An error that a drain found comes before the trap raised (R86, R202). -/
theorem State.takeDrained_eq (s : State) (w : WKey) (t : Trap) :
    s.takeDrained w t = (errorTaken s w).takeWorkerTrap w (trapTaken (s.seqD (.worker w)) t) := by
  unfold State.takeDrained errorTaken trapTaken
  cases (s.seqD (.worker w)).w.pending <;> rfl

theorem isSome_getSeq_errorTaken {s : State} {w : WKey} (h : (s.getSeq (.worker w)).isSome = true) :
    ((errorTaken s w).getSeq (.worker w)).isSome = true := by
  unfold errorTaken
  split
  · exact h
  · rwa [State.getSeq_modSeq_same, Option.isSome_map]

/-- The bank that a supervisor routine starts with (R252). -/
theorem supervisorBank_registers (xf : BitVec 8) (a b : Word) :
    let k := ({ Bank.reset with xf := xf }.write 1 a).write 2 b
    k.loops = [] ∧ k.xf = xf ∧ k.read 1 = a ∧ k.read 2 = b ∧ (∀ r : BitVec 5, 3 ≤ r.toNat → k.read r = 0) ∧
      ∀ r, k.isEmpty r = false ∧ k.mark r = none := by
  have hread (r : BitVec 5) : { Bank.reset with xf := xf }.read r = 0 := Bank.read_reset r
  have hmark (r : BitVec 5) : { Bank.reset with xf := xf }.mark r = none := Bank.mark_reset r
  have hempty (r : BitVec 5) : { Bank.reset with xf := xf }.isEmpty r = false := Bank.isEmpty_reset r
  refine ⟨by simp [Bank.reset], by simp, ?_, ?_, fun r hr => ?_, fun r => ⟨?_, ?_⟩⟩
  · rw [Bank.read_write_ne _ (by decide), Bank.read_write_same _ (by decide)]
  · rw [Bank.read_write_same _ (by decide)]
  · rw [Bank.read_write_ne _ (by rintro rfl; simp at hr), Bank.read_write_ne _ (by rintro rfl; simp at hr), hread]
  · rw [Bank.isEmpty_write, Bank.isEmpty_write, hempty]
    rfl
  · rw [Bank.mark_write, Bank.mark_write, hmark, ite_self, ite_self]

/-- A worker that has entered its supervisor routine, its frame being at `frame` (R252). -/
def Seq.supervised (y : Seq) (frame : Word) : Seq :=
  { y with
    priv := .s
    run := .running
    pc := y.w.svec
    w := { y.w with ins := true, keptLoops := y.bank.loops }
    bank := ({ Bank.reset with xf := y.bank.xf }.write 1 frame).write 2 (y.cause.setWidth 64) }

/-- A trap that goes to the supervisor routine: steps 1 to 7 of R252. -/
theorem takeWorkerTrap_enters {s v : State} {w : WKey} {t : Trap} (hw : (s.getSeq (.worker w)).isSome = true)
    (h : ToSupervisor s w t v) : SupervisorEntered s v (s.takeWorkerTrap w t) w t := by
  obtain ⟨hins, hsvec, h94, h64, h31, hwrite⟩ := h
  have hx : (((s.modSeq (.worker w) fun y => y.noteTrap t).clearResv w).seqD (.worker w)) =
      (s.seqD (.worker w)).noteTrap t := State.seqD_modSeq_same _ hw
  have hv : v.seqD (.worker w) = (s.seqD (.worker w)).noteTrap t := ((quiet_frameWrite hwrite).seqD _).trans hx
  have hvw : (v.getSeq (.worker w)).isSome = true := by
    rw [(quiet_frameWrite hwrite).getSeq]
    change ((s.modSeq _ _).getSeq _).isSome = true
    rwa [State.getSeq_modSeq_same, Option.isSome_map]
  have hdirect : ((s.seqD (.worker w)).w.svec == 0 || (t.source == 1 && t.cond == 30) || t.cond == 31) = false := by
    have h30 : (t.source == 1 && t.cond == 30) = false := by
      simp only [Bool.and_eq_false_iff, beq_eq_false_iff_ne]
      omega
    rw [beq_eq_false_iff_ne.mpr hsvec, h30, beq_eq_false_iff_ne.mpr h31]
    rfl
  have hto : s.takeWorkerTrap w t = v.modSeq (.worker w) fun y => y.supervised (v.frameVa w) := by
    unfold State.takeWorkerTrap
    simp only [hins, hx]
    have hwrite' : ((s.modSeq (.worker w) fun y => y.noteTrap t).clearResv w).frameWrite w 0
      (wordsBytes (recordWords ((s.seqD (.worker w)).noteTrap t) t.save ((s.seqD (.worker w)).noteTrap t).bank.loops
        false true 0)) = some v := hwrite
    simp only [hwrite', Bool.false_eq_true, if_false]
    exact if_neg (by simpa [Seq.noteTrap] using hdirect)
  have hy : (s.takeWorkerTrap w t).seqD (.worker w) = ((s.seqD (.worker w)).noteTrap t).supervised (v.frameVa w) := by
    rw [hto, State.seqD_modSeq_same _ hvw, hv]
  obtain ⟨hloops, hxf, h1, h2, hrest, hfull⟩ :=
    supervisorBank_registers (s.seqD (.worker w)).bank.xf (v.frameVa w) ((BitVec.ofNat 9 (64 * t.source + t.cond)).setWidth 64)
  simp only [SupervisorEntered, hy]
  have hcause : BitVec.ofNat 9 (t.source * 64 + t.cond) = BitVec.ofNat 9 (64 * t.source + t.cond) := by rw [Nat.mul_comm]
  refine ⟨hcause.symm, rfl, rfl, rfl, rfl, rfl, rfl, rfl, hloops, hxf, h1, h2, hrest, hfull, rfl, rfl, rfl, rfl, rfl,
    rfl, rfl, rfl, fun hn => ?_, ?_⟩
  · simp [Seq.supervised, Seq.noteTrap, hn]
  · rw [hto, State.modSeq_mem]

/-- R86, R252: an entry of a worker's trap, once everything before it is complete. -/
theorem enterTrap_worker {s : State} {w : WKey} {t : Trap} (ht : (s.seqD (.worker w)).trap = some t)
    (hd : s.drained (.worker w) = true) : s.enterTrap (.worker w) =
      some ((errorTaken s w).takeWorkerTrap w (trapTaken (s.seqD (.worker w)) t)) := by
  simp only [State.enterTrap, ht, hd, if_true, State.takeDrained_eq]

theorem trapEntryFollowsR252 : Claims.TrapEntryFollowsR252 := by
  intro s v w t t' s' hw ht hd hto
  refine ⟨_, ?_, takeWorkerTrap_enters (isSome_getSeq_errorTaken hw) hto⟩
  change execTrapEntry w s = _
  simp only [execTrapEntry, enterTrap_worker ht hd]
  rfl

/-! ## TRAP -/

/-- A trap that is noted changes nothing that a drain looks at. -/
theorem State.drained_noteTrap {s : State} {w : WKey} (hw : s.cur = .worker w) (t : Trap) :
    (s.modCore fun x => { x with trap := some t }).drained (.worker w) = s.drained (.worker w) := by
  have h1 : (s.modCore fun x => { x with trap := some t }).seqD (.worker w) = { s.core with trap := some t } := by
    simp [State.seqD, State.getSeq, hw]
  have h2 : s.seqD (.worker w) = s.core := by rw [← hw, State.seqD_cur]
  simp [State.drained, State.vecIdle, State.vPending, State.gPending, State.framePending, State.frameVa, State.ctx,
    State.padPending, h1, h2]

theorem exec_trap_of_ready {f : FIM} {s : State} (h : (Instr.trap f).ready s = true) :
    exec (.trap f) s = .next (s.raiseOn s.cur { trapHere s (sourceOf s.cur) 7 (f.imm.setWidth 64) with
      save := Claims.following s.core.heads s.core.pc }) := by
  change checked _ s _ = _
  rw [checked_of_ready h, State.nextPc_eq]
  rfl

/-! ## What a report of a fault leaves -/

theorem quiet_writeRecord (s : State) (pa : Nat) (l : List Nat) : Quiet s (s.writeRecord pa l) :=
  (quiet_writeWords ..).trans (quiet_flushCxl _)

theorem State.logFault_keeps (s : State) (c slot wid cause : Nat) (body : List Nat) (time : Word) :
    (s.logFault c slot wid cause body time).cur = s.cur ∧ (s.logFault c slot wid cause body time).core = s.core := by
  unfold State.logFault
  extract_lets x log pa y
  split
  · split
    · exact ⟨rfl, rfl⟩
    · exact ⟨rfl, rfl⟩
  · exact ⟨(quiet_writeRecord ..).cur, (quiet_writeRecord ..).core⟩

theorem State.reportFault_keeps (s : State) (q : SeqId) (c cause : Nat) (body : List Nat) :
    (s.reportFault q c cause body).cur = s.cur ∧ (s.reportFault q c cause body).core = s.core := by
  unfold State.reportFault
  split
  · exact State.logFault_keeps ..
  · exact State.logFault_keeps ..

theorem State.stopFork_core (s : State) (t : Trap) :
    (s.stopFork s.cur t).core = { s.core.noteTrap t with run := .ending } := by
  unfold State.stopFork
  extract_lets c
  obtain ⟨hcur, hcore⟩ := State.reportFault_keeps s s.cur c (64 * t.source + t.cond) (forkBody s.cur t)
  rw [State.modSeq_of_cur hcur, State.modCore_core, hcore]

/-- R39: a trap of a forked sequencer, whose turn it is, stops it. -/
theorem State.raiseOn_fork {s : State} (hk : kindOf s.cur = .mx ∨ kindOf s.cur = .ce) (t : Trap) :
    (s.raiseOn s.cur t).core = { ({ s.core with trap := some t }).noteTrap t with run := .ending } := by
  have hmod : s.modSeq s.cur (fun x => { x with trap := some t }) = s.modCore fun x => { x with trap := some t } :=
    State.modSeq_of_cur rfl _
  have henter : (s.modCore fun x => { x with trap := some t }).enterTrap s.cur =
      some ((s.modCore fun x => { x with trap := some t }).stopFork s.cur t) := by
    have hd : ((s.modCore fun x => { x with trap := some t }).seqD s.cur).trap = some t := by
      simp [State.seqD, State.getSeq]
    unfold State.enterTrap
    rw [hd]
    cases hc : s.cur with
    | cc n => simp [hc, kindOf] at hk
    | worker w => simp [hc, kindOf] at hk
    | mx w n => rfl
    | ce w n => rfl
  simp only [State.raiseOn, hmod, henter]
  exact State.stopFork_core (s.modCore fun x => { x with trap := some t }) t

theorem trapOfWorkersAndForks : Claims.TrapOfWorkersAndForks := by
  refine ⟨?_, fun f s hr hk => ?_⟩
  · intro f s v w t t' s' hr hw hd hto
    have hmod : s.modSeq s.cur (fun x => { x with trap := some t }) = s.modCore fun x => { x with trap := some t } :=
      State.modSeq_of_cur rfl _
    have hseq : (s.modCore fun x => { x with trap := some t }).seqD (.worker w) = { s.core with trap := some t } := by
      simp [State.seqD, State.getSeq, hw]
    have hsource : sourceOf s.cur = 0 := by rw [hw]; rfl
    have henter := enterTrap_worker (s := s.modCore fun x => { x with trap := some t }) (w := w) (t := t)
      (by rw [hseq]) (by rw [State.drained_noteTrap hw, hd])
    refine ⟨_, (exec_trap_of_ready hr).trans ?_, takeWorkerTrap_enters (isSome_getSeq_errorTaken ?_) hto⟩
    · rw [hsource]
      simp only [State.raiseOn]
      rw [hmod, hw, henter, hseq]
      rfl
    · simp [State.getSeq, hw]
  · refine ⟨_, exec_trap_of_ready hr, ?_⟩
    rw [State.raiseOn_fork hk]
    exact ⟨rfl, by rw [Nat.mul_comm]; rfl, rfl, rfl⟩

/-! ## ERET -/

/-- g registers and marks from the words of a record (R250). -/
theorem Bank.fromWords_registers (b : Bank) (gs : List Nat) (gp : Nat) (k : BitVec 5) (hk : k ≠ 0) :
    (b.fromWords gs gp).read k = BitVec.ofNat 64 (gs.getD k.toNat 0) ∧ (b.fromWords gs gp).isEmpty k = false ∧
      (((b.fromWords gs gp).mark k).isSome = true ↔ gp.testBit k.toNat = true) := by
  have hne : k.toFin ≠ 0 := fun e => hk (BitVec.eq_of_toFin_eq e)
  refine ⟨?_, by simp [Bank.isEmpty, Bank.fromWords], ?_⟩
  · rw [Bank.read_of_ne_zero _ hk]
    simp [Bank.fromWords, hne]
  · rw [Bank.mark_of_ne_zero _ hk, Nat.testBit_eq_decide_div_mod_eq]
    simp [Bank.fromWords, hne]

@[simp] theorem loopsFrom_length (ws : List Nat) (n : Nat) : (loopsFrom ws n).length = n := by simp [loopsFrom]

theorem getD_map_range {n : Nat} (f : Nat → Nat) {k : Nat} (h : k < n) : ((List.range n).map f).getD k 0 = f k := by
  simp [List.getD, h]

/-- A worker that has taken back the record `r` (R256). -/
def Seq.returned (x : Seq) (r : List Byte) : Seq :=
  let st := BitVec.ofNat 64 (wordAt r 1)
  { x with
    run := .running
    priv := .u
    pc := BitVec.ofNat 64 (wordAt r 0)
    line := none
    bank := { (Bank.reset.fromWords ((List.range 32).map fun k => wordAt r (12 + k)) (wordAt r 9)) with
      xf := st.extractLsb' 32 8
      loops := loopsFrom ((List.range 18).map fun k => wordAt r (44 + k)) (st.extractLsb' 19 3).toNat }
    w := { x.w with
      ins := false
      keptLoops := []
      vl := BitVec.ofNat 15 (wordAt r 2)
      vstart := BitVec.ofNat 15 (wordAt r 3)
      vlmax := BitVec.ofNat 15 (wordAt r 4)
      xsel := st.extractLsb' 28 4
      vrm := st.extractLsb' 26 2
      vmt := st.extractLsb' 24 2
      vncode := st.extractLsb' 22 2 } }

theorem Seq.returned_registers (x : Seq) (r : List Byte) (k : BitVec 5) (hk : k ≠ 0) :
    (x.returned r).bank.read k = BitVec.ofNat 64 (wordAt r (12 + k.toNat)) ∧ (x.returned r).bank.isEmpty k = false ∧
      (((x.returned r).bank.mark k).isSome = true ↔ (wordAt r 9).testBit k.toNat = true) := by
  have h := Bank.fromWords_registers Bank.reset ((List.range 32).map fun k => wordAt r (12 + k)) (wordAt r 9) k hk
  rw [getD_map_range _ k.isLt] at h
  exact h

theorem returnWorker_of_record {s s2 s3 : State} {w : WKey} {r : List Byte}
    (hsaved : (s.seqD (.worker w)).w.vsaved = false) (hread : s.frameRead w 0 0x1F8 = some (s2, r))
    (hbad : recordBad r = false) (hmod : s2.frameModify w 8 (2 ^ 17 + 2 ^ 18) 0 = some s3) :
    s.returnWorker w = s3.modSeq (.worker w) fun x => x.returned r := by
  unfold State.returnWorker
  simp only [hsaved, hread, hbad, hmod, Bool.false_eq_true, if_false]
  rfl

theorem workerReturnTakesTheRecord : Claims.WorkerReturnTakesTheRecord := by
  intro f s s2 s3 w r hr hw hwait hsaved hread hbad hmod st
  have hc : s.seqD (.worker w) = s.core := by rw [← hw, State.seqD_cur]
  have hq := (quiet_frameRead hread).trans (quiet_frameModify hmod)
  have hexec : exec (.eret f) s = .next (s.returnWorker w) := by
    change checked _ s _ = _
    rw [checked_of_ready hr]
    simp only [hw ▸ hwait, hw, Bool.false_eq_true, if_false]
  have hto := returnWorker_of_record (hc ▸ hsaved) hread hbad hmod
  rw [State.modSeq_of_cur (hq.cur.trans hw)] at hto
  have hcore : (s3.modCore fun x => x.returned r).core = s3.core.returned r := rfl
  refine ⟨s3.modCore fun x => x.returned r, hexec.trans (by rw [hto]), ?_⟩
  rw [hcore]
  exact ⟨rfl, rfl, rfl, rfl, rfl, rfl, rfl, rfl, rfl, rfl, rfl, loopsFrom_length _ _, Seq.returned_registers _ r,
    State.modCore_mem ..⟩

/-- Settles O10: by the steps of R252 that a trap takes, and the record that ERET reads. -/
theorem workerTraps : Obligations.WorkerTraps := by
  unfold Obligations.WorkerTraps
  exact ⟨trapEntryFollowsR252, trapOfWorkersAndForks, workerReturnTakesTheRecord⟩

end Sys2Proof.Machine
end

section
/-! SUPPORT. The input rings of stages: QPOP takes records and chunks, QPUSH pushes them (R30 to R33, R180, R181). -/

namespace Sys2Proof.Machine

open Sys2Proof.Claims (Pops Pushes GoesOn following acquired)

/-! ## QPOP -/

/-- Whether an input is closed depends on the workers and the pushes under way. -/
theorem State.closed_congr {s t : State} (hw : t.workers = s.workers) (hp : t.pushes = s.pushes) (l : Launch) (k : Nat) :
    t.closed l k = s.closed l k := by
  induction k with
  | zero => rfl
  | succ k ih =>
    simp only [State.closed, ih, State.stageCount, State.launchWorkers, hw, State.pushing, hp]

theorem State.arrivals_congr {s t : State} (hw : t.workers = s.workers) (hp : t.pushes = s.pushes) (l : Launch) :
    t.arrivals l = s.arrivals l := by
  simp only [State.arrivals, State.closed_congr hw hp]

/-- A ring whose next record has been popped, and is owned. -/
def Ring.popped (r : Ring) : Ring := { r with pop := r.pop + 1, owned := r.pop :: r.owned }

/-- A launch whose next chunk of the index source has been taken. -/
def Launch.chunkTaken (l : Launch) : Launch :=
  { l with nextIndex := Nat.min (l.nextIndex + blockChunk l.block) (blockCount l.block) }

/-- The worker has taken the next record of its stage's ring. -/
def tookRecord (u : State) (l : Launch) (gd : BitVec 5) (k : Nat) : State :=
  let r := l.ring k
  ((u.setG gd ((l.stage k).sinq + BitVec.ofNat 64 (r.pop % 2 ^ (l.stage k).depthlog * (l.stage k).recsz))).modLaunch
    l.ctx l.slot fun y => y.setRing k r.popped).modCore fun x => { x with w := { x.w with record := some r.pop } }

/-- The worker has taken the next chunk of the index source. -/
def tookChunk (u : State) (l : Launch) (gd : BitVec 5) : State :=
  (u.setG gd (BitVec.ofNat 64 (l.nextIndex + 1))).modLaunch l.ctx l.slot Launch.chunkTaken

section
variable {u : State} {w : WKey} {l : Launch} {gd : BitVec 5} {since : Nat}

theorem popNow_record (h : u.aheadInStage l (u.seqD (.worker w)).w.stage since < l.holds (u.seqD (.worker w)).w.stage)
    (hi : l.indexed (u.seqD (.worker w)).w.stage = false) :
    u.popNow w l gd since = some (tookRecord u l gd (u.seqD (.worker w)).w.stage, true) := by
  simp only [State.popNow, h, hi, if_true, Bool.false_eq_true, if_false]
  rfl

theorem popNow_chunk (h : u.aheadInStage l (u.seqD (.worker w)).w.stage since < l.holds (u.seqD (.worker w)).w.stage)
    (hi : l.indexed (u.seqD (.worker w)).w.stage = true) : u.popNow w l gd since = some (tookChunk u l gd, true) := by
  simp only [State.popNow, h, hi, if_true]
  rfl

theorem popNow_restart {n : Nat}
    (h : l.holds (u.seqD (.worker w)).w.stage ≤ u.aheadInStage l (u.seqD (.worker w)).w.stage since)
    (hc : u.chooseFor l w = some n) : u.popNow w l gd since = some (u.restartWorker l w n, false) := by
  simp only [State.popNow, Nat.not_lt.mpr h, hc, if_false]

theorem popNow_closed
    (h : l.holds (u.seqD (.worker w)).w.stage ≤ u.aheadInStage l (u.seqD (.worker w)).w.stage since)
    (hc : u.chooseFor l w = none) (hcl : u.closed l (u.seqD (.worker w)).w.stage = true)
    (h0 : l.holds (u.seqD (.worker w)).w.stage = 0) : u.popNow w l gd since = some (u.setG gd 0, true) := by
  simp only [State.popNow, Nat.not_lt.mpr h, hc, if_false]
  exact if_pos (by simp [hcl, h0])

theorem popNow_none
    (h : l.holds (u.seqD (.worker w)).w.stage ≤ u.aheadInStage l (u.seqD (.worker w)).w.stage since)
    (hc : u.chooseFor l w = none)
    (hn : ¬(u.closed l (u.seqD (.worker w)).w.stage = true ∧ l.holds (u.seqD (.worker w)).w.stage = 0)) :
    u.popNow w l gd since = none := by
  simp only [State.popNow, Nat.not_lt.mpr h, hc, if_false]
  exact if_neg (by simpa using hn)

/-- What follows a pop that goes on: the acquire, and the next instruction. -/
theorem goesOn_acquired_advance {t : State} (hc : t.cur = .worker w) (hr : t.core.run = .running) :
    GoesOn (t.acquire t.cur 3).advance (.worker w) (following t.core.heads t.core.pc) := by
  rw [State.acquire_eq_acquired]
  exact ⟨hc, hr, State.nextPc_eq _⟩

theorem acquire_advance_mem {t : State} (hc : t.cur = .worker w) (hu : u.cur = .worker w) (hm : t.mem = u.mem)
    (hp : t.core.w.place = u.core.w.place) : (t.acquire t.cur 3).advance.mem = (acquired u (.worker w) 3).mem := by
  rw [State.acquire_eq_acquired, hc]
  exact acquired_mem_congr hm (by simp [State.seqD, State.getSeq, hc, hu, hp]) 3

theorem g_acquire_advance (t : State) (gd : BitVec 5) : (t.acquire t.cur 3).advance.g gd = t.core.bank.read gd := by
  rw [State.acquire_eq_acquired]
  rfl

theorem launch?_acquire_advance (t : State) (c k : Nat) : (t.acquire t.cur 3).advance.launch? c k = t.launch? c k := by
  rw [State.acquire_eq_acquired]
  rfl

/-- An outcome that goes the way of `popNow` whenever that goes on is what QPOP may do. -/
theorem pops_of_popNow {o : Out} (hu : u.cur = .worker w) (hr : u.core.run = .running)
    (hl : u.launch? w.ctx w.slot = some l)
    (ho : ∀ t, u.aheadInStage l (u.seqD (.worker w)).w.stage since = 0 ∨
        l.holds (u.seqD (.worker w)).w.stage ≤ u.aheadInStage l (u.seqD (.worker w)).w.stage since →
      u.popNow w l gd since = some (t, true) → o = .next (t.acquire t.cur 3).advance) :
    Pops u w l gd since (following u.core.heads u.core.pc) o := by
  obtain ⟨hctx, hslot⟩ := State.launch?_key hl
  rw [← hctx, ← hslot] at hl
  refine ⟨?_, ?_, ?_⟩
  · rintro ⟨hahead, hholds⟩ hi hk
    have ht := ho _ (.inl hahead) (popNow_record (by rw [hahead]; exact hholds) hi)
    set k := (u.seqD (.worker w)).w.stage
    refine ⟨_, l.setRing k (l.ring k).popped, ht, goesOn_acquired_advance hu hr, fun hg => ?_, ?_,
      acquire_advance_mem hu hu rfl rfl, (launch?_acquire_advance ..).trans ?_, rfl⟩
    · rw [g_acquire_advance]
      exact Bank.read_write_same _ hg _
    · rw [State.acquire_eq_acquired]
      rfl
    · rw [← hctx, ← hslot]
      exact State.launch?_modLaunch_some (s := u) (fun y => y.setRing k (l.ring k).popped) hl fun _ => ⟨rfl, rfl⟩
  · rintro ⟨hahead, hholds⟩ hi
    have ht := ho _ (.inl hahead) (popNow_chunk (by rw [hahead]; exact hholds) hi)
    refine ⟨_, l.chunkTaken, ht, goesOn_acquired_advance hu hr, fun hg => ?_, acquire_advance_mem hu hu rfl rfl,
      (launch?_acquire_advance ..).trans ?_, rfl⟩
    · rw [g_acquire_advance, Nat.add_comm]
      exact Bank.read_write_same _ hg _
    · rw [← hctx, ← hslot]
      exact State.launch?_modLaunch_some (s := u) Launch.chunkTaken hl fun _ => ⟨rfl, rfl⟩
  · intro hholds hchoose hclosed h0
    have ht := ho _ (.inr hholds) (popNow_closed hholds hchoose hclosed h0)
    refine ⟨_, ht, goesOn_acquired_advance hu hr, fun hg => ?_, acquire_advance_mem hu hu rfl rfl⟩
    rw [g_acquire_advance]
    exact Bank.read_write_same _ hg _

end

/-- QPOP once the worker's record is given up, in state u. -/
theorem exec_qpop_of_ready {f : FN} {s u : State} {w : WKey} {l : Launch} (hr : (Instr.qpop f).ready s = true)
    (hw : s.cur = .worker w) (hv : s.waitsVector = false) (hg : s.gPending s.cur = false) (hu : u = s.releaseRecord w)
    (hl : u.launch? w.ctx w.slot = some l) : exec (.qpop f) s =
      if u.popWaits l u.core.w.stage u.nextId then .next u
      else
        match u.popNow w l (hReg f.h) u.nextId with
        | some (s2, true) => .next (s2.acquire s2.cur 3).advance
        | some (s2, false) => .next s2
        | none =>
          let (t, s2) := u.takeId
          .next (s2.park (.qpop (hReg f.h) t (s2.arrivals l))) := by
  change checked _ s _ = _
  rw [checked_of_ready hr]
  subst hu
  simp only [hw, hv, hw ▸ hg, Bool.or_self, Bool.false_eq_true, if_false, hl] <;> rfl

theorem exec_qpopWake_of_parked {s : State} {w : WKey} {y : Seq} {gd : BitVec 5} {since seen : Nat} {l : Launch}
    (hy : s.getSeq (.worker w) = some y) (hr : y.run = .parked (.qpop gd since seen))
    (hl : s.launch? w.ctx w.slot = some l) : exec (.qpopWake (.worker w)) s =
      if s.arrivals l = seen ∨ s.popWaits l y.w.stage since = true then .next s
      else
        match (s.wake (.worker w)).popNow w l gd since with
        | some (s1, true) => .next (s1.acquire (.worker w) 3).advance
        | some (s1, false) => .next s1
        | none => .next (s.modSeq (.worker w) fun x => { x with run := .parked (.qpop gd since (s.arrivals l)) }) := by
  change execQpopWake (.worker w) s = _
  simp only [execQpopWake, State.seqD_of_getSeq hy, hr, hl] <;> rfl

theorem popWaits_iff {s : State} {l : Launch} {k since : Nat} :
    s.popWaits l k since = true ↔ 0 < s.aheadInStage l k since ∧ s.aheadInStage l k since < l.holds k := by
  simp [State.popWaits, Nat.pos_iff_ne_zero]

theorem not_popWaits {s : State} {l : Launch} {k since : Nat}
    (h : s.aheadInStage l k since = 0 ∨ l.holds k ≤ s.aheadInStage l k since) : ¬s.popWaits l k since = true := by
  rw [popWaits_iff]
  omega

theorem cur_popNow {u t : State} {w : WKey} {l : Launch} {gd : BitVec 5} {since : Nat} 
    (h : u.popNow w l gd since = some (t, true)) : t.cur = u.cur := by
  simp only [State.popNow] at h
  split at h
  · split at h
    · cases h
      rfl
    · cases h
      rfl
  · split at h
    · cases h
    · split at h
      · cases h
        rfl
      · cases h

theorem qpopTakesARecord : Claims.QpopTakesARecord := by
  refine ⟨?_, ?_⟩
  · intro f s u w l hr hw hrun hv hg hu hl hctx hslot gd k
    have hrel : RecordReleased s u w := hu ▸ recordReleased hw
    have hcur : u.cur = .worker w := hrel.cur.trans hw
    have hk : u.core.w.stage = k := by rw [← State.seqD_cur, hcur]
    have hexec := exec_qpop_of_ready hr hw hv hg hu hl
    rw [hk] at hexec
    refine ⟨?_, ?_⟩
    · have hpc : following u.core.heads u.core.pc = following s.core.heads s.core.pc := by rw [hrel.core]; rfl
      refine hpc ▸ pops_of_popNow hcur (by rw [hrel.core]; exact hrun) hl fun t hfirst hpop => ?_
      rw [hexec, if_neg (not_popWaits hfirst), hpop]
    · refine ⟨fun h0 h1 => ?_, fun hle => ?_, fun p _ => by rw [hrel.core]⟩
      · rw [hexec, if_pos (popWaits_iff.mpr ⟨h0, h1⟩)]
      · rw [hexec, if_neg (not_popWaits (.inr hle))]
        refine ⟨fun n hn => ?_, fun hn hnc => ?_⟩
        · rw [popNow_restart hle hn]
        · rw [popNow_none hle hn hnc]
          have harrivals : State.arrivals { u with nextId := u.nextId + 1 } l = u.arrivals l :=
            State.arrivals_congr (s := u) (t := { u with nextId := u.nextId + 1 }) rfl rfl l
          simp only [State.takeId, harrivals]
          rfl
  · intro s w y gd since seen l hy hr hl hctx hslot ahead
    have hexec := exec_qpopWake_of_parked hy hr hl
    refine ⟨fun h => ?_, fun hs hp => ?_⟩
    · rw [hexec, if_pos (h.imp id popWaits_iff.mpr)]
    · have hgo : ¬(s.arrivals l = seen ∨ s.popWaits l y.w.stage since = true) := by
        rw [popWaits_iff]
        exact fun h => h.elim hs hp
      have hcore := State.wake_core hy
      have hpc : following (s.wake (.worker w)).core.heads (s.wake (.worker w)).core.pc = following y.heads y.pc := by
        rw [hcore]; rfl
      refine hpc ▸ pops_of_popNow (State.wake_cur ..) (by rw [hcore]) ((State.launch?_congr (State.wake_launches ..) _ _).trans hl)
        fun t _ hpop => ?_
      rw [hexec, if_neg hgo, hpop, cur_popNow hpop, State.wake_cur]

/-! ## QPUSH -/

/-- The QPUSH that leaves v for the slot at `wr` with the bytes read (R31). -/
def pushFrom (v : State) (w : WKey) (k : Nat) (wr : Leaves) (bs : List Byte) : Push :=
  { id := v.nextId, owner := w, stage := k, pages := wr.map fun p => p.1.page p.2.1,
    rel := (v.relOf v.cur (some 3)).getD (3, v.nextId), pieces := linesFrom wr, bytes := bs, sent := none }

/-- The next slot of the ring of stage k has been given out. -/
def Launch.slotGiven (l : Launch) (k : Nat) : Launch := l.setRing k { l.ring k with given := (l.ring k).given + 1 }

/-- The release that a QPUSH waits for is one at device scope, of everything before it (R164, R181). -/
theorem pushFrom_rel (v : State) (w : WKey) (k : Nat) (wr : Leaves) (bs : List Byte) :
    3 ≤ (pushFrom v w k wr bs).rel.1 ∧ (pushFrom v w k wr bs).rel.2 = v.nextId := by
  simp only [pushFrom, State.relOf]
  cases (v.seqD v.cur).relDue with
  | none => exact ⟨Nat.le_refl 3, rfl⟩
  | some p => exact ⟨Nat.le_max_right .., rfl⟩

/-- QPUSH with its slot checked and its record read. -/
theorem qpushBody_pushes {u v : State} {w : WKey} {l : Launch} {src : Word} {a b : Leaves} {bs : List Byte}
    (hfull : l.full (u.core.w.stage + 1) = false)
    (ha : u.checkAccess (u.accessor u.cur) wantLoad src (l.stage (u.core.w.stage + 1)).recsz = .ok a)
    (hb : u.checkAccess (u.accessor u.cur) wantSlot ((l.stage (u.core.w.stage + 1)).sinq + BitVec.ofNat 64
      ((l.ring (u.core.w.stage + 1)).given % 2 ^ (l.stage (u.core.w.stage + 1)).depthlog *
        (l.stage (u.core.w.stage + 1)).recsz)) (l.stage (u.core.w.stage + 1)).recsz = .ok b)
    (hda : reachesDevice a = false) (hdb : reachesDevice b = false) (hs : u.sourceWaits (linesFrom a) = false)
    (hr : ((u.markAll a false).markAll b true).readPieces (u.cacheOf u.cur) (u.dieOf u.cur) (piecesOf a) = (v, bs, none)) :
    qpushBody w l src u = .next (State.modLaunch
      { v with nextId := v.nextId + 1, pushes := v.pushes ++ [pushFrom v w (u.core.w.stage + 1) b bs] } w.ctx w.slot
      fun y => y.slotGiven (u.core.w.stage + 1)).advance := by
  simp only [qpushBody, hfull, ha, hb, hda, hdb, hs, hr, Bool.or_self, Bool.false_eq_true, if_false]
  rfl

theorem qpushBody_follows {u : State} {w : WKey} {l : Launch} (src : Word) (hu : u.cur = .worker w)
    (hrun : u.core.run = .running) (hl : u.launch? w.ctx w.slot = some l) :
    Pushes u w l src (following u.core.heads u.core.pc) (qpushBody w l src u) := by
  refine ⟨fun hfull => if_pos hfull, fun a b v bs hfull hk ha hb hda hdb hs hr => ?_⟩
  have hq : Quiet u v := by
    have := quiet_readPieces (u.cacheOf u.cur) (u.dieOf u.cur) (piecesOf a) ((u.markAll a false).markAll b true)
    rw [hr] at this
    exact (quiet_markAll ..).trans ((quiet_markAll ..).trans this)
  obtain ⟨hrel, hnum⟩ := pushFrom_rel v w (u.core.w.stage + 1) b bs
  refine ⟨_, l.slotGiven (u.core.w.stage + 1), pushFrom v w (u.core.w.stage + 1) b bs,
    qpushBody_pushes hfull ha hb hda hdb hs hr, ⟨hq.cur.trans hu, hq.core ▸ hrun, ?_⟩, rfl, rfl, rfl, rfl, rfl, rfl, rfl, rfl,
    hrel, hnum, ?_, rfl⟩
  · exact (State.nextPc_eq _).trans (congrArg (fun x : Seq => following x.heads x.pc) hq.core)
  · exact State.launch?_modLaunch_some (fun y => y.slotGiven (u.core.w.stage + 1))
      ((State.launch?_congr hq.launches _ _).trans hl) fun _ => ⟨rfl, rfl⟩

/-! ## QPUSHes that have gone on -/

/-- The bytes of a record leave as one store for each piece of its slot (R181). -/
theorem sendPieces_sends (q : SeqId) (l : List (Nat × Nat)) (bs : List Byte) (s : State) :
    ∃ sent, (s.sendPieces q l bs).net.msgs = s.net.msgs ++ sent ∧ sent.length = l.length ∧
      ∀ y ∈ sent, y.src = q ∧ ∃ d k, y.body = .access (.store d k) .shared .none none := by
  induction l generalizing bs s with
  | nil => exact ⟨[], by simp [State.sendPieces], rfl, by simp⟩
  | cons p r ih =>
    obtain ⟨pa, n⟩ := p
    let place := placeAt (pa % 64) n (bytesNum (bs.take n))
    obtain ⟨sent, hmsgs, hlen, hall⟩ := ih (bs.drop n) (s.sendFor none none q (s.pathOf q) pa 0 n
      (.access (.store place.1 place.2) .shared .none none) (s.dieOf q) (s.homeDie pa) (s.homeOf pa))
    refine ⟨_ :: sent, hmsgs.trans (List.append_assoc _ [_] sent), by simp [hlen], fun y hy => ?_⟩
    rcases List.mem_cons.mp hy with rfl | hy
    · exact ⟨rfl, place.1, place.2, rfl⟩
    · exact hall y hy

theorem State.releaseUpTo_eq (s : State) (q : SeqId) (scope n : Nat) :
    s.releaseUpTo q scope n = if ∃ y ∈ (s.seqD q).w.queue, y.touches = true ∧ y.id < n then (s, false)
      else s.releaseBelow q scope n := by
  simp [State.releaseUpTo]

theorem settlePush_waits {s u : State} {p : Push} {done : Bool} (hp : p.sent = none)
    (h : s.releaseUpTo (.worker p.owner) p.rel.1 p.rel.2 = (u, done)) :
    (done = false → s.settlePush p = u) ∧
    (done = true → ∃ sent, (s.settlePush p).net.msgs = u.net.msgs ++ sent ∧ sent.length = p.pieces.length ∧
      ∀ y ∈ sent, y.src = .worker p.owner ∧ ∃ d k, y.body = .access (.store d k) .shared .none none) := by
  simp only [State.settlePush, hp, h]
  refine ⟨fun hd => by simp [hd], fun hd => ?_⟩
  rw [if_pos hd]
  exact sendPieces_sends (.worker p.owner) p.pieces p.bytes u

/-- The position of a QPUSH to the ring of stage k is taken. -/
def Launch.positionTaken (l : Launch) (k : Nat) : Launch := l.setRing k { l.ring k with push := (l.ring k).push + 1 }

theorem settlePush_takesPosition {s : State} {p : Push} {a b : Nat} {l : Launch} (hp : p.sent = some (a, b))
    (hl : s.launch? p.owner.ctx p.owner.slot = some l) (ha : s.pieceDue a b = false) (hb : s.pushBefore p = false) :
    (s.settlePush p).launch? p.owner.ctx p.owner.slot = some (l.positionTaken p.stage) ∧
      (s.settlePush p).pushes = s.pushes.filter fun x => x.id != p.id := by
  simp only [State.settlePush, hp, ha, hb, Bool.or_self, Bool.false_eq_true, if_false]
  exact ⟨State.launch?_modLaunch_some (s := { s with pushes := s.pushes.filter fun x => x.id != p.id })
    (fun y => y.positionTaken p.stage) hl fun _ => ⟨rfl, rfl⟩, rfl⟩

theorem exec_qpush_of_ready {f : FRG} {s : State} {w : WKey} {l : Launch} (hr : (Instr.qpush f).ready s = true)
    (hw : s.cur = .worker w) (hl : s.launch? w.ctx w.slot = some l) (hv : s.waitsVector = false)
    (ho : s.ordering s.cur = false) : exec (.qpush f) s =
      if l.stages.length ≤ s.core.w.stage + 1 then .next (s.raise 23 0)
      else if (s.g f.ga).toNat % 8 ≠ 0 then .next (s.raise 9 (s.g f.ga))
      else
        match s.checkAccess (s.accessor s.cur) wantLoad (s.g f.ga) (l.stage (s.core.w.stage + 1)).recsz with
        | .error e => .next (s.raiseAcc 0 e)
        | .ok _ => qpushBody w l (s.g f.ga) s := by
  change checked _ s _ = _
  rw [checked_of_ready hr]
  simp only [hw, hl, hv, hw ▸ ho, Bool.or_self, Bool.false_eq_true, if_false] <;> rfl

theorem qpushPushes : Claims.QpushPushes := by
  refine ⟨?_, ?_, ?_, ?_⟩
  · intro f s w l hr hw hrun hl hv ho src
    have hexec := exec_qpush_of_ready hr hw hl hv ho
    refine ⟨fun hlast => ?_, fun hnext hmis => ?_, fun a hnext hal ha => ?_⟩
    · rw [Claims.Raises, hexec, if_pos hlast]
    · rw [Claims.Raises, hexec, if_neg (Nat.not_le.mpr hnext), if_pos hmis]
    · rw [hexec, if_neg (Nat.not_le.mpr hnext), if_neg (not_not.mpr hal), ha]
      exact qpushBody_follows src hw hrun hl
  · intro s u p done hp h
    exact settlePush_waits hp ((State.releaseUpTo_eq ..).trans h)
  · intro s p a b l hp hl hctx hslot hk
    refine ⟨fun h => ?_, fun ha hb => ?_⟩
    · have hwait : (s.pieceDue a b || s.pushBefore p) = true := by simpa using h
      simp only [State.settlePush, hp, hwait, if_true]
    · obtain ⟨hl', hpushes⟩ := settlePush_takesPosition hp hl ha hb
      refine ⟨_, hl', hpushes, fun r hr => ?_⟩
      have hring : l.ring p.stage = r := by simp [Launch.ring, List.getD, hr]
      rw [← hring]
      rfl
  · intro s w y src l hy hr hl hfull
    have hcore := State.wake_core hy
    have hexec : exec (.qpushWake (.worker w)) s = qpushBody w l src (s.wake (.worker w)) := by
      change execQpushWake (.worker w) s = _
      simp only [execQpushWake, State.seqD_of_getSeq hy, hr, hl, hfull, Bool.false_eq_true, if_false]
    have hpc : following (s.wake (.worker w)).core.heads (s.wake (.worker w)).core.pc = following y.heads y.pc := by
      rw [hcore]; rfl
    rw [hexec, ← hpc]
    exact qpushBody_follows src (State.wake_cur ..) (by rw [hcore]) ((State.launch?_congr (State.wake_launches ..) _ _).trans hl)

/-- Settles O25: by what a pop takes, and how a push is given its slot and takes its position. -/
theorem workQueues : Obligations.WorkQueues := by
  unfold Obligations.WorkQueues
  exact ⟨qpopTakesARecord, qpushPushes⟩

end Sys2Proof.Machine
end

section
/-! SUPPORT. The block checks of R23: the fields of a launch block, by their bits (R18 to R21). -/

namespace Sys2Proof.Machine

open Sys2Proof.Claims (blockBits stageField BlockSound)

/-! ## The bits of a block -/

theorem blockBits_eq (b : BitVec 4096) (lo n : Nat) : blockBits b lo n = (b.extractLsb' lo n).toNat := by
  rw [BitVec.extractLsb'_toNat, Nat.shiftRight_eq_div_pow, blockBits]

theorem extractLsb'_extractLsb' {w m i n : Nat} (b : BitVec w) (lo : Nat) (h : i + n ≤ m) :
    (b.extractLsb' lo m).extractLsb' i n = b.extractLsb' (lo + i) n := by
  apply BitVec.eq_of_getLsbD_eq
  intro k hk
  have hm : i + k < m := by omega
  simp [hk, hm, Nat.add_assoc]

/-- A field inside a word of a block. -/
theorem toNat_blockWord_extract (b : BitVec 4096) (k : Nat) {i n : Nat} (h : i + n ≤ 64) :
    ((blockWord b k).extractLsb' i n).toNat = blockBits b (64 * k + i) n := by
  rw [blockWord, extractLsb'_extractLsb' b _ h, blockBits_eq]

theorem toNat_blockWord (b : BitVec 4096) (k : Nat) : (blockWord b k).toNat = blockBits b (64 * k) 64 := by
  rw [blockWord, blockBits_eq]

theorem toNat_lbctl_extract (b : BitVec 4096) {i n : Nat} (h : i + n ≤ 64) :
    ((lbctl b).extractLsb' i n).toNat = blockBits b i n := by
  rw [lbctl, toNat_blockWord_extract b 0 h, Nat.mul_zero, Nat.zero_add]

/-- A field inside a stage descriptor. -/
theorem toNat_stageBits_extract (b : BitVec 4096) (k : Nat) {i n : Nat} (h : i + n ≤ 448) :
    ((stageBits b k).extractLsb' i n).toNat = stageField b k i n := by
  rw [stageBits, extractLsb'_extractLsb' b _ h, ← blockBits_eq, stageField]

theorem blockBits_one_iff (b : BitVec 4096) (i : Nat) : blockBits b i 1 = 1 ↔ b.getLsbD i = true := by
  rw [blockBits, BitVec.getLsbD, Nat.testBit_eq_decide_div_mod_eq, decide_eq_true_iff]
  rfl

theorem blockBits_one_zero_iff (b : BitVec 4096) (i : Nat) : blockBits b i 1 = 0 ↔ b.getLsbD i = false := by
  have h := blockBits_one_iff b i
  have hlt : blockBits b i 1 < 2 := Nat.mod_lt _ (by decide)
  cases hb : b.getLsbD i with
  | true =>
    have hone := h.mpr hb
    exact iff_of_false (by omega) (by simp)
  | false =>
    have hne : blockBits b i 1 ≠ 1 := fun e => by simp [h.mp e] at hb
    exact iff_of_true (by omega) rfl

/-- A field is a constant exactly where its bits are. -/
theorem beq_iff_toNat {n : Nat} (x y : BitVec n) : (x == y) = true ↔ x.toNat = y.toNat := by
  rw [beq_iff_eq, BitVec.toNat_inj]

theorem getLsbD_lbctl (b : BitVec 4096) {i : Nat} (h : i < 64) : (lbctl b).getLsbD i = b.getLsbD i := by
  simp [lbctl, blockWord, h]

theorem getLsbD_blockDies (b : BitVec 4096) {d : Nat} (h : d < 4) : (blockDies b).getLsbD d = b.getLsbD (16 + d) := by
  rw [blockDies, BitVec.getLsbD_extractLsb', getLsbD_lbctl b (by omega)]
  simp [h]

theorem blockIndexed_iff (b : BitVec 4096) : blockIndexed b = true ↔ blockBits b 6 1 = 1 := by
  rw [blockIndexed, getLsbD_lbctl b (by decide), blockBits_one_iff]

/-! ## The dies and the queue -/

/-- The lead die is the lowest of a mask that is not empty (R19). -/
theorem leadDie_spec {m : BitVec 4} (h : m ≠ 0) :
    leadDie m < 4 ∧ m.getLsbD (leadDie m) = true ∧ ∀ e, e < leadDie m → m.getLsbD e = false := by
  unfold leadDie
  cases hf : (List.range 4).find? fun d => m.getLsbD d with
  | none =>
    refine absurd (BitVec.eq_of_getLsbD_eq fun i hi => ?_) h
    simpa using List.find?_eq_none.mp hf i (List.mem_range.mpr hi)
  | some d =>
    obtain ⟨hd, hlt, hlow⟩ := List.find?_range_eq_some.mp hf
    exact ⟨by simpa using hlt, hd, fun e he => by simpa using hlow e he⟩

theorem blockDies_granted_iff (s : State) (c : Nat) (b : BitVec 4096) :
    (blockDies b != 0 && ((s.ctx c).cqgrant.getD (leadDie (blockDies b)) 0).getLsbD (blockQueue b)) = true ↔
      ∃ d, d < 4 ∧ blockBits b (16 + d) 1 = 1 ∧ (∀ e, e < d → blockBits b (16 + e) 1 = 0) ∧
        ((s.ctx c).cqgrant.getD d 0).getLsbD (blockBits b 8 6) = true := by
  have hq : blockQueue b = blockBits b 8 6 := toNat_lbctl_extract b (by decide)
  rw [Bool.and_eq_true, bne_iff_ne, hq]
  constructor
  · rintro ⟨h0, hg⟩
    obtain ⟨hlt, hd, hlow⟩ := leadDie_spec h0
    refine ⟨_, hlt, ?_, fun e he => ?_, hg⟩
    · rw [blockBits_one_iff, ← getLsbD_blockDies b hlt, hd]
    · rw [blockBits_one_zero_iff, ← getLsbD_blockDies b (by omega), hlow e he]
  · rintro ⟨d, hlt, hd, hlow, hg⟩
    rw [blockBits_one_iff, ← getLsbD_blockDies b hlt] at hd
    have h0 : blockDies b ≠ 0 := fun e => by simp [e] at hd
    obtain ⟨hlt', hd', hlow'⟩ := leadDie_spec h0
    have heq : leadDie (blockDies b) = d := by
      rcases Nat.lt_trichotomy (leadDie (blockDies b)) d with h | h | h
      · have := hlow _ h
        rw [blockBits_one_zero_iff, ← getLsbD_blockDies b hlt', hd'] at this
        simp at this
      · exact h
      · simp [hlow' _ h] at hd
    exact ⟨h0, heq ▸ hg⟩

/-! ## The stages -/

/-- A word of a stage descriptor holds zero exactly where its parts do. -/
theorem stageField_sinq_zero_iff (b : BitVec 4096) (k : Nat) :
    stageField b k 192 64 = 0 ↔ stageField b k 192 5 = 0 ∧ stageField b k 197 11 = 0 ∧
      stageField b k 208 16 = 0 ∧ stageField b k 224 32 = 0 := by
  have h (lo i : Nat) : b.toNat / 2 ^ (lo + i) = b.toNat / 2 ^ lo / 2 ^ i := by
    rw [Nat.div_div_eq_div_mul, ← Nat.pow_add]
  simp only [stageField, blockBits, h (512 + 448 * k) 192, h (512 + 448 * k) 197, h (512 + 448 * k) 208, h (512 + 448 * k) 224]
  omega

/-- The slot of a stage's entry, the numbers of its workers and its records, as fields of its descriptor. -/
theorem stageFrom_fields (b : BitVec 4096) (k : Nat) :
    pcSlot (stageFrom (stageBits b k)).entry = stageField b k 0 6 ∧
    (stageFrom (stageBits b k)).maxw = stageField b k 112 13 ∧ (stageFrom (stageBits b k)).minw = stageField b k 99 13 ∧
    (stageFrom (stageBits b k)).mxn = stageField b k 93 3 ∧ (stageFrom (stageBits b k)).cen = stageField b k 90 3 ∧
    (stageFrom (stageBits b k)).spad = stageField b k 87 3 ∧ (stageFrom (stageBits b k)).recsz = stageField b k 208 16 ∧
    (stageFrom (stageBits b k)).depthlog = stageField b k 192 5 ∧ (stageFrom (stageBits b k)).preload = stageField b k 256 17 ∧
    (stageFrom (stageBits b k)).sinq.toNat = stageField b k 128 64 := by
  refine ⟨?_, ?_, ?_, ?_, ?_, ?_, ?_, ?_, ?_, ?_⟩
  · rw [pcSlot, stageFrom, extractLsb'_extractLsb' _ 0 (by decide), toNat_stageBits_extract b k (by decide)]
  all_goals exact toNat_stageBits_extract b k (by decide)

theorem stageReserved_iff (b : BitVec 4096) (k : Nat) : stageReserved (stageBits b k) = true ↔
    stageField b k 273 175 = 0 ∧ stageField b k 224 32 = 0 ∧ stageField b k 197 11 = 0 ∧ stageField b k 125 3 = 0 ∧
      stageField b k 96 3 = 0 ∧ stageField b k 64 21 = 0 := by
  simp only [stageReserved, Bool.and_eq_true, beq_iff_toNat, BitVec.toNat_ofNat, Nat.zero_mod, and_assoc,
    toNat_stageBits_extract b k (show 273 + 175 ≤ 448 by decide), toNat_stageBits_extract b k (show 224 + 32 ≤ 448 by decide),
    toNat_stageBits_extract b k (show 197 + 11 ≤ 448 by decide), toNat_stageBits_extract b k (show 125 + 3 ≤ 448 by decide),
    toNat_stageBits_extract b k (show 96 + 3 ≤ 448 by decide), toNat_stageBits_extract b k (show 64 + 21 ≤ 448 by decide)]

/-- The reserved fields and the limits of a stage descriptor (R21, R23). -/
theorem stage_ok_iff (b : BitVec 4096) (k : Nat) (ix : Bool) :
    (stageReserved (stageBits b k) = true ∧ stageOk (stageFrom (stageBits b k)) k (ix && k == 0) = true) ↔
      stageField b k 273 175 = 0 ∧ stageField b k 224 32 = 0 ∧ stageField b k 197 11 = 0 ∧ stageField b k 125 3 = 0 ∧
      stageField b k 96 3 = 0 ∧ stageField b k 64 21 = 0 ∧ 1 ≤ stageField b k 0 6 ∧ stageField b k 0 6 ≤ 31 ∧
      1 ≤ stageField b k 99 13 ∧ stageField b k 99 13 ≤ stageField b k 112 13 ∧ stageField b k 93 3 ≤ 2 ∧
      stageField b k 90 3 ≤ 4 ∧ stageField b k 87 3 ≤ 4 ∧ (k ≠ 0 → stageField b k 256 17 = 0) ∧
      (ix = true ∧ k = 0 → stageField b k 128 64 = 0 ∧ stageField b k 192 64 = 0 ∧ stageField b k 256 17 = 0) ∧
      (¬(ix = true ∧ k = 0) → 8 ≤ stageField b k 208 16 ∧ stageField b k 208 16 ≤ 4096 ∧ stageField b k 208 16 % 8 = 0 ∧
        1 ≤ stageField b k 192 5 ∧ stageField b k 192 5 ≤ 16 ∧ stageField b k 256 17 ≤ 2 ^ stageField b k 192 5) := by
  obtain ⟨hslot, hmax, hmin, hmxn, hcen, hspad, hrec, hdepth, hpre, hsinq⟩ := stageFrom_fields b k
  have hs : (stageFrom (stageBits b k)).sinq = 0#64 ↔ stageField b k 128 64 = 0 := by
    rw [← BitVec.toNat_inj, hsinq]
    rfl
  rw [stageReserved_iff, stageField_sinq_zero_iff]
  simp only [stageOk, hslot, hmax, hmin, hmxn, hcen, hspad, hrec, hdepth, hpre, Bool.and_eq_true, Bool.or_eq_true,
    decide_eq_true_eq, beq_iff_eq]
  by_cases hi : ix = true ∧ k = 0
  · obtain ⟨rfl, rfl⟩ := hi
    simp [hs]
    omega
  · rw [if_neg hi]
    simp [hi]
    omega

/-! ## The checks -/

theorem foldl_add_eq_sum {α : Type} (f : α → Nat) (l : List α) (n : Nat) :
    l.foldl (fun k x => k + f x) n = n + (l.map f).sum := by
  induction l generalizing n with
  | nil => rfl
  | cons a l ih => rw [List.foldl_cons, ih, List.map_cons, List.sum_cons, Nat.add_assoc]

/-- The sum of MAXW over the stages (R23). -/
theorem sumMaxw_eq_sum (l : List Stage) : sumMaxw l = (l.map fun x => x.maxw).sum := by
  rw [sumMaxw, foldl_add_eq_sum, Nat.zero_add]

theorem blockStages_eq (b : BitVec 4096) : blockStages b = blockBits b 0 3 + 1 := by
  rw [blockStages, toNat_lbctl_extract b (by decide)]

theorem sumMaxw_stagesFrom (b : BitVec 4096) :
    sumMaxw (stagesFrom b) = ((List.range (blockBits b 0 3 + 1)).map fun k => stageField b k 112 13).sum := by
  rw [sumMaxw_eq_sum, stagesFrom, List.map_map, blockStages_eq]
  congr 1
  refine List.map_congr_left fun k _ => ?_
  obtain ⟨-, hmax, -⟩ := stageFrom_fields b k
  exact hmax

/-- The checks on the stages, stage by stage. -/
theorem stages_ok_iff (b : BitVec 4096) : ((List.range (blockStages b)).all (fun k => stageReserved (stageBits b k)) &&
      (stagesFrom b).zipIdx.all fun p => stageOk p.1 p.2 (blockIndexed b && p.2 == 0)) = true ↔
    ∀ k, k < blockBits b 0 3 + 1 → stageReserved (stageBits b k) = true ∧
      stageOk (stageFrom (stageBits b k)) k (blockIndexed b && k == 0) = true := by
  rw [Bool.and_eq_true, List.all_eq_true, List.all_eq_true, blockStages_eq]
  constructor
  · rintro ⟨hr, ho⟩ k hk
    refine ⟨hr k (List.mem_range.mpr hk), ho (stageFrom (stageBits b k), k) ?_⟩
    rw [List.mem_zipIdx_iff_getElem?, stagesFrom, blockStages_eq]
    simp [hk]
  · refine fun h => ⟨fun k hk => (h k (List.mem_range.mp hk)).1, fun p hp => ?_⟩
    rw [List.mem_zipIdx_iff_getElem?, stagesFrom, blockStages_eq] at hp
    obtain ⟨hk, hx⟩ : p.2 < blockBits b 0 3 + 1 ∧ stageFrom (stageBits b p.2) = p.1 := by
      simpa [List.getElem?_eq_some_iff] using hp
    exact hx ▸ (h p.2 hk).2

/-- The index source's fields (R20). -/
theorem blockSource_fields (b : BitVec 4096) :
    blockCount b = blockBits b 384 64 ∧ blockChunk b = blockBits b 448 32 ∧ blockGroups b = blockBits b 480 9 ∧
      (blockGtab b).toNat = blockBits b 128 64 := by
  refine ⟨toNat_blockWord b 6, ?_, ?_, toNat_blockWord b 2⟩
  all_goals exact toNat_blockWord_extract b 7 (by decide)

/-- The checks of R23 on a block are those of the spec. -/
theorem blockChecksFollowR23 : Claims.BlockChecksFollowR23 := by
  intro s c b
  obtain ⟨hcount, hchunk, hgroups, hgtab⟩ := blockSource_fields b
  have hdie := blockDies_granted_iff s c b
  have hst := stages_ok_iff b
  have hz : blockGtab b != 0 ↔ blockBits b 128 64 ≠ 0 := by
    rw [bne_iff_ne, Ne, ← BitVec.toNat_inj, hgtab]
    rfl
  have hix := blockIndexed_iff b
  unfold State.blockOk BlockSound
  rw [Bool.and_eq_true] at hdie hst
  have hstages := hst.trans (forall₂_congr fun k _ => stage_ok_iff b k (blockIndexed b))
  simp only [← hix, ← hdie, ← hstages]
  simp only [Bool.and_eq_true, Bool.or_eq_true, beq_iff_toNat, BitVec.toNat_ofNat, decide_eq_true_eq,
    toNat_lbctl_extract b (show 24 + 8 ≤ 64 by decide), toNat_lbctl_extract b (show 32 + 32 ≤ 64 by decide),
    toNat_lbctl_extract b (show 20 + 4 ≤ 64 by decide), toNat_lbctl_extract b (show 14 + 2 ≤ 64 by decide),
    toNat_lbctl_extract b (show 3 + 3 ≤ 64 by decide), toNat_blockWord_extract b 7 (show 41 + 23 ≤ 64 by decide),
    sumMaxw_stagesFrom, hcount, hchunk, hgroups, hz, and_assoc]
  have hsource : (if blockIndexed b = true then blockBits b 384 64 != 0 && blockBits b 448 32 != 0
        else blockBits b 384 64 == 0 && blockBits b 448 32 == 0) = true ↔
      (blockIndexed b = true → blockBits b 384 64 ≠ 0 ∧ blockBits b 448 32 ≠ 0) ∧
        (¬blockIndexed b = true → blockBits b 384 64 = 0 ∧ blockBits b 448 32 = 0) := by
    cases blockIndexed b <;> simp
  rw [hsource, beq_iff_eq, or_iff_not_imp_left]
  simp only [and_assoc]

end Sys2Proof.Machine
end

section
/-! SUPPORT. LAUNCH enters a launch into its queue (R17, R184). -/

namespace Sys2Proof.Machine

open Sys2Proof.Claims (BlockRead)

theorem Quiet.dieOf {s t : State} (h : Quiet s t) (q : SeqId) : t.dieOf q = s.dieOf q := by
  simp [State.dieOf, State.ownerSeq, h.seqD]

theorem Quiet.accessor {s t : State} (h : Quiet s t) (q : SeqId) : t.accessor q = s.accessor q := by
  have htlb : t.tlbOf q = s.tlbOf q := by
    simp [State.tlbOf, State.ownerSeq, h.seqD, h.dieOf]
  simp [State.accessor, htlb, h.seqD]

/-- The lowest slot of a context that no launch holds, in terms of the launches by slot. -/
theorem State.freeSlot_some {s : State} {c slot : Nat} (h : s.freeSlot c = some slot) :
    slot < 64 ∧ s.launch? c slot = none ∧ ∀ k, k < slot → (s.launch? c k).isSome := by
  obtain ⟨hp, hlt, hlow⟩ := List.find?_range_eq_some.mp h
  refine ⟨List.mem_range.mp hlt, ?_, fun k hk => ?_⟩
  · rw [State.launch?, List.find?_eq_none]
    simpa using hp
  · rw [State.launch?, List.find?_isSome]
    simpa using hlow k hk

/-- A LAUNCH whose release is complete and whose block is read enters it into its queue. -/
theorem exec_launch_of_blockRead {f : FIM} {s u v : State} {slot : Nat} {b : BitVec 4096}
    (hr : (Instr.launch f).ready s = true) (ho : s.ordering s.cur = false) (hu : s.release s.cur 4 = (u, true))
    (hslot : u.freeSlot s.curCtx = some slot) (hb : BlockRead u (s.g f.ga) v b) :
    exec (.launch f) s = .next (v.enterLaunch s.curCtx slot b (hReg f.h)) := by
  obtain ⟨hal, l, p, bs, hl, hdev, hread, rfl, hcw, hp, hpdev⟩ := hb
  have hq := quiet_release hu
  rw [hq.cur, hq.accessor] at hl
  rw [hq.cur] at hread
  rw [hq.cur, hq.accessor] at hp
  change execLaunch f s = _
  rw [execLaunch, checked_of_ready hr]
  simp [ho, hu, hslot, hal, hl, hdev, hq.cur, hread, blockCword, hcw, hp, hpdev]

/-- LAUNCH returns the slot of the launch that it enters. -/
theorem launchEntersItsQueue : Claims.LaunchEntersItsQueue := by
  intro f s u hr ho hu
  refine ⟨fun hfree => ?_, fun slot v b hslot hb => ?_⟩
  · have hneg : BitVec.allOnes 64 = BitVec.ofInt 64 (-1) := by decide
    change execLaunch f s = _
    rw [execLaunch, checked_of_ready hr]
    simp [ho, hu, hfree, hneg]
  · obtain ⟨hlt, hnone, hlow⟩ := State.freeSlot_some hslot
    have he := exec_launch_of_blockRead hr ho hu hslot hb
    refine ⟨hlt, hnone, hlow, rfl, ?_, fun hok => ?_, fun hok => ?_⟩
    · rfl
    · rw [he, State.enterLaunch, if_pos hok]
    · rw [he, State.enterLaunch, if_neg (by simp [hok])]

end Sys2Proof.Machine
end

section
/-! SUPPORT. The final word of a launch, and the operations on launches that are taken, asked for and served (R46, R185). -/

namespace Sys2Proof.Machine

open Sys2Proof.Claims (FinalWord Names phased answers stalls OperationsAreTaken Asks following)

/-! ## The final word -/

theorem State.answerCore_eq_answers (s : State) (q : SeqId) (gd : BitVec 5) (v : Nat) :
    s.answerCore q gd v = answers s q gd v := by
  simp only [State.answerCore, answers, nextPc_eq_following]

theorem quiet_unitWrite (s : State) (d pa n v : Nat) : Quiet s (s.unitWrite d pa n v) := by
  unfold State.unitWrite
  split
  · exact quiet_writeHome ..
  · exact quiet_send ..

theorem quiet_writeCword (s : State) (l : Launch) (v : Nat) : Quiet s (s.writeCword l v) := by
  unfold State.writeCword
  split
  · exact Quiet.refl s
  · refine Quiet.ite _ (Quiet.refl s) ?_
    exact (quiet_markAll ..).trans (Quiet.fold _ (fun _ _ => quiet_unitWrite ..) _ _)

theorem Msg.carries_iff (m : Msg) :
    m.carries = true ↔ ∃ d k r b chk, m.body = .publish d k r b chk ∧ k ≠ 0 := by
  unfold Msg.carries
  split
  · rename_i d k r b chk h
    simp [h]
  · rename_i h
    simp only [Bool.false_eq_true, false_iff]
    rintro ⟨d, k, r, b, chk, e, -⟩
    exact h _ _ _ _ _ e

@[simp] theorem State.setSeq_launches (s : State) (q : SeqId) (x : Seq) : (s.setSeq q x).launches = s.launches := by
  unfold State.setSeq
  split <;> rfl

@[simp] theorem State.modSeq_launches (s : State) (q : SeqId) (f : Seq → Seq) : (s.modSeq q f).launches = s.launches := by
  unfold State.modSeq
  split
  · rfl
  · exact State.setSeq_launches ..

/-- What `wakeAborts` does for one sequencer. -/
def State.wakeAbort (c slot : Nat) (s : State) (q : SeqId) : State :=
  match (s.seqD q).run with
  | .parked (.abort gd x y st) => if x = c ∧ y = slot then s.answerCore q gd st else s
  | _ => s

theorem State.wakeAborts_eq_foldl (s : State) (c slot : Nat) :
    s.wakeAborts c slot = (s.allSeqs.map fun p => p.1).foldl (State.wakeAbort c slot) s := rfl

theorem State.wakeAbort_keeps (c slot : Nat) (s : State) (q : SeqId) :
    (s.wakeAbort c slot q).mem = s.mem ∧ (s.wakeAbort c slot q).launches = s.launches := by
  unfold State.wakeAbort
  split
  · split
    · exact ⟨State.modSeq_mem .., State.modSeq_launches ..⟩
    · exact ⟨rfl, rfl⟩
  · exact ⟨rfl, rfl⟩

theorem State.wakeAborts_keeps (s : State) (c slot : Nat) :
    (s.wakeAborts c slot).mem = s.mem ∧ (s.wakeAborts c slot).launches = s.launches := by
  rw [State.wakeAborts_eq_foldl]
  generalize s.allSeqs.map _ = qs
  induction qs generalizing s with
  | nil => exact ⟨rfl, rfl⟩
  | cons q qs ih =>
    obtain ⟨hm, hl⟩ := State.wakeAbort_keeps c slot s q
    obtain ⟨im, il⟩ := ih (s.wakeAbort c slot q)
    exact ⟨im.trans hm, il.trans hl⟩

theorem State.getSeq_wakeAbort_ne {c slot : Nat} {s : State} {q r : SeqId} (h : r ≠ q) :
    (s.wakeAbort c slot q).getSeq r = s.getSeq r := by
  unfold State.wakeAbort
  split
  · split
    · exact State.getSeq_modSeq_ne _ h
    · rfl
  · rfl

/-- A core that has been answered runs. -/
def Seq.answered (x : Seq) (gd : BitVec 5) (status : Nat) : Seq :=
  { x with run := .running, bank := x.bank.write gd (BitVec.ofNat 64 status), pc := following x.heads x.pc,
           ply := x.bank.loops.isEmpty }

theorem State.getSeq_wakeAbort_parked {c slot st : Nat} {s : State} {q : SeqId} {x : Seq} {gd : BitVec 5}
    (hq : s.getSeq q = some x) (hx : x.run = .parked (.abort gd c slot st)) :
    (s.wakeAbort c slot q).getSeq q = some (x.answered gd st) := by
  simp only [State.wakeAbort, State.seqD_of_getSeq hq, hx, and_self, ↓reduceIte, State.answerCore_eq_answers, answers,
    State.getSeq_modSeq_same, hq]
  rfl

theorem State.getSeq_wakeAbort_running {c slot : Nat} {s : State} {q r : SeqId} {x : Seq} (hq : s.getSeq q = some x)
    (hx : x.run = .running) : (s.wakeAbort c slot r).getSeq q = some x := by
  by_cases e : q = r
  · subst e
    simp [State.wakeAbort, State.seqD_of_getSeq hq, hx, hq]
  · rw [State.getSeq_wakeAbort_ne e, hq]

/-- Every core that waits in ABORT for the launch is answered once. -/
theorem State.getSeq_foldl_wakeAbort {c slot st : Nat} {q : SeqId} {x : Seq} {gd : BitVec 5}
    (hx : x.run = .parked (.abort gd c slot st)) (qs : List SeqId) :
    ∀ s : State, s.getSeq q = some (x.answered gd st) ∨ (s.getSeq q = some x ∧ q ∈ qs) →
      (qs.foldl (State.wakeAbort c slot) s).getSeq q = some (x.answered gd st) := by
  induction qs with
  | nil => simp
  | cons r qs ih =>
    intro s h
    refine ih _ ?_
    rcases h with h | ⟨h, hm⟩
    · exact .inl (State.getSeq_wakeAbort_running h rfl)
    · by_cases e : q = r
      · exact .inl (e ▸ State.getSeq_wakeAbort_parked (e ▸ h) hx)
      · exact .inr ⟨by rw [State.getSeq_wakeAbort_ne e, h], List.mem_of_ne_of_mem e hm⟩

theorem mem_keys_of_assocFind {α β : Type} [DecidableEq α] {l : List (α × β)} {k : α} {v : β} (h : assocFind l k = some v) :
    k ∈ l.map fun p => p.1 := by
  induction l with
  | nil => simp [assocFind] at h
  | cons p r ih =>
    by_cases e : p.1 = k
    · simp [e]
    · rw [assocFind] at h
      simp only [e, ↓reduceIte] at h
      exact List.mem_cons_of_mem _ (ih h)

theorem State.mem_keys_allSeqs {s : State} {q : SeqId} {x : Seq} (h : s.getSeq q = some x) :
    q ∈ s.allSeqs.map fun p => p.1 := by
  by_cases e : q = s.cur
  · simp [State.allSeqs, e]
  · simp only [State.getSeq, e, ↓reduceIte] at h
    exact List.mem_cons_of_mem _ (mem_keys_of_assocFind h)

theorem State.launch?_dropLaunch (s : State) (c slot : Nat) : (s.dropLaunch c slot).launch? c slot = none := by
  simp [State.dropLaunch, State.launch?, imp_iff_or_not]
  tauto

/-- A launch that leaves is written, and the cores in ABORT for it go on (R46, R185). -/
theorem finalWord_writeFinal (s : State) (l : Launch) (v : Nat) : FinalWord s l v (s.writeFinal l v) := by
  have hq := quiet_writeCword s l v
  unfold FinalWord State.writeFinal
  extract_lets s1 carries
  have hfind (m : Msg) (hm : m ∈ s1.net.msgs) :
      (decide (s.nextId ≤ m.id) && m.path == 96 + l.lead && m.carries) = true ↔ carries m := by
    simp only [Bool.and_eq_true, decide_eq_true_eq, beq_iff_eq, Msg.carries_iff, and_assoc]
    exact ⟨fun h => ⟨hm, h⟩, fun h => h.2⟩
  cases hf : s1.net.msgs.find? fun m => decide (s.nextId ≤ m.id) && m.path == 96 + l.lead && m.carries with
  | some m =>
    have hm := List.mem_of_find?_eq_some hf
    have hp := List.find?_some hf
    have hc : carries m := (hfind m hm).mp hp
    refine ⟨rfl, fun hn => absurd hc (hn m), fun _ hl => ⟨{ l with phase := .ended m.id }, m, ?_, hc, rfl⟩⟩
    exact State.launch?_modLaunch_some (fun x => { x with phase := .ended m.id })
      ((State.launch?_congr hq.launches ..).trans hl) (fun _ => ⟨rfl, rfl⟩)
  | none =>
    have hn (m : Msg) : ¬carries m := fun hc =>
      List.find?_eq_none.mp hf m hc.1 ((hfind m hc.1).mpr hc)
    obtain ⟨hmem, hlaunch⟩ := State.wakeAborts_keeps (s1.dropLaunch l.ctx l.slot) l.ctx l.slot
    refine ⟨hmem, fun _ => ⟨?_, fun q x gd st hx hrun => ?_⟩, fun ⟨m, hc⟩ => absurd hc (hn m)⟩
    · exact (State.launch?_congr hlaunch ..).trans (State.launch?_dropLaunch ..)
    · have hx' : (s1.dropLaunch l.ctx l.slot).getSeq q = some x := (hq.getSeq q).trans hx
      refine State.seqD_of_getSeq ?_
      rw [State.wakeAborts_eq_foldl]
      exact State.getSeq_foldl_wakeAbort hrun _ _ (.inr ⟨hx', State.mem_keys_allSeqs hx'⟩)

/-! ## The operations -/

theorem State.modSeq_modLaunch (s : State) (c slot : Nat) (f : Launch → Launch) (q : SeqId) (g : Seq → Seq) :
    (s.modLaunch c slot f).modSeq q g = (s.modSeq q g).modLaunch c slot f := by
  have hget : (s.modLaunch c slot f).getSeq q = s.getSeq q := rfl
  unfold State.modSeq
  rw [hget]
  cases s.getSeq q with
  | none => rfl
  | some x =>
    by_cases e : q = s.cur <;> simp [State.setSeq, State.modLaunch, e]

theorem State.endsNow_iff (s : State) (l : Launch) :
    s.endsNow l = true ↔ s.launchWorkers l.ctx l.slot = [] ∧ s.exhausted l = true := by
  simp [State.endsNow]

/-- A PREEMPT is taken (R52, R185). -/
theorem takePreempt_cases (s : State) (q : SeqId) (gd : BitVec 5) (l : Launch) :
    (l.phase = .admitted ∧ s.endsNow l = false ∨ l.phase = .restoring →
      s.takePreempt q gd l = phased (stalls s q (.preempt gd l.ctx l.slot)) l .preempting) ∧
    (l.phase = .admitted ∧ s.endsNow l = true ∨ l.phase ≠ .admitted ∧ l.phase ≠ .restoring →
      s.takePreempt q gd l = answers s q gd 2) := by
  have hstart : ((s.modLaunch l.ctx l.slot fun x => { x with phase := .preempting }).stallCore q
      (.preempt gd l.ctx l.slot)) = phased (stalls s q (.preempt gd l.ctx l.slot)) l .preempting :=
    State.modSeq_modLaunch ..
  rw [← State.answerCore_eq_answers, ← hstart]
  constructor
  · rintro (⟨hp, he⟩ | hp) <;> simp [State.takePreempt, *]
  · rintro (⟨hp, he⟩ | ⟨ha, hr⟩)
    · simp [State.takePreempt, hp, he]
    · cases hp : l.phase <;> simp_all [State.takePreempt]

/-- A RESUME is taken (R53, R185). -/
theorem takeResume_cases (s : State) (q : SeqId) (gd : BitVec 5) (l : Launch) :
    (l.phase = .preempted → s.takeResume q gd l =
      answers (phased s l (if s.launchWorkers l.ctx l.slot = [] then .admitted else .restoring)) q gd 0) ∧
    (l.phase ≠ .preempted → s.takeResume q gd l = answers s q gd 2) := by
  constructor
  · intro hp
    simp [State.takeResume, hp, State.answerCore_eq_answers, phased, State.resumedPhase]
  · intro hp
    cases h : l.phase <;> simp_all [State.takeResume, State.answerCore_eq_answers]

/-- An ABORT is taken (R48, R185). -/
theorem takeAbort_cases (s : State) (q : SeqId) (gd : BitVec 5) (l : Launch) :
    (l.phase = .queued → FinalWord (stalls s q (.abort gd l.ctx l.slot 0)) l 3 (s.takeAbort q gd l)) ∧
    ((∃ n, l.phase = .tearing n) ∨ (∃ n, l.phase = .ended n) →
      s.takeAbort q gd l = stalls s q (.abort gd l.ctx l.slot 2)) ∧
    (l.phase = .admitted → s.endsNow l = true → s.takeAbort q gd l = answers s q gd 2) ∧
    (l.phase = .admitted ∧ s.endsNow l = false ∨ l.phase = .restoring ∨ l.phase = .preempted →
      s.takeAbort q gd l = phased (stalls s q (.abort gd l.ctx l.slot 0)) l (.tearing 3)) := by
  refine ⟨fun hp => ?_, ?_, fun hp he => ?_, ?_⟩
  · have h : s.takeAbort q gd l = (stalls s q (.abort gd l.ctx l.slot 0)).writeFinal l 3 := by
      simp only [State.takeAbort, hp]
      rfl
    exact h ▸ finalWord_writeFinal ..
  · rintro (⟨n, hp⟩ | ⟨n, hp⟩) <;> simp only [State.takeAbort, hp] <;> rfl
  · simp [State.takeAbort, hp, he, State.answerCore_eq_answers]
  · rintro (⟨hp, he⟩ | hp | hp)
    · simp only [State.takeAbort, hp, he]
      rfl
    · simp only [State.takeAbort, hp]
      rfl
    · simp only [State.takeAbort, hp]
      rfl

theorem operationsAreTaken : OperationsAreTaken := by
  intro s q gd l idle runs leaves
  obtain ⟨hstart, hrefuse⟩ := takePreempt_cases s q gd l
  obtain ⟨hresume, hnot⟩ := takeResume_cases s q gd l
  obtain ⟨hqueued, hleft, hends, htear⟩ := takeAbort_cases s q gd l
  have hidle (h : idle) : l.phase = .admitted ∧ s.endsNow l = true :=
    ⟨h.1, (State.endsNow_iff s l).mpr h.2⟩
  have hruns (h : runs) : l.phase = .admitted ∧ s.endsNow l = false ∨ l.phase = .restoring := by
    refine h.imp_left fun ⟨hp, hw⟩ => ⟨hp, ?_⟩
    rw [Bool.eq_false_iff, Ne, State.endsNow_iff]
    rcases hw with hw | hw
    · exact fun hh => hw hh.1
    · simp [hw]
  refine ⟨fun h => hrefuse ?_, fun h => hstart (hruns h), hresume, hnot, hqueued, hleft,
    fun h => hends (hidle h).1 (hidle h).2, fun h => htear ?_⟩
  · rcases h with h | h | (⟨n, h⟩ | ⟨n, h⟩) | h
    · exact .inr (by simp [h])
    · exact .inr (by simp [h])
    · exact .inr (by simp [h])
    · exact .inr (by simp [h])
    · exact .inl (hidle h)
  · rcases h with h | h
    · exact (hruns h).imp_right .inl
    · exact .inr (.inr h)

/-! ## Asking and serving -/

theorem State.namedLaunch_iff (s : State) (ga : Word) (l : Launch) : s.namedLaunch ga = some l ↔ Names s ga l := by
  have hlt := ga.isLt
  have hhigh : ga.extractLsb' 15 49 ≠ 0#49 ↔ ¬ga.toNat < 2 ^ 15 := by
    rw [not_iff_not, ← BitVec.toNat_inj, BitVec.extractLsb'_toNat, Nat.shiftRight_eq_div_pow, BitVec.toNat_ofNat]
    omega
  have hlow : (ga.extractLsb' 0 6).toNat = ga.toNat % 64 := by
    simp [BitVec.extractLsb'_toNat]
  have hmid : (ga.extractLsb' 6 9).toNat = ga.toNat / 64 % 512 := by
    simp [BitVec.extractLsb'_toNat, Nat.shiftRight_eq_div_pow]
  unfold State.namedLaunch Names
  by_cases h : ga.toNat < 2 ^ 15
  · have hdiv : ga.toNat / 64 % 512 = ga.toNat / 64 := Nat.mod_eq_of_lt (by omega)
    rw [if_neg (by simpa [hhigh] using h), hlow, hmid, hdiv]
    exact (and_iff_right h).symm
  · rw [if_pos (hhigh.mpr h)]
    exact iff_of_false (by simp) fun hn => h hn.1

theorem launchOp_asks {i : Instr} {op : Nat} {gd : BitVec 5} {ga : Word} {s : State}
    (he : exec i s = .next (s.launchOp op gd ga)) : Asks i op gd ga s := by
  refine ⟨fun hn => ?_, fun l hl => ⟨fun hw => ?_, fun hp hb => ?_⟩⟩
  · have hnone : s.namedLaunch ga = none :=
      Option.eq_none_iff_forall_ne_some.mpr fun l h => hn l ((s.namedLaunch_iff ga l).mp h)
    rw [he, State.launchOp, hnone]
    simp only [State.answerCore_eq_answers]
  · rw [he, State.launchOp, (s.namedLaunch_iff ga l).mpr hl]
    have : (l.phase == .preempting || s.opBefore l.ctx l.slot s.nextId) = true := by simpa using hw
    simp only [this]
    rfl
  · rw [he, State.launchOp, (s.namedLaunch_iff ga l).mpr hl]
    simp [hp, hb]

theorem preemptStep_cases (s : State) (l : Launch) :
    let u := (s.launchWorkers l.ctx l.slot).foldl (fun a p => a.stopStep p.1) s
    ((∀ p ∈ u.launchWorkers l.ctx l.slot, p.2.run = .saved) → s.preemptStep l = u.modLaunch l.ctx l.slot fun x =>
      if x.phase = .preempting then { x with phase := .preempted } else x) ∧
    (¬(∀ p ∈ u.launchWorkers l.ctx l.slot, p.2.run = .saved) → s.preemptStep l = u) := by
  intro u
  have hsaved : u.allSaved l.ctx l.slot = true ↔ ∀ p ∈ u.launchWorkers l.ctx l.slot, p.2.run = .saved := by
    simp [State.allSaved]
  exact ⟨fun h => if_pos (hsaved.mpr h), fun h => if_neg (mt hsaved.mp h)⟩

theorem servePreempt_cases {s : State} {q : SeqId} {x : Seq} {gd : BitVec 5} {c slot : Nat} (hx : s.getSeq q = some x)
    (hr : x.run = .parked (.preempt gd c slot)) :
    (s.launch? c slot = none → s.servePreempt q = answers s q gd 1) ∧
    ∀ l, s.launch? c slot = some l →
      (l.phase = .preempting → s.servePreempt q = s) ∧ (l.phase = .preempted → s.servePreempt q = answers s q gd 0) ∧
      (l.phase ≠ .preempting → l.phase ≠ .preempted → s.servePreempt q = answers s q gd 2) := by
  simp only [State.servePreempt, State.seqD_of_getSeq hx, hr, State.preemptStatus, State.answerCore_eq_answers]
  refine ⟨fun h => by simp only [h], fun l h => ⟨fun hp => by simp only [h, hp], fun hp => by simp only [h, hp], ?_⟩⟩
  intro hp hn
  cases hl : l.phase <;> simp_all

theorem serveOp_cases {s : State} {q : SeqId} {x : Seq} {gd : BitVec 5} {op c slot a : Nat} (hx : s.getSeq q = some x)
    (hr : x.run = .parked (.launchOp op gd c slot a)) :
    (s.launch? c slot = none → s.serveOp q = answers s q gd 1) ∧
    ∀ l, s.launch? c slot = some l →
      (l.phase = .preempting ∨ s.opBefore c slot a = true → s.serveOp q = s) ∧
      (l.phase ≠ .preempting → s.opBefore c slot a = false → s.serveOp q = s.takeOp q op gd l) := by
  simp only [State.serveOp, State.seqD_of_getSeq hx, hr]
  refine ⟨fun h => by simp only [h, State.answerCore_eq_answers], fun l h => ⟨fun hw => ?_, fun hp hb => ?_⟩⟩
  · have : (l.phase == .preempting || s.opBefore c slot a) = true := by simpa using hw
    simp only [h, this, ↓reduceIte]
  · simp [h, hp, hb]

theorem stopStep_cases (v : State) (w : WKey) :
    let x := v.seqD (.worker w)
    (x.run = .saved → v.stopStep w = v) ∧
    (x.run ≠ .saved → x.w.pending = none → v.mayStop w = true → v.stopStep w = v.saveWorker w) ∧
    (x.run ≠ .saved → x.w.pending = none → v.mayStop w = false → v.stopStep w = v) ∧
    (∀ p, x.run.stoppable = true → x.w.pending = some p → x.priv = .u → x.trap = none →
      (v.vPending (.worker w) = true → v.stopStep w = v) ∧
      (v.vPending (.worker w) = false → v.stopStep w =
        (v.modSeq (.worker w) fun y => { y with run := .running, w := { y.w with pending := none } }).raiseOn (.worker w)
          { source := p.source, cond := if p.mark.accum then 16 else 17, epc := x.pc, eaddr := p.mark.addr,
            eidx := p.elem, save := x.pc, vstart := none })) := by
  intro x
  refine ⟨fun h => if_pos h, fun hr hp hm => ?_, fun hr hp hm => ?_, fun p hs hp hu ht => ?_⟩
  · rw [State.stopStep, if_neg hr, if_neg (by simp [x] at hp; simp [hp]), if_pos hm]
  · rw [State.stopStep, if_neg hr, if_neg (by simp [x] at hp; simp [hp]), if_neg (by simp [hm])]
  · have hr : x.run ≠ .saved := fun e => by simp [e, Run.stoppable] at hs
    have htake : v.stopStep w = v.takePending w := by
      rw [State.stopStep, if_neg hr, if_pos]
      simp [x] at hp hu ht hs
      simp [hp, hu, ht, hs]
    rw [htake, State.takePending]
    simp only [show (v.seqD (.worker w)).w.pending = some p from hp]
    exact ⟨fun h => if_pos h, fun h => if_neg (by simp [h])⟩

end Sys2Proof.Machine
end

section
/-! SUPPORT. A worker that is saved (R258). -/

namespace Sys2Proof.Machine

/-! ## A sequencer stays in place -/

theorem foldOpt_induct {α β : Type} {P : β → Prop} {f : β → α → Option β} (hf : ∀ a x b, P a → f a x = some b → P b)
    {l : List α} {a b : β} (h : P a) (e : foldOpt f l a = some b) : P b := by
  induction l generalizing a with
  | nil =>
    cases e
    exact h
  | cons x l ih =>
    rw [foldOpt] at e
    cases hx : f a x with
    | none => simp [hx] at e
    | some c =>
      rw [hx] at e
      exact ih (hf a x c h hx) e

/-- Sequencer q exists. -/
def State.Holds (q : SeqId) (s : State) : Prop := (s.getSeq q).isSome = true

theorem State.Holds.quiet {q : SeqId} {s t : State} (h : s.Holds q) (k : Quiet s t) : t.Holds q := by
  rwa [State.Holds, k.getSeq]

theorem State.Holds.modSeq {q : SeqId} {s : State} (h : s.Holds q) (r : SeqId) (f : Seq → Seq) :
    (s.modSeq r f).Holds q := by
  by_cases e : q = r
  · subst e
    rwa [State.Holds, State.getSeq_modSeq_same, Option.isSome_map]
  · rwa [State.Holds, State.getSeq_modSeq_ne _ e]

theorem State.Holds.foldl_modSeq {q : SeqId} {s : State} (h : s.Holds q) (l : List SeqId) (f : Seq → Seq) :
    (l.foldl (fun (acc : State) r => acc.modSeq r f) s).Holds q := by
  induction l generalizing s with
  | nil => exact h
  | cons r l ih => exact ih (h.modSeq r f)

theorem State.Holds.saveBlocks {q : SeqId} {s t : State} {w : WKey} (h : s.Holds q) (e : s.saveBlocks w = some t) :
    t.Holds q := by
  refine foldOpt_induct (fun a k b ha hb => ?_) h e
  dsimp only at hb
  split at hb
  · simp at hb
  · rename_i c hc
    cases hb
    refine State.Holds.modSeq (foldOpt_induct (fun a' j b' ha' hb' => ?_) ha hc) _ _
    split at hb'
    · exact ha'.quiet (quiet_frameWrite hb')
    · cases hb'
      exact ha'

theorem State.Holds.saveRecord {q : SeqId} {s t : State} {w : WKey} (h : s.Holds q) (e : s.saveRecord w = some t) :
    t.Holds q := by
  unfold State.saveRecord at e
  extract_lets x at e
  split at e
  · simp at e
  rename_i s1 h1
  split at e
  · simp at e
  rename_i s2 h2
  split at e
  · simp at e
  rename_i s3 h3
  split at e
  · simp at e
  rename_i s4 h4
  have q12 : Quiet s s2 := (quiet_frameWrite h1).trans (quiet_frameWrite h2)
  have q23 : s3.Holds q := by
    unfold State.saveExtents at h3
    extract_lets x at h3
    split at h3
    · simp at h3
    · rename_i s5 h5
      exact (h.quiet q12).quiet ((quiet_frameWrite h5).trans (quiet_frameWrite h3))
  exact foldOpt_induct (fun _ _ _ ha hb => ha.quiet (quiet_frameWrite hb)) (q23.saveBlocks h4) e

theorem State.Holds.saveForks {q : SeqId} {s t : State} {w : WKey} (h : s.Holds q) (e : s.saveForks w = some t) :
    t.Holds q := by
  refine foldOpt_induct (fun a r b ha hb => ?_) h e
  exact ha.quiet (quiet_frameWrite hb)

theorem quiet_saveSpad {s t : State} {w : WKey} (e : s.saveSpad w = some t) : Quiet s t := by
  unfold State.saveSpad at e
  exact quiet_frameWrite e

theorem quiet_saveWindowRegs {s t : State} {w : WKey} (e : s.saveWindowRegs w = some t) : Quiet s t := by
  unfold State.saveWindowRegs at e
  exact quiet_frameWrite e

/-! ## Saved -/

/-- The save of a worker whose frame takes all of it (R258). -/
theorem saveWorker_of_saved {v a b c d : State} {w : WKey} (hk : (v.seqD (.worker w)).run = .parked .kpost → a = v)
    (hn : (v.seqD (.worker w)).run ≠ .parked .kpost → v.saveRecord w = some a)
    (hb : a.saveWindowRegs w = some b) (hc : b.saveSpad w = some c) (hd : c.saveForks w = some d) :
    ∃ u : State, (v.Holds (.worker w) → u.Holds (.worker w)) ∧ v.saveWorker w = u.modSeq (.worker w) fun x =>
      { x with run := .saved, line := none, w := { x.w with onCore := false, v := x.w.v.map fun r => { r with granule := 0 } } } := by
  have hdone : ((if (v.seqD (.worker w)).run == .parked .kpost then some v else v.saveRecord w).bind fun s1 =>
      (s1.saveWindowRegs w).bind fun s2 => (s2.saveSpad w).bind fun s3 => s3.saveForks w) = some d := by
    have ha : (if (v.seqD (.worker w)).run == .parked .kpost then some v else v.saveRecord w) = some a := by
      by_cases h : (v.seqD (.worker w)).run = .parked .kpost
      · simp [h, hk h]
      · simp [h, hn h]
    -- By rewriting: a step by definition would have the save of a frame evaluated.
    rw [ha, Option.bind_some, hb, Option.bind_some, hc, Option.bind_some, hd]
  unfold State.saveWorker
  simp only [hdone]
  refine ⟨_, fun hv => ?_, rfl⟩
  have ha : a.Holds (.worker w) := by
    by_cases h : (v.seqD (.worker w)).run = .parked .kpost
    · exact hk h ▸ hv
    · exact hv.saveRecord (hn h)
  have hd' : d.Holds (.worker w) :=
    (ha.quiet ((quiet_saveWindowRegs hb).trans (quiet_saveSpad hc))).saveForks hd
  refine State.Holds.quiet ?_ ((quiet_clearResv ..).trans (quiet_flushCache ..))
  exact hd'.foldl_modSeq _ _

theorem saveWorker_leaves {v a b c d : State} {w : WKey} (hw : (v.getSeq (.worker w)).isSome)
    (hk : (v.seqD (.worker w)).run = .parked .kpost → a = v)
    (hn : (v.seqD (.worker w)).run ≠ .parked .kpost → v.saveRecord w = some a)
    (hb : a.saveWindowRegs w = some b) (hc : b.saveSpad w = some c) (hd : c.saveForks w = some d) :
    let y := (v.saveWorker w).seqD (.worker w)
    y.run = .saved ∧ y.w.onCore = false ∧ ∀ k, k < 64 → (y.w.v.getD k VReg.reset).granule = 0 := by
  obtain ⟨u, hu, e⟩ := saveWorker_of_saved hk hn hb hc hd
  rw [e, State.seqD_modSeq_same _ (hu hw)]
  refine ⟨rfl, rfl, fun k hk => ?_⟩
  simp [Vector.getD, hk]

/-- PREEMPT, RESUME and ABORT, and what they do to a launch's workers. -/
theorem launchesAreStopped : Claims.LaunchesAreStopped := by
  refine ⟨operationsAreTaken, fun f s => ⟨fun hr => launchOp_asks ?_, fun hr => launchOp_asks ?_, fun hr => launchOp_asks ?_⟩,
    preemptStep_cases, fun s q x gd c slot hx hr => servePreempt_cases hx hr,
    fun s q x gd op c slot a hx hr => serveOp_cases hx hr, stopStep_cases,
    fun v a b c d w hw hk hn hb hc hd => saveWorker_leaves hw hk hn hb hc hd⟩
  · exact checked_of_ready hr _
  · exact checked_of_ready hr _
  · exact checked_of_ready hr _

/-- Settles O27: the checks, the entry and the operations of launches. -/
theorem launchesEnterAndStop : Obligations.LaunchesEnterAndStop := by
  unfold Obligations.LaunchesEnterAndStop
  exact ⟨blockChecksFollowR23, launchEntersItsQueue, launchesAreStopped⟩

end Sys2Proof.Machine
end

section
/-! SUPPORT. Packing: multisets that are the sum of so many parts of one kind, and the fewest VCs for workers' scratchpads
(R27). -/

namespace Sys2Proof.Machine

variable {α : Type}

/-- `M` is the sum of at most `n` multisets that satisfy `P`. -/
def Packed (n : Nat) (P : Multiset α → Prop) (M : Multiset α) : Prop :=
  ∃ bins : Multiset (Multiset α), bins.card ≤ n ∧ (∀ B ∈ bins, P B) ∧ bins.sum = M

variable {n : Nat} {P : Multiset α → Prop} {M : Multiset α}

theorem packed_zero_iff : Packed 0 P M ↔ M = 0 := by
  constructor
  · rintro ⟨bins, hc, -, rfl⟩
    simp [Multiset.card_eq_zero.mp (Nat.le_zero.mp hc)]
  · rintro rfl
    exact ⟨0, by simp, by simp, rfl⟩

theorem Packed.of_zero : Packed n P 0 := ⟨0, by simp, by simp, rfl⟩

theorem Packed.add {B : Multiset α} (hB : P B) (h : Packed n P M) : Packed (n + 1) P (B + M) := by
  obtain ⟨bins, hc, hP, rfl⟩ := h
  exact ⟨B ::ₘ bins, by simpa using hc, by simpa using ⟨hB, hP⟩, by simp⟩

/-- The part that an element lies in, and what is left. -/
theorem Packed.part {x : α} (h : Packed n P M) (hx : x ∈ M) : ∃ k B R, n = k + 1 ∧ x ∈ B ∧ P B ∧ M = B + R ∧ Packed k P R := by
  obtain ⟨bins, hc, hP, rfl⟩ := h
  obtain ⟨B, hB, hxB⟩ := Multiset.mem_join.mp hx
  obtain ⟨bs, rfl⟩ := Multiset.exists_cons_of_mem hB
  rw [Multiset.card_cons] at hc
  obtain ⟨k, rfl⟩ := Nat.exists_eq_add_of_le' (show 1 ≤ n by omega)
  exact ⟨k, B, bs.sum, rfl, hxB, hP B hB, by simp, bs, by omega, fun C hC => hP C (Multiset.mem_cons_of_mem hC), rfl⟩

/-- Some part comes first. -/
theorem Packed.first (h0 : P 0) (h : Packed (n + 1) P M) : ∃ B R, P B ∧ Packed n P R ∧ B + R = M := by
  obtain ⟨bins, hc, hP, rfl⟩ := h
  rcases Multiset.empty_or_exists_mem bins with rfl | ⟨B, hB⟩
  · exact ⟨0, 0, h0, Packed.of_zero, rfl⟩
  · obtain ⟨bs, rfl⟩ := Multiset.exists_cons_of_mem hB
    refine ⟨B, bs.sum, hP B hB, ⟨bs, by simpa using hc, fun C hC => hP C (Multiset.mem_cons_of_mem hC), rfl⟩, by simp⟩

/-- Less is packed where more is, for a kind of part that less satisfies too. -/
theorem Packed.mono {M' : Multiset α} (hP : ∀ {B C}, B ≤ C → P C → P B) (h : Packed n P M) (hle : M' ≤ M) :
    Packed n P M' := by
  classical
  obtain ⟨bins, hc, hb, rfl⟩ := h
  induction bins using Multiset.induction_on generalizing n M' with
  | empty =>
    rw [Multiset.sum_zero, Multiset.le_zero] at hle
    exact hle ▸ Packed.of_zero
  | cons B bs ih =>
    rw [Multiset.card_cons] at hc
    obtain ⟨k, rfl⟩ := Nat.exists_eq_add_of_le' (show 1 ≤ n by omega)
    rw [Multiset.sum_cons] at hle
    have hrest : Packed k P (M' - B) :=
      ih (by omega) (fun C hC => hb C (Multiset.mem_cons_of_mem hC)) (tsub_le_iff_left.mpr hle)
    have hsplit : M' ∩ B + (M' - B) = M' := by rw [add_comm, Multiset.sub_add_inter]
    rw [← hsplit]
    exact hrest.add (hP Multiset.inter_le_right (hb B (Multiset.mem_cons_self B bs)))

/-- What is bounded in each part is bounded in all. -/
theorem Packed.sum_le {f : α → Nat} {k : Nat} (hP : ∀ B, P B → (B.map f).sum ≤ k) (h : Packed n P M) :
    (M.map f).sum ≤ n * k := by
  obtain ⟨bins, hc, hb, rfl⟩ := h
  have hall : (bins.sum.map f).sum ≤ bins.card * k := by
    induction bins using Multiset.induction_on with
    | empty => simp
    | cons B bs ih =>
      have := ih (by rw [Multiset.card_cons] at hc; omega) fun C hC => hb C (Multiset.mem_cons_of_mem hC)
      have hB := hP B (hb B (Multiset.mem_cons_self B bs))
      rw [Multiset.sum_cons, Multiset.map_add, Multiset.sum_add, Multiset.card_cons, Nat.add_mul]
      omega
  exact hall.trans (Nat.mul_le_mul_right k hc)

/-- Parts by number: of a kind that nothing at all satisfies too. -/
theorem packed_iff_sum {K : Finset Nat} (h0 : P 0) :
    Packed K.card P M ↔ ∃ part : Nat → Multiset α, (∀ k ∈ K, P (part k)) ∧ ∑ k ∈ K, part k = M := by
  induction K using Finset.induction_on generalizing M with
  | empty => simp [packed_zero_iff, eq_comm]
  | insert k K hk ih =>
    rw [Finset.card_insert_of_notMem hk]
    constructor
    · intro h
      obtain ⟨B, R, hB, hR, rfl⟩ := h.first h0
      obtain ⟨part, hp, rfl⟩ := ih.mp hR
      have hne (j : Nat) (hj : j ∈ K) : j ≠ k := fun e => hk (e ▸ hj)
      refine ⟨Function.update part k B, fun j hj => ?_, ?_⟩
      · rcases Finset.mem_insert.mp hj with rfl | hj
        · simpa using hB
        · simpa [hne j hj] using hp j hj
      · rw [Finset.sum_insert hk, Function.update_self]
        congr 1
        exact Finset.sum_congr rfl fun j hj => Function.update_of_ne (hne j hj) _ _
    · rintro ⟨part, hp, rfl⟩
      rw [Finset.sum_insert hk]
      refine Packed.add (hp k (Finset.mem_insert_self k K)) (ih.mpr ⟨part, fun j hj => ?_, rfl⟩)
      exact hp j (Finset.mem_insert_of_mem hj)

/-! ## Two to a VC -/

/-- What one VC may hold: two workers, with four scratchpads in all (R27). -/
def PairFits (f : α → Nat) (B : Multiset α) : Prop := B.card ≤ 2 ∧ (B.map f).sum ≤ 4

variable {f : α → Nat}

theorem PairFits.zero : PairFits f 0 := by simp [PairFits]

theorem PairFits.mono {B C : Multiset α} (h : B ≤ C) (hC : PairFits f C) : PairFits f B := by
  obtain ⟨R, rfl⟩ := Multiset.le_iff_exists_add.mp h
  obtain ⟨hc, hs⟩ := hC
  rw [Multiset.card_add] at hc
  rw [Multiset.map_add, Multiset.sum_add] at hs
  exact ⟨by omega, by omega⟩

/-- The largest beside the smallest: where both fit on one VC, they take one in some packing. -/
theorem packed_pair_iff {x y : α} {r : Multiset α} (hmax : ∀ z ∈ r, f z ≤ f x) (hxy : f x + f y ≤ 4) :
    Packed (n + 1) (PairFits f) (x ::ₘ y ::ₘ r) ↔ Packed n (PairFits f) r := by
  constructor
  · intro h
    obtain ⟨k, B, R, hk, hx, ⟨hc, hs⟩, hM, hR⟩ := h.part (Multiset.mem_cons_self x _)
    obtain ⟨rfl⟩ : n = k := by omega
    obtain ⟨B', rfl⟩ := Multiset.exists_cons_of_mem hx
    rw [Multiset.cons_add, Multiset.cons_inj_right] at hM
    have hy : y ∈ B' + R := hM ▸ Multiset.mem_cons_self y r
    rcases Multiset.mem_add.mp hy with hyB | hyR
    · obtain ⟨B'', rfl⟩ := Multiset.exists_cons_of_mem hyB
      have hnil : B'' = 0 := by
        rw [← Multiset.card_eq_zero]
        simp only [Multiset.card_cons] at hc
        omega
      rw [hnil, Multiset.cons_add, Multiset.cons_inj_right, zero_add] at hM
      exact hM ▸ hR
    · obtain ⟨m, C, R', rfl, hyC, ⟨hcC, -⟩, rfl, hR'⟩ := hR.part hyR
      obtain ⟨C', rfl⟩ := Multiset.exists_cons_of_mem hyC
      have hr : r = (B' + C') + R' := by
        rw [Multiset.cons_add, Multiset.add_cons, Multiset.cons_inj_right] at hM
        rw [hM, add_assoc]
      simp only [Multiset.card_cons, Multiset.map_cons, Multiset.sum_cons] at hc hs hcC
      have hC' : (C'.map f).sum ≤ f x := by
        refine (Multiset.sum_le_card_nsmul (C'.map f) (f x) ?_).trans ?_
        · simp only [Multiset.mem_map]
          rintro _ ⟨z, hz, rfl⟩
          exact hmax z (by simp [hr, hz])
        · rw [Multiset.card_map, smul_eq_mul]
          exact (Nat.mul_le_mul_right (f x) (show C'.card ≤ 1 by omega)).trans (Nat.one_mul _).le
      rw [hr]
      refine hR'.add ⟨?_, ?_⟩
      · rw [Multiset.card_add]
        omega
      · rw [Multiset.map_add, Multiset.sum_add]
        omega
  · intro h
    have hB : PairFits f {x, y} := by simpa [PairFits] using hxy
    simpa [Multiset.cons_add] using h.add hB

/-- The largest alone: where not even the smallest fits beside it, it takes a VC of its own. -/
theorem packed_alone_iff {x : α} {r : Multiset α} (hx : f x ≤ 4) (hbig : ∀ z ∈ r, 4 < f x + f z) :
    Packed (n + 1) (PairFits f) (x ::ₘ r) ↔ Packed n (PairFits f) r := by
  constructor
  · intro h
    obtain ⟨k, B, R, hk, hxB, ⟨-, hs⟩, hM, hR⟩ := h.part (Multiset.mem_cons_self x _)
    obtain ⟨rfl⟩ : n = k := by omega
    obtain ⟨B', rfl⟩ := Multiset.exists_cons_of_mem hxB
    rw [Multiset.cons_add, Multiset.cons_inj_right] at hM
    have hnil : B' = 0 := by
      refine Multiset.eq_zero_of_forall_notMem fun z hz => ?_
      have hlt := hbig z (by simp [hM, hz])
      obtain ⟨B'', rfl⟩ := Multiset.exists_cons_of_mem hz
      simp only [Multiset.map_cons, Multiset.sum_cons] at hs
      omega
    rw [hM, hnil, zero_add]
    exact hR
  · intro h
    have hB : PairFits f {x} := by simpa [PairFits] using hx
    simpa using h.add hB

theorem vcsFor_concat (fuel x y : Nat) (r : List Nat) :
    vcsFor (fuel + 1) (x :: (r ++ [y])) = 1 + vcsFor fuel (if x + y ≤ 4 then r else r ++ [y]) := by
  simp [vcsFor]

theorem vcsFor_pos (fuel x : Nat) (r : List Nat) : 1 ≤ vcsFor (fuel + 1) (x :: r) := by
  rw [vcsFor]
  split
  · exact Nat.le_add_right 1 _
  · exact le_rfl

/-- The count of VCs is the least number that packs the workers (R27). -/
theorem vcsFor_le_iff (fuel : Nat) : ∀ (l : List α) (n : Nat), l.length ≤ fuel → (l.map f).Pairwise (· ≥ ·) →
    (∀ x ∈ l, f x ≤ 4) → (vcsFor fuel (l.map f) ≤ n ↔ Packed n (PairFits f) l) := by
  induction fuel with
  | zero =>
    intro l n hl _ _
    obtain rfl := List.length_eq_zero_iff.mp (Nat.le_zero.mp hl)
    exact iff_of_true (Nat.zero_le n) Packed.of_zero
  | succ fuel ih =>
    intro l n hl hd h4
    cases l with
    | nil => exact iff_of_true (Nat.zero_le n) Packed.of_zero
    | cons x r =>
      rw [List.map_cons, List.pairwise_cons] at hd
      obtain ⟨hmax, hd⟩ := hd
      have hx := h4 x List.mem_cons_self
      rw [List.length_cons] at hl
      cases n with
      | zero => exact iff_of_false (Nat.not_le.mpr (vcsFor_pos ..)) (by simp [packed_zero_iff])
      | succ n =>
        rcases List.eq_nil_or_concat' r with rfl | ⟨r, y, rfl⟩
        · have hone : vcsFor (fuel + 1) ([x].map f) = 1 := rfl
          have hpack := packed_alone_iff (n := n) (r := 0) hx (by simp)
          exact iff_of_true (by omega) (hpack.mpr Packed.of_zero)
        · have hmin (z : α) (hz : z ∈ r ++ [y]) : f y ≤ f z := by
            rw [List.map_append, List.pairwise_append] at hd
            obtain ⟨-, -, hd⟩ := hd
            rcases List.mem_append.mp hz with hz | hz
            · exact hd (f z) (List.mem_map_of_mem hz) (f y) (by simp)
            · simp [List.mem_singleton.mp hz]
          rw [List.map_cons, List.map_append, List.map_singleton, vcsFor_concat]
          have h4r (z : α) (hz : z ∈ r ++ [y]) : f z ≤ 4 := h4 z (List.mem_cons_of_mem x hz)
          by_cases hxy : f x + f y ≤ 4
          · rw [if_pos hxy]
            have hih := ih r n (by simp at hl; omega)
              (hd.sublist ((List.sublist_append_left r [y]).map f)) fun z hz => h4r z (by simp [hz])
            have hpair := packed_pair_iff (n := n) (r := (r : Multiset α)) (fun z hz => hmax (f z) (List.mem_map_of_mem (by
              simp at hz; simp [hz]))) hxy
            have hcons : ((x :: (r ++ [y]) : List α) : Multiset α) = x ::ₘ y ::ₘ (r : Multiset α) := by
              rw [← Multiset.cons_coe, ← Multiset.coe_add, Multiset.coe_singleton, add_comm, Multiset.singleton_add]
            rw [hcons, hpair, ← hih]
            omega
          · rw [if_neg hxy]
            have hih := ih (r ++ [y]) n (by omega) hd h4r
            rw [List.map_append, List.map_singleton] at hih
            have halone := packed_alone_iff (n := n) (r := ((r ++ [y] : List α) : Multiset α)) hx fun z hz => by
              have := hmin z (by simpa using hz)
              omega
            rw [← Multiset.cons_coe, halone, ← hih]
            omega

end Sys2Proof.Machine
end

section
/-! SUPPORT. Where the workers of a launch fit: on a VC, in a cluster, on the masked dies (R23, R27). -/

namespace Sys2Proof.Machine

/-! ## What workers need -/

/-- What a worker of a stage needs: scratchpads, MX contexts and CE contexts. -/
def demand (x : Stage) : Nat × Nat × Nat := (x.spad, x.mxn, x.cen)

/-- The needs of so many workers of each stage. -/
def workersOf (l : List (Stage × Nat)) : Multiset (Nat × Nat × Nat) :=
  (l.map fun p => Multiset.replicate p.2 (demand p.1)).sum

@[simp] theorem workersOf_nil : workersOf [] = 0 := rfl

@[simp] theorem workersOf_cons (p : Stage × Nat) (l : List (Stage × Nat)) :
    workersOf (p :: l) = Multiset.replicate p.2 (demand p.1) + workersOf l := by
  simp [workersOf]

@[simp] theorem workersOf_append (l r : List (Stage × Nat)) : workersOf (l ++ r) = workersOf l + workersOf r := by
  simp [workersOf]

@[simp] theorem workersOf_reverse (l : List (Stage × Nat)) : workersOf l.reverse = workersOf l := by
  simp [workersOf, List.sum_reverse]

theorem sum_workersOf (g : Nat × Nat × Nat → Nat) (l : List (Stage × Nat)) :
    ((workersOf l).map g).sum = (l.map fun p => g (demand p.1) * p.2).sum := by
  induction l with
  | nil => rfl
  | cons p l ih => simp [ih, Nat.mul_comm]

/-- A total of the model, as a sum over the workers. -/
theorem foldl_total (g : Nat × Nat × Nat → Nat) (l : List (Stage × Nat)) :
    l.foldl (fun n p => n + g (demand p.1) * p.2) 0 = ((workersOf l).map g).sum := by
  rw [foldl_add_eq_sum, Nat.zero_add, sum_workersOf]

theorem card_eq_sum_one {α : Type} (M : Multiset α) : M.card = (M.map fun _ => 1).sum := by simp

theorem exists_mem_of_mem_workersOf {l : List (Stage × Nat)} {d : Nat × Nat × Nat} (h : d ∈ workersOf l) :
    ∃ p ∈ l, d = demand p.1 := by
  induction l with
  | nil => simp at h
  | cons p l ih =>
    rw [workersOf_cons, Multiset.mem_add] at h
    rcases h with h | h
    · exact ⟨p, List.mem_cons_self, Multiset.eq_of_mem_replicate h⟩
    · obtain ⟨q, hq, e⟩ := ih h
      exact ⟨q, List.mem_cons_of_mem p hq, e⟩

/-! ## A cluster -/

/-- What a VC may hold (R27). -/
def VcFits (cor : Bool) (B : Multiset (Nat × Nat × Nat)) : Prop :=
  B.card ≤ (if cor then 1 else 2) ∧ (B.map fun d => d.1).sum ≤ 4

/-- What a cluster may hold (R27). -/
def ClusterHolds (cor : Bool) (M : Multiset (Nat × Nat × Nat)) : Prop :=
  Packed 32 (VcFits cor) M ∧ (M.map fun d => d.2.1).sum ≤ 8 ∧ (M.map fun d => d.2.2).sum ≤ 16

theorem sum_map_le_of_le {α : Type} (f : α → Nat) {B C : Multiset α} (h : B ≤ C) : (B.map f).sum ≤ (C.map f).sum := by
  obtain ⟨R, rfl⟩ := Multiset.le_iff_exists_add.mp h
  simp

theorem vcFits_zero (cor : Bool) : VcFits cor 0 := by simp [VcFits]

theorem VcFits.mono {cor : Bool} {B C : Multiset (Nat × Nat × Nat)} (h : B ≤ C) (hC : VcFits cor C) : VcFits cor B := by
  obtain ⟨hc, hs⟩ := hC
  exact ⟨(Multiset.card_le_card h).trans hc, (sum_map_le_of_le _ h).trans hs⟩

theorem clusterHolds_zero (cor : Bool) : ClusterHolds cor 0 := ⟨Packed.of_zero, by simp, by simp⟩

theorem ClusterHolds.mono {cor : Bool} {B C : Multiset (Nat × Nat × Nat)} (h : B ≤ C) (hC : ClusterHolds cor C) :
    ClusterHolds cor B := by
  obtain ⟨hp, hm, hc⟩ := hC
  exact ⟨hp.mono VcFits.mono h, (sum_map_le_of_le _ h).trans hm,
    (sum_map_le_of_le _ h).trans hc⟩

theorem card_le_of_packed {cor : Bool} {M : Multiset (Nat × Nat × Nat)} (h : Packed 32 (VcFits cor) M) :
    M.card ≤ if cor then 32 else 64 := by
  have := h.sum_le (f := fun _ => 1) (k := if cor then 1 else 2) fun B hB => by simpa using hB.1
  rw [card_eq_sum_one]
  cases cor <;> simpa using this

/-- Each worker alone on its VC. -/
theorem packed_alone {M : Multiset (Nat × Nat × Nat)} (h4 : ∀ d ∈ M, d.1 ≤ 4) :
    Packed 32 (VcFits true) M ↔ M.card ≤ 32 := by
  constructor
  · exact fun h => by simpa using card_le_of_packed h
  · intro h
    refine ⟨M.map fun d => {d}, by simpa using h, ?_, Multiset.sum_map_singleton M⟩
    simp only [Multiset.mem_map]
    rintro _ ⟨d, hd, rfl⟩
    simpa [VcFits] using h4 d hd

/-- The workers, those of the most scratchpads first. -/
def bySpad (l : List (Stage × Nat)) : List (Nat × Nat × Nat) :=
  (List.range 5).reverse.flatMap fun k => l.flatMap fun p => if p.1.spad = k then List.replicate p.2 (demand p.1) else []

theorem map_bySpad (l : List (Stage × Nat)) : (bySpad l).map (fun d => d.1) =
    (List.range 5).reverse.flatMap fun k => l.flatMap fun p => if p.1.spad = k then List.replicate p.2 k else [] := by
  rw [bySpad, List.map_flatMap]
  congr 1
  funext k
  rw [List.map_flatMap]
  congr 1
  funext p
  split
  · rename_i h
    simp [demand, h]
  · rfl

theorem bySpad_descends (l : List (Stage × Nat)) : ((bySpad l).map fun d => d.1).Pairwise (· ≥ ·) := by
  have hk {k a : Nat} (h : a ∈ l.flatMap fun p => if p.1.spad = k then List.replicate p.2 k else []) : a = k := by
    obtain ⟨p, -, h⟩ := List.mem_flatMap.mp h
    split at h
    · exact List.eq_of_mem_replicate h
    · simp at h
  rw [map_bySpad, List.pairwise_flatMap]
  constructor
  · exact fun k _ => List.pairwise_iff_forall_sublist.mpr fun {a b} hab => by
      have ha : a = k := hk (hab.subset (by simp))
      have hb : b = k := hk (hab.subset (by simp))
      omega
  · refine List.Pairwise.imp (fun {a b} hab x hx y hy => ?_) (show (List.range 5).reverse.Pairwise (· ≥ ·) by decide)
    rw [hk hx, hk hy]
    exact hab

theorem coe_bySpad {l : List (Stage × Nat)} (h4 : ∀ p ∈ l, p.1.spad ≤ 4) : (bySpad l : Multiset (Nat × Nat × Nat)) = workersOf l := by
  induction l with
  | nil => simp [bySpad]
  | cons p l ih =>
    have hperm : (bySpad (p :: l)).Perm (((List.range 5).reverse.flatMap fun k =>
        if p.1.spad = k then List.replicate p.2 (demand p.1) else []) ++ bySpad l) :=
      (List.flatMap_append_perm _ _ _).symm
    have hp : ((List.range 5).reverse.flatMap fun k => if p.1.spad = k then List.replicate p.2 (demand p.1) else []) =
        List.replicate p.2 (demand p.1) := by
      have := h4 p List.mem_cons_self
      generalize List.replicate p.2 (demand p.1) = r
      generalize p.1.spad = k at this
      interval_cases k <;> simp [List.range, List.range.loop]
    rw [Multiset.coe_eq_coe.mpr hperm, hp, ← Multiset.coe_add, ih fun q hq => h4 q (List.mem_cons_of_mem p hq), workersOf_cons,
      Multiset.coe_replicate]

/-- The test of one cluster (R23, R27). -/
theorem clusterFits_iff {cor : Bool} {l : List (Stage × Nat)} (h4 : ∀ p ∈ l, p.1.spad ≤ 4) :
    clusterFits cor l = true ↔ ClusterHolds cor (workersOf l) := by
  have hone := foldl_total (fun _ => 1) l
  have hmx := foldl_total (fun d => d.2.1) l
  have hce := foldl_total (fun d => d.2.2) l
  have hspad (d) (hd : d ∈ workersOf l) : d.1 ≤ 4 := by
    obtain ⟨p, hp, rfl⟩ := exists_mem_of_mem_workersOf hd
    exact h4 p hp
  simp only [demand] at hone hmx hce
  rw [← card_eq_sum_one] at hone
  simp only [clusterFits, hone, hmx, hce, ← map_bySpad, List.length_map, Bool.and_eq_true, Bool.or_eq_true, decide_eq_true_eq,
    ClusterHolds]
  cases cor with
  | true =>
    rw [packed_alone hspad]
    simp [and_assoc]
  | false =>
    have hv := vcsFor_le_iff (f := fun d : Nat × Nat × Nat => d.1) (bySpad l).length (bySpad l) 32 le_rfl (bySpad_descends l)
      fun d hd => hspad d (by rw [← coe_bySpad h4]; exact hd)
    rw [coe_bySpad h4] at hv
    have hpair : PairFits (fun d : Nat × Nat × Nat => d.1) = VcFits false := rfl
    rw [hpair] at hv
    rw [hv]
    constructor
    · rintro ⟨⟨⟨-, hm⟩, hc⟩, h | h⟩
      · simp at h
      · exact ⟨h, hm, hc⟩
    · rintro ⟨h, hm, hc⟩
      exact ⟨⟨⟨card_le_of_packed h, hm⟩, hc⟩, .inr h⟩

end Sys2Proof.Machine
end

section
/-! SUPPORT. The search for an assignment of workers to clusters (R23). -/

namespace Sys2Proof.Machine

/-! ## Fillings -/

/-- So many of the workers of each stage, and no more than there are. -/
def Filling (need taken : List (Stage × Nat)) : Prop := List.Forall₂ (fun p q => q.1 = p.1 ∧ q.2 ≤ p.2) need taken

/-- The workers that a filling leaves. -/
def leftOver (need taken : List (Stage × Nat)) : List (Stage × Nat) :=
  (need.zip taken).map fun p => (p.1.1, p.1.2 - p.2.2)

/-- No stage has more scratchpads than a VC. -/
def SpadsFit (l : List (Stage × Nat)) : Prop := ∀ p ∈ l, p.1.spad ≤ 4

variable {need taken : List (Stage × Nat)} {cor : Bool}

theorem Filling.spadsFit (h : Filling need taken) (h4 : SpadsFit need) : SpadsFit taken := by
  induction h with
  | nil => simp [SpadsFit]
  | cons hpq _ ih =>
    simp only [SpadsFit, List.forall_mem_cons] at h4 ⊢
    exact ⟨hpq.1 ▸ h4.1, ih h4.2⟩

theorem Filling.workersOf_add (h : Filling need taken) : workersOf taken + workersOf (leftOver need taken) = workersOf need := by
  induction h with
  | nil => rfl
  | @cons p q need taken hpq _ ih =>
    have hcons : leftOver (p :: need) (q :: taken) = (p.1, p.2 - q.2) :: leftOver need taken := rfl
    have hrep : Multiset.replicate q.2 (demand p.1) + Multiset.replicate (p.2 - q.2) (demand p.1) =
        Multiset.replicate p.2 (demand p.1) := by
      rw [← Multiset.replicate_add, Nat.add_sub_cancel' hpq.2]
    rw [hcons, workersOf_cons, workersOf_cons, workersOf_cons, ← ih, ← hrep, hpq.1]
    abel

theorem leftOver_spadsFit (h4 : SpadsFit need) : SpadsFit (leftOver need taken) := by
  intro p hp
  obtain ⟨q, hq, rfl⟩ := List.mem_map.mp hp
  exact h4 q.1 (List.of_mem_zip hq).1

/-- Some workers of those that are needed are a filling. -/
theorem exists_filling {B : Multiset (Nat × Nat × Nat)} (h : B ≤ workersOf need) :
    ∃ taken, Filling need taken ∧ workersOf taken = B := by
  induction need generalizing B with
  | nil => exact ⟨[], .nil, (Multiset.le_zero.mp h).symm⟩
  | cons p need ih =>
    rw [workersOf_cons] at h
    obtain ⟨taken, ht, e⟩ := ih (tsub_le_iff_left.mpr h)
    obtain ⟨m, hm, hrep⟩ := Multiset.le_replicate_iff.mp (Multiset.inter_le_right (s := B) (t := Multiset.replicate p.2 (demand p.1)))
    refine ⟨(p.1, m) :: taken, .cons ⟨rfl, hm⟩ ht, ?_⟩
    rw [workersOf_cons, e, ← hrep, add_comm, Multiset.sub_add_inter]

/-- The search over the fillings of a cluster finds one that satisfies its condition wherever one fits. -/
theorem someFilling_iff (k : List (Stage × Nat) → Bool) (need : List (Stage × Nat)) :
    ∀ pre, SpadsFit need → SpadsFit pre → ClusterHolds cor (workersOf pre) →
    (someFilling cor k need pre = true ↔
      ∃ taken, Filling need taken ∧ ClusterHolds cor (workersOf pre + workersOf taken) ∧ k (pre.reverse ++ taken) = true) := by
  induction need with
  | nil =>
    intro pre _ _ hpre
    constructor
    · exact fun h => ⟨[], .nil, by simpa using hpre, by simpa [someFilling] using h⟩
    · rintro ⟨taken, ht, -, hk⟩
      cases ht
      simpa [someFilling] using hk
  | cons p need ih =>
    intro pre h4 hpre4 hpre
    obtain ⟨x, n⟩ := p
    simp only [SpadsFit, List.forall_mem_cons] at h4
    obtain ⟨hx, h4⟩ := h4
    have hcons (m : Nat) : SpadsFit ((x, m) :: pre) := by
      simp only [SpadsFit, List.forall_mem_cons]
      exact ⟨hx, hpre4⟩
    simp only [someFilling, List.any_eq_true, List.mem_reverse, List.mem_range, Bool.and_eq_true]
    constructor
    · rintro ⟨m, hm, hfit, hrest⟩
      rw [clusterFits_iff (hcons m)] at hfit
      obtain ⟨taken, ht, hh, hk⟩ := (ih _ h4 (hcons m) hfit).mp hrest
      refine ⟨(x, m) :: taken, .cons ⟨rfl, ?_⟩ ht, ?_, by simpa using hk⟩
      · exact (Nat.lt_succ_iff.mp hm).trans (Nat.min_le_left n 64)
      · rwa [workersOf_cons, add_left_comm, ← add_assoc, ← workersOf_cons (x, m) pre]
    · rintro ⟨taken, ht, hh, hk⟩
      obtain ⟨q, taken, ⟨hq, hn⟩, hrest, rfl⟩ := List.forall₂_cons_left_iff.mp ht
      obtain ⟨y, m⟩ := q
      obtain rfl : y = x := hq
      have hsum : workersOf pre + workersOf ((y, m) :: taken) = workersOf ((y, m) :: pre) + workersOf taken := by
        rw [workersOf_cons, workersOf_cons, add_left_comm, add_assoc]
      have hfit : ClusterHolds cor (workersOf ((y, m) :: pre)) := by
        rw [hsum] at hh
        exact hh.mono (Multiset.le_add_right _ _)
      have hm : m ≤ 64 := by
        obtain ⟨hp, -, -⟩ := hfit
        have hc := card_le_of_packed hp
        rw [workersOf_cons, Multiset.card_add, Multiset.card_replicate] at hc
        split at hc <;> omega
      refine ⟨m, Nat.lt_succ_iff.mpr (Nat.le_min.mpr ⟨hn, hm⟩), (clusterFits_iff (hcons m)).mpr hfit, ?_⟩
      exact (ih _ h4 (hcons m) hfit).mpr ⟨taken, hrest, hsum ▸ hh, by simpa using hk⟩

/-! ## A cluster that is full -/

/-- One more worker of stage k. -/
def oneMore (taken : List (Stage × Nat)) (k : Nat) : List (Stage × Nat) := taken.modify k fun p => (p.1, p.2 + 1)

theorem zipIdx_oneMore (taken : List (Stage × Nat)) (k : Nat) :
    (taken.zipIdx.map fun p => (p.1.1, if p.2 = k then p.1.2 + 1 else p.1.2)) = oneMore taken k := by
  refine List.ext_getElem (by simp [oneMore]) fun i hi _ => ?_
  by_cases h : k = i
  · simp [oneMore, h]
  · simp [oneMore, h, Ne.symm h]

theorem workersOf_oneMore {k : Nat} (hk : k < taken.length) :
    workersOf (oneMore taken k) = demand taken[k].1 ::ₘ workersOf taken := by
  induction taken generalizing k with
  | nil => simp at hk
  | cons p taken ih =>
    cases k with
    | zero => simp [oneMore, Multiset.replicate_succ]
    | succ k =>
      have := ih (Nat.lt_of_succ_lt_succ hk)
      simp only [oneMore] at this
      simp [oneMore, this, Multiset.add_cons]

theorem Filling.oneMore {k : Nat} (h : Filling need taken) (hk : k < need.length)
    (hlt : (taken.map fun p => p.2).getD k 0 < (need.map fun p => p.2).getD k 0) : Filling need (oneMore taken k) := by
  induction h generalizing k with
  | nil => simp at hk
  | cons hpq ht ih =>
    cases k with
    | zero => exact .cons ⟨hpq.1, by simpa using hlt⟩ ht
    | succ k => exact .cons hpq (ih (Nat.lt_of_succ_lt_succ hk) (by simpa using hlt))

/-- A cluster that is not full takes one more worker. -/
theorem exists_oneMore (h : Filling need taken) (h4 : SpadsFit need) (hf : clusterFull cor need taken = false) :
    ∃ k, k < taken.length ∧ Filling need (oneMore taken k) ∧ ClusterHolds cor (workersOf (oneMore taken k)) := by
  rw [clusterFull, List.all_eq_false] at hf
  obtain ⟨k, hk, hno⟩ := hf
  rw [List.mem_range] at hk
  rw [Bool.or_eq_true, not_or, decide_eq_true_eq, Nat.not_le, Bool.not_eq_true', Bool.not_eq_false, zipIdx_oneMore] at hno
  obtain ⟨hlt, hfit⟩ := hno
  have hmore := h.oneMore hk hlt
  exact ⟨k, h.length_eq ▸ hk, hmore, (clusterFits_iff (hmore.spadsFit h4)).mp hfit⟩

/-- What fits with some filling of the first cluster fits with a full one. -/
theorem exists_full {c : Nat} (h4 : SpadsFit need) (d : Nat) :
    ∀ taken, Filling need taken → ClusterHolds cor (workersOf taken) →
      Packed c (ClusterHolds cor) (workersOf (leftOver need taken)) → (workersOf (leftOver need taken)).card ≤ d →
      ∃ taken, Filling need taken ∧ ClusterHolds cor (workersOf taken) ∧
        Packed c (ClusterHolds cor) (workersOf (leftOver need taken)) ∧ clusterFull cor need taken = true := by
  induction d with
  | zero =>
    intro taken ht hh hp hd
    refine ⟨taken, ht, hh, hp, ?_⟩
    by_contra hf
    obtain ⟨k, hk, hmore, -⟩ := exists_oneMore ht h4 (by simpa using hf)
    have h1 := congrArg Multiset.card ht.workersOf_add
    have h2 := congrArg Multiset.card hmore.workersOf_add
    rw [workersOf_oneMore hk] at h2
    simp only [Multiset.card_add, Multiset.card_cons] at h1 h2
    omega
  | succ d ih =>
    intro taken ht hh hp hd
    cases hf : clusterFull cor need taken with
    | true => exact ⟨taken, ht, hh, hp, hf⟩
    | false =>
      obtain ⟨k, hk, hmore, hholds⟩ := exists_oneMore ht h4 hf
      have hsplit : workersOf (leftOver need taken) = demand taken[k].1 ::ₘ workersOf (leftOver need (oneMore taken k)) := by
        have := ht.workersOf_add.trans hmore.workersOf_add.symm
        rw [workersOf_oneMore hk, Multiset.cons_add, ← Multiset.add_cons] at this
        exact add_left_cancel this
      rw [hsplit, Multiset.card_cons] at hd
      refine ih _ hmore hholds (hp.mono ClusterHolds.mono ?_) (by omega)
      rw [hsplit]
      exact Multiset.le_cons_self _ _

/-! ## The search -/

theorem all_zero_iff (l : List (Stage × Nat)) : (l.all fun p => p.2 == 0) = true ↔ workersOf l = 0 := by
  induction l with
  | nil => simp
  | cons p l ih =>
    rw [List.all_cons, Bool.and_eq_true, ih, workersOf_cons, beq_iff_eq, ← Multiset.card_eq_zero (s := _ + _),
      Multiset.card_add, Multiset.card_replicate, Nat.add_eq_zero_iff, Multiset.card_eq_zero]

/-- The search finds an assignment of workers to clusters exactly where one exists. -/
theorem packs_iff (c : Nat) : ∀ need, SpadsFit need →
    (packs cor c need = true ↔ Packed c (ClusterHolds cor) (workersOf need)) := by
  induction c with
  | zero =>
    intro need _
    rw [packs, all_zero_iff, packed_zero_iff]
  | succ c ih =>
    intro need h4
    have hstart := someFilling_iff (cor := cor) (fun taken => clusterFull cor need taken &&
      packs cor c ((need.zip taken).map fun p => (p.1.1, p.1.2 - p.2.2))) need [] h4 (by simp [SpadsFit])
      (by simpa using clusterHolds_zero cor)
    rw [packs, Bool.or_eq_true, all_zero_iff, hstart]
    simp only [workersOf_nil, zero_add, List.reverse_nil, List.nil_append, Bool.and_eq_true]
    constructor
    · rintro (h | ⟨taken, ht, hh, -, hp⟩)
      · exact h ▸ Packed.of_zero
      · rw [← ht.workersOf_add]
        exact ((ih _ (leftOver_spadsFit h4)).mp hp).add hh
    · intro h
      obtain ⟨B, R, hB, hR, hsum⟩ := h.first (clusterHolds_zero cor)
      obtain ⟨taken, ht, rfl⟩ := exists_filling (hsum ▸ Multiset.le_add_right B R)
      obtain rfl := add_left_cancel (hsum.trans ht.workersOf_add.symm)
      obtain ⟨taken, ht, hh, hp, hfull⟩ := exists_full h4 _ taken ht hB hR le_rfl
      exact .inr ⟨taken, ht, hh, hfull, (ih _ (leftOver_spadsFit h4)).mpr hp⟩

end Sys2Proof.Machine
end

section
/-! SUPPORT. The residency test, and the assignments that it asks for (R23, R27). -/

namespace Sys2Proof.Machine

open Sys2Proof.Claims (Resident)

/-! ## Stages that are alike -/

/-- Two stages need the same. -/
def sameNeed (p q : Stage × Nat) : Bool := q.1.spad == p.1.spad && q.1.mxn == p.1.mxn && q.1.cen == p.1.cen

theorem sameNeed_iff (p q : Stage × Nat) : sameNeed p q = true ↔ demand q.1 = demand p.1 := by
  simp [sameNeed, demand, and_assoc]

/-- How `alike` counts the workers of one more stage. -/
def countIn (acc : List (Stage × Nat)) (p : Stage × Nat) : List (Stage × Nat) :=
  if acc.any (sameNeed p) then acc.map fun q => if sameNeed p q then (q.1, q.2 + p.2) else q else acc ++ [p]

theorem alike_eq_foldl (l : List (Stage × Nat)) : alike l = l.foldl countIn [] := rfl

/-- The stages of a list need different things. -/
def Distinct (l : List (Stage × Nat)) : Prop := (l.map fun p => demand p.1).Nodup

theorem map_demand_countIn (acc : List (Stage × Nat)) (p : Stage × Nat) :
    (acc.map fun q => if sameNeed p q then (q.1, q.2 + p.2) else q).map (fun q => demand q.1) = acc.map fun q => demand q.1 := by
  rw [List.map_map]
  refine List.map_congr_left fun q _ => ?_
  simp only [Function.comp_apply]
  split <;> rfl

theorem Distinct.countIn {acc : List (Stage × Nat)} (h : Distinct acc) (p : Stage × Nat) : Distinct (countIn acc p) := by
  unfold Distinct Machine.countIn
  split
  · rw [map_demand_countIn]
    exact h
  · rename_i hno
    rw [List.map_append, List.map_singleton, List.nodup_append]
    refine ⟨h, by simp, fun d hd e he => ?_⟩
    obtain ⟨q, hq, rfl⟩ := List.mem_map.mp hd
    obtain rfl : e = demand p.1 := by simpa using he
    exact fun e => hno (List.any_eq_true.mpr ⟨q, hq, (sameNeed_iff p q).mpr e⟩)

theorem map_countIn_of_none {acc : List (Stage × Nat)} {p : Stage × Nat} (h : acc.any (sameNeed p) = false) :
    (acc.map fun q => if sameNeed p q then (q.1, q.2 + p.2) else q) = acc := by
  conv_rhs => rw [← List.map_id acc]
  refine List.map_congr_left fun q hq => ?_
  have := List.any_eq_false.mp h q hq
  simp [this]

theorem workersOf_countIn {acc : List (Stage × Nat)} (h : Distinct acc) (p : Stage × Nat) :
    workersOf (countIn acc p) = workersOf acc + workersOf [p] := by
  unfold countIn
  split
  · rename_i hany
    induction acc with
    | nil => simp at hany
    | cons q acc ih =>
      obtain ⟨hq, hacc⟩ := List.nodup_cons.mp h
      rw [List.map_cons, workersOf_cons]
      by_cases hs : sameNeed p q = true
      · have hno : acc.any (sameNeed p) = false := by
          rw [List.any_eq_false]
          intro r hr e
          refine hq (List.mem_map.mpr ⟨r, hr, ?_⟩)
          exact ((sameNeed_iff p r).mp e).trans ((sameNeed_iff p q).mp hs).symm
        rw [if_pos hs, map_countIn_of_none hno, Multiset.replicate_add, (sameNeed_iff p q).mp hs, workersOf_cons, workersOf_cons,
          (sameNeed_iff p q).mp hs]
        simp only [workersOf_nil, add_zero]
        abel
      · rw [if_neg hs, ih hacc (by simpa [hs] using hany), workersOf_cons q acc, add_assoc]
  · exact workersOf_append ..

theorem countIn_spadsFit {acc : List (Stage × Nat)} {p : Stage × Nat} (h : SpadsFit acc) (hp : p.1.spad ≤ 4) :
    SpadsFit (countIn acc p) := by
  intro q hq
  unfold countIn at hq
  split at hq
  · obtain ⟨r, hr, rfl⟩ := List.mem_map.mp hq
    split
    · exact h r hr
    · exact h r hr
  · rcases List.mem_append.mp hq with hq | hq
    · exact h q hq
    · rwa [List.mem_singleton.mp hq]

theorem foldl_countIn (l : List (Stage × Nat)) : ∀ acc, SpadsFit l → SpadsFit acc → Distinct acc →
    SpadsFit (l.foldl countIn acc) ∧ workersOf (l.foldl countIn acc) = workersOf acc + workersOf l := by
  induction l with
  | nil => exact fun acc _ h _ => ⟨h, (add_zero _).symm⟩
  | cons p l ih =>
    intro acc hl hacc hd
    simp only [SpadsFit, List.forall_mem_cons] at hl
    obtain ⟨hp, hl⟩ := hl
    obtain ⟨h4, hsum⟩ := ih _ hl (countIn_spadsFit hacc hp) (hd.countIn p)
    refine ⟨h4, hsum.trans ?_⟩
    rw [workersOf_countIn hd, workersOf_cons, workersOf_cons, workersOf_nil, add_zero, add_assoc]

/-- Counting alike stages together changes no need. -/
theorem alike_spadsFit_workersOf {l : List (Stage × Nat)} (h4 : SpadsFit l) :
    SpadsFit (alike l) ∧ workersOf (alike l) = workersOf l := by
  obtain ⟨h, e⟩ := foldl_countIn l [] h4 (by simp [SpadsFit]) (by simp [Distinct])
  exact ⟨h, e.trans (zero_add _)⟩

/-! ## The totals -/

theorem totalsFit_of_packed {cor : Bool} {n : Nat} {l : List (Stage × Nat)}
    (h : Packed n (ClusterHolds cor) (workersOf l)) : totalsFit cor n l = true := by
  have hone := foldl_total (fun _ => 1) l
  have hmx := foldl_total (fun d => d.2.1) l
  have hce := foldl_total (fun d => d.2.2) l
  have hsp := foldl_total (fun d => d.1) l
  simp only [demand] at hone hmx hce hsp
  have bone := h.sum_le (f := fun _ => 1) (k := if cor then 32 else 64) fun B hB => by
    obtain ⟨hp, -, -⟩ := hB
    simpa using card_le_of_packed hp
  have bmx := h.sum_le (f := fun d => d.2.1) (k := 8) fun B ⟨_, hm, _⟩ => hm
  have bce := h.sum_le (f := fun d => d.2.2) (k := 16) fun B ⟨_, _, hc⟩ => hc
  have bsp := h.sum_le (f := fun d => d.1) (k := 32 * 4) fun B ⟨hp, _, _⟩ => hp.sum_le fun V ⟨_, hs⟩ => hs
  simp only [totalsFit, hone, hmx, hce, hsp, Bool.and_eq_true, Bool.or_eq_true, decide_eq_true_eq]
  exact ⟨⟨⟨bone, bmx⟩, bce⟩, .inr (by omega)⟩

/-! ## The masked dies -/

/-- The clusters of the masked dies. -/
def maskClusters (mask : BitVec 4) : Finset Nat := (Finset.range 64).filter fun c => mask.getLsbD (c / 16) = true

theorem card_maskClusters (mask : BitVec 4) :
    (maskClusters mask).card = 16 * ((List.range 4).filter fun d => mask.getLsbD d).length := by
  revert mask
  decide

/-- The needs of the workers of a launch. -/
def launchNeed (l : Launch) : List (Stage × Nat) := l.stages.map fun x => (x, if blockCor l.block then x.maxw else x.minw)

theorem residencyOk_iff {s : State} {l : Launch} (h4 : ∀ x ∈ l.stages, x.spad ≤ 4) :
    s.residencyOk l = true ↔
      Packed (maskClusters (blockDies l.block)).card (ClusterHolds (blockCor l.block)) (workersOf (launchNeed l)) ∧
      (blockCor l.block = false → (workersOf (launchNeed l)).card ≤ (s.ctx l.ctx).cfn.toNat) := by
  have hfit : SpadsFit (launchNeed l) := by
    intro p hp
    obtain ⟨x, hx, rfl⟩ := List.mem_map.mp hp
    exact h4 x hx
  obtain ⟨h4a, ha⟩ := alike_spadsFit_workersOf hfit
  have hpacks := packs_iff (cor := blockCor l.block) (maskClusters (blockDies l.block)).card _ h4a
  rw [ha] at hpacks
  have hcard : (launchNeed l).foldl (fun n p => n + p.2) 0 = (workersOf (launchNeed l)).card := by
    rw [card_eq_sum_one, sum_workersOf, foldl_add_eq_sum, Nat.zero_add]
    simp
  unfold State.residencyOk
  rw [card_maskClusters] at hpacks ⊢
  simp only [Bool.and_eq_true, Bool.or_eq_true, decide_eq_true_eq]
  rw [show (l.stages.map fun x => (x, if blockCor l.block then x.maxw else x.minw)) = launchNeed l from rfl, hpacks, hcard,
    or_iff_not_imp_left, Bool.not_eq_true]
  exact ⟨fun ⟨⟨_, hp⟩, hc⟩ => ⟨hp, hc⟩, fun ⟨hp, hc⟩ => ⟨⟨totalsFit_of_packed hp, hp⟩, hc⟩⟩

end Sys2Proof.Machine
end

section
/-! SUPPORT. Assignments of workers to VCs, as what stands on each VC (R23, R27). -/

namespace Sys2Proof.Machine

open Sys2Proof.Claims (Resident)

/-- What the numbered workers that stand where `p` holds need, worker i on VC `at_ i`. -/
def needWhere (l : List (Stage × Nat)) (at_ : Nat → Nat) (p : Nat → Bool) : Multiset (Nat × Nat × Nat) :=
  ((l.filter fun x => p (at_ x.2)).map fun x => demand x.1 : List (Nat × Nat × Nat))

theorem needWhere_cons (x : Stage × Nat) (l : List (Stage × Nat)) (at_ : Nat → Nat) (p : Nat → Bool) :
    needWhere (x :: l) at_ p = (if p (at_ x.2) = true then {demand x.1} else 0) + needWhere l at_ p := by
  unfold needWhere
  rw [List.filter_cons]
  split <;> simp

/-- What the workers of `ws` that stand where `p` holds need, worker i on VC `at_ i`. -/
def standing (ws : List Stage) (at_ : Nat → Nat) (p : Nat → Bool) : Multiset (Nat × Nat × Nat) := needWhere ws.zipIdx at_ p

/-- The VCs of the masked dies, numbered through the module. -/
def maskPlaces (mask : BitVec 4) : Finset Nat := (Finset.range 2048).filter fun a => mask.getLsbD (a / 512) = true

theorem mem_maskPlaces {mask : BitVec 4} {a : Nat} : a ∈ maskPlaces mask ↔ a < 2048 ∧ mask.getLsbD (a / 512) = true := by
  simp [maskPlaces]

theorem mem_maskClusters {mask : BitVec 4} {c : Nat} : c ∈ maskClusters mask ↔ c < 64 ∧ mask.getLsbD (c / 16) = true := by
  simp [maskClusters]

theorem div_mem_maskClusters {mask : BitVec 4} {a : Nat} : a / 32 ∈ maskClusters mask ↔ a ∈ maskPlaces mask := by
  rw [mem_maskClusters, mem_maskPlaces, Nat.div_div_eq_div_mul]
  exact and_congr_left fun _ => by omega

/-- The limits of R27 in terms of what stands where. -/
theorem resident_iff {mask : BitVec 4} {cor : Bool} {ws : List Stage} {at_ : Nat → Nat} :
    Resident mask cor ws at_ ↔ (∀ i, i < ws.length → at_ i ∈ maskPlaces mask) ∧
      (∀ v, VcFits cor (standing ws at_ fun a => a == v)) ∧
      ∀ c, ((standing ws at_ fun a => a / 32 == c).map fun d => d.2.1).sum ≤ 8 ∧
        ((standing ws at_ fun a => a / 32 == c).map fun d => d.2.2).sum ≤ 16 := by
  simp only [Resident, mem_maskPlaces, VcFits, standing, needWhere, Multiset.coe_card, Multiset.map_coe, Multiset.sum_coe, List.map_map,
    List.length_map]
  rfl

/-! ## What stands in parts of a place -/

/-- What stands where `p` holds is the sum of what stands in the parts of it. -/
theorem sum_standing {ws : List Stage} {at_ : Nat → Nat} {K : Finset Nat} {p : Nat → Bool} {q : Nat → Nat → Bool}
    (κ : Nat → Nat) (hκ : ∀ i, i < ws.length → p (at_ i) = true → κ (at_ i) ∈ K)
    (hq : ∀ k a, k ∈ K → (q k a = true ↔ p a = true ∧ κ a = k)) :
    ∑ k ∈ K, standing ws at_ (q k) = standing ws at_ p := by
  unfold standing
  have hmem : ∀ x ∈ ws.zipIdx, p (at_ x.2) = true → κ (at_ x.2) ∈ K := by
    intro x hx
    obtain ⟨hlt, -⟩ := List.getElem?_eq_some_iff.mp (List.mem_zipIdx_iff_getElem?.mp hx)
    exact hκ x.2 hlt
  generalize ws.zipIdx = l at hmem
  induction l with
  | nil => simp [needWhere]
  | cons x l ih =>
    simp only [needWhere_cons]
    rw [Finset.sum_add_distrib, ih fun y hy => hmem y (List.mem_cons_of_mem x hy)]
    congr 1
    by_cases hp : p (at_ x.2) = true
    · have hk := hmem x List.mem_cons_self hp
      rw [if_pos hp, Finset.sum_eq_single_of_mem _ hk, if_pos ((hq _ _ hk).mpr ⟨hp, rfl⟩)]
      intro k hkK hne
      exact if_neg fun h => hne ((hq _ _ hkK).mp h).2.symm
    · rw [if_neg hp]
      exact Finset.sum_eq_zero fun k hkK => if_neg fun h => hp ((hq _ _ hkK).mp h).1

variable {ws : List Stage} {at_ : Nat → Nat}

/-- What stands in a cluster stands on its VCs. -/
theorem sum_standing_vcs (c : Nat) :
    ∑ v ∈ Finset.range 32, standing ws at_ (fun a => a == 32 * c + v) = standing ws at_ fun a => a / 32 == c := by
  refine sum_standing (fun a => a % 32) (fun i _ _ => Finset.mem_range.mpr (Nat.mod_lt _ (by decide))) fun k a hk => ?_
  rw [Finset.mem_range] at hk
  simp only [beq_iff_eq]
  omega

theorem standing_all : standing ws at_ (fun _ => true) = (ws.map demand : List _) := by
  have hfst : ws.zipIdx.map (demand ∘ Prod.fst) = ws.map demand := by
    rw [← List.map_map, List.zipIdx_map_fst]
  rw [standing, needWhere, List.filter_true]
  exact congrArg _ hfst

/-- What stands on masked dies stands in their clusters. -/
theorem sum_standing_clusters {mask : BitVec 4} (h : ∀ i, i < ws.length → at_ i ∈ maskPlaces mask) :
    ∑ c ∈ maskClusters mask, standing ws at_ (fun a => a / 32 == c) = (ws.map demand : List _) := by
  rw [← standing_all (at_ := at_)]
  exact sum_standing (fun a => a / 32) (fun i hi _ => div_mem_maskClusters.mpr (h i hi)) fun k a _ => by simp

/-- An assignment packs the workers. -/
theorem packed_of_resident {mask : BitVec 4} {cor : Bool} (h : Resident mask cor ws at_) :
    Packed (maskClusters mask).card (ClusterHolds cor) (ws.map demand : List _) := by
  obtain ⟨hin, hvc, hcl⟩ := resident_iff.mp h
  refine (packed_iff_sum (clusterHolds_zero cor)).mpr ⟨_, fun c _ => ?_, sum_standing_clusters hin⟩
  refine ⟨?_, hcl c⟩
  have := (packed_iff_sum (K := Finset.range 32) (vcFits_zero cor)).mpr ⟨_, fun v _ => hvc (32 * c + v), sum_standing_vcs c⟩
  rwa [Finset.card_range] at this

/-! ## Workers put in their parts -/

/-- The label of the first and of the rest. -/
def labelCons (k : Nat) (lab : Nat → Nat) : Nat → Nat
  | 0 => k
  | i + 1 => lab i

theorem standing_labelCons (w : Stage) (ws : List Stage) (k : Nat) (lab : Nat → Nat) (p : Nat → Bool) :
    standing (w :: ws) (labelCons k lab) p = (if p k = true then {demand w} else 0) + standing ws lab p := by
  have hshift : ws.zipIdx 1 = ws.zipIdx.map fun x => (x.1, x.2 + 1) := List.zipIdx_succ
  rw [standing, List.zipIdx_cons, needWhere_cons]
  congr 1
  rw [standing, needWhere, needWhere, Nat.zero_add, hshift, List.filter_map, List.map_map]
  rfl

/-- Workers that are needed in parts can be labelled with them. -/
theorem exists_labels {K : Finset Nat} (ws : List Stage) : ∀ part : Nat → Multiset (Nat × Nat × Nat),
    ∑ k ∈ K, part k = (ws.map demand : List _) →
    ∃ lab : Nat → Nat, (∀ i, i < ws.length → lab i ∈ K) ∧ ∀ k ∈ K, standing ws lab (fun a => a == k) = part k := by
  induction ws with
  | nil =>
    intro part hsum
    refine ⟨id, by simp, fun k hk => ?_⟩
    exact (Finset.sum_eq_zero_iff.mp hsum k hk).symm
  | cons w ws ih =>
    intro part hsum
    have hmem : demand w ∈ ∑ k ∈ K, part k := by simp [hsum]
    obtain ⟨k, hk, hd⟩ := Multiset.mem_sum.mp hmem
    obtain ⟨R, hR⟩ := Multiset.exists_cons_of_mem hd
    have hrest : ∑ j ∈ K, Function.update part k R j = (ws.map demand : List _) := by
      rw [Finset.sum_update_of_mem hk]
      rw [Finset.sum_eq_add_sum_sdiff_singleton_of_mem hk, hR, List.map_cons, ← Multiset.cons_coe, Multiset.cons_add,
        Multiset.cons_inj_right] at hsum
      exact hsum
    obtain ⟨lab, hin, hlab⟩ := ih _ hrest
    refine ⟨labelCons k lab, fun i hi => ?_, fun j hj => ?_⟩
    · cases i with
      | zero => exact hk
      | succ i => exact hin i (Nat.lt_of_succ_lt_succ hi)
    · rw [standing_labelCons, hlab j hj]
      by_cases e : k = j
      · subst e
        simp [hR]
      · simp [e, Ne.symm e]

theorem standing_eq_zero {p : Nat → Bool} (h : ∀ i, i < ws.length → p (at_ i) = false) : standing ws at_ p = 0 := by
  rw [standing, needWhere, Multiset.coe_eq_zero, List.map_eq_nil_iff, List.filter_eq_nil_iff]
  intro x hx
  obtain ⟨hlt, -⟩ := List.getElem?_eq_some_iff.mp (List.mem_zipIdx_iff_getElem?.mp hx)
  simp [h x.2 hlt]

/-- Places by cluster. -/
theorem sum_maskPlaces {mask : BitVec 4} (f : Nat → Multiset (Nat × Nat × Nat)) :
    ∑ a ∈ maskPlaces mask, f a = ∑ c ∈ maskClusters mask, ∑ v ∈ Finset.range 32, f (32 * c + v) := by
  rw [← Finset.sum_fiberwise_of_maps_to (g := fun a => a / 32) (t := maskClusters mask) fun a ha => div_mem_maskClusters.mpr ha]
  refine Finset.sum_congr rfl fun c hc => ?_
  refine Finset.sum_nbij' (fun a => a % 32) (fun v => 32 * c + v) ?_ ?_ ?_ ?_ ?_
  · exact fun a _ => Finset.mem_range.mpr (Nat.mod_lt _ (by decide))
  · intro v hv
    rw [Finset.mem_range] at hv
    have hdiv : (32 * c + v) / 32 = c := by omega
    rw [Finset.mem_filter, ← div_mem_maskClusters, hdiv]
    exact ⟨hc, rfl⟩
  · intro a ha
    obtain ⟨-, rfl⟩ := Finset.mem_filter.mp ha
    exact Nat.div_add_mod a 32
  · intro v hv
    rw [Finset.mem_range] at hv
    omega
  · intro a ha
    obtain ⟨-, rfl⟩ := Finset.mem_filter.mp ha
    rw [Nat.div_add_mod]

/-- Workers that pack are assigned. -/
theorem exists_resident {mask : BitVec 4} {cor : Bool}
    (h : Packed (maskClusters mask).card (ClusterHolds cor) (ws.map demand : List _)) : ∃ at_, Resident mask cor ws at_ := by
  obtain ⟨cl, hcl, hsum⟩ := (packed_iff_sum (clusterHolds_zero cor)).mp h
  have hvcs (c : Nat) : ∃ vc : Nat → Multiset (Nat × Nat × Nat), c ∈ maskClusters mask →
      (∀ v ∈ Finset.range 32, VcFits cor (vc v)) ∧ ∑ v ∈ Finset.range 32, vc v = cl c := by
    by_cases hc : c ∈ maskClusters mask
    · obtain ⟨hp, -, -⟩ := hcl c hc
      rw [← Finset.card_range 32, packed_iff_sum (vcFits_zero cor)] at hp
      obtain ⟨vc, hvc⟩ := hp
      exact ⟨vc, fun _ => hvc⟩
    · exact ⟨fun _ => 0, fun e => absurd e hc⟩
  choose vc hvc using hvcs
  have hall : ∑ a ∈ maskPlaces mask, vc (a / 32) (a % 32) = (ws.map demand : List _) := by
    rw [sum_maskPlaces, ← hsum]
    refine Finset.sum_congr rfl fun c hc => ?_
    rw [← (hvc c hc).2]
    refine Finset.sum_congr rfl fun v hv => ?_
    rw [Finset.mem_range] at hv
    rw [show (32 * c + v) / 32 = c by omega, show (32 * c + v) % 32 = v by omega]
  obtain ⟨at_, hin, hat⟩ := exists_labels ws _ hall
  have hcluster (c : Nat) (hc : c ∈ maskClusters mask) : standing ws at_ (fun a => a / 32 == c) = cl c := by
    rw [← sum_standing_vcs, ← (hvc c hc).2]
    refine Finset.sum_congr rfl fun v hv => ?_
    rw [Finset.mem_range] at hv
    have hdiv : (32 * c + v) / 32 = c := by omega
    rw [hat _ (div_mem_maskClusters.mp (hdiv.symm ▸ hc)), hdiv, show (32 * c + v) % 32 = v by omega]
  refine ⟨at_, resident_iff.mpr ⟨hin, fun v => ?_, fun c => ?_⟩⟩
  · by_cases hv : v ∈ maskPlaces mask
    · rw [hat v hv]
      obtain ⟨hfits, -⟩ := hvc _ (div_mem_maskClusters.mpr hv)
      exact hfits _ (Finset.mem_range.mpr (Nat.mod_lt _ (by decide)))
    · rw [standing_eq_zero fun i hi => by simpa using fun e : at_ i = v => hv (e ▸ hin i hi)]
      exact vcFits_zero cor
  · by_cases hc : c ∈ maskClusters mask
    · rw [hcluster c hc]
      obtain ⟨-, hlimits⟩ := hcl c hc
      exact hlimits
    · rw [standing_eq_zero fun i hi => by simpa using fun e : at_ i / 32 = c => hc (e ▸ div_mem_maskClusters.mpr (hin i hi))]
      exact ⟨by simp, by simp⟩

/-- The workers that the statement lists need what those that the model counts need. -/
theorem coe_workers (l : List Stage) (count : Stage → Nat) :
    workersOf (l.map fun x => (x, count x)) = ((l.flatMap fun x => List.replicate (count x) x).map demand : List _) := by
  induction l with
  | nil => rfl
  | cons x l ih =>
    rw [List.map_cons, workersOf_cons, ih, List.flatMap_cons, List.map_append, ← Multiset.coe_add, List.map_replicate,
      Multiset.coe_replicate]

/-- Settles O28: the search over clusters asks for a packing of the workers, which is an assignment. -/
theorem residencyAsksForAnAssignment : Obligations.ResidencyAsksForAnAssignment := by
  unfold Obligations.ResidencyAsksForAnAssignment
  intro s l h4 cor ws
  have hworkers : workersOf (launchNeed l) = (ws.map demand : List _) := coe_workers ..
  have hlen : (workersOf (launchNeed l)).card = ws.length := by
    rw [hworkers, Multiset.coe_card, List.length_map]
  rw [residencyOk_iff h4, hlen, hworkers]
  exact and_congr_left fun _ => ⟨exists_resident, fun ⟨_, h⟩ => packed_of_resident h⟩

end Sys2Proof.Machine
end

section
/-! SUPPORT. The admission checks: the group table of a launch, its dies and its rings (R23, R36, R37). -/

namespace Sys2Proof.Machine

open Sys2Proof.Claims (GroupsSound IsGroup)

/-! ## The entries of a group table -/

theorem ushiftRight_eq_zero_iff {n : Nat} (x : BitVec n) (k : Nat) :
    (x >>> k == 0) = true ↔ ∀ i, x.getLsbD i = true → i < k := by
  rw [beq_iff_eq]
  constructor
  · intro h i hi
    by_contra hk
    have := congrArg (fun y : BitVec n => y.getLsbD (i - k)) h
    simp [Nat.add_sub_cancel' (Nat.not_lt.mp hk), hi] at this
  · intro h
    refine BitVec.eq_of_getLsbD_eq fun i _ => ?_
    rw [BitVec.getLsbD_ushiftRight]
    refine (Bool.eq_false_iff.mpr fun e => absurd (h _ e) (by omega)).trans BitVec.getLsbD_zero.symm

theorem syncGranted_iff (s : State) (c i : Nat) : s.syncGranted c i = true ↔
    (s.ctx c).csrgrant.toNat % 2 ^ 14 ≤ i ∧
      i < (s.ctx c).csrgrant.toNat % 2 ^ 14 + (s.ctx c).csrgrant.toNat / 2 ^ 16 % 2 ^ 15 := by
  simp [State.syncGranted, BitVec.extractLsb'_toNat, Nat.shiftRight_eq_div_pow]

/-- The checks of R37 on the entries of a group table. -/
theorem groupsOk_iff (s : State) (l : Launch) (gs : List Group) : s.groupsOk l gs = true ↔ GroupsSound s l gs := by
  have hmost := sumMaxw_eq_sum l.stages
  simp only [State.groupsOk, GroupsSound, hmost, Bool.and_eq_true, decide_eq_true_eq, List.all_eq_true,
    ushiftRight_eq_zero_iff, syncGranted_iff, List.mem_range, and_assoc]
  simp only [countBits]
  refine and_congr_right fun hg => and_congr_right fun _ => ?_
  refine Iff.intro (fun h w => ?_) (fun h w _ => h w)
  by_cases hw : w < (l.stages.map fun x => x.maxw).sum
  · exact h w hw
  · have hnil : (gs.filter fun g => g.members.getLsbD w) = [] := by
      refine List.filter_eq_nil_iff.mpr fun g hgs e => hw ?_
      obtain ⟨-, -, hm, -⟩ := hg g hgs
      exact hm w e
    simp [hnil]

/-! ## Reading the table -/

theorem bytesNum_lt (l : List Byte) : bytesNum l < 2 ^ (8 * l.length) := by
  induction l with
  | nil => decide
  | cons b l ih =>
    have hb := b.isLt
    rw [bytesNum, List.length_cons, Nat.mul_succ, Nat.pow_add]
    omega

theorem bytesNum_take_add_drop (l : List Byte) (n : Nat) :
    bytesNum (l.take n) + 2 ^ (8 * n) * bytesNum (l.drop n) = bytesNum l := by
  induction l generalizing n with
  | nil => simp [bytesNum]
  | cons b l ih =>
    cases n with
    | zero => simp [bytesNum]
    | succ n =>
      rw [List.take_succ_cons, List.drop_succ_cons, bytesNum, bytesNum, ← ih n, Nat.mul_succ, Nat.pow_add]
      ring

theorem bytesNum_take_lt (l : List Byte) (n : Nat) : bytesNum (l.take n) < 2 ^ (8 * n) :=
  (bytesNum_lt _).trans_le (Nat.pow_le_pow_right (by decide) (Nat.mul_le_mul_left 8 (List.length_take_le n l)))

theorem bytesNum_take (l : List Byte) (n : Nat) : bytesNum (l.take n) = bytesNum l % 2 ^ (8 * n) := by
  rw [← bytesNum_take_add_drop l n, Nat.add_mul_mod_self_left, Nat.mod_eq_of_lt (bytesNum_take_lt l n)]

theorem bytesNum_drop (l : List Byte) (n : Nat) : bytesNum (l.drop n) = bytesNum l / 2 ^ (8 * n) := by
  rw [← bytesNum_take_add_drop l n, Nat.add_mul_div_left _ _ (Nat.two_pow_pos _), Nat.div_eq_of_lt (bytesNum_take_lt l n),
    Nat.zero_add]

theorem toNat_extract_ofNat {w i n : Nat} (e : Nat) (h : i + n ≤ w) :
    ((BitVec.ofNat w e).extractLsb' i n).toNat = e / 2 ^ i % 2 ^ n := by
  obtain ⟨k, rfl⟩ := Nat.exists_eq_add_of_le h
  rw [BitVec.extractLsb'_toNat, BitVec.toNat_ofNat, Nat.shiftRight_eq_div_pow, Nat.add_assoc, Nat.pow_add,
    Nat.mod_mul_right_div_self, Nat.mod_mod_of_dvd _ (Nat.pow_dvd_pow 2 (Nat.le_add_right n k))]

/-- The bytes of entry j of a table. -/
def entryBytes (bs : List Byte) (j : Nat) : List Byte := (bs.drop (576 * j)).take 576

theorem ofNat_bytesNum_take (l : List Byte) : BitVec.ofNat 512 (bytesNum (l.take 64)) = BitVec.ofNat 512 (bytesNum l) := by
  rw [bytesNum_take]
  apply BitVec.eq_of_toNat_eq
  simp

/-- An entry as the model takes it is the entry of R36. -/
theorem isGroup_iff (bs : List Byte) (j : Nat) (g : Group) :
    IsGroup bs j g ↔ (groupFrom (entryBytes bs j)).2 = true ∧ g = (groupFrom (entryBytes bs j)).1 := by
  have hm : (BitVec.ofNat 4096 (bytesNum ((entryBytes bs j).drop 64))).toNat = bytesNum (entryBytes bs j) / 2 ^ 512 := by
    have hlt := bytesNum_take_lt (bs.drop (576 * j)) 576
    rw [BitVec.toNat_ofNat, bytesNum_drop]
    refine Nat.mod_eq_of_lt (Nat.div_lt_of_lt_mul ?_)
    rw [← Nat.pow_add]
    exact hlt
  have hbytes : (bs.drop (576 * j)).take 576 = entryBytes bs j := rfl
  obtain ⟨sreg, scope, count, members⟩ := g
  simp only [IsGroup, hbytes, groupFrom, ofNat_bytesNum_take, Group.mk.injEq, Bool.and_eq_true, beq_iff_toNat,
    ← BitVec.toNat_inj (x := scope), ← BitVec.toNat_inj (x := members), hm, BitVec.toNat_ofNat, Nat.zero_mod,
    toNat_extract_ofNat _ (show 0 + 13 ≤ 512 by decide), toNat_extract_ofNat _ (show 13 + 11 ≤ 512 by decide),
    toNat_extract_ofNat _ (show 24 + 3 ≤ 512 by decide), toNat_extract_ofNat _ (show 27 + 3 ≤ 512 by decide),
    toNat_extract_ofNat _ (show 30 + 14 ≤ 512 by decide), toNat_extract_ofNat _ (show 44 + 468 ≤ 512 by decide)]
  rw [Nat.pow_zero, Nat.div_one]
  tauto

/-- The entries of the table are those that the model takes, in order, all with reserved fields of zero. -/
theorem groups_eq_iff (bs : List Byte) (n : Nat) (gs : List Group) :
    (gs.length = n ∧ ∀ j g, gs[j]? = some g → IsGroup bs j g) ↔
      ((List.range n).map fun k => groupFrom (entryBytes bs k)).all (fun g => g.2) = true ∧
        gs = ((List.range n).map fun k => groupFrom (entryBytes bs k)).map fun g => g.1 := by
  simp only [isGroup_iff]
  constructor
  · rintro ⟨rfl, h⟩
    constructor
    · simp only [List.all_eq_true, List.mem_map, List.mem_range]
      rintro _ ⟨k, hk, rfl⟩
      exact (h k gs[k] (List.getElem?_eq_getElem hk)).1
    · refine List.ext_getElem (by simp) fun k hk _ => ?_
      simpa using (h k gs[k] (List.getElem?_eq_getElem hk)).2
  · rintro ⟨hall, rfl⟩
    refine ⟨by simp, fun j g hg => ?_⟩
    obtain ⟨hj, rfl⟩ := List.getElem?_eq_some_iff.mp hg
    have hjn : j < n := by simpa using hj
    simp only [List.all_eq_true, List.mem_map, List.mem_range] at hall
    exact ⟨hall _ ⟨j, hjn, rfl⟩, by simp⟩

/-! ## The checks -/

theorem ringOk_iff (s : State) (l : Launch) (x : Stage) : s.ringOk l x = true ↔
    ∃ p, s.checkAccess { holder := l.lead, ctx := l.ctx, k := true } ⟨false, false, false, 0, true⟩ x.sinq
      (x.recsz * 2 ^ x.depthlog) = .ok p ∧ ∀ y ∈ p, pteKind y.1.val = .shared ∨ pteKind y.1.val = .inplace := by
  unfold State.ringOk unitAccessor
  cases s.checkAccess _ _ _ _ with
  | error e => simp
  | ok p => simp [List.all_eq_true]

theorem rings_iff (s : State) (l : Launch) :
    (l.stages.zipIdx.all fun p => l.indexed p.2 || s.ringOk l p.1) = true ↔
      ∀ k x, l.stages[k]? = some x → ¬(k = 0 ∧ blockIndexed l.block = true) → s.ringOk l x = true := by
  simp only [List.all_eq_true, Prod.forall, List.mem_zipIdx_iff_getElem?, Bool.or_eq_true, Launch.indexed, Bool.and_eq_true,
    beq_iff_eq]
  exact ⟨fun h k x hx hn => (h x k hx).resolve_left hn, fun h x k hx => or_iff_not_imp_left.mpr (h k x hx)⟩

theorem dies_iff (s : State) (l : Launch) :
    ((List.range 4).all fun d => !(blockDies l.block).getLsbD d || (s.inService d && (s.die d).released)) = true ↔
      ∀ d, d < 4 → (blockDies l.block).getLsbD d = true → s.inService d = true ∧ (s.die d).released = true := by
  simp only [List.all_eq_true, List.mem_range, Bool.or_eq_true, Bool.not_eq_true', Bool.and_eq_true]
  refine forall₂_congr fun d _ => ?_
  cases (blockDies l.block).getLsbD d <;> simp

/-- The entries that the model takes from the bytes of a table. -/
def tableEntries (bs : List Byte) (n : Nat) : List (Group × Bool) := (List.range n).map fun k => groupFrom (entryBytes bs k)

theorem readGroups_of_read {s u : State} {l : Launch} {p : List (Leaf × Word × Nat)} {bs : List Byte} {m : Option Mark}
    (hn : blockGroups l.block ≠ 0)
    (ht : s.checkAccess (unitAccessor l.lead l.ctx) wantLoad (blockGtab l.block) (576 * blockGroups l.block) = .ok p)
    (hd : reachesDevice p = false) (hr : (s.markAll p false).readPieces none l.lead (homePieces p) = (u, bs, m)) :
    s.readGroups l = if m.isNone && (tableEntries bs (blockGroups l.block)).all (fun g => g.2) &&
        u.groupsOk l ((tableEntries bs (blockGroups l.block)).map fun g => g.1)
      then some (u, (tableEntries bs (blockGroups l.block)).map fun g => g.1) else none := by
  unfold State.readGroups
  simp only [hn, ht, hd, hr, if_false, Bool.false_eq_true]
  rfl

/-- A table without error is taken where its entries are sound, and is rejected otherwise. -/
theorem readGroups_some_iff {s u : State} {l : Launch} {p : List (Leaf × Word × Nat)} {bs : List Byte}
    (hn : blockGroups l.block ≠ 0)
    (ht : s.checkAccess (unitAccessor l.lead l.ctx) wantLoad (blockGtab l.block) (576 * blockGroups l.block) = .ok p)
    (hd : reachesDevice p = false) (hr : (s.markAll p false).readPieces none l.lead (homePieces p) = (u, bs, none))
    (gs : List Group) :
    (gs.length = blockGroups l.block ∧ (∀ j g, gs[j]? = some g → IsGroup bs j g) ∧ GroupsSound u l gs) ↔
      s.readGroups l = some (u, gs) := by
  rw [← and_assoc, groups_eq_iff, readGroups_of_read hn ht hd hr, ← groupsOk_iff, ← tableEntries]
  generalize tableEntries bs (blockGroups l.block) = es
  simp only [Option.isNone_none, Bool.true_and]
  constructor
  · rintro ⟨⟨hall, rfl⟩, hok⟩
    rw [hall, hok]
    rfl
  · intro h
    split at h
    · rename_i hc
      obtain ⟨hall, hok⟩ := Bool.and_eq_true_iff.mp hc
      cases h
      exact ⟨⟨hall, rfl⟩, hok⟩
    · cases h

/-- The admission checks of a launch are those of the spec. -/
theorem admissionChecksFollowR23 : Claims.AdmissionChecksFollowR23 := by
  refine ⟨groupsOk_iff, ?_⟩
  intro s l dies rings n table
  have hdies := dies_iff s l
  have hrings := (rings_iff s l).trans (forall₃_congr fun _ x _ => imp_congr_right fun _ => ringOk_iff s l x)
  have hok (hd : dies) (hr : rings) (hres : s.residencyOk l = true) : s.admissionOk l = s.readGroups l := by
    rw [State.admissionOk, if_pos]
    rw [Bool.and_eq_true, Bool.and_eq_true]
    exact ⟨⟨hdies.mpr hd, hrings.mpr hr⟩, hres⟩
  refine ⟨fun h => ?_, fun hd hr hres => ⟨fun hn => ?_, fun hn ⟨e, he⟩ => ?_, fun p hn ht hdev u bs m hread => ⟨fun hm => ?_, ?_⟩⟩⟩
  · rw [State.admissionOk, if_neg]
    rw [Bool.and_eq_true, Bool.and_eq_true]
    rintro ⟨⟨hd, hr⟩, hres⟩
    rcases h with h | h | h
    · exact h (hdies.mp hd)
    · exact h (hrings.mp hr)
    · simp [h] at hres
  · rw [hok hd hr hres, State.readGroups]
    exact if_pos hn
  · rw [hok hd hr hres, State.readGroups]
    simp only [show blockGroups l.block ≠ 0 from hn, if_false,
      show s.checkAccess (unitAccessor l.lead l.ctx) wantLoad (blockGtab l.block) (576 * blockGroups l.block) = .error e from he]
  · rw [hok hd hr hres, readGroups_of_read hn ht hdev hread]
    cases m with
    | none => cases hm
    | some x => rfl
  · rintro rfl gs
    rw [hok hd hr hres]
    exact readGroups_some_iff hn ht hdev hread gs

end Sys2Proof.Machine
end

section
/-! SUPPORT. Launches are admitted, and workers are created (R24 to R26, R29). -/

namespace Sys2Proof.Machine

open Sys2Proof.Claims (FinalWord phased)

/-! ## The first workers -/

/-- So many of the number of each stage, from a first number on. -/
def numbered (count : Stage → Nat) (l : List Stage) (n : Nat) : List Nat :=
  (l.zipIdx n).flatMap fun p => List.replicate (count p.1) p.2

theorem numbered_cons (count : Stage → Nat) (x : Stage) (l : List Stage) (n : Nat) :
    numbered count (x :: l) n = List.replicate (count x) n ++ numbered count l (n + 1) := rfl

theorem mem_numbered {count : Stage → Nat} {l : List Stage} {n k : Nat} (h : k ∈ numbered count l n) :
    n ≤ k ∧ k < n + l.length := by
  obtain ⟨p, hp, hk⟩ := List.mem_flatMap.mp h
  rw [List.eq_of_mem_replicate hk]
  exact ⟨List.le_snd_of_mem_zipIdx hp, by simpa using List.snd_lt_add_of_mem_zipIdx hp⟩

theorem pairwise_numbered (count : Stage → Nat) (l : List Stage) (n : Nat) :
    (numbered count l n).Pairwise (· ≤ ·) := by
  induction l generalizing n with
  | nil => exact .nil
  | cons x l ih =>
    rw [numbered_cons, List.pairwise_append]
    refine ⟨List.pairwise_replicate.mpr (.inr le_rfl), ih (n + 1), fun a ha b hb => ?_⟩
    have := mem_numbered hb
    rw [List.eq_of_mem_replicate ha]
    omega

theorem count_numbered {count : Stage → Nat} {l : List Stage} {j : Nat} {x : Stage} (h : l[j]? = some x) (n : Nat) :
    (numbered count l n).count (n + j) = count x := by
  induction l generalizing n j with
  | nil => simp at h
  | cons y l ih =>
    rw [numbered_cons, List.count_append, List.count_replicate]
    cases j with
    | zero =>
      obtain rfl : y = x := by simpa using h
      have hnone : n ∉ numbered count l (n + 1) := fun hm => by
        have := mem_numbered hm
        omega
      simp [List.count_eq_zero_of_not_mem hnone]
    | succ j =>
      have := ih (by simpa using h) (n + 1)
      rw [show n + 1 + j = n + (j + 1) by omega] at this
      simp [this]

theorem Launch.initial_eq (l : Launch) :
    l.initial = numbered (fun x => if blockCor l.block then x.maxw else x.minw) l.stages 0 := rfl

/-! ## The worker that is created -/

theorem getSeq_createWorker (s : State) (l : Launch) (k n : Nat) (p : Place) :
    (s.createWorker l k p n).getSeq (.worker ⟨l.ctx, l.slot, l.issued⟩) =
      some (s.startState l k { Worker.reset with frame := n, place := p, onCore := !s.vcBusy p }) := by
  unfold State.createWorker
  extract_lets key _ x s1
  have h1 : s1.getSeq (.worker key) = some x := by
    rw [(quiet_shrinkCache ..).getSeq, State.getSeq_setSeq_same]
  have h2 : (s1.dropGuests p.die).getSeq (.worker key) = some x := by
    rw [(quiet_dropGuests ..).getSeq, h1]
  exact h2

theorem createWorker_begins {s : State} {l : Launch} {k n : Nat} {p : Place} {w : WKey} (hw : w = ⟨l.ctx, l.slot, l.issued⟩) :
    ∃ y, (s.createWorker l k p n).getSeq (.worker w) = some y ∧ y.pc = (l.stage k).entry ∧ y.priv = .u ∧
      y.run = .running ∧ y.bank.read 1 = blockWord l.block 1 ∧ (∀ r : BitVec 5, r ≠ 1 → y.bank.read r = 0) ∧
      y.bank.loops = [] ∧ y.w.stage = k ∧ y.w.frame = n ∧ y.w.place = p ∧ y.w.vncode = (l.stage k).vreg ∧
      y.w.spadCode = (l.stage k).spad ∧ y.w.svec = (s.ctx l.ctx).csvec ∧ y.w.ins = false := by
  subst hw
  refine ⟨_, getSeq_createWorker s l k n p, rfl, rfl, rfl, ?_, fun r hr => ?_, ?_, rfl, rfl, rfl, rfl, rfl, rfl, rfl⟩
  · exact Bank.read_write_same _ (by decide) _
  · exact (Bank.read_write_ne _ hr _).trans (Bank.read_reset r)
  · exact Bank.write_loops ..

/-! ## Admission -/

theorem launchesAreAdmitted : Claims.LaunchesAreAdmitted := by
  refine ⟨?_, ?_, ?_, ?_, ?_, ?_, ?_, ?_⟩
  · intro s c slot l hl hp ht
    change execEligibility c slot s = _
    simp only [execEligibility, hl]
    refine if_pos ⟨hp, ?_⟩
    exact BitVec.ule_iff_toNat_le.mpr ht
  · intro s die l hl hc
    refine ⟨fun u gs ha => ?_, fun ha => ⟨s.writeFinal l 6, ?_, finalWord_writeFinal ..⟩⟩
    · change execAdmissionChecks die s = _
      simp [execAdmissionChecks, hl, hc, ha]
    · change execAdmissionChecks die s = _
      simp [execAdmissionChecks, hl, hc, ha]
  · intro s die l hl hc u first
    have hu : ((s.writeCword l 0).zeroGroups l.groups).modLaunch l.ctx l.slot (fun x => { x with phase := .admitted }) = u := rfl
    refine ⟨fun t ht => ?_, fun hn => ?_⟩
    · change execAdmission die s = _
      simp only [execAdmission, hl, hc, Bool.not_true, Bool.false_eq_true, if_false, hu, show foldOpt _ l.initial u = some t from ht]
    · change execAdmission die s = _
      simp only [execAdmission, hl, hc, Bool.not_true, Bool.false_eq_true, if_false, hu, show foldOpt _ l.initial u = none from hn]
  · intro l k x hx
    simpa [Launch.initial_eq] using count_numbered (count := fun x => if blockCor l.block then x.maxw else x.minw) hx 0
  · intro l
    rw [Launch.initial_eq]
    refine ⟨pairwise_numbered _ _ _, fun k hk => ?_⟩
    obtain ⟨-, h⟩ := mem_numbered hk
    simpa using h
  · intro s c slot l hl hc
    change execWorkerCreation c slot s = _
    simp [execWorkerCreation, hl, hc]
  · intro s c slot k n l p hl hp hc hi hk hn
    change execWorkerCreation c slot s = _
    simp [execWorkerCreation, hl, hp, hc, hi, hk, hn]
  · intro s l k n p w hw
    exact createWorker_begins hw

end Sys2Proof.Machine
end

section
/-! SUPPORT. What the memory operations leave of the windows: which there are, and their geometry. Only their pins and
poisoned lines change with a read or a write. -/

namespace Sys2Proof.Machine

/-! ## The arrays and the slices -/

/-- `t` has the windows, the staged data and the messages of `s`. -/
structure Apart (s t : State) : Prop where
  windows : t.windows = s.windows
  stage : t.mem.stage = s.mem.stage
  net : t.net = s.net

variable {s t u : State}

theorem Apart.refl (s : State) : Apart s s := ⟨rfl, rfl, rfl⟩

theorem Apart.trans (h : Apart s t) (k : Apart t u) : Apart s u :=
  ⟨k.windows.trans h.windows, k.stage.trans h.stage, k.net.trans h.net⟩

theorem Apart.ite (c : Prop) [Decidable c] (h : Apart s t) (k : Apart s u) : Apart s (if c then t else u) := by
  split
  · exact h
  · exact k

theorem Apart.fold {α : Type} (f : State → α → State) (h : ∀ s a, Apart s (f s a)) (l : List α) (s : State) :
    Apart s (l.foldl f s) := by
  induction l generalizing s with
  | nil => exact Apart.refl s
  | cons a r ih => exact (h s a).trans (ih (f s a))

theorem apart_modMem (f : Mem → Mem) (h : (f s.mem).stage = s.mem.stage) : Apart s (s.modMem f) := ⟨rfl, h, rfl⟩

theorem apart_encodeTo (s : State) (n d : Nat) (r : RangeReg) (l : SliceLine) (k : Nat) : Apart s (s.encodeTo n d r l k) := by
  have htail (v : State) (n la : Nat) : Apart v (v.clearTail n la) := by
    unfold State.clearTail
    exact Apart.ite _ (apart_modMem _ rfl) (Apart.refl v)
  have hdie (v : State) (d : Nat) (f : Die → Die) : Apart v (v.modDie d f) := ⟨rfl, rfl, rfl⟩
  unfold State.encodeTo
  exact ((apart_modMem _ rfl).trans (htail _ _ _)).trans (hdie _ _ _)

theorem apart_writeBack (s : State) (l : SliceLine) : Apart s (s.writeBack l) := by
  have hbad (v : State) : Apart v (v.noteBad l) := apart_modMem _ rfl
  have hplain : Apart s ((s.modMem fun m => { m with arrays := cellsPutLine m.arrays l.addr l.data l.writeMask }).noteBad l) :=
    (apart_modMem _ rfl).trans (hbad _)
  unfold State.writeBack
  split
  · refine Apart.ite _ (Apart.trans ?_ (hbad _)) hplain
    have h0 (c : Prop) [Decidable c] (v : State) (n d : Nat) (r : RangeReg) (k : Nat) :
        Apart v (if c then v.encodeTo n d r l k else v) := Apart.ite _ (apart_encodeTo ..) (Apart.refl v)
    exact (h0 _ s _ _ _ 0).trans (h0 _ _ _ _ _ 1)
  · exact Apart.ite _ ⟨rfl, rfl, rfl⟩ hplain

theorem apart_cleanLine (s : State) (l : SliceLine) : Apart s (s.cleanLine l) := by
  unfold State.cleanLine
  exact Apart.ite _ ((apart_writeBack s l).trans (apart_modMem _ rfl)) ((apart_writeBack s l).trans (apart_modMem _ rfl))

theorem apart_flushCxl (s : State) : Apart s s.flushCxl := Apart.fold _ apart_cleanLine _ _

theorem apart_evict (s : State) (l : SliceLine) : Apart s (s.evict l) := by
  have hcodec (v : State) : Apart v (v.codecWrite l) := Apart.ite _ (apart_modMem _ rfl) (Apart.refl v)
  have h1 : Apart s (if l.isDirty then s.writeBack l else s) := Apart.ite _ (apart_writeBack s l) (Apart.refl s)
  unfold State.evict
  exact Apart.trans (Apart.ite _ (h1.trans (hcodec _)) h1) (apart_modMem _ rfl)

theorem apart_install (s : State) (l : SliceLine) : Apart s (s.install l) := by
  unfold State.install
  refine Apart.trans (Apart.ite _ (Apart.refl s) ?_) (apart_modMem _ rfl)
  split
  · exact apart_evict ..
  · exact Apart.refl s

theorem apart_putDirty (s : State) (l : SliceLine) : Apart s (s.putDirty l) := by
  have hsome (d sl n : Nat) : ∀ v : State, Apart v (v.cleanSome d sl n) := by
    induction n with
    | zero => exact Apart.refl
    | succ n ih =>
      intro v
      refine Apart.trans ?_ (ih _)
      unfold State.cleanOldest
      split
      · exact Apart.refl v
      · exact apart_cleanLine ..
  unfold State.putDirty
  have hput : Apart s ((s.putLine l).modMem fun x => { x with dirtied := x.dirtied + 1 }) := ⟨rfl, rfl, rfl⟩
  exact hput.trans (hsome ..)

theorem apart_ensure (s : State) (la : Nat) : Apart s (s.ensure la).1 := by
  unfold State.ensure
  split
  · exact ⟨rfl, rfl, rfl⟩
  · have h (l : SliceLine) (c : Prop) [Decidable c] : Apart s (if c then (s.install l).putDirty l else s.install l) :=
      Apart.ite _ ((apart_install s l).trans (apart_putDirty _ l)) (apart_install s l)
    exact Apart.ite _ ((h _ _).trans ⟨rfl, rfl, rfl⟩) (h _ _)

/-! ## Windows but for their pins -/

/-- A window but for its pins and its poisoned lines. -/
def Window.bare (w : Window) : Window := { w with pinned := [], bad := [] }

/-- `t` has the windows of `s`, but for their pins and poisoned lines. -/
structure SameWindows (s t : State) : Prop where
  bare : t.windows.map Window.bare = s.windows.map Window.bare

theorem SameWindows.refl (s : State) : SameWindows s s := ⟨rfl⟩

theorem SameWindows.trans (h : SameWindows s t) (k : SameWindows t u) : SameWindows s u := ⟨k.bare.trans h.bare⟩

theorem SameWindows.of_eq (h : t.windows = s.windows) : SameWindows s t := ⟨by rw [h]⟩

theorem Apart.sameWindows (h : Apart s t) : SameWindows s t := .of_eq h.windows

theorem SameWindows.ite (c : Prop) [Decidable c] (h : SameWindows s t) (k : SameWindows s u) :
    SameWindows s (if c then t else u) := by
  split
  · exact h
  · exact k

theorem SameWindows.fold {α : Type} (f : State → α → State) (h : ∀ s a, SameWindows s (f s a)) (l : List α) (s : State) :
    SameWindows s (l.foldl f s) := by
  induction l generalizing s with
  | nil => exact SameWindows.refl s
  | cons a r ih => exact (h s a).trans (ih (f s a))

theorem SameWindows.mem (h : SameWindows s t) {x : Window} (hx : x ∈ t.windows) : ∃ y ∈ s.windows, y.bare = x.bare := by
  have hb : x.bare ∈ s.windows.map Window.bare := h.bare ▸ List.mem_map_of_mem hx
  simpa using hb

theorem sameWindows_modWindow (s : State) (i : Nat) {f : Window → Window} (hf : ∀ w, (f w).bare = w.bare) :
    SameWindows s (s.modWindow i f) := by
  refine ⟨?_⟩
  unfold State.modWindow mapIf
  rw [List.map_map]
  refine List.map_congr_left fun w _ => ?_
  simp only [Function.comp_apply]
  split
  · exact hf w
  · rfl

theorem sameWindows_putLine (s : State) (l : SliceLine) : SameWindows s (s.putLine l) := .of_eq rfl

theorem sameWindows_modMem (s : State) (f : Mem → Mem) : SameWindows s (s.modMem f) := .of_eq rfl

theorem sameWindows_noteWindowBad (s : State) (l : SliceLine) : SameWindows s (s.noteWindowBad l) := by
  unfold State.noteWindowBad
  split
  · refine sameWindows_modWindow s _ fun w => ?_
    split <;> rfl
  · exact SameWindows.refl s

theorem sameWindows_homeWrite (s : State) (la : Nat) (d m : LineBits) (p : Bool) : SameWindows s (s.homeWrite la d m p) := by
  unfold State.homeWrite
  refine SameWindows.ite _ (SameWindows.refl s) ?_
  have h (c : Prop) [Decidable c] : Apart s (if c then s.enterWhole la else s.ensure la).1 := by
    split
    · exact apart_install ..
    · exact apart_ensure ..
  have hbreak (v : State) : Apart v (v.breakWords (maskWords la m)) := apart_modMem _ rfl
  have k (x : SliceLine) (c : Prop) [Decidable c] :
      Apart s (((if c then s.enterWhole la else s.ensure la).1.breakWords (maskWords la m)).putDirty x) :=
    ((h c).trans (hbreak _)).trans (apart_putDirty _ x)
  exact SameWindows.ite _ ((k _ _).sameWindows.trans (sameWindows_noteWindowBad ..)) (k _ _).sameWindows

theorem sameWindows_applyEntry (s : State) (la : Nat) (d m : LineBits) (r : List PendingRed) (p : Bool) :
    SameWindows s (s.applyEntry la d m r p) := by
  unfold State.applyEntry
  exact SameWindows.ite _ (sameWindows_homeWrite ..) ((apart_ensure s la).sameWindows.trans (sameWindows_homeWrite ..))

theorem sameWindows_pinLine (s : State) (la : Nat) : SameWindows s (s.pinLine la) := by
  unfold State.pinLine
  split
  · exact SameWindows.refl s
  · split
    · dsimp only
      split
      · exact (sameWindows_homeWrite ..).trans ((sameWindows_putLine ..).trans (sameWindows_modWindow _ _ fun _ => rfl))
      · exact sameWindows_homeWrite ..
    · exact (apart_ensure s la).sameWindows.trans ((sameWindows_putLine ..).trans (sameWindows_modWindow _ _ fun _ => rfl))

theorem sameWindows_dirAnswer (s : State) (la c : Nat) : SameWindows s (s.dirAnswer la c) := by
  unfold State.dirAnswer
  split
  · exact SameWindows.refl s
  · exact SameWindows.ite _ (SameWindows.refl s) (.of_eq rfl)

theorem sameWindows_applyStaged (s : State) (e : StageEntry) : SameWindows s (s.applyStaged e) := by
  unfold State.applyStaged
  exact SameWindows.ite _ (sameWindows_applyEntry ..) ((sameWindows_applyEntry ..).trans (.of_eq rfl))

theorem sameWindows_gather (s : State) (la : Nat) (cs : Nat → Bool) : SameWindows s (s.gather la cs) := by
  have h1 : SameWindows s (s.net.msgs.foldl (fun (acc : State) m =>
      match m.body with
      | .publish d k reds p _ => if m.publishes la cs then acc.applyEntry la d k reds p else acc
      | _ => acc) s) := SameWindows.fold _ (fun a m => by
    split
    · exact SameWindows.ite _ (sameWindows_applyEntry ..) (SameWindows.refl a)
    · exact SameWindows.refl a) _ _
  refine h1.trans ?_
  unfold State.gather
  dsimp only
  generalize s.net.msgs.foldl _ s = s1
  generalize hs2 : ({ s1 with net := _ } : State) = s2
  have h2 : SameWindows s1 s2 := .of_eq (by rw [← hs2])
  refine h2.trans ?_
  generalize List.filter _ s1.mem.stage = held
  refine SameWindows.trans ?_ (SameWindows.fold (fun (a : State) (e : StageEntry) => a.dirAnswer la e.cluster)
    (fun a e => sameWindows_dirAnswer a la e.cluster) held _)
  exact (sameWindows_modMem ..).trans (SameWindows.fold State.applyStaged sameWindows_applyStaged held _)

theorem sameWindows_dirNew (s : State) (e : DirEntry) : SameWindows s (s.dirNew e) := by
  have hforce (v : State) (o : DirEntry) : SameWindows v (v.forceEntry o) := by
    unfold State.forceEntry
    exact SameWindows.trans (SameWindows.fold _ (fun a la => (sameWindows_gather a la _).trans (sameWindows_pinLine _ la)) _ _)
      (.of_eq rfl)
  unfold State.dirNew
  refine SameWindows.trans (SameWindows.ite _ ?_ (SameWindows.refl s)) (.of_eq rfl)
  split
  · exact hforce ..
  · exact SameWindows.refl s

theorem sameWindows_dirSplit (la n : Nat) : ∀ s : State, SameWindows s (s.dirSplit la n) := by
  induction n with
  | zero => exact SameWindows.refl
  | succ n ih =>
    intro s
    unfold State.dirSplit
    split
    · exact SameWindows.refl s
    · refine SameWindows.ite _ (.of_eq rfl) (SameWindows.trans ?_ (ih _))
      exact ((sameWindows_modMem ..).trans (sameWindows_dirNew ..)).trans (sameWindows_dirNew ..)

theorem sameWindows_forceLine (s : State) (la : Nat) : SameWindows s (s.forceLine la) := by
  refine SameWindows.trans ?_ (sameWindows_pinLine _ la)
  unfold State.bringHome
  split
  · exact SameWindows.refl s
  · exact SameWindows.ite _ ((sameWindows_dirSplit la 12 s).trans (sameWindows_gather ..)) (SameWindows.refl s)

/-! ## Reads -/

theorem sameWindows_coherent (s : State) (la : Nat) : SameWindows s (s.coherent la).1 :=
  (sameWindows_forceLine s la).trans (apart_ensure _ la).sameWindows

theorem sameWindows_readL2 (s : State) (d : Nat) (k : PageKind) (la : Nat) : SameWindows s (s.readL2 d k la).1 := by
  unfold State.readL2
  split
  · exact sameWindows_coherent s la
  · split
    · exact .of_eq rfl
    · exact (sameWindows_coherent s la).trans (apart_install ..).sameWindows

theorem sameWindows_readChunks (d : Nat) (k : PageKind) (l : List (Nat × Nat)) :
    ∀ s : State, SameWindows s (s.readChunks none d k l).1 := by
  have hone (v : State) (pa n : Nat) : SameWindows v (v.readChunk none d k pa n).1 := by
    unfold State.readChunk
    split
    · exact sameWindows_readL2 ..
    · exact sameWindows_coherent ..
  induction l with
  | nil => exact SameWindows.refl
  | cons c r ih => exact fun s => (hone s c.1 c.2).trans (ih _)

theorem sameWindows_readPieces (d : Nat) (l : List (Nat × PageKind × Nat)) :
    ∀ s : State, SameWindows s (s.readPieces none d l).1 := by
  induction l with
  | nil => exact SameWindows.refl
  | cons c r ih => exact fun s => (sameWindows_readChunks d c.2.1 _ s).trans (ih _)

theorem sameWindows_markAll (s : State) (l : List (Leaf × Word × Nat)) (w : Bool) : SameWindows s (s.markAll l w) := by
  refine SameWindows.fold _ (fun a p => SameWindows.trans ?_ (t := a.markUsed p.1 w) ?_) _ _
  · have hwalk : SameWindows a (p.1.walked.foldl State.walkRead a) :=
      SameWindows.fold _ (fun v pa => sameWindows_coherent v (lineOf pa)) _ _
    have hnote (v : State) (d pa : Nat) : SameWindows v (v.noteWrite d pa) := SameWindows.ite _ (SameWindows.refl v) (.of_eq rfl)
    have hwrite (v : State) (pa n x : Nat) : SameWindows v (v.writeHome pa n x) :=
      (sameWindows_forceLine v _).trans (sameWindows_homeWrite ..)
    unfold State.markUsed
    refine SameWindows.ite _ hwalk (hwalk.trans ((hwrite ..).trans ((hnote ..).trans (sameWindows_modMem ..))))
  · unfold State.noteReadonly
    exact SameWindows.ite _ (.of_eq rfl) (SameWindows.refl _)

theorem sameWindows_frameRead {w : WKey} {o n : Nat} {b : List Byte} (h : s.frameRead w o n = some (t, b)) :
    SameWindows s t := by
  obtain ⟨l, rfl, -⟩ := frameRead_some h
  exact (sameWindows_markAll s l false).trans (sameWindows_readPieces ..)

end Sys2Proof.Machine
end

section
/-! SUPPORT. Launches end: by their last word, by a teardown, by the watchdog (R44 to R48, R51). -/

namespace Sys2Proof.Machine

open Sys2Proof.Claims (FinalWord)

/-! ## The release of a launch -/

theorem releaseLaunch_cases {s u : State} {l : Launch} (h : s.releaseLaunch l = (u, true)) :
    let cs := (List.range 64).filter fun c => (blockDies l.block).getLsbD (c / 16) && s.inService (c / 16)
    let v := cs.foldl State.publishAll s
    u = v.flushCxl ∧ ∀ c ∈ cs, v.unpublished c = false := by
  intro cs v
  change (if cs.any v.unpublished then (v, false) else (v.flushCxl, true)) = (u, true) at h
  split at h
  · simp at h
  · rename_i hno
    obtain ⟨hu, -⟩ := Prod.mk.inj h
    exact ⟨hu.symm, fun c hc => by simpa using List.any_eq_false.mp (Bool.eq_false_iff.mpr hno) c hc⟩

theorem quiet_releaseLaunch {s u : State} {l : Launch} (h : s.releaseLaunch l = (u, true)) : Quiet s u := by
  obtain ⟨rfl, -⟩ := releaseLaunch_cases h
  exact (Quiet.fold _ quiet_publishAll _ _).trans (quiet_flushCxl _)

theorem sameWindows_publishAll (s : State) (c : Nat) : SameWindows s (s.publishAll c) :=
  SameWindows.fold (fun (v : State) (e : StageEntry) => v.publishEntry e false) (fun _ _ => .of_eq rfl) _ _

theorem sameWindows_releaseLaunch {s u : State} {l : Launch} (h : s.releaseLaunch l = (u, true)) : SameWindows s u := by
  obtain ⟨rfl, -⟩ := releaseLaunch_cases h
  exact (SameWindows.fold _ sameWindows_publishAll _ _).trans (apart_flushCxl _).sameWindows

/-- Once a launch's stores are released, no cluster of its dies holds or sends one. -/
theorem released_published {s u : State} {l : Launch} {d c : Nat} (h : s.releaseLaunch l = (u, true)) (hd : d < 4)
    (hm : (blockDies l.block).getLsbD d = true) (hs : s.inService d = true) (hc : c / 16 = d) :
    (∀ e ∈ u.mem.stage, e.cluster ≠ c) ∧ u.writesOnWay c = false := by
  obtain ⟨rfl, hp⟩ := releaseLaunch_cases h
  have hno := hp c (by simp [hc, hm, hs]; omega)
  rw [State.unpublished, Bool.or_eq_false_iff, List.any_eq_false] at hno
  obtain ⟨hstage, hway⟩ := hno
  have ha := apart_flushCxl
    (((List.range 64).filter fun c => (blockDies l.block).getLsbD (c / 16) && s.inService (c / 16)).foldl State.publishAll s)
  refine ⟨fun e he => ?_, ?_⟩
  · rw [ha.stage] at he
    simpa using hstage e he
  · rw [State.writesOnWay, ha.net]
    exact hway

/-! ## The end of a launch -/

theorem closeWindows_of_none {s : State} {c slot : Nat} (h : ∀ w ∈ s.windows, ¬(w.ctx = c ∧ w.slot = slot)) :
    s.closeWindows c slot = s := by
  have hnil : (s.windows.filter fun w => w.ctx == c && w.slot == slot) = [] :=
    List.filter_eq_nil_iff.mpr fun w hw => by simpa using h w hw
  rw [State.closeWindows, hnil]
  rfl

theorem launchEnd_admitted {s u : State} {c slot : Nat} {l : Launch} (hl : s.launch? c slot = some l)
    (hw : s.launchWorkers c slot = []) (hb : s.launchBusy c slot = false) (hp : l.phase = .admitted)
    (he : s.exhausted l = true) (hr : s.releaseLaunch l = (u, true)) (hwin : ∀ w ∈ s.windows, ¬(w.ctx = c ∧ w.slot = slot)) :
    exec (.launchEnd c slot) s = .next (u.writeFinal l (l.finalWord (if l.faults = 0 then 1 else 2))) := by
  have hu : u.launch? c slot = some l := (State.launch?_congr (quiet_releaseLaunch hr).launches ..).trans hl
  have hclose : u.closeWindows c slot = u := closeWindows_of_none fun w hw hk => by
    obtain ⟨y, hy, e⟩ := (sameWindows_releaseLaunch hr).mem hw
    exact hwin y hy ⟨(congrArg Window.ctx e).trans hk.1, (congrArg Window.slot e).trans hk.2⟩
  change execLaunchEnd c slot s = _
  simp [execLaunchEnd, hl, hw, hb, hp, he, hr, hclose, hu, State.finishLaunch]

theorem launchEnd_torn {s u : State} {c slot st : Nat} {l : Launch} (hl : s.launch? c slot = some l)
    (hw : s.launchWorkers c slot = []) (hb : s.launchBusy c slot = false) (hp : l.phase = .tearing st)
    (hr : s.releaseLaunch l = (u, true)) : exec (.launchEnd c slot) s = .next (u.writeFinal l (l.finalWord st)) := by
  have hu : u.launch? c slot = some l := (State.launch?_congr (quiet_releaseLaunch hr).launches ..).trans hl
  change execLaunchEnd c slot s = _
  simp [execLaunchEnd, hl, hw, hb, hp, hr, hu, State.finishLaunch]

/-! ## Launches whose last word is on its way -/

/-- What `settleEnded` does for one launch. -/
def State.settleOne (s : State) (l : Launch) : State :=
  match l.phase with
  | .ended i =>
    if s.net.msgs.any fun m => m.id == i && m.reply.isNone then s
    else (s.dropLaunch l.ctx l.slot).wakeAborts l.ctx l.slot
  | _ => s

theorem State.settleEnded_eq_foldl (s : State) : s.settleEnded = s.launches.foldl State.settleOne s := rfl

@[simp] theorem State.setSeq_net (s : State) (q : SeqId) (x : Seq) : (s.setSeq q x).net = s.net := by
  unfold State.setSeq
  split <;> rfl

@[simp] theorem State.modSeq_net (s : State) (q : SeqId) (f : Seq → Seq) : (s.modSeq q f).net = s.net := by
  unfold State.modSeq
  split
  · rfl
  · exact State.setSeq_net ..

theorem State.launch?_dropLaunch_ne {s : State} {c slot x y : Nat} (h : ¬(x = c ∧ y = slot)) :
    (s.dropLaunch x y).launch? c slot = s.launch? c slot := by
  rw [State.dropLaunch, State.launch?, List.find?_filter]
  refine List.find?_congr fun l _ => ?_
  by_cases hk : l.ctx = c ∧ l.slot = slot
  · obtain ⟨rfl, rfl⟩ := hk
    have : ¬(l.ctx = x ∧ l.slot = y) := fun e => h ⟨e.1.symm, e.2.symm⟩
    simp
    tauto
  · have : (l.ctx == c && l.slot == slot) = false := by simpa using hk
    simp [this]

theorem State.settleOne_net (s : State) (l : Launch) : (s.settleOne l).net = s.net := by
  have hwake (v : State) (c slot : Nat) : (v.wakeAborts c slot).net = v.net := by
    rw [State.wakeAborts_eq_foldl]
    generalize v.allSeqs.map _ = qs
    induction qs generalizing v with
    | nil => rfl
    | cons q qs ih =>
      refine (ih _).trans ?_
      unfold State.wakeAbort
      split
      · split
        · exact State.modSeq_net ..
        · rfl
      · rfl
  unfold State.settleOne
  split
  · split
    · rfl
    · exact hwake ..
  · rfl

/-- Settling one launch leaves the others. -/
theorem State.launch?_settleOne_ne {s : State} {l : Launch} {c slot : Nat} (h : ¬(l.ctx = c ∧ l.slot = slot)) :
    (s.settleOne l).launch? c slot = s.launch? c slot := by
  unfold State.settleOne
  split
  · split
    · rfl
    · obtain ⟨-, hl⟩ := State.wakeAborts_keeps (s.dropLaunch l.ctx l.slot) l.ctx l.slot
      rw [State.launch?_congr hl, State.launch?_dropLaunch_ne h]
  · rfl

/-- The last word of launch i has reached its home. -/
def wordHome (s : State) (i : Nat) : Bool := !s.net.msgs.any fun m => m.id == i && m.reply.isNone

theorem wordHome_iff (s : State) (i : Nat) : wordHome s i = true ↔ ∀ m ∈ s.net.msgs, m.id = i → m.reply.isSome = true := by
  simp [wordHome, Option.isSome_iff_ne_none]

theorem State.launch?_settleOne_home {s : State} {l : Launch} {i : Nat} (hp : l.phase = .ended i) (h : wordHome s i = true) :
    (s.settleOne l).launch? l.ctx l.slot = none := by
  have hno : (s.net.msgs.any fun m => m.id == i && m.reply.isNone) = false := by simpa [wordHome] using h
  unfold State.settleOne
  simp only [hp, hno, Bool.false_eq_true, if_false]
  obtain ⟨-, hl⟩ := State.wakeAborts_keeps (s.dropLaunch l.ctx l.slot) l.ctx l.slot
  rw [State.launch?_congr hl, State.launch?_dropLaunch]

theorem State.settleOne_waits {s : State} {l : Launch} {i : Nat} (hp : l.phase = .ended i) (h : wordHome s i = false) :
    s.settleOne l = s := by
  have hyes : (s.net.msgs.any fun m => m.id == i && m.reply.isNone) = true := by simpa [wordHome] using h
  unfold State.settleOne
  simp only [hp, hyes, if_true]

section
variable {c slot i : Nat} {l : Launch} (hk : l.ctx = c ∧ l.slot = slot) (hp : l.phase = .ended i)
include hk hp

theorem foldl_settleOne_home (ls : List Launch) : ∀ s : State, (∀ l' ∈ ls, l'.ctx = c → l'.slot = slot → l' = l) →
    wordHome s i = true → s.launch? c slot = none ∨ l ∈ ls → (ls.foldl State.settleOne s).launch? c slot = none := by
  induction ls with
  | nil => simp
  | cons x ls ih =>
    intro s huniq hh hor
    have hnet : wordHome (s.settleOne x) i = true := by rwa [wordHome, State.settleOne_net]
    refine ih _ (fun l' hl' => huniq l' (List.mem_cons_of_mem x hl')) hnet ?_
    by_cases hx : x.ctx = c ∧ x.slot = slot
    · obtain rfl := huniq x List.mem_cons_self hx.1 hx.2
      obtain ⟨rfl, rfl⟩ := hk
      exact .inl (State.launch?_settleOne_home hp hh)
    · rw [State.launch?_settleOne_ne hx]
      refine hor.imp_right fun hm => List.mem_of_ne_of_mem ?_ hm
      rintro rfl
      exact hx hk

theorem foldl_settleOne_waits (ls : List Launch) : ∀ s : State, (∀ l' ∈ ls, l'.ctx = c → l'.slot = slot → l' = l) →
    wordHome s i = false → (ls.foldl State.settleOne s).launch? c slot = s.launch? c slot := by
  induction ls with
  | nil => exact fun _ _ _ => rfl
  | cons x ls ih =>
    intro s huniq hh
    have hnet : wordHome (s.settleOne x) i = false := by rwa [wordHome, State.settleOne_net]
    refine (ih _ (fun l' hl' => huniq l' (List.mem_cons_of_mem x hl')) hnet).trans ?_
    by_cases hx : x.ctx = c ∧ x.slot = slot
    · obtain rfl := huniq x List.mem_cons_self hx.1 hx.2
      rw [State.settleOne_waits hp hh]
    · exact State.launch?_settleOne_ne hx

end

theorem settleEnded_cases {s : State} {c slot i : Nat} {l : Launch} (hl : s.launch? c slot = some l) (hp : l.phase = .ended i)
    (huniq : ∀ l' ∈ s.launches, l'.ctx = c → l'.slot = slot → l' = l) :
    ((∀ m ∈ s.net.msgs, m.id = i → m.reply.isSome = true) → s.settleEnded.launch? c slot = none) ∧
    ((∃ m ∈ s.net.msgs, m.id = i ∧ m.reply = none) → s.settleEnded.launch? c slot = some l) := by
  have hk := State.launch?_key hl
  rw [State.settleEnded_eq_foldl]
  refine ⟨fun h => ?_, fun ⟨m, hm, hi, hr⟩ => ?_⟩
  · exact foldl_settleOne_home hk hp _ s huniq ((wordHome_iff s i).mpr h) (.inr (List.mem_of_find?_eq_some hl))
  · have hw : wordHome s i = false := Bool.eq_false_iff.mpr fun e => by
      have := (wordHome_iff s i).mp e m hm hi
      simp [hr] at this
    rw [foldl_settleOne_waits hk hp _ s huniq hw, hl]

/-! ## The watchdog -/

theorem State.logFault_launches (s : State) (c slot wid cause : Nat) (body : List Nat) (time : Word) :
    (s.logFault c slot wid cause body time).launches = s.launches := by
  unfold State.logFault
  extract_lets x log pa y
  split
  · split <;> rfl
  · exact (quiet_writeRecord ..).launches

theorem watchdog_expires {s : State} {c slot : Nat} {l : Launch} (hl : s.launch? c slot = some l)
    (hp : l.phase = .admitted ∨ l.phase = .restoring ∨ l.phase = .preempting) (hw : (blockWord l.block 4).toNat ≠ 0)
    (hd : (blockWord l.block 4).toNat * 1000 ≤ l.watch) :
    exec (.watchdog c slot) s = .next (((s.logUnstated c slot 347 (s.die l.lead).time).postHardware 27 c slot none).modLaunch
      c slot fun x => { x with phase := .tearing 4 }) := by
  have hdue : (blockWdog l.block != 0 && decide ((blockWdog l.block).toNat ≤ l.watch / 1000)) = true := by
    have hne : blockWdog l.block ≠ 0 := fun e => hw (congrArg BitVec.toNat e)
    have hle : (blockWdog l.block).toNat ≤ l.watch / 1000 := (Nat.le_div_iff_mul_le (by decide)).mpr hd
    rw [Bool.and_eq_true, bne_iff_ne, decide_eq_true_eq]
    exact ⟨hne, hle⟩
  change execWatchdog c slot s = _
  rcases hp with hp | hp | hp <;> simp only [execWatchdog, hl, hdue, hp, Bool.true_and, if_true]

theorem postHardware_mem (s : State) (cond c slot : Nat) (e : Option Word) : ∃ p, p ∈ (s.postHardware cond c slot e).kfqWaiting ∧
    p.cause = BitVec.ofNat 9 (5 * 64 + cond) ∧ p.ctx = c ∧ p.slot = slot ∧ p.direct = true :=
  ⟨_, List.mem_append_right _ List.mem_cons_self, rfl, rfl, rfl, rfl⟩

/-- A launch that has nothing left, is torn down or overruns its watchdog ends. -/
theorem launchesEnd : Claims.LaunchesEnd := by
  refine ⟨?_, ?_, ?_, ?_, ?_⟩
  · intro s u c slot l hl hw hb hp he hr hwin word
    exact ⟨_, launchEnd_admitted hl hw hb hp he hr hwin, finalWord_writeFinal ..⟩
  · intro s u c slot st l hl hw hb hp hr
    exact ⟨_, launchEnd_torn hl hw hb hp hr, finalWord_writeFinal ..⟩
  · intro s c slot i l hl hp huniq
    exact settleEnded_cases hl hp huniq
  · intro s u l d c hr hd hm hs hc
    exact released_published hr hd hm hs hc
  · intro s c slot l hl hp hw hd
    obtain ⟨p, hmem, hcause, hctx, hslot, hdirect⟩ :=
      postHardware_mem (s.logUnstated c slot 347 (s.die l.lead).time) 27 c slot none
    have hkeep : ((s.logUnstated c slot 347 (s.die l.lead).time).postHardware 27 c slot none).launch? c slot = some l :=
      (State.launch?_congr (State.logFault_launches ..) c slot).trans hl
    have hl' := State.launch?_modLaunch_some (fun x => { x with phase := .tearing 4 }) hkeep fun _ => ⟨rfl, rfl⟩
    exact ⟨_, _, p, watchdog_expires hl hp hw hd, hl', rfl, hmem, hcause, hctx, hslot, hdirect⟩

end Sys2Proof.Machine
end

section
/-! SUPPORT. A saved worker is placed and takes back what its frame holds (R53, R250, R259, R267). -/

namespace Sys2Proof.Machine

open Sys2Proof.Claims (TakesRecord TakesWindow)

/-! ## What each part of the restore changes -/

/-- A worker that is placed: it stands as posted until its record is back. -/
def Seq.placed (x : Seq) (p : Place) (onCore : Bool) (svec : Word) : Seq :=
  { x with run := .parked .kpost, w := { x.w with place := p, onCore := onCore, moves := x.w.moves + 1, svec := svec } }

/-- The state in which worker w stands at place p, and its VC's L1 has given it room. -/
def State.placeWorker (s : State) (w : WKey) (p : Place) : State :=
  (s.modSeq (.worker w) fun x => x.placed p (!s.vcBusy p) (s.ctx w.ctx).csvec).shrinkCache p.vc (s.cacheLines p.vc)

/-- A worker that has taken back the record `r` (R259). -/
def Seq.restored (x : Seq) (r : List Byte) : Seq :=
  let st := BitVec.ofNat 64 (wordAt r 1)
  let posted := st.getLsbD 18
  { x with
    run := if posted then .parked .kpost else .running
    priv := .u
    ply := true
    pc := BitVec.ofNat 64 (wordAt r 0)
    line := none
    cause := BitVec.ofNat 9 (wordAt r 5)
    epc := BitVec.ofNat 64 (wordAt r 6)
    eaddr := BitVec.ofNat 64 (wordAt r 7)
    eidx := BitVec.ofNat 15 (wordAt r 8)
    bank := { (Bank.reset.fromWords ((List.range 32).map fun k => wordAt r (12 + k)) (wordAt r 9)) with
      xf := st.extractLsb' 32 8
      loops := loopsFrom ((List.range 18).map fun k => wordAt r (44 + k)) (st.extractLsb' 19 3).toNat }
    w := { x.w with
      ins := posted
      vsaved := posted
      keptLoops := []
      vl := BitVec.ofNat 15 (wordAt r 2)
      vstart := BitVec.ofNat 15 (wordAt r 3)
      vlmax := BitVec.ofNat 15 (wordAt r 4)
      xsel := st.extractLsb' 28 4
      vrm := st.extractLsb' 26 2
      vmt := st.extractLsb' 24 2 } }

/-- The window registers of a worker from the words of their image. -/
def restoredWindows (s : State) (w : WKey) (r : List Byte) : Vector WindowReg 8 :=
  Vector.ofFn fun k : Fin 8 => windowFrom (s.windowNamed w) (wordAt r (2 * k.val)) (wordAt r (2 * k.val + 1))

theorem restoreSpad_some {s t : State} {w : WKey} (h : s.restoreSpad w = some t) :
    ∃ u pad, Quiet s u ∧ t = u.modSeq (.worker w) fun x => { x with w := { x.w with spad := pad } } := by
  -- Unfolded as a function: the kernel then compares two functions and evaluates no read at a literal offset.
  have body := Eq.refl State.restoreSpad
  conv at body => rhs; delta State.restoreSpad
  rw [body] at h
  beta_reduce at h
  extract_lets n at h
  split at h
  · simp at h
  rename_i u bs hr
  exact ⟨u, _, quiet_frameRead hr, (Option.some.inj h).symm⟩

theorem restoreWindowRegs_some {s t : State} {w : WKey} (h : s.restoreWindowRegs w = some t) :
    ∃ u r, s.frameRead w 0x300 0x80 = some (u, r) ∧
      t = u.modSeq (.worker w) fun x => { x with w := { x.w with win := restoredWindows u w r } } := by
  unfold State.restoreWindowRegs at h
  split at h
  · simp at h
  · rename_i u r hr
    exact ⟨u, r, hr, (Option.some.inj h).symm⟩

theorem loadVector_some {s t : State} {w : WKey} (h : s.loadVector w = some t) :
    ∃ u code v m q, Quiet s u ∧ t = u.modSeq (.worker w) fun x =>
      { x with w := { x.w with vncode := code, vsaved := false, v := v, m := m, q := q } } := by
  have hread {a c : State} {o n : Nat} {bs : List Byte} : a.frameRead w o n = some (c, bs) → Quiet a c := quiet_frameRead
  revert h
  unfold State.loadVector
  -- Behind a variable, so that no read at a literal offset is evaluated.
  obtain ⟨read, e⟩ : ∃ f, f = State.frameRead := ⟨_, rfl⟩
  rw [← e] at hread ⊢
  split
  · simp
  rename_i u1 r h1
  split
  · simp
  rename_i u2 ms h2
  intro h
  exact ⟨u2, _, _, _, _, (hread h1).trans (hread h2), (Option.some.inj h).symm⟩

/-! ## What the restore leaves alone -/

/-- Where a worker stands, and what the restore of its record leaves of it. -/
def Seq.held (x : Seq) : Place × BitVec 16 × BitVec 2 × BitVec 4 × Vector WindowReg 8 :=
  (x.w.place, x.w.moves, x.w.mxHeld, x.w.ceHeld, x.w.win)

theorem held_quiet_modSeq {s u : State} {q : SeqId} {f : Seq → Seq} (h : s.Holds q) (k : Quiet s u)
    (hf : ∀ x, (f x).held = x.held) : ((u.modSeq q f).seqD q).held = (s.seqD q).held := by
  rw [State.seqD_modSeq_same f (h.quiet k), hf, k.seqD]

theorem restoreRecord_some {s t : State} {w : WKey} {b d : State} {r : List Byte} (hb : s.loadVector w = some b)
    (hd : b.frameRead w 0 0x1F0 = some (d, r)) (ht : t = d.modSeq (.worker w) fun x => x.restored r) :
    s.restoreRecord w = some (t, if (BitVec.ofNat 64 (wordAt r 1)).getLsbD 18 then 0 else wordAt r 11) := by
  subst ht
  unfold State.restoreRecord
  simp only [hb, hd] <;> rfl

theorem forksOf_of_none {s : State} {w : WKey} (hm : (s.seqD (.worker w)).w.mxHeld = 0)
    (hc : (s.seqD (.worker w)).w.ceHeld = 0) : s.forksOf w = [] := by
  simp [State.forksOf, rdvTargets, Worker.held, hm, hc]

/-- The restore of a worker that holds no forked context and stands in no barrier. -/
theorem restoreAt_of_record {s a e b d : State} {w : WKey} {p : Place} {r : List Byte}
    (ha : (((s.placeWorker w p).dropClean p.vc).dropGuests p.die).restoreSpad w = some a)
    (he : a.restoreWindowRegs w = some e) (hb : e.loadVector w = some b) (hd : b.frameRead w 0 0x1F0 = some (d, r))
    (hbar : wordAt r 11 < 2 ^ 63 ∨ (BitVec.ofNat 64 (wordAt r 1)).getLsbD 18 = true)
    (hforks : (d.modSeq (.worker w) fun x => x.restored r).forksOf w = []) :
    s.restoreAt w p = (d.modSeq (.worker w) fun x => x.restored r).modLaunch w.ctx w.slot fun l =>
      { l with resets := l.resets.filter fun k => k / 16384 != w.wid } := by
  have hrec := restoreRecord_some hb hd rfl
  have hzero : (if (BitVec.ofNat 64 (wordAt r 1)).getLsbD 18 then 0 else wordAt r 11) / 2 ^ 63 = 0 := by
    split
    · rfl
    · rename_i hno
      exact Nat.div_eq_of_lt (hbar.resolve_right hno)
  -- Unfolded as a function, for the same reason as in `restoreSpad_some`.
  have body := Eq.refl State.restoreAt
  conv at body => rhs; delta State.restoreAt
  rw [body]
  beta_reduce
  extract_lets q s0 done
  have hdone : done = some (d.modSeq (.worker w) fun x => x.restored r,
      if (BitVec.ofNat 64 (wordAt r 1)).getLsbD 18 then 0 else wordAt r 11) := by
    change (((((s.placeWorker w p).dropClean p.vc).dropGuests p.die).restoreSpad w).bind fun s1 => s1.restoreWindowRegs w).bind
      (fun s2 => s2.restoreRecord w) = _
    rw [ha, Option.bind_some, he, Option.bind_some, hrec]
  clear_value done
  subst hdone
  simp only [hforks, foldOpt, State.rejoin, hzero, if_true]

/-! ## The window registers -/

/-- Window y of the launch of worker w has the geometry of an image. -/
def Describes (w : WKey) (lo hi : Nat) (y : Window) : Prop :=
  y.ctx = w.ctx ∧ y.slot = w.slot ∧ y.base.toNat % 2 ^ 58 = lo % 2 ^ 58 ∧ y.rows = hi / 2 ^ 16 % 2 ^ 8 ∧
    y.cols = hi / 2 ^ 24 % 2 ^ 8 ∧ y.pitchl = hi / 2 ^ 12 % 2 ^ 4

/-- A window register as its image has it. -/
def imageReg (lo hi : Nat) : WindowReg :=
  { isOpen := hi / 2 ^ 32 % 2 == 1, cols := BitVec.ofNat 8 (hi / 2 ^ 24), rows := BitVec.ofNat 8 (hi / 2 ^ 16),
    pitchl := BitVec.ofNat 4 (hi / 2 ^ 12), base := BitVec.ofNat 58 lo, window := 0 }

/-- The window that an image names is one that it describes. -/
theorem windowNamed_cases (s : State) (w : WKey) (lo hi : Nat) :
    (∃ y ∈ s.windows, Describes w lo hi y ∧ s.windowNamed w (imageReg lo hi) = some y.id) ∨
      (∀ y ∈ s.windows, ¬Describes w lo hi y) ∧ s.windowNamed w (imageReg lo hi) = none := by
  have hiff (y : Window) : (y.ctx == w.ctx && y.slot == w.slot && y.base.setWidth 58 == (imageReg lo hi).base &&
      y.rows == (imageReg lo hi).rows.toNat && y.cols == (imageReg lo hi).cols.toNat &&
      y.pitchl == (imageReg lo hi).pitchl.toNat) = true ↔ Describes w lo hi y := by
    simp only [Bool.and_eq_true, beq_iff_eq, ← BitVec.toNat_inj, imageReg, BitVec.toNat_setWidth, BitVec.toNat_ofNat, and_assoc,
      Describes]
  unfold State.windowNamed
  cases hf : s.windows.find? _ with
  | some y =>
    have hy := List.find?_some hf
    exact .inl ⟨y, List.mem_of_find?_eq_some hf, (hiff y).mp hy, rfl⟩
  | none => exact .inr ⟨fun y hy hd => List.find?_eq_none.mp hf y hy ((hiff y).mpr hd), rfl⟩

/-- A window register comes back as its image has it, open where it names a window. -/
theorem windowFrom_takes (s : State) (w : WKey) (lo hi : Nat) :
    TakesWindow s w (windowFrom (s.windowNamed w) lo hi) lo hi := by
  have hopen : (hi / 2 ^ 32 % 2 == 1) = true ↔ hi / 2 ^ 32 % 2 = 1 := beq_iff_eq
  have hfields (x : WindowReg) (hx : ∃ o n, x = { imageReg lo hi with isOpen := o, window := n }) :
      x.base.toNat = lo % 2 ^ 58 ∧ x.rows.toNat = hi / 2 ^ 16 % 2 ^ 8 ∧ x.cols.toNat = hi / 2 ^ 24 % 2 ^ 8 ∧
        x.pitchl.toNat = hi / 2 ^ 12 % 2 ^ 4 := by
    obtain ⟨o, n, rfl⟩ := hx
    exact ⟨rfl, rfl, rfl, rfl⟩
  rcases windowNamed_cases s w lo hi with ⟨y, hy, hd, hn⟩ | ⟨hno, hn⟩
  · have hx : windowFrom (s.windowNamed w) lo hi =
        { imageReg lo hi with window := if (imageReg lo hi).isOpen then y.id else 0 } := by
      change (match s.windowNamed w (imageReg lo hi) with
        | some i => if (imageReg lo hi).isOpen then { imageReg lo hi with window := i } else imageReg lo hi
        | none => { imageReg lo hi with isOpen := false }) = _
      rw [hn]
      dsimp only
      split <;> rfl
    obtain ⟨hb, hr, hc, hp⟩ := hfields _ ⟨_, _, hx⟩
    refine ⟨hb, hr, hc, hp, ?_, fun ho => ⟨y, ⟨hy, hd⟩, ?_⟩⟩
    · rw [hx]
      exact hopen.trans (and_iff_left ⟨y, hy, hd⟩).symm
    · rw [hx] at ho ⊢
      exact if_pos ho
  · have hx : windowFrom (s.windowNamed w) lo hi = { imageReg lo hi with isOpen := false, window := 0 } := by
      change (match s.windowNamed w (imageReg lo hi) with
        | some i => if (imageReg lo hi).isOpen then { imageReg lo hi with window := i } else imageReg lo hi
        | none => { imageReg lo hi with isOpen := false }) = _
      rw [hn]
      rfl
    obtain ⟨hb, hr, hc, hp⟩ := hfields _ ⟨_, _, hx⟩
    rw [hx] at hb hr hc hp ⊢
    refine ⟨hb, hr, hc, hp, ?_, fun ho => by simp at ho⟩
    exact iff_of_false (by simp) fun ⟨_, y, hy, hd⟩ => hno y hy hd

theorem Describes.of_bare {w : WKey} {lo hi : Nat} {x y : Window} (h : Describes w lo hi y) (e : x.bare = y.bare) :
    Describes w lo hi x := by
  simp only [Window.bare, Window.mk.injEq] at e
  obtain ⟨-, hc, hs, hb, hr, hk, hp, -⟩ := e
  rwa [Describes, hc, hs, hb, hr, hk, hp]

/-- Pins and poisoned lines do not matter to what a window register takes. -/
theorem takesWindow_congr {s t : State} (h : SameWindows s t) {w : WKey} {x : WindowReg} {lo hi : Nat}
    (ht : TakesWindow t w x lo hi) : TakesWindow s w x lo hi := by
  obtain ⟨hb, hr, hc, hp, ho, hw⟩ := ht
  refine ⟨hb, hr, hc, hp, ho.trans (and_congr_right fun _ => ⟨?_, ?_⟩), fun hopen => ?_⟩
  · rintro ⟨y, hy, hd⟩
    obtain ⟨z, hz, e⟩ := h.mem hy
    exact ⟨z, hz, Describes.of_bare hd e⟩
  · rintro ⟨y, hy, hd⟩
    obtain ⟨z, hz, e⟩ := SameWindows.mem ⟨h.bare.symm⟩ hy
    exact ⟨z, hz, Describes.of_bare hd e⟩
  · obtain ⟨y, ⟨hy, hd⟩, hn⟩ := hw hopen
    obtain ⟨z, hz, e⟩ := h.mem hy
    exact ⟨z, ⟨hz, Describes.of_bare hd e⟩, hn.trans (congrArg Window.id e).symm⟩

/-! ## The restore -/

theorem Seq.restored_takes (x : Seq) (r : List Byte) : TakesRecord (x.restored r) r := by
  refine ⟨rfl, rfl, rfl, rfl, rfl, rfl, rfl, rfl, rfl, rfl, rfl, rfl, rfl, rfl, fun k hk => ?_, loopsFrom_length _ _⟩
  obtain ⟨hread, -, hmark⟩ :=
    Bank.fromWords_registers Bank.reset ((List.range 32).map fun k => wordAt r (12 + k)) (wordAt r 9) k hk
  rw [getD_map_range _ k.isLt] at hread
  refine ⟨hread, Bool.eq_iff_iff.mpr (hmark.trans ?_)⟩
  rw [BitVec.getLsbD_ofNat, decide_eq_true (k.isLt.trans (by decide)), Bool.true_and]

/-- The worker, once its record is back: where it was placed, and its window registers as they came back. -/
theorem held_restored {s a e b d : State} {w : WKey} {p : Place} {r ws : List Byte} {v : State} (hw : s.Holds (.worker w))
    (ha : (((s.placeWorker w p).dropClean p.vc).dropGuests p.die).restoreSpad w = some a)
    (hv : a.frameRead w 0x300 0x80 = some (v, ws))
    (he : a.restoreWindowRegs w = some e) (hb : e.loadVector w = some b) (hd : b.frameRead w 0 0x1F0 = some (d, r)) :
    d.Holds (.worker w) ∧ (d.seqD (.worker w)).held =
      (p, (s.seqD (.worker w)).w.moves + 1, (s.seqD (.worker w)).w.mxHeld, (s.seqD (.worker w)).w.ceHeld,
        restoredWindows v w ws) := by
  obtain ⟨u1, pad, q1, rfl⟩ := restoreSpad_some ha
  obtain ⟨u2, ws', hr2, rfl⟩ := restoreWindowRegs_some he
  obtain ⟨rfl, rfl⟩ := Prod.mk.inj (Option.some.inj (hr2.symm.trans hv))
  obtain ⟨u3, code, vr, m, q, q3, rfl⟩ := loadVector_some hb
  have q0 : Quiet (s.modSeq (.worker w) fun x => x.placed p (!s.vcBusy p) (s.ctx w.ctx).csvec) u1 :=
    ((quiet_shrinkCache ..).trans ((quiet_dropClean ..).trans (quiet_dropGuests ..))).trans q1
  have h0 := hw.modSeq (.worker w) fun x => x.placed p (!s.vcBusy p) (s.ctx w.ctx).csvec
  have h1 := (h0.quiet q0).modSeq (.worker w) fun x => { x with w := { x.w with spad := pad } }
  have q2 := quiet_frameRead hv
  have h2 := (h1.quiet q2).modSeq (.worker w) fun x => { x with w := { x.w with win := restoredWindows u2 w ws' } }
  have q4 := quiet_frameRead hd
  have h3 := (h2.quiet q3).modSeq (.worker w) fun x =>
    { x with w := { x.w with vncode := code, vsaved := false, v := vr, m := m, q := q } }
  refine ⟨h3.quiet q4, ?_⟩
  rw [q4.seqD, State.seqD_modSeq_same _ (h2.quiet q3), q3.seqD, State.seqD_modSeq_same _ (h1.quiet q2), q2.seqD,
    State.seqD_modSeq_same _ (h0.quiet q0), q0.seqD, State.seqD_modSeq_same _ hw]
  rfl

theorem getD_restoredWindows (s : State) (w : WKey) (r : List Byte) {k : Nat} (h : k < 8) :
    (restoredWindows s w r).getD k WindowReg.reset =
      windowFrom (s.windowNamed w) (wordAt r (2 * k)) (wordAt r (2 * k + 1)) := by
  simp [restoredWindows, Vector.getD, h]

/-- R53, R259: a saved worker of a launch that is resumed is placed and takes its record back. -/
theorem restore_takes {s a e b d v : State} {w : WKey} {l : Launch} {p : Place} {y : Seq} {r ws : List Byte}
    (hl : s.launch? w.ctx w.slot = some l) (hy : s.getSeq (.worker w) = some y) (hphase : l.phase = .restoring)
    (hrun : y.run = .saved) (hcor : blockCor l.block = false) (hp : s.choosePlace l (s.stageD w) = some p)
    (hmx : y.w.mxHeld = 0) (hce : y.w.ceHeld = 0)
    (ha : (((s.placeWorker w p).dropClean p.vc).dropGuests p.die).restoreSpad w = some a)
    (hv : a.frameRead w 0x300 0x80 = some (v, ws))
    (he : a.restoreWindowRegs w = some e) (hb : e.loadVector w = some b) (hd : b.frameRead w 0 0x1F0 = some (d, r))
    (hbar : wordAt r 11 < 2 ^ 63 ∨ (BitVec.ofNat 64 (wordAt r 1)).getLsbD 18 = true) :
    ∃ t, exec (.restore w) s = .next t ∧ TakesRecord (t.seqD (.worker w)) r ∧
      (t.seqD (.worker w)).w.place = p ∧ (t.seqD (.worker w)).w.moves = y.w.moves + 1 ∧
      ∀ k, k < 8 → TakesWindow a w ((t.seqD (.worker w)).w.win.getD k WindowReg.reset)
        (wordAt ws (2 * k)) (wordAt ws (2 * k + 1)) := by
  have hw : s.Holds (.worker w) := Option.isSome_iff_exists.mpr ⟨y, hy⟩
  have hsy := State.seqD_of_getSeq hy
  obtain ⟨hdw, hheld⟩ := held_restored hw ha hv he hb hd
  rw [hsy, hmx, hce] at hheld
  have hseq : (d.modSeq (.worker w) fun x => x.restored r).seqD (.worker w) = (d.seqD (.worker w)).restored r :=
    State.seqD_modSeq_same _ hdw
  simp only [Seq.held, Prod.mk.injEq] at hheld
  obtain ⟨hplace, hmoves, hm0, hc0, hwin⟩ := hheld
  have hat := restoreAt_of_record ha he hb hd hbar (forksOf_of_none (by rw [hseq]; exact hm0) (by rw [hseq]; exact hc0))
  have hgo : (l.phase != .restoring || (s.seqD (.worker w)).run != .saved) = false := by
    simp [hphase, hsy, hrun]
  have hexec : exec (.restore w) s = .next (State.modLaunch (s.restoreAt w p) w.ctx w.slot fun x =>
      if ((s.restoreAt w p).savedWorkers l).isEmpty && x.phase == .restoring then { x with phase := .admitted } else x) := by
    change execRestore w s = _
    simp only [execRestore, hl, hgo, hcor, foldOpt, State.placeOne, hp, Option.map_some, Bool.false_eq_true, if_false]
  have ht (f : Launch → Launch) : ((s.restoreAt w p).modLaunch w.ctx w.slot f).seqD (.worker w) =
      (d.seqD (.worker w)).restored r := by
    rw [hat]
    exact hseq
  refine ⟨_, hexec, ?_⟩
  rw [ht]
  refine ⟨Seq.restored_takes _ r, hplace, hmoves, fun k hk => ?_⟩
  have hk' : ((d.seqD (.worker w)).restored r).w.win = restoredWindows v w ws := hwin
  rw [hk', getD_restoredWindows v w ws hk]
  exact takesWindow_congr (sameWindows_frameRead hv) (windowFrom_takes ..)

end Sys2Proof.Machine
end

section
/-! SUPPORT. The workers of a COR launch are restored together: nothing in a restore saves a sequencer (R50, R259). -/

namespace Sys2Proof.Machine

/-! ## Sequencers that are not saved -/

/-- No sequencer of `s` becomes saved in `t`. -/
structure NoneSaved (s t : State) : Prop where
  stays : ∀ q, (s.seqD q).run ≠ .saved → (t.seqD q).run ≠ .saved

theorem NoneSaved.refl (s : State) : NoneSaved s s := ⟨fun _ h => h⟩

theorem NoneSaved.trans {s t u : State} (h : NoneSaved s t) (k : NoneSaved t u) : NoneSaved s u :=
  ⟨fun q hq => k.stays q (h.stays q hq)⟩

theorem NoneSaved.of_getSeq {s t : State} (h : ∀ q, t.getSeq q = s.getSeq q) : NoneSaved s t :=
  ⟨fun q hq => by rwa [State.seqD, h]⟩

theorem Quiet.noneSaved {s t : State} (h : Quiet s t) : NoneSaved s t := .of_getSeq h.getSeq

theorem noneSaved_modSeq (s : State) (q : SeqId) {f : Seq → Seq} (hf : ∀ x, x.run ≠ .saved → (f x).run ≠ .saved) :
    NoneSaved s (s.modSeq q f) := by
  refine ⟨fun r hr => ?_⟩
  by_cases e : r = q
  · subst e
    rw [State.seqD, State.getSeq_modSeq_same]
    cases hs : s.getSeq r with
    | none => simp [Seq.reset]
    | some x =>
      rw [State.seqD_of_getSeq hs] at hr
      exact hf x hr
  · rwa [State.seqD_modSeq_ne f e]

/-- A worker that is given another standing is not saved. -/
theorem run_modSeq_ne_saved (s : State) (q : SeqId) {f : Seq → Seq} (hf : ∀ x, (f x).run ≠ .saved) :
    ((s.modSeq q f).seqD q).run ≠ .saved := by
  rw [State.seqD, State.getSeq_modSeq_same]
  cases s.getSeq q with
  | none => simp [Seq.reset]
  | some x => exact hf x

theorem noneSaved_foldOpt {α : Type} {f : State → α → Option State} (hf : ∀ s a t, f s a = some t → NoneSaved s t)
    {l : List α} {s t : State} (h : foldOpt f l s = some t) : NoneSaved s t :=
  foldOpt_induct (P := NoneSaved s) (fun a x b ha hb => ha.trans (hf a x b hb)) (NoneSaved.refl s) h

/-! ## A fault of the frame -/

theorem State.logFault_getSeq (s : State) (c slot wid cause : Nat) (body : List Nat) (time : Word) (q : SeqId) :
    (s.logFault c slot wid cause body time).getSeq q = s.getSeq q := by
  unfold State.logFault
  extract_lets x log pa y
  split
  · split <;> rfl
  · exact (quiet_writeRecord ..).getSeq q

theorem noneSaved_frameFault (s : State) (w : WKey) : NoneSaved s (s.frameFault w) :=
  .of_getSeq fun q => State.logFault_getSeq s _ _ _ _ _ _ q

/-! ## Traps -/

theorem noneSaved_saveBlocks {s t : State} {w : WKey} (h : s.saveBlocks w = some t) : NoneSaved s t := by
  refine noneSaved_foldOpt (fun a k b hb => ?_) h
  dsimp only at hb
  split at hb
  · simp at hb
  · rename_i c hc
    cases hb
    refine NoneSaved.trans (noneSaved_foldOpt (fun a' j b' hb' => ?_) hc) (noneSaved_modSeq _ _ fun x hx => hx)
    split at hb'
    · exact (quiet_frameWrite hb').noneSaved
    · cases hb'
      exact NoneSaved.refl _

theorem noneSaved_saveVector {s t : State} {w : WKey} (h : s.saveVector w = some t) : NoneSaved s t := by
  unfold State.saveVector at h
  split at h
  · cases h
    exact NoneSaved.refl _
  split at h
  · simp at h
  rename_i s1 h1
  split at h
  · simp at h
  rename_i s2 h2
  split at h
  · simp at h
  rename_i s3 h3
  extract_lets x at h
  split at h
  · simp at h
  rename_i s4 h4
  split at h
  · simp at h
  rename_i s5 h5
  cases h
  have k2 : NoneSaved s1 s2 := noneSaved_foldOpt (fun _ _ _ hb => (quiet_frameWrite hb).noneSaved) h2
  have k3 : NoneSaved s2 s3 := by
    unfold State.saveExtents at h3
    extract_lets x at h3
    split at h3
    · simp at h3
    · rename_i h6
      exact ((quiet_frameWrite h6).trans (quiet_frameWrite h3)).noneSaved
  exact ((((noneSaved_saveBlocks h1).trans k2).trans k3).trans
    ((quiet_frameWrite h4).trans (quiet_frameModify h5)).noneSaved).trans (noneSaved_modSeq _ _ fun x hx => hx)

theorem noneSaved_postWorker {s t : State} {w : WKey} {operand : Word} {nested direct : Bool}
    (h : s.postWorker w operand nested direct = some t) : NoneSaved s t := by
  unfold State.postWorker at h
  split at h
  · simp at h
  rename_i s1 h1
  split at h
  · simp at h
  rename_i s2 h2
  split at h
  · simp at h
  rename_i s3 h3
  extract_lets x at h
  cases h
  have k3 : NoneSaved s s3 := (noneSaved_saveVector h1).trans ((quiet_frameWrite h2).trans (quiet_frameModify h3)).noneSaved
  refine k3.trans (NoneSaved.trans ((quiet_post ..).noneSaved) (noneSaved_modSeq _ _ fun x _ => ?_))
  simp

theorem noneSaved_takeWorkerTrap (s : State) (w : WKey) (t : Trap) : NoneSaved s (s.takeWorkerTrap w t) := by
  unfold State.takeWorkerTrap
  extract_lets q nested s1 x written
  have h1 : NoneSaved s s1 := NoneSaved.trans (noneSaved_modSeq s q (f := fun x => x.noteTrap t) fun x hx => hx) (quiet_clearResv ..).noneSaved
  cases hw : written with
  | none => exact h1.trans (noneSaved_frameFault ..)
  | some s2 =>
    have h2 : NoneSaved s s2 := by
      refine h1.trans ?_
      change (if nested then some s1 else s1.frameWrite w 0 _) = some s2 at hw
      split at hw
      · cases hw
        exact NoneSaved.refl _
      · exact (quiet_frameWrite hw).noneSaved
    dsimp only
    split
    · split
      · exact h2.trans (noneSaved_frameFault ..)
      · rename_i hp
        exact h2.trans (noneSaved_postWorker hp)
    · exact h2.trans (noneSaved_modSeq _ _ (by simp))

theorem noneSaved_raiseOn (s : State) (w : WKey) (t : Trap) : NoneSaved s (s.raiseOn (.worker w) t) := by
  have h1 : NoneSaved s (s.modSeq (.worker w) fun x => { x with trap := some t }) := noneSaved_modSeq _ _ fun x hx => hx
  unfold State.raiseOn
  extract_lets s1
  split
  · rename_i s2 he
    refine h1.trans ?_
    unfold State.enterTrap at he
    split at he
    · simp at he
    · dsimp only at he
      split at he
      · cases he
        unfold State.takeDrained
        split
        · exact noneSaved_takeWorkerTrap ..
        · exact NoneSaved.trans (noneSaved_modSeq _ _ (by exact fun x hx => hx)) (noneSaved_takeWorkerTrap ..)
      · simp at he
  · exact h1

/-! ## The restore -/

theorem noneSaved_restoreFork {s t : State} {w : WKey} {q : SeqId} (h : s.restoreFork w q = some t) : NoneSaved s t := by
  unfold State.restoreFork at h
  split at h
  · simp at h
  · rename_i s1 r hr
    extract_lets st at h
    cases h
    refine (quiet_frameRead hr).noneSaved.trans (noneSaved_modSeq _ _ fun x _ => ?_)
    dsimp only
    split <;> simp

theorem quiet_acquire (s : State) (q : SeqId) (scope : Nat) : Quiet s (s.acquire q scope) := by
  have h1 : Quiet s (if 1 ≤ scope then
      match s.cacheOf q with
      | some o => s.dropClean o
      | none => s
    else s) := by
    refine Quiet.ite _ ?_ (Quiet.refl s)
    cases s.cacheOf q with
    | some o => exact quiet_dropClean s o
    | none => exact Quiet.refl s
  unfold State.acquire
  exact Quiet.ite _ (h1.trans (quiet_dropGuests ..)) h1

theorem noneSaved_rejoin (s : State) (w : WKey) (bw : Nat) (bar : Word) : NoneSaved s (s.rejoin w bw bar) := by
  unfold State.rejoin
  split
  · exact NoneSaved.refl s
  · extract_lets q
    split
    · split
      · exact noneSaved_raiseOn ..
      · split
        · exact (quiet_acquire ..).noneSaved
        · exact noneSaved_modSeq _ _ fun x _ => by simp
    · exact NoneSaved.refl s

theorem noneSaved_restored {s t : State} {w : WKey} {p : State × Nat}
    (ht : ((s.restoreSpad w).bind fun s1 => s1.restoreWindowRegs w).bind (fun s2 => s2.restoreRecord w) = some p) (e : p.1 = t) :
    NoneSaved s t := by
  obtain ⟨s2, h2, hrec⟩ := Option.bind_eq_some_iff.mp ht
  obtain ⟨s1, h1, hwin⟩ := Option.bind_eq_some_iff.mp h2
  obtain ⟨u1, pad, q1, rfl⟩ := restoreSpad_some h1
  obtain ⟨u2, r, hr2, rfl⟩ := restoreWindowRegs_some hwin
  have k1 : NoneSaved s (u1.modSeq (.worker w) fun x => { x with w := { x.w with spad := pad } }) :=
    q1.noneSaved.trans (noneSaved_modSeq _ _ fun x hx => hx)
  have k2 := k1.trans ((quiet_frameRead hr2).noneSaved.trans
    (noneSaved_modSeq u2 (.worker w) (f := fun x => { x with w := { x.w with win := restoredWindows u2 w r } }) fun x hx => hx))
  unfold State.restoreRecord at hrec
  split at hrec
  · simp at hrec
  rename_i s3 h3
  split at hrec
  · simp at hrec
  rename_i s4 r' h4
  obtain ⟨u3, code, v, m, qs, q3, rfl⟩ := loadVector_some h3
  obtain rfl := Option.some.inj hrec
  obtain rfl := e
  refine k2.trans (q3.noneSaved.trans (NoneSaved.trans (noneSaved_modSeq _ _ (by exact fun x hx => hx))
    ((quiet_frameRead h4).noneSaved.trans (noneSaved_modSeq _ _ fun x _ => ?_))))
  dsimp only
  split <;> simp

/-- A restore saves nothing, and its worker is saved no longer. -/
theorem restoreAt_unsaves (s : State) (w : WKey) (p : Place) :
    NoneSaved s (s.restoreAt w p) ∧ ((s.restoreAt w p).seqD (.worker w)).run ≠ .saved := by
  have hparked : NoneSaved s (s.placeWorker w p) ∧ ((s.placeWorker w p).seqD (.worker w)).run ≠ .saved := by
    have hq := quiet_shrinkCache (s.modSeq (.worker w) fun x => x.placed p (!s.vcBusy p) (s.ctx w.ctx).csvec) p.vc (s.cacheLines p.vc)
    refine ⟨NoneSaved.trans (noneSaved_modSeq s _ fun x _ => by simp [Seq.placed]) hq.noneSaved, ?_⟩
    rw [State.placeWorker, hq.seqD]
    exact run_modSeq_ne_saved _ _ fun x => by simp [Seq.placed]
  have hafter : NoneSaved (s.placeWorker w p) (s.restoreAt w p) := by
    have hdrop : NoneSaved (s.placeWorker w p) (((s.placeWorker w p).dropClean p.vc).dropGuests p.die) :=
      ((quiet_dropClean ..).trans (quiet_dropGuests ..)).noneSaved
    -- Unfolded as a function, for the same reason as in `restoreSpad_some`.
    have body := Eq.refl State.restoreAt
    conv at body => rhs; delta State.restoreAt
    rw [body]
    beta_reduce
    extract_lets q s0 done
    obtain ⟨o, hdone⟩ : ∃ o, done = o := ⟨_, rfl⟩
    have hs0 : s0 = s.placeWorker w p := rfl
    rw [hdone]
    split
    · rw [hs0]
      exact noneSaved_frameFault ..
    · rename_i s2 bw
      have h2 := hdrop.trans (noneSaved_restored hdone rfl)
      split
      · exact h2.trans (noneSaved_frameFault ..)
      · rename_i s3 hforks
        have h3 := h2.trans (noneSaved_foldOpt (fun _ _ _ hb => noneSaved_restoreFork hb) hforks)
        exact h3.trans ((noneSaved_rejoin ..).trans (.of_getSeq fun _ => rfl))
  exact ⟨hparked.1.trans hafter, hafter.stays _ hparked.2⟩

theorem placeOne_unsaves {s t : State} {l : Launch} {w : WKey} (h : s.placeOne l w = some t) :
    NoneSaved s t ∧ (t.seqD (.worker w)).run ≠ .saved := by
  obtain ⟨p, -, rfl⟩ := Option.map_eq_some_iff.mp h
  exact restoreAt_unsaves s w p

theorem foldOpt_placeOne_unsaves {l : Launch} (ws : List WKey) : ∀ {s t : State},
    foldOpt (fun (acc : State) v => acc.placeOne l v) ws s = some t →
    NoneSaved s t ∧ ∀ v ∈ ws, (t.seqD (.worker v)).run ≠ .saved := by
  induction ws with
  | nil =>
    intro s t h
    cases h
    exact ⟨NoneSaved.refl s, by simp⟩
  | cons w ws ih =>
    intro s t h
    rw [foldOpt] at h
    cases hw : s.placeOne l w with
    | none => simp [hw] at h
    | some u =>
      rw [hw] at h
      obtain ⟨hu, hwu⟩ := placeOne_unsaves hw
      obtain ⟨ht, hws⟩ := ih h
      refine ⟨hu.trans ht, fun v hv => ?_⟩
      rcases List.mem_cons.mp hv with rfl | hv
      · exact ht.stays _ hwu
      · exact hws v hv

/-- R50: the workers of a COR launch are restored together or not at all. -/
theorem restore_cor {s : State} {w : WKey} {l : Launch} (hl : s.launch? w.ctx w.slot = some l) (hphase : l.phase = .restoring)
    (hrun : (s.seqD (.worker w)).run = .saved) (hcor : blockCor l.block = true) :
    ∃ t, exec (.restore w) s = .next t ∧ (t = s ∨ ∀ v ∈ s.savedWorkers l, (t.seqD (.worker v)).run ≠ .saved) := by
  have hgo : (l.phase != .restoring || (s.seqD (.worker w)).run != .saved) = false := by simp [hphase, hrun]
  cases hf : foldOpt (fun (acc : State) v => acc.placeOne l v) (s.savedWorkers l) s with
  | none =>
    refine ⟨s, ?_, .inl rfl⟩
    change execRestore w s = _
    simp only [execRestore, hl, hgo, hcor, if_true, hf, Bool.false_eq_true, if_false]
  | some u =>
    obtain ⟨-, hu⟩ := foldOpt_placeOne_unsaves _ hf
    have hexec : exec (.restore w) s = .next (u.modLaunch w.ctx w.slot fun x =>
        if (u.savedWorkers l).isEmpty && x.phase == .restoring then { x with phase := .admitted } else x) := by
      change execRestore w s = _
      simp only [execRestore, hl, hgo, hcor, if_true, hf, Bool.false_eq_true, if_false]
    exact ⟨_, hexec, .inr hu⟩

end Sys2Proof.Machine
end

section
/-! SUPPORT. A posted worker is released, and the workers of a VC switch (R49, R257). -/

namespace Sys2Proof.Machine

/-! ## A worker that is stopped -/

theorem State.getSeq_dropSeq_ne {s : State} {q r : SeqId} (h : r ≠ q) : (s.dropSeq q).getSeq r = s.getSeq r := by
  unfold State.dropSeq
  split
  · rename_i e
    have hr : r ≠ s.cur := e ▸ h
    simp [State.getSeq, hr]
  · by_cases hr : r = s.cur
    · simp [State.getSeq, hr]
    · simp [State.getSeq, hr, assocFind_assocDrop_ne h]

@[simp] theorem State.dropSeq_launches (s : State) (q : SeqId) : (s.dropSeq q).launches = s.launches := by
  unfold State.dropSeq
  split <;> rfl

/-- A sequencer that ceases to exist, but for the place of the current one, which stays as ended. -/
theorem State.dropSeq_gone (s : State) (q : SeqId) :
    (s.dropSeq q).getSeq q = none ∨ ((s.dropSeq q).seqD q).run = .ended := by
  by_cases h : q = s.cur
  · refine .inr ?_
    subst h
    simp [State.dropSeq, State.seqD, State.getSeq]
  · exact .inl (State.getSeq_dropSeq_same h)

/-- A worker that gives its record up changes of its launch only the rings. -/
theorem launch?_releaseRecord {s : State} {w : WKey} {l : Launch} (hl : s.launch? w.ctx w.slot = some l) :
    ∃ rs, (s.releaseRecord w).launch? w.ctx w.slot = some { l with rings := rs } := by
  cases h : (s.seqD (.worker w)).w.record with
  | none => exact ⟨l.rings, by rw [State.releaseRecord_none h, hl]⟩
  | some p =>
    refine ⟨(l.giveUp (s.seqD (.worker w)).w.stage p).rings, ?_⟩
    have hto : s.releaseRecord w = (s.modLaunch w.ctx w.slot fun l => l.giveUp (s.seqD (.worker w)).w.stage p).modSeq (.worker w)
        fun y => { y with w := { y.w with record := none } } := by
      simp only [State.releaseRecord, h]
      rfl
    rw [hto, State.launch?_congr (State.modSeq_launches ..)]
    exact State.launch?_modLaunch_some (fun l => l.giveUp (s.seqD (.worker w)).w.stage p) hl fun l => ⟨rfl, rfl⟩

theorem stopWorker_leaves {s : State} {w : WKey} {l : Launch} (hl : s.launch? w.ctx w.slot = some l) :
    ((s.stopWorker w).getSeq (.worker w) = none ∨ ((s.stopWorker w).seqD (.worker w)).run = .ended) ∧
      ∃ rs, (s.stopWorker w).launch? w.ctx w.slot = some { l with rings := rs } := by
  unfold State.stopWorker
  extract_lets forks s1 x
  have h1 : s1.launches = s.launches := by
    have hfold (qs : List SeqId) : ∀ v : State,
        (qs.foldl (fun (acc : State) q => (acc.stopAtOnce q).dropSeq q) v).launches = v.launches := by
      induction qs with
      | nil => exact fun _ => rfl
      | cons q qs ih => exact fun v => (ih _).trans (State.dropSeq_launches ..)
    exact hfold forks _
  have h2 (v : State) (hv : v.launches = s.launches) : ((v.removeWorker w).getSeq (.worker w) = none ∨
      ((v.removeWorker w).seqD (.worker w)).run = .ended) ∧
      ∃ rs, (v.removeWorker w).launch? w.ctx w.slot = some { l with rings := rs } := by
    refine ⟨State.dropSeq_gone _ _, ?_⟩
    obtain ⟨rs, hrs⟩ := launch?_releaseRecord ((State.launch?_congr hv ..).trans hl)
    refine ⟨rs, ?_⟩
    rw [State.removeWorker, State.launch?_congr (State.dropSeq_launches ..)]
    exact hrs
  refine h2 _ ?_
  split
  · exact h1
  · exact (quiet_flushCache ..).launches.trans h1

theorem launch?_countFault {s : State} {c slot : Nat} {l : Launch} (hl : s.launch? c slot = some l) (ht : l.torn = false) :
    (s.countFault c slot).launch? c slot = some { l with faults := min 65535 (l.faults + 1) } := by
  have h := State.launch?_modLaunch_some (fun l => if l.torn then l else { l with faults := Nat.min 65535 (l.faults + 1) }) hl
    fun l => by
      split <;> exact ⟨rfl, rfl⟩
  rw [ht] at h
  exact h

/-! ## RELEASE -/

theorem release_cases {s u : State} {w : WKey} {bs : List Byte} (hrun : (s.seqD (.worker w)).run = .parked .kpost)
    (hread : s.frameRead w 0x1F8 8 = some (u, bs)) :
    (bytesNum bs = 1 → s.returnWaits (.worker w) = false → exec (.release w) s = .next (u.returnWorker w)) ∧
    (bytesNum bs = 1 → s.returnWaits (.worker w) = true → exec (.release w) s = .next s) ∧
    (bytesNum bs = 2 → s.pushesOf w = false →
      exec (.release w) s = .next ((u.countFault w.ctx w.slot).stopWorker w)) := by
  have hgo : ((s.seqD (.worker w)).run != .parked .kpost) = false := by simp [hrun]
  refine ⟨fun h1 hw => ?_, fun h1 hw => ?_, fun h2 hp => ?_⟩
  · change execRelease w s = _
    simp [execRelease, hgo, hread, h1, hw]
  · change execRelease w s = _
    simp [execRelease, hgo, hread, h1, hw]
  · change execRelease w s = _
    simp [execRelease, hgo, hread, h2, hp]

/-! ## WORKER_SWITCH -/

/-- A worker that leaves its core or takes it. -/
def Seq.stands (x : Seq) (on : Bool) : Seq := { x with w := { x.w with onCore := on } }

theorem onCore_foldl_leaves {v : WKey} (ws : List (WKey × Seq)) : ∀ s : State, s.Holds (.worker v) →
    ((s.seqD (.worker v)).w.onCore = false ∨ ∃ p ∈ ws, p.1 = v) →
    (ws.foldl (fun (acc : State) p => acc.modSeq (.worker p.1) fun x => x.stands false) s).Holds (.worker v) ∧
      ((ws.foldl (fun (acc : State) p => acc.modSeq (.worker p.1) fun x => x.stands false) s).seqD (.worker v)).w.onCore = false := by
  induction ws with
  | nil =>
    intro s hs h
    exact ⟨hs, h.resolve_right (by simp)⟩
  | cons q ws ih =>
    intro s hs h
    refine ih _ (hs.modSeq _ _) ?_
    by_cases e : q.1 = v
    · subst e
      exact .inl (by rw [State.seqD_modSeq_same _ hs]; rfl)
    · have hne : SeqId.worker v ≠ .worker q.1 := fun h => e (SeqId.worker.inj h).symm
      rw [State.seqD_modSeq_ne _ hne]
      refine h.imp_right fun ⟨p, hp, hpv⟩ => ⟨p, ?_, hpv⟩
      have hpq : p ≠ q := by
        rintro rfl
        exact e hpv
      exact List.mem_of_ne_of_mem hpq hp

theorem holds_foldl_leaves {v : WKey} (ws : List (WKey × Seq)) : ∀ s : State, s.Holds (.worker v) →
    (ws.foldl (fun (acc : State) p => acc.modSeq (.worker p.1) fun x => x.stands false) s).Holds (.worker v) := by
  induction ws with
  | nil => exact fun _ h => h
  | cons q ws ih => exact fun s h => ih _ (h.modSeq _ _)

theorem workerSwitch_switches {s : State} {vc : Nat} {w : WKey} {y : Seq}
    (hf : (s.residents.filter fun p => p.2.w.place.vc == vc).find? (fun p => !p.2.w.onCore && p.2.run == .running) = some (w, y))
    (hidle : ∀ p ∈ s.residents.filter fun p => p.2.w.place.vc == vc, p.2.w.onCore = true →
      p.2.run.switches = true ∧ s.vecIdle (.worker p.1) = true) (hw : s.Holds (.worker w)) :
    ∃ t, exec (.workerSwitch vc) s = .next t ∧ (t.seqD (.worker w)).w.onCore = true ∧
      ∀ p ∈ s.residents.filter fun p => p.2.w.place.vc == vc, p.1 ≠ w → (s.getSeq (.worker p.1)).isSome →
        (t.seqD (.worker p.1)).w.onCore = false := by
  have hbusy : ((s.residents.filter fun p => p.2.w.place.vc == vc).any fun p =>
      p.2.w.onCore && !(p.2.run.switches && s.vecIdle (.worker p.1))) = false := by
    rw [List.any_eq_false]
    intro p hp
    cases ho : p.2.w.onCore with
    | false => simp
    | true =>
      obtain ⟨h1, h2⟩ := hidle p hp ho
      simp [h1, h2]
  refine ⟨State.modSeq ((s.residents.filter fun p => p.2.w.place.vc == vc).foldl (fun (acc : State) p =>
    acc.modSeq (.worker p.1) fun x => x.stands false) s) (.worker w) fun x => x.stands true, ?_, ?_, fun p hp hne hh => ?_⟩
  · change execWorkerSwitch vc s = _
    simp only [execWorkerSwitch, hf, hbusy, Bool.false_eq_true, if_false]
    rfl
  · rw [State.seqD_modSeq_same _ (holds_foldl_leaves _ s hw)]
    rfl
  · have hq : SeqId.worker p.1 ≠ .worker w := fun e => hne (SeqId.worker.inj e)
    rw [State.seqD_modSeq_ne _ hq]
    obtain ⟨-, h⟩ := onCore_foldl_leaves _ s hh (.inr ⟨p, hp, rfl⟩)
    exact h

/-- Saved workers return, posted ones are released, and a VC's standby worker takes over. -/
theorem workersReturnAndSwitch : Claims.WorkersReturnAndSwitch := by
  refine ⟨?_, ?_, ?_, ?_⟩
  · intro s a e b d w l p y r ws hl hy hphase hrun hcor hp hmx hce h hbar
    obtain ⟨ha, ⟨v, hv⟩, he, hb, hd⟩ := h
    exact restore_takes hl hy hphase hrun hcor hp hmx hce ha hv he hb hd hbar
  · intro s w l hl hphase hrun hcor
    exact restore_cor hl hphase hrun hcor
  · intro s u w bs hrun hread
    obtain ⟨hreturns, hwaits, hends⟩ := release_cases hrun hread
    refine ⟨hreturns, hwaits, fun l h2 hp hl ht => ?_⟩
    obtain ⟨hgone, rs, hl'⟩ := stopWorker_leaves (launch?_countFault hl ht)
    exact ⟨_, _, hends h2 hp, hgone, hl', rfl⟩
  · intro s vc w y here hf hidle hw
    exact workerSwitch_switches hf hidle hw

/-- Settles O29: by the admission checks, the admission, the ends and the returns of launches. -/
theorem launchesRun : Obligations.LaunchesRun := by
  unfold Obligations.LaunchesRun
  exact ⟨admissionChecksFollowR23, launchesAreAdmitted, launchesEnd, workersReturnAndSwitch⟩

end Sys2Proof.Machine
end

section
/-! SUPPORT. The encoding families: the map of each, from fields to head and tail and back (R62, R70 to R81). -/

namespace Sys2Proof.Machine

/-! ## Bits of words that are put together -/

section
variable {v w s l : Nat} (x : BitVec v) (y : BitVec w)

/-! The maps of R71 to R81 state the width of an append as a number, where the library's lemmas about `++` want a sum:
these four speak of `BitVec.append`, which has no such width. -/

theorem extractLsb'_append_high (h : w ≤ s) : (BitVec.append x y).extractLsb' s l = x.extractLsb' (s - w) l :=
  BitVec.extractLsb'_append_eq_of_le h

theorem extractLsb'_append_low (h : s + l ≤ w) : (BitVec.append x y).extractLsb' s l = y.extractLsb' s l :=
  BitVec.extractLsb'_append_eq_of_add_le h

theorem getLsbD_append_high (h : w ≤ s) : (BitVec.append x y).getLsbD s = x.getLsbD (s - w) :=
  BitVec.getLsbD_append.trans (if_neg (Nat.not_lt.mpr h))

theorem getLsbD_append_low (h : s < w) : (BitVec.append x y).getLsbD s = y.getLsbD s :=
  BitVec.getLsbD_append.trans (if_pos h)

theorem bit1_getLsbD (i : Nat) : bit1 (x.getLsbD i) = x.extractLsb' i 1 := by
  ext j hj
  obtain rfl : j = 0 := by omega
  simp

theorem two_parts {a b : Nat} (z : BitVec (a + b)) : z.extractLsb' b a ++ z.extractLsb' 0 b = z :=
  (BitVec.extractLsb'_append_extractLsb'_eq_extractLsb' (Nat.zero_add b).symm).trans BitVec.extractLsb'_eq_self

theorem toNat_low_bits {n : Nat} (t : BitVec w) (h : n ≤ w) :
    ((t.extractLsb' 0 n).setWidth w).toNat = t.toNat % 2 ^ n := by
  rw [BitVec.toNat_setWidth_of_le h, BitVec.extractLsb'_toNat, Nat.shiftRight_zero]

end

/-! ## Fields, and the family whose map gives them -/

/-- The family of a reading of head and tail. -/
def fieldsFamily : Fields → Option Family
  | .none => none
  | .fn _ => some .n
  | .frg .. => some .rg
  | .fks _ => some .ks
  | .fim .. => some .im
  | .flea _ => some .lea
  | .fjp _ => some .jp
  | .ftr .. => some .tr
  | .fv3 .. => some .v3
  | .fvm _ => some .vm
  | .fwi _ => some .wi
  | .fcj .. => some .cj
  | .fv4 .. => some .v4
  | .fvx .. => some .vx

theorem fieldsFamily_parse (fam : Family) (h : BitVec 7) (t : BitVec 48) : fieldsFamily (parse fam h t) = some fam := by
  cases fam <;> rfl

theorem assemble_tl {fam : Family} {F : Fields} (h : fieldsFamily F = some fam) : F.assemble.1 = fam.tl := by
  cases F <;> cases h <;> rfl

/-- Each field is read where it was put. The minor code of F-RG stands in two parts (R71). -/
theorem parse_assemble {fam : Family} {F : Fields} (h : fieldsFamily F = some fam) :
    parse fam F.assemble.2.1 F.assemble.2.2 = F := by
  have hminor (m : BitVec 6) : (m.extractLsb' 4 2).append (m.extractLsb' 0 4) = m := two_parts (a := 2) (b := 4) m
  cases F <;> cases h <;>
    simp [parse, parseV3, parseVM, Fields.assemble, tailV3, tailVM, HAppend.hAppend, hminor, extractLsb'_append_high,
      extractLsb'_append_low, getLsbD_append_high, getLsbD_append_low, BitVec.extractLsb'_setWidth_of_le,
      BitVec.extractLsb'_eq_self, -BitVec.append_eq, -BitVec.getLsbD_eq_getElem]

/-- The fields of a map cover the head field and the tail to its length. -/
theorem assemble_parse (fam : Family) (h : BitVec 7) (t : BitVec 48) :
    (parse fam h t).assemble = (fam.tl, h, (t.extractLsb' 0 (16 * fam.tl.toNat)).setWidth 48) := by
  have hhead : h.extractLsb' 5 2 ++ h.extractLsb' 0 5 = h := two_parts (a := 2) (b := 5) h
  have hhigh : (h.extractLsb' 5 2 ++ t.extractLsb' 12 4 : BitVec 6).extractLsb' 4 2 = h.extractLsb' 5 2 :=
    BitVec.extractLsb'_append_eq_left
  have hlow : (h.extractLsb' 5 2 ++ t.extractLsb' 12 4 : BitVec 6).extractLsb' 0 4 = t.extractLsb' 12 4 :=
    BitVec.extractLsb'_append_eq_right
  cases fam with
  | n => simp [parse, Fields.assemble, Family.tl]
  | wi => simp [parse, Fields.assemble, Family.tl]
  | rg =>
    simp only [parse, Fields.assemble, hhigh, hlow, hhead, bit1_getLsbD,
      BitVec.extractLsb'_append_extractLsb'_eq_extractLsb']
    rfl
  | _ =>
    simp only [parse, parseV3, parseVM, Fields.assemble, tailV3, tailVM, bit1_getLsbD,
      BitVec.extractLsb'_append_extractLsb'_eq_extractLsb']
    rfl

end Sys2Proof.Machine
end

section
/-! SUPPORT. The opcode map: the row of an opcode with its fields is the row of the instruction it gives, and decoding
and encoding undo each other (R55, R62, R63, R82, R84). -/

namespace Sys2Proof.Machine

open Sys2Proof.Claims (namedOn)

/-! ## Opcodes and families -/

/-- The opcodes of a family; those whose words name several rows by their fields stand first (R63, R82). -/
def opcodesOf : Family → List (BitVec 7)
  | .n => [0x09, 0x00, 0x06, 0x0a, 0x32, 0x33]
  | .jp => [0x30, 0x01, 0x03]
  | .cj => [0x02]
  | .rg => [0x26, 0x04, 0x0e, 0x10, 0x1a, 0x24, 0x25, 0x27, 0x34]
  | .im => [0x3a, 0x0c, 0x05, 0x07, 0x08, 0x0b, 0x0d, 0x11, 0x12, 0x13, 0x14, 0x15, 0x16, 0x20, 0x21, 0x29, 0x31, 0x37,
      0x38, 0x3b, 0x3c, 0x40, 0x41, 0x42, 0x43, 0x4c]
  | .tr => [0x39, 0x3e, 0x78, 0x0f, 0x1b, 0x22, 0x23, 0x28, 0x35, 0x36, 0x3d, 0x3f, 0x4e, 0x70, 0x71, 0x72, 0x73, 0x74,
      0x75, 0x76, 0x79, 0x7a, 0x7b]
  | .wi => [0x17]
  | .ks => [0x18]
  | .lea => [0x19]
  | .vm => [0x44, 0x45, 0x46, 0x47, 0x48, 0x49]
  | .vx => [0x4a, 0x4b, 0x4d]
  | .v3 => [0x4f, 0x50, 0x51, 0x53, 0x54, 0x55, 0x56, 0x57, 0x58, 0x60, 0x62, 0x63, 0x64, 0x66, 0x67, 0x68, 0x6a]
  | .v4 => [0x52, 0x61, 0x65, 0x69]

theorem mem_opcodesOf {op : BitVec 7} {fam : Family} (h : familyOf op = some fam) : op ∈ opcodesOf fam := by
  unfold familyOf at h
  split at h <;> cases h <;> decide

theorem family_of_form {i : Instr} (h : i.isEvent = false) :
    ∃ fam, familyOf i.form.1 = some fam ∧ fieldsFamily i.form.2 = some fam := by
  cases i <;> cases h <;> exact ⟨_, rfl, rfl⟩

/-! ## What the opcode map gives stands in its row -/

/-- An instruction stands, on a sequencer of kind k, in the row that an opcode with its fields names. -/
structure StandsIn (k : SeqKind) (op : BitVec 7) (F : Fields) (i : Instr) : Prop where
  notEvent : i.isEvent = false
  picked : i.formOk = true
  named : namedOn k i = true
  form : i.form = (op, F)

section
variable {k : SeqKind} {op : BitVec 7}

theorem StandsIn.iteKind {F : Fields} {i j : Instr} (hi : k = .cc → StandsIn k op F i)
    (hj : k ≠ .cc → StandsIn k op F j) : StandsIn k op F (if k = .cc then i else j) := by
  split
  · exact hi ‹_›
  · exact hj ‹_›

theorem StandsIn.iteBit {F : Fields} {b : Bool} {i j : Instr} (hi : b = true → StandsIn k op F i)
    (hj : b = false → StandsIn k op F j) : StandsIn k op F (if b then i else j) := by
  cases b
  · exact hj rfl
  · exact hi rfl

/-- The register number of an SWR word picks one of eight rows. -/
theorem swrForm_cases (f : FIM) :
    swrForm f = .xfWrite f ∨ swrForm f = .kpost f ∨ swrForm f = .cdloss f ∨ swrForm f = .rangeRegisterWrite f ∨
      swrForm f = .ccrun f ∨ swrForm f = .cctl f ∨ swrForm f = .cdrel f ∨ swrForm f = .swr f := by
  unfold swrForm
  dsimp only
  split_ifs <;> simp

theorem standsIn_swrForm (f : FIM) : StandsIn k 0x0c (.fim 0 f) (swrForm f) := by
  rcases swrForm_cases f with h | h | h | h | h | h | h | h <;> rw [h] <;>
    exact ⟨rfl, beq_iff_eq.mpr h, rfl, rfl⟩

theorem standsIn_tlbinvForm (f : FTR) : StandsIn k 0x39 (.ftr 0 f) (tlbinvForm f) := by
  unfold tlbinvForm
  split
  case h_1 h => exact ⟨rfl, beq_iff_eq.mpr (BitVec.eq_of_toNat_eq h), rfl, rfl⟩
  case h_2 h => exact ⟨rfl, beq_iff_eq.mpr (BitVec.eq_of_toNat_eq h), rfl, rfl⟩
  case h_3 h0 h1 => exact ⟨rfl, decide_eq_true ((Nat.two_le_iff _).mpr ⟨h0, h1⟩), rfl, rfl⟩

/-! The lemmas of the families go through the rows: at each opcode of the family and each minor code, the map gives
nothing, one instruction, or one that a bit of its fields or the sequencer picks. -/

theorem standsIn_fn (h : op ∈ opcodesOf .n) {f : FN} {i : Instr} (hi : instrOf k op (.fn f) = some i) :
    StandsIn k op (.fn f) i := by
  fin_cases h <;> cases hi
  · exact .iteKind (fun hk => ⟨rfl, rfl, beq_iff_eq.mpr hk, rfl⟩) (fun hk => ⟨rfl, rfl, bne_iff_ne.mpr hk, rfl⟩)
  all_goals exact ⟨rfl, rfl, rfl, rfl⟩

theorem standsIn_fjp (h : op ∈ opcodesOf .jp) {f : FJP} {i : Instr} (hi : instrOf k op (.fjp f) = some i) :
    StandsIn k op (.fjp f) i := by
  fin_cases h <;> cases hi
  · exact .iteBit
      (fun hs => ⟨rfl, hs, rfl, congrArg (fun b => (0x30#7, Fields.fjp { f with sub := b })) hs.symm⟩)
      (fun hs => ⟨rfl, congrArg not hs, rfl, congrArg (fun b => (0x30#7, Fields.fjp { f with sub := b })) hs.symm⟩)
  all_goals exact ⟨rfl, rfl, rfl, rfl⟩

theorem standsIn_frg (h : op ∈ opcodesOf .rg) {m : BitVec 6} {f : FRG} {i : Instr}
    (hi : instrOf k op (.frg m f) = some i) : StandsIn k op (.frg m f) i := by
  fin_cases h <;> fin_cases m <;> cases hi
  · exact .iteBit (fun h => ⟨rfl, h, rfl, rfl⟩) (fun h => ⟨rfl, congrArg not h, rfl, rfl⟩)
  all_goals exact ⟨rfl, rfl, rfl, rfl⟩

theorem standsIn_fim (h : op ∈ opcodesOf .im) {m : BitVec 2} {f : FIM} {i : Instr}
    (hi : instrOf k op (.fim m f) = some i) : StandsIn k op (.fim m f) i := by
  fin_cases h <;> fin_cases m <;> cases hi
  · exact ⟨rfl, rfl, rfl, rfl⟩
  · exact ⟨rfl, rfl, rfl, rfl⟩
  · exact .iteKind (fun hk => ⟨rfl, rfl, beq_iff_eq.mpr hk, rfl⟩) (fun hk => ⟨rfl, rfl, bne_iff_ne.mpr hk, rfl⟩)
  · exact .iteKind (fun hk => ⟨rfl, rfl, beq_iff_eq.mpr hk, rfl⟩) (fun hk => ⟨rfl, rfl, bne_iff_ne.mpr hk, rfl⟩)
  · exact standsIn_swrForm f
  all_goals exact ⟨rfl, rfl, rfl, rfl⟩

theorem standsIn_ftr (h : op ∈ opcodesOf .tr) {m : BitVec 4} {f : FTR} {i : Instr}
    (hi : instrOf k op (.ftr m f) = some i) : StandsIn k op (.ftr m f) i := by
  fin_cases h <;> fin_cases m <;> cases hi
  · exact standsIn_tlbinvForm f
  · exact .iteBit (fun h => ⟨rfl, h, rfl, rfl⟩) (fun h => ⟨rfl, congrArg not h, rfl, rfl⟩)
  · exact .iteBit (fun h => ⟨rfl, h, rfl, rfl⟩) (fun h => ⟨rfl, congrArg not h, rfl, rfl⟩)
  all_goals exact ⟨rfl, rfl, rfl, rfl⟩

theorem standsIn_fv3 (h : op ∈ opcodesOf .v3) {m : BitVec 5} {f : FV3} {i : Instr}
    (hi : instrOf k op (.fv3 m f) = some i) : StandsIn k op (.fv3 m f) i := by
  fin_cases h <;> fin_cases m <;> cases hi <;> exact ⟨rfl, rfl, rfl, rfl⟩

theorem standsIn_fv4 (h : op ∈ opcodesOf .v4) {m : BitVec 5} {f : FV4} {i : Instr}
    (hi : instrOf k op (.fv4 m f) = some i) : StandsIn k op (.fv4 m f) i := by
  fin_cases h <;> fin_cases m <;> cases hi <;> exact ⟨rfl, rfl, rfl, rfl⟩

theorem standsIn_fvx (h : op ∈ opcodesOf .vx) {m : BitVec 4} {f : FVX} {i : Instr}
    (hi : instrOf k op (.fvx m f) = some i) : StandsIn k op (.fvx m f) i := by
  fin_cases h <;> fin_cases m <;> cases hi <;> exact ⟨rfl, rfl, rfl, rfl⟩

theorem standsIn_fcj (h : op ∈ opcodesOf .cj) {m : BitVec 3} {f : FCJ} {i : Instr}
    (hi : instrOf k op (.fcj m f) = some i) : StandsIn k op (.fcj m f) i := by
  obtain rfl := List.mem_singleton.mp h
  fin_cases m <;> cases hi <;> exact ⟨rfl, rfl, rfl, rfl⟩

theorem standsIn_of_instrOf {fam : Family} {F : Fields} {i : Instr} (ho : familyOf op = some fam)
    (hF : fieldsFamily F = some fam) (hi : instrOf k op F = some i) : StandsIn k op F i := by
  have hop := mem_opcodesOf ho
  cases F <;> cases hF
  case fn => exact standsIn_fn hop hi
  case frg => exact standsIn_frg hop hi
  case fim => exact standsIn_fim hop hi
  case fjp => exact standsIn_fjp hop hi
  case ftr => exact standsIn_ftr hop hi
  case fv3 => exact standsIn_fv3 hop hi
  case fcj => exact standsIn_fcj hop hi
  case fv4 => exact standsIn_fv4 hop hi
  case fvx => exact standsIn_fvx hop hi
  case fks => obtain rfl := List.mem_singleton.mp hop; cases hi; exact ⟨rfl, rfl, rfl, rfl⟩
  case flea => obtain rfl := List.mem_singleton.mp hop; cases hi; exact ⟨rfl, rfl, rfl, rfl⟩
  case fwi => obtain rfl := List.mem_singleton.mp hop; cases hi; exact ⟨rfl, rfl, rfl, rfl⟩
  case fvm => fin_cases hop <;> cases hi <;> exact ⟨rfl, rfl, rfl, rfl⟩

end

/-! ## The opcode map gives an instruction from its row -/

theorem instrOf_form {k : SeqKind} {i : Instr} (he : i.isEvent = false) (hp : i.formOk = true)
    (hn : namedOn k i = true) : instrOf k i.form.1 i.form.2 = some i := by
  cases i with
  | bcc c f | vwait c f | vcmp c f | vfcmp c f => cases c <;> rfl
  | amo op f | vamo op f | red op f | vred op f | vreds op f => cases op <;> rfl
  | eretK | ctxsvVK | ctxldVK => exact congrArg some (if_pos (beq_iff_eq.mp hn))
  | eret | ctxsvV | ctxldV => exact congrArg some (if_neg (bne_iff_ne.mp hn))
  | swr | xfWrite | kpost | ccrun | cctl | rangeRegisterWrite | cdloss | cdrel =>
    exact congrArg some (beq_iff_eq.mp hp)
  | srrdHome | nbgoSg | cpyMig => exact congrArg some (if_pos hp)
  | srrd | nbgo | cpy => exact congrArg some (if_neg (by simpa [Instr.formOk] using hp))
  | forkMx f =>
    have h : f.sub = false := by simpa [Instr.formOk] using hp
    exact congrArg (fun b => some (Instr.forkMx { f with sub := b })) h.symm
  | forkCe f => exact congrArg (fun b => some (Instr.forkCe { f with sub := b })) hp.symm
  | tlbinvPage f | tlbinvCtx f =>
    exact congrArg some (by rw [tlbinvForm, beq_iff_eq.mp hp]; rfl)
  | tlbinvAll f =>
    have h : 2 ≤ (f.imm.extractLsb' 0 2).toNat := of_decide_eq_true hp
    refine congrArg some ?_
    unfold tlbinvForm
    split
    · omega
    · omega
    · rfl
  | _ => cases he <;> rfl

/-! ## Words -/

theorem head_parts (w : BitVec 16) : w.extractLsb' 9 7 ++ w.extractLsb' 7 2 ++ w.extractLsb' 0 7 = w := by
  have hopLength : w.extractLsb' 9 7 ++ w.extractLsb' 7 2 = w.extractLsb' 7 9 :=
    BitVec.extractLsb'_append_extractLsb'_eq_extractLsb' rfl
  rw [hopLength]
  exact two_parts (a := 9) (b := 7) w

theorem decode_eq_some_iff {k : SeqKind} {head : BitVec 16} {tail : BitVec 48} {i : Instr} :
    decode k head tail = some i ↔ ∃ fam, familyOf (head.extractLsb' 9 7) = some fam ∧ head.extractLsb' 7 2 = fam.tl ∧
      instrOf k (head.extractLsb' 9 7) (parse fam (head.extractLsb' 0 7) tail) = some i := by
  unfold decode
  split
  · simp [*]
  · rename_i fam h
    by_cases htl : head.extractLsb' 7 2 = fam.tl <;> simp [h, htl]

theorem encode_eq (i : Instr) :
    encode i = (i.form.1 ++ i.form.2.assemble.1 ++ i.form.2.assemble.2.1, i.form.2.assemble.2.2) := rfl

/-- Settles O54: a head gives back opcode, length and head field (`head_parts`), each family's map its fields
(`parse_assemble`), and the opcode map the row (`instrOf_form`). -/
theorem decodingUndoesEncoding : Obligations.DecodingUndoesEncoding := by
  unfold Obligations.DecodingUndoesEncoding
  intro k i he hp hn
  obtain ⟨fam, ho, hF⟩ := family_of_form he
  have hop : (encode i).1.extractLsb' 9 7 = i.form.1 := Laws.Headed.head_op ..
  have htl : (encode i).1.extractLsb' 7 2 = fam.tl := (Laws.Headed.head_tl ..).trans (assemble_tl hF)
  have hh : (encode i).1.extractLsb' 0 7 = i.form.2.assemble.2.1 := BitVec.extractLsb'_append_eq_right
  have hfields : parse fam ((encode i).1.extractLsb' 0 7) (encode i).2 = i.form.2 := hh ▸ parse_assemble hF
  refine decode_eq_some_iff.mpr ⟨fam, hop ▸ ho, htl, ?_⟩
  rw [hop, hfields, instrOf_form he hp hn]

/-- Settles O55: what is decoded stands in the row of the word (`standsIn_of_instrOf`), and its fields cover the word
(`assemble_parse`, `head_parts`). -/
theorem encodingUndoesDecoding : Obligations.EncodingUndoesDecoding := by
  unfold Obligations.EncodingUndoesDecoding
  intro k head tail i hd
  obtain ⟨fam, ho, htl, hi⟩ := decode_eq_some_iff.mp hd
  obtain ⟨he, hp, hn, hform⟩ := standsIn_of_instrOf ho (fieldsFamily_parse ..) hi
  have henc : encode i = (head, (tail.extractLsb' 0 (16 * fam.tl.toNat)).setWidth 48) := by
    rw [encode_eq, hform, assemble_parse, ← htl, head_parts]
  refine ⟨he, hp, hn, congrArg Prod.fst henc, ?_⟩
  have hlen : 8 * tailBytes head = 16 * fam.tl.toNat := by rw [tailBytes, htl]; omega
  have hle : 16 * fam.tl.toNat ≤ 48 := by have := fam.tl.isLt; omega
  rw [henc, hlen, toNat_low_bits _ hle]

/-- Settles O57: each word is decoded by the maps. -/
theorem workedWordsDecode : Obligations.WorkedWordsDecode := by
  unfold Obligations.WorkedWordsDecode
  exact ⟨rfl, rfl, rfl, rfl, rfl, rfl, rfl, rfl, rfl, rfl, rfl, rfl, rfl, rfl, rfl⟩

end Sys2Proof.Machine
end

section
/-! SUPPORT. What the scalar instructions write and where they lead (R57 to R59, R147 to R149, R156 to R161). -/

namespace Sys2Proof.Machine

open Sys2Proof.Claims (following target lineAddr goesTo Taken writesOnly)

/-! ## The result of an instruction -/

/-- A write to a register changes the values, the empty bits and the marks of a bank, and nothing else of it. -/
theorem Bank.write_frame (b : Bank) (r : BitVec 5) (v : Word) :
    b.write r v = { b with g := (b.write r v).g, empty := (b.write r v).empty, marks := (b.write r v).marks } := by
  by_cases h : r = 0
  · rw [h, Bank.write_zero]
  · rw [Bank.write_of_ne_zero b h]

section
variable (s : State) (r : BitVec 5) (v : Word)

/-- The sequencer after it has written a result and gone on. -/
theorem State.put_core :
    (s.put r v).core = { s.core with
      bank := s.core.bank.write r v, pc := following s.core.heads s.core.pc, ply := s.core.bank.loops.isEmpty } := by
  have hpc : (s.setG r v).nextPc = following s.core.heads s.core.pc := State.nextPc_eq _
  rw [State.put, State.advance_core, hpc, State.setG_core, Bank.write_loops]

theorem State.put_bank : (s.put r v).core.bank = s.core.bank.write r v := rfl

theorem State.put_pc : (s.put r v).core.pc = following s.core.heads s.core.pc := by rw [State.put_core]

end

/-- Settles O4: the rules of a write to a bank, and of the PC that follows. -/
theorem putWritesOneRegister : Obligations.PutWritesOneRegister := by
  unfold Obligations.PutWritesOneRegister
  intro s r r' v
  simp only [State.g, State.put_bank, Bank.isEmpty_write, Bank.mark_write]
  refine ⟨Bank.read_zero _, fun hr => Bank.read_write_same _ hr v, fun hr => Bank.read_write_ne _ hr v, by simp,
    if_pos trivial, fun hr => ⟨by simp [hr], if_neg hr⟩, ?_, ?_, rfl⟩
  · rw [State.put_pc, following, ← pcSlot_eq_mod]
    rfl
  · rw [State.put_core, ← Bank.write_frame]

/-! ## The instructions that write one register -/

/-- Each of them writes a value to its register and goes on. -/
theorem exec_of_writesOnly {i : Instr} {s : State} {r : BitVec 5} (hw : writesOnly s i = some r) (hr : i.ready s) :
    ∃ v, exec i s = .next (s.put r v) := by
  cases i with
  | add | sub | and | or | xor | shl | shr | sra | mul | mulh | mulhn | min | max | minn | maxn | slt | sltn | clz | ctz
  | popc | sext8 | sext16 | sext32 | zext8 | zext16 | zext32 | addi | andi | ori | xori | shli | shri | srai | slti
  | sltni | li | lih | lea | sel =>
    cases hw
    exact ⟨_, checked_of_ready hr _⟩
  | div f | divn f | rem f | remn f =>
    obtain ⟨hb, rfl⟩ : s.g f.gb ≠ 0 ∧ f.gd = r := by simpa [writesOnly] using hw
    exact ⟨_, (checked_of_ready hr _).trans (if_neg hb)⟩
  | _ => cases hw

/-- Settles O53: by what `put` leaves. -/
theorem registerInstructionsKeepTheRest : Obligations.RegisterInstructionsKeepTheRest := by
  unfold Obligations.RegisterInstructionsKeepTheRest
  intro i s r hw hr
  obtain ⟨v, hexec⟩ := exec_of_writesOnly hw hr
  exact ⟨s.put r v, hexec, fun r' hne => Bank.read_write_ne _ hne v, fun a => rfl, State.put_pc s r v,
    Bank.write_loops _ r v, rfl⟩

/-! ## Control transfer -/

theorem State.advance_eq_goesTo (s : State) : s.advance = goesTo s (following s.core.heads s.core.pc) := by
  rw [State.advance, State.nextPc_eq]
  rfl

/-- The conditions of BCC are those of R149 over the integers. -/
theorem holds_iff_taken (c : Cond) (a b : Word) : Cond.holds c 64 a b = true ↔ Taken c a b := by
  cases c <;> simp [Cond.holds, Taken, BitVec.slt, BitVec.ult]

theorem transfersReachTheirTargets : Claims.TransfersReachTheirTargets := by
  refine ⟨fun f s hr => ?_, fun f s hr => ?_, fun f s hr => ?_, fun c f s hr => ⟨fun ht => ?_, fun ht => ?_⟩⟩
  · rw [← branchTarget_eq_target]
    exact checked_of_ready hr _
  · rw [← branchTarget_eq_target, ← State.nextPc_eq]
    exact checked_of_ready hr _
  · rw [← State.nextPc_eq]
    exact checked_of_ready hr _
  · rw [← branchTarget_eq_target]
    exact (checked_of_ready hr _).trans (congrArg Host.Outcome.next (if_pos ((holds_iff_taken ..).mpr ht)))
  · rw [← State.advance_eq_goesTo]
    exact (checked_of_ready hr _).trans
      (congrArg Host.Outcome.next (if_neg fun h => ht ((holds_iff_taken ..).mp h)))

theorem fetchAtABadPcTraps : Claims.FetchAtABadPcTraps := by
  intro s t l hp hb hf hl hbad
  refine ⟨?_, rfl⟩
  simp only [State.fetch, hp, hb, hf, hl, pcSlot_eq_mod, hbad, Bool.not_true, Bool.false_eq_true, if_false, if_true]

/-- Settles O6: a ready transfer has its effect, with its target and link over the integers, and `fetch` checks the
slot. -/
theorem controlTransfers : Obligations.ControlTransfers := by
  unfold Obligations.ControlTransfers
  exact ⟨transfersReachTheirTargets, fetchAtABadPcTraps⟩

end Sys2Proof.Machine
end

section
/-! SUPPORT. The ALU group and the divisions over the integers (R93, R156). -/

namespace Sys2Proof.Machine

open Sys2Proof.Claims (Gives Raises sar)

/-! ## Operations on words over the integers -/

/-- A word is the word of its value. -/
theorem eq_ofNat_of_toNat_eq {a : Word} {n : Nat} (h : a.toNat = n) : a = BitVec.ofNat 64 n := by
  rw [← h, BitVec.ofNat_toNat, BitVec.setWidth_eq]

theorem add_eq_ofNat (a b : Word) : a + b = BitVec.ofNat 64 (a.toNat + b.toNat) := by
  rw [BitVec.ofNat_add, ← eq_ofNat_of_toNat_eq rfl, ← eq_ofNat_of_toNat_eq rfl]

theorem sub_eq_ofInt (a b : Word) : a - b = BitVec.ofInt 64 (a.toInt - b.toInt) := by
  simp [← BitVec.toInt_inj]

theorem mul_eq_ofInt (a b : Word) : a * b = BitVec.ofInt 64 (a.toInt * b.toInt) := by
  rw [BitVec.ofInt_mul, BitVec.ofInt_toInt, BitVec.ofInt_toInt]

theorem shiftCount_eq_mod (b : Word) : shiftCount b = b.toNat % 64 := by simp [shiftCount]

theorem shl_eq_ofNat (a b : Word) : a <<< shiftCount b = BitVec.ofNat 64 (a.toNat * 2 ^ (b.toNat % 64)) := by
  simp [← BitVec.toNat_inj, shiftCount_eq_mod, Nat.shiftLeft_eq]

theorem shr_eq_ofNat (a b : Word) : a >>> shiftCount b = BitVec.ofNat 64 (a.toNat / 2 ^ (b.toNat % 64)) :=
  eq_ofNat_of_toNat_eq (by rw [BitVec.toNat_ushiftRight, shiftCount_eq_mod, Nat.shiftRight_eq_div_pow])

theorem sra_eq_sar (a b : Word) : a.sshiftRight (shiftCount b) = sar a (b.toNat % 64) := by
  simp [sar, BitVec.sshiftRight, shiftCount_eq_mod, Int.shiftRight_eq_div_pow]

theorem mulHighN_eq_ofNat (a b : Word) : mulHighN a b = BitVec.ofNat 64 (a.toNat * b.toNat / 2 ^ 64) := by
  refine BitVec.eq_of_toNat_eq ?_
  simp [mulHighN, Nat.shiftRight_eq_div_pow]
  omega

theorem mulHigh_eq_ofInt (a b : Word) : mulHigh a b = BitVec.ofInt 64 (a.toInt * b.toInt / 2 ^ 64) := by
  have hprod : a.signExtend 128 * b.signExtend 128 = BitVec.ofInt 128 (a.toInt * b.toInt) :=
    (BitVec.ofInt_mul ..).symm
  refine BitVec.eq_of_toNat_eq ?_
  rw [mulHigh, hprod]
  simp [Nat.shiftRight_eq_div_pow]
  omega

theorem udiv_eq_ofNat (a b : Word) : a / b = BitVec.ofNat 64 (a.toNat / b.toNat) :=
  eq_ofNat_of_toNat_eq BitVec.toNat_udiv

theorem umod_eq_ofNat (a b : Word) : a % b = BitVec.ofNat 64 (a.toNat % b.toNat) :=
  eq_ofNat_of_toNat_eq BitVec.toNat_umod

theorem minInt_eq (a b : Word) : (if b.slt a then b else a) = BitVec.ofInt 64 (min a.toInt b.toInt) := by
  by_cases h : b.toInt < a.toInt
  · simp [BitVec.slt, h, min_eq_right h.le]
  · simp [BitVec.slt, h, min_eq_left (not_lt.mp h)]

theorem maxInt_eq (a b : Word) : (if a.slt b then b else a) = BitVec.ofInt 64 (max a.toInt b.toInt) := by
  by_cases h : a.toInt < b.toInt
  · simp [BitVec.slt, h, max_eq_right h.le]
  · simp [BitVec.slt, h, max_eq_left (not_lt.mp h)]

theorem minNat_eq (a b : Word) : (if b.ult a then b else a) = BitVec.ofNat 64 (min a.toNat b.toNat) := by
  by_cases h : b.toNat < a.toNat
  · simp [BitVec.ult, h, min_eq_right h.le]
  · simp [BitVec.ult, h, min_eq_left (not_lt.mp h)]

theorem maxNat_eq (a b : Word) : (if a.ult b then b else a) = BitVec.ofNat 64 (max a.toNat b.toNat) := by
  by_cases h : a.toNat < b.toNat
  · simp [BitVec.ult, h, max_eq_right h.le]
  · simp [BitVec.ult, h, max_eq_left (not_lt.mp h)]

theorem boolWord_decide (p : Prop) [Decidable p] : boolWord (decide p) = if p then 1 else 0 := by
  simp [boolWord]

/-! ## The instructions -/

section
variable {i : Instr} {f : FRG} {s : State} {v : Word} (op : Word → Word → Word)

/-- A ready instruction of the ALU group gives what its operation gives. -/
theorem gives_of_aluRG (hr : i.ready s = true) (he : exec i s = aluRG i f op s) (hv : op (s.g f.ga) (s.g f.gb) = v) :
    Gives i s f.gd v := by
  rw [Gives, he, ← hv]
  exact checked_of_ready hr _

/-- So does a ready division by what is not zero. -/
theorem gives_of_divRG (hr : i.ready s = true) (he : exec i s = divRG i f op s) (hb : s.g f.gb ≠ 0)
    (hv : op (s.g f.ga) (s.g f.gb) = v) : Gives i s f.gd v := by
  rw [Gives, he, ← hv]
  exact (checked_of_ready hr _).trans (if_neg hb)

/-- A ready division by zero raises INT-DIVIDE-ZERO (R93). -/
theorem raises_of_divRG (hr : i.ready s = true) (he : exec i s = divRG i f op s) (hb : s.g f.gb = 0) :
    Raises i s 42 0 := by
  rw [Raises, he]
  exact (checked_of_ready hr _).trans (if_pos hb)

end

theorem aluResults : Claims.AluResults := by
  intro f s a b
  exact ⟨fun h => gives_of_aluRG (fun a b => a + b) h rfl (add_eq_ofNat a b),
    fun h => gives_of_aluRG (fun a b => a - b) h rfl (sub_eq_ofInt a b),
    fun h => gives_of_aluRG (fun a b => a &&& b) h rfl rfl,
    fun h => gives_of_aluRG (fun a b => a ||| b) h rfl rfl,
    fun h => gives_of_aluRG (fun a b => a ^^^ b) h rfl rfl,
    fun h => gives_of_aluRG (fun a b => a <<< shiftCount b) h rfl (shl_eq_ofNat a b),
    fun h => gives_of_aluRG (fun a b => a >>> shiftCount b) h rfl (shr_eq_ofNat a b),
    fun h => gives_of_aluRG (fun a b => a.sshiftRight (shiftCount b)) h rfl (sra_eq_sar a b),
    fun h => gives_of_aluRG (fun a b => a * b) h rfl (mul_eq_ofInt a b),
    fun h => gives_of_aluRG mulHigh h rfl (mulHigh_eq_ofInt a b),
    fun h => gives_of_aluRG mulHighN h rfl (mulHighN_eq_ofNat a b),
    fun h => gives_of_aluRG (fun a b => if b.slt a then b else a) h rfl (minInt_eq a b),
    fun h => gives_of_aluRG (fun a b => if a.slt b then b else a) h rfl (maxInt_eq a b),
    fun h => gives_of_aluRG (fun a b => if b.ult a then b else a) h rfl (minNat_eq a b),
    fun h => gives_of_aluRG (fun a b => if a.ult b then b else a) h rfl (maxNat_eq a b),
    fun h => gives_of_aluRG (fun a b => boolWord (a.slt b)) h rfl (boolWord_decide _),
    fun h => gives_of_aluRG (fun a b => boolWord (a.ult b)) h rfl (boolWord_decide _)⟩

theorem divisionResults : Claims.DivisionResults := by
  intro f s a b
  have hne (hb : b.toInt = -1) : b ≠ 0 := by
    intro h
    simp [h] at hb
  refine ⟨fun h hb => gives_of_divRG quot h rfl hb rfl,
    fun h hb => gives_of_divRG (fun a b => a / b) h rfl hb (udiv_eq_ofNat a b),
    fun h hb => gives_of_divRG remainder h rfl hb rfl,
    fun h hb => gives_of_divRG (fun a b => a % b) h rfl hb (umod_eq_ofNat a b),
    fun h => raises_of_divRG quot h rfl, fun h => raises_of_divRG (fun a b => a / b) h rfl,
    fun h => raises_of_divRG remainder h rfl, fun h => raises_of_divRG (fun a b => a % b) h rfl,
    fun h ha hb => gives_of_divRG quot h rfl (hne hb) ?_,
    fun h ha hb => gives_of_divRG remainder h rfl (hne hb) ?_⟩
  · show quot a b = a
    rw [quot, hb, ← BitVec.toInt_inj, ha]
    decide
  · show remainder a b = 0
    rw [remainder, hb, Int.tmod_neg, Int.tmod_one]
    rfl

/-- Settles O1: a ready instruction of the group gives what its operation on words is over the integers, and a division
checks its divisor. -/
theorem scalarArithmetic : Obligations.ScalarArithmetic := by
  unfold Obligations.ScalarArithmetic
  exact ⟨aluResults, divisionResults⟩

end Sys2Proof.Machine
end

section
/-! SUPPORT. What an element-wise instruction delivers, element by element (R129, R130, R137), and the elements of its
sources as bit vectors (R123, R211). -/

namespace Sys2Proof.Machine

open Sys2Proof.Claims (elA elB elC Active actives EachNat Each EachBit modeOf)

/-! ## The elements -/

/-- The numbers from m below n. -/
theorem map_add_range_eq_filter (m n : Nat) :
    ((List.range (n - m)).map fun k => m + k) = (List.range n).filter fun i => decide (m ≤ i) := by
  induction n with
  | zero => simp
  | succ n ih =>
    by_cases h : m ≤ n
    · rw [Nat.succ_sub h, List.range_succ, List.range_succ, List.map_append, List.filter_append, ih]
      simp [h]
    · rw [List.range_succ, List.filter_append, ← ih]
      simp [h, show n + 1 - m = 0 by omega, show n - m = 0 by omega]

theorem VEntry.active_eq_actives (e : VEntry) (x : Worker) (mask : BitVec 3) :
    e.active x mask = actives e x mask := by
  rw [VEntry.active, VEntry.body, map_add_range_eq_filter, List.filter_filter, actives]
  exact List.filter_congr fun i _ => Bool.and_comm ..

theorem VEntry.mem_active {e : VEntry} {x : Worker} {mask : BitVec 3} {k : Nat} :
    k ∈ e.active x mask ↔ Active e x mask k := by
  rw [VEntry.active_eq_actives]
  simp only [actives, Active, List.mem_filter, List.mem_range, Bool.and_eq_true, Bool.or_eq_true, beq_iff_eq,
    decide_eq_true_eq]
  tauto

theorem VEntry.nodup_active (e : VEntry) (x : Worker) (mask : BitVec 3) : (e.active x mask).Nodup := by
  rw [VEntry.active_eq_actives]
  exact List.nodup_range.filter _

/-- Element i of source b as a number. -/
theorem srcB_eq_toNat (f : FV3) (e : VEntry) (x : Worker) (w i : Nat) : srcB f e x w i = (elB f e x w i).toNat := by
  unfold srcB elB
  split
  · exact (BitVec.toNat_setWidth ..).symm
  · rfl

/-- The rounding mode of a vector instruction (R98). -/
theorem VEntry.round_eq_modeOf (e : VEntry) (rnd : BitVec 2) : e.round rnd = modeOf e rnd := by
  unfold VEntry.round modeOf
  rcases (by decide +revert : rnd = 0 ∨ rnd = 1 ∨ rnd = 2 ∨ rnd = 3) with rfl | rfl | rfl | rfl <;> rfl

/-! ## The flags and bits of elements -/

/-- A flag is raised by the elements that raise it. -/
theorem getLsbD_foldl_or {α : Type} (g : α → BitVec 8) (l : List α) (a : BitVec 8) (b : Nat) :
    (l.foldl (fun acc p => acc ||| g p) a).getLsbD b = true ↔
      a.getLsbD b = true ∨ ∃ p ∈ l, (g p).getLsbD b = true := by
  induction l generalizing a with
  | nil => simp
  | cons p l ih => simp [ih, or_assoc]

theorem getLsbD_flagsOf_map (act : List Nat) (r : Nat → Nat × BitVec 8) (b : Nat) :
    (flagsOf (act.map fun i => (i, r i))).getLsbD b = true ↔ ∃ k ∈ act, (r k).2.getLsbD b = true := by
  simp [flagsOf, noFlags, getLsbD_foldl_or]

theorem captured_of_ne_zero {xsel : BitVec 4} (h : xsel ≠ 0) (f : BitVec 8) :
    captured xsel f = f.getLsbD (xsel.toNat - 1) := by
  rw [captured, bne_iff_ne.mpr h, Bool.true_and]

theorem mem_captureOf {e : VEntry} {raises : Bool} {act : List Nat} {r : Nat → Nat × BitVec 8} {k : Nat} {b : Bool} :
    (k, b) ∈ captureOf e raises (act.map fun i => (i, r i)) ↔
      raises = true ∧ e.xsel ≠ 0 ∧ k ∈ act ∧ b = (r k).2.getLsbD (e.xsel.toNat - 1) := by
  unfold captureOf
  split
  · rename_i h
    obtain ⟨hr, hx⟩ : raises = true ∧ e.xsel ≠ 0 := by simpa using h
    simp only [List.mem_map, Prod.mk.injEq, captured_of_ne_zero hx]
    constructor
    · rintro ⟨_, ⟨k', hk, rfl⟩, rfl, rfl⟩
      exact ⟨hr, hx, hk, rfl⟩
    · rintro ⟨-, -, hk, rfl⟩
      exact ⟨_, ⟨k, hk, rfl⟩, rfl, rfl⟩
  · rename_i h
    have h' : raises = true → e.xsel = 0 := by simpa using h
    simp only [List.not_mem_nil, false_iff]
    exact fun ⟨hr, hx, _⟩ => hx (h' hr)

theorem map_fst_pairs {β : Type} (l : List Nat) (g : Nat → β) : ((l.map fun k => (k, g k)).map fun b => b.1) = l := by
  simp [Function.comp_def]

/-! ## Element-wise instructions -/

section
variable {i : Instr} {p : VEntry → Worker → Effect} {e : VEntry} {x : Worker} {h : BitVec 7} {mask : BitVec 3}

/-- What an instruction that delivers an element-wise result gives. -/
theorem eachNat_of_elementwise {w : Nat} {raises : Bool} {g r : Nat → Nat × BitVec 8}
    (hp : ∀ pick, performOf pick i = some p) (he : p e x = elementwise e x h mask w raises g) (hr : ∀ k, g k = r k) :
    EachNat i e x h mask w raises r := by
  obtain rfl : g = r := funext hr
  intro pick
  refine ⟨p, (e.active x mask).map fun k => (k, (g k).1), hp pick, ?_⟩
  rw [he]
  refine ⟨by simp [elementwise], ?_, fun k v => ?_, fun hne => ?_, rfl, rfl, fun b _ => ?_, fun k b => ?_⟩
  · rw [map_fst_pairs]
    exact e.nodup_active x mask
  · simp [← VEntry.mem_active, eq_comm]
  · have hact : e.active x mask ≠ [] := by simpa using hne
    simp [elementwise, hact]
  · simp only [← VEntry.mem_active]
    exact getLsbD_flagsOf_map ..
  · rw [← VEntry.mem_active]
    exact mem_captureOf

/-- What a comparison gives. -/
theorem eachBit_of_comparing {raises : Bool} {g r : Nat → Bool × BitVec 8} (hp : ∀ pick, performOf pick i = some p)
    (he : p e x = comparing e x h mask raises g) (hr : ∀ k, g k = r k) :
    EachBit i e x h (Active e x mask) raises r := by
  obtain rfl : g = r := funext hr
  intro pick
  refine ⟨p, (e.active x mask).map fun k => (k, (g k).1), hp pick, ?_⟩
  rw [he]
  refine ⟨rfl, ?_, fun k v => ?_, rfl, rfl, fun b _ => ?_, fun k b => ?_⟩
  · rw [map_fst_pairs]
    exact e.nodup_active x mask
  · simp [← VEntry.mem_active, eq_comm]
  · simp only [← VEntry.mem_active]
    exact getLsbD_flagsOf_map (r := fun k => ((g k).1.toNat, (g k).2)) ..
  · have hm : (hMask h).toNat ≠ 7 ↔ hMask h ≠ 7 := not_congr (BitVec.toNat_inj (y := 7#3))
    refine (mem_captureOf (r := fun k => ((g k).1.toNat, (g k).2))).trans ?_
    rw [VEntry.mem_active, Bool.and_eq_true, bne_iff_ne, hm, and_assoc]

end

/-- A result of a and b with its flags, where a function of their elements gives it. -/
theorem eachNat_of_binaryOp {i : Instr} {p : VEntry → Worker → Effect} {f : FV3} {e : VEntry} {x : Worker}
    {raises : Bool} {op : Nat → Nat → Nat × BitVec 8} {r : Nat → Nat × BitVec 8}
    (hp : ∀ pick, performOf pick i = some p) (he : p e x = binaryOp f e x raises op)
    (hr : ∀ k, op (elA f x (etWidth f.et.toNat) k).toNat (elB f e x (etWidth f.et.toNat) k).toNat = r k) :
    EachNat i e x f.h f.mask (etWidth f.et.toNat) raises r :=
  eachNat_of_elementwise hp he fun k => (congrArg _ (srcB_eq_toNat ..)).trans (hr k)

end Sys2Proof.Machine
end

section
/-! SUPPORT. The integer vector instructions: encodings as bit vectors, wrapping and saturation (R91, R92, R109, R110,
R217 to R221). -/

namespace Sys2Proof.Machine

open Sys2Proof.Claims (elA elB elC Each EachNat intVal lowest highest saturated)

/-! ## Integers and their encodings -/

theorem etWidth_pos (t : Nat) : 0 < etWidth t := by
  unfold etWidth
  split <;> decide

theorem signedOf_toNat {w : Nat} (hw : 0 < w) (a : BitVec w) : signedOf w a.toNat = a.toInt := by
  obtain ⟨n, rfl⟩ : ∃ n, w = n + 1 := ⟨w - 1, by omega⟩
  rw [signedOf, BitVec.toInt_eq_toNat_cond, Nat.add_sub_cancel, pow_succ]
  by_cases h : a.toNat < 2 ^ n
  · rw [if_pos h, if_pos (by omega)]
  · rw [if_neg h, if_neg (by omega)]

theorem intOf_toNat {t w : Nat} (hw : etWidth t = w) (a : BitVec w) : intOf t a.toNat = intVal t a := by
  subst hw
  simp only [intOf, etSigned, intVal, decide_eq_true_eq]
  split
  · exact signedOf_toNat (etWidth_pos t) a
  · rfl

theorem intOf_srcA {t w : Nat} (hw : etWidth t = w) (f : FV3) (x : Worker) (k : Nat) :
    intOf t (srcA f x w k) = intVal t (elA f x w k) := intOf_toNat hw _

theorem intOf_srcB {t w : Nat} (hw : etWidth t = w) (f : FV3) (e : VEntry) (x : Worker) (k : Nat) :
    intOf t (srcB f e x w k) = intVal t (elB f e x w k) := by rw [srcB_eq_toNat, intOf_toNat hw]

theorem intOf_srcC {t w : Nat} (hw : etWidth t = w) (f : FV4) (x : Worker) (k : Nat) :
    intOf t (srcC f x w k) = intVal t (elC f x w k) := intOf_toNat hw _

theorem signedOf_elem {w : Nat} (hw : 0 < w) (r : VReg) (k : Nat) :
    signedOf w (r.elem w k) = (r.bits.extractLsb' (w * k) w).toInt := signedOf_toNat hw _

theorem wrapTo_eq_toNat (w : Nat) (v : Int) : wrapTo w v = (BitVec.ofInt w v).toNat := (BitVec.toNat_ofInt v).symm

@[simp] theorem ofInt_intVal (t : Nat) {w : Nat} (a : BitVec w) : BitVec.ofInt w (intVal t a) = a := by
  unfold intVal
  split
  · exact BitVec.ofInt_toInt
  · rw [BitVec.ofInt_natCast, BitVec.ofNat_toNat, BitVec.setWidth_eq]

theorem intMin_eq_lowest (t : Nat) : intMin t = lowest t := by
  simp [intMin, lowest, etSigned]

theorem intMax_eq_highest (t : Nat) : intMax t = highest t := by
  simp [intMax, highest, etSigned]

theorem lowest_le_highest (t : Nat) : lowest t ≤ highest t := by
  have hpos : (0 : Int) < 2 ^ (etWidth t - 1) := by positivity
  have hpos' : (0 : Int) < 2 ^ etWidth t := by positivity
  unfold lowest highest
  split <;> omega

/-- Saturation gives the nearest value of the type, and SAT where it differs (R92). -/
theorem saturate_eq {t w : Nat} (hw : etWidth t = w) (v : Int) :
    saturate t v = ((saturated t w v).1.toNat, (saturated t w v).2) := by
  have hle := lowest_le_highest t
  rw [saturate, saturated, hw, intMin_eq_lowest, intMax_eq_highest]
  simp only [wrapTo_eq_toNat, flagIf, flagSAT, noFlags, bne_iff_ne]
  by_cases h1 : v < lowest t
  · rw [if_pos h1, if_pos (by omega), if_neg (by omega), min_eq_right (by omega), max_eq_left (by omega)]
  · by_cases h2 : highest t < v
    · rw [if_neg h1, if_pos h2, if_pos (by omega), if_neg (by omega), min_eq_left (by omega), max_eq_right (by omega)]
    · rw [if_neg h1, if_neg h2, if_neg (by simp), if_pos (by omega), min_eq_right (by omega), max_eq_right (by omega)]

theorem not_intFits (u t : Nat) : (!intFits u t) = decide (lowest u < lowest t ∨ highest t < highest u) := by
  simp only [intFits, intMin_eq_lowest, intMax_eq_highest, ← Bool.decide_and, ← decide_not]
  exact decide_eq_decide.mpr (by omega)

/-! ## Operations on a and b -/

section
variable {i : Instr} {p : VEntry → Worker → Effect} {f : FV3} {e : VEntry} {x : Worker}

/-- An operation on exact integers wraps at the element's width (R217). -/
theorem each_of_wrapOp {op : Int → Int → Int} {g : Nat → BitVec (etWidth f.et.toNat)}
    (hp : ∀ pick, performOf pick i = some p) (he : p e x = wrapOp f e x op)
    (hg : ∀ k, BitVec.ofInt _ (op (intVal f.et.toNat (elA f x (etWidth f.et.toNat) k))
      (intVal f.et.toNat (elB f e x (etWidth f.et.toNat) k))) = g k) :
    Each i e x f.h f.mask (etWidth f.et.toNat) false fun k => (g k, 0) := by
  refine eachNat_of_binaryOp hp (he.trans (wrapOp.eq_1 ..)) fun k => ?_
  rw [intOf_toNat rfl, intOf_toNat rfl, wrapTo_eq_toNat, hg]
  rfl

/-- An operation on bits. -/
theorem each_of_bitOp {op : Nat → Nat → Nat} {g : Nat → BitVec (etWidth f.et.toNat)}
    (hp : ∀ pick, performOf pick i = some p) (he : p e x = bitOp f e x op)
    (hg : ∀ k, op (elA f x (etWidth f.et.toNat) k).toNat (elB f e x (etWidth f.et.toNat) k).toNat = (g k).toNat) :
    Each i e x f.h f.mask (etWidth f.et.toNat) false fun k => (g k, 0) :=
  eachNat_of_binaryOp hp he fun k => congrArg (fun n => (n, noFlags)) (hg k)

/-- A saturating operation on exact integers (R218). -/
theorem each_of_saturate {op : Int → Int → Int} (hp : ∀ pick, performOf pick i = some p)
    (he : p e x = binaryOp f e x true fun a b => saturate f.et.toNat (op (intOf f.et.toNat a) (intOf f.et.toNat b))) :
    Each i e x f.h f.mask (etWidth f.et.toNat) true fun k =>
      saturated f.et.toNat (etWidth f.et.toNat) (op (intVal f.et.toNat (elA f x (etWidth f.et.toNat) k))
        (intVal f.et.toNat (elB f e x (etWidth f.et.toNat) k))) := by
  refine eachNat_of_binaryOp hp he fun k => ?_
  rw [intOf_toNat rfl, intOf_toNat rfl, saturate_eq rfl]

end

/-! ## The operations as bit vectors -/

theorem shiftLeft_toNat {w : Nat} (a : BitVec w) (n : Nat) : a.toNat * 2 ^ n % 2 ^ w = (a <<< n).toNat := by
  rw [BitVec.toNat_shiftLeft, Nat.shiftLeft_eq]

theorem ushiftRight_toNat {w : Nat} (a : BitVec w) (n : Nat) : a.toNat / 2 ^ n = (a >>> n).toNat := by
  rw [BitVec.toNat_ushiftRight, Nat.shiftRight_eq_div_pow]

theorem sshiftRight_toNat {w : Nat} (hw : 0 < w) (a : BitVec w) (n : Nat) :
    wrapTo w (signedOf w a.toNat / (2 ^ n : Nat)) = (a.sshiftRight n).toNat := by
  rw [signedOf_toNat hw, wrapTo_eq_toNat, BitVec.sshiftRight, Int.shiftRight_eq_div_pow]

/-- The absolute value of the least value is itself (R217). -/
theorem ofInt_natAbs_intVal (t : Nat) {w : Nat} (a : BitVec w) :
    BitVec.ofInt w ((intVal t a).natAbs : Int) = if intVal t a < 0 then -a else a := by
  split
  · rename_i h
    rw [Int.ofNat_natAbs_of_nonpos h.le, BitVec.ofInt_neg, ofInt_intVal]
  · rename_i h
    rw [Int.natAbs_of_nonneg (by omega), ofInt_intVal]

theorem ofInt_sub_intVal (t : Nat) {w : Nat} (a b : BitVec w) : BitVec.ofInt w (intVal t a - intVal t b) = a - b := by
  rw [sub_eq_add_neg, BitVec.ofInt_add, BitVec.ofInt_neg, ofInt_intVal, ofInt_intVal, BitVec.sub_eq_add_neg]

/-- The type of half the width has the code below (R109). -/
theorem etWidth_half {t : Nat} (ht : t ∈ [1, 2, 3, 5, 6, 7]) : etWidth (t - 1) = etWidth t / 2 := by
  revert t
  decide

/-- The taps of VPMAC: 16 bits of gb as a signed value (R110). -/
theorem signedOf_lowTap (g : Word) : signedOf 16 (g.toNat % 2 ^ 16) = (g.extractLsb' (16 * 0) 16).toInt := by
  rw [← signedOf_toNat (by decide), BitVec.extractLsb'_toNat, Nat.shiftRight_eq_div_pow]
  simp

theorem signedOf_highTap (g : Word) :
    signedOf 16 (g.toNat / 2 ^ 16 % 2 ^ 16) = (g.extractLsb' (16 * 1) 16).toInt := by
  rw [← signedOf_toNat (by decide), BitVec.extractLsb'_toNat, Nat.shiftRight_eq_div_pow]

/-- The rounding narrowing shift, saturated to the type of half the width (R109). -/
theorem narrowShift_eq {t : Nat} (ht : t ∈ [1, 2, 3, 5, 6, 7]) (v : Int) (n : Nat) :
    narrowShift t v n =
      let r := saturated (t - 1) (etWidth t / 2) (if n = 0 then v else (v + 2 ^ (n - 1)) / 2 ^ n)
      (r.1.toNat, r.2) := by
  rw [narrowShift, saturate_eq (etWidth_half ht)]
  push_cast
  rfl

/-- A product and a sum of exact integers wrap as those of the encodings do (R219). -/
theorem wrapTo_mul_add (t : Nat) {w : Nat} (a b c : BitVec w) :
    wrapTo w (intVal t a * intVal t b + intVal t c) = (a * b + c).toNat := by
  rw [wrapTo_eq_toNat, BitVec.ofInt_add, BitVec.ofInt_mul, ofInt_intVal, ofInt_intVal, ofInt_intVal]

/-- Settles O36: each instruction is an operation on exact integers that wraps or saturates, or one on bits, of which
each element is that of the bit vectors. -/
theorem vectorIntegerResults : Obligations.VectorIntegerResults := by
  unfold Obligations.VectorIntegerResults
  intro e x
  refine ⟨fun f _ => ⟨?_, ?_, ?_, ?_, ?_, ?_, ?_, ?_, ?_, ?_, ?_, ?_, ?_, ?_, ?_⟩, fun f _ => ?_, fun f => ?_,
    fun f t hf ht => ?_, fun f src _ _ => ?_⟩
  · exact each_of_wrapOp (fun _ => rfl) rfl fun k => by rw [BitVec.ofInt_add, ofInt_intVal, ofInt_intVal]
  · exact each_of_wrapOp (fun _ => rfl) rfl fun k => ofInt_sub_intVal ..
  · exact each_of_wrapOp (fun _ => rfl) rfl fun k => by rw [BitVec.ofInt_mul, ofInt_intVal, ofInt_intVal]
  · exact each_of_wrapOp (fun _ => rfl) rfl fun k => by push_cast; rfl
  · exact each_of_bitOp (fun _ => rfl) rfl fun k => (BitVec.toNat_and ..).symm
  · exact each_of_bitOp (fun _ => rfl) rfl fun k => (BitVec.toNat_or ..).symm
  · exact each_of_bitOp (fun _ => rfl) rfl fun k => (BitVec.toNat_xor ..).symm
  · exact each_of_bitOp (fun _ => rfl) rfl fun k => shiftLeft_toNat ..
  · exact each_of_bitOp (fun _ => rfl) rfl fun k => ushiftRight_toNat ..
  · exact each_of_bitOp (fun _ => rfl) rfl fun k => sshiftRight_toNat (etWidth_pos _) ..
  · exact each_of_wrapOp (fun _ => rfl) rfl fun k => by split <;> exact ofInt_intVal ..
  · exact each_of_wrapOp (fun _ => rfl) rfl fun k => by split <;> exact ofInt_intVal ..
  · exact each_of_wrapOp (fun _ => rfl) rfl fun k => ofInt_natAbs_intVal ..
  · exact each_of_saturate (op := fun a b => a + b) (fun _ => rfl) rfl
  · exact each_of_saturate (op := fun a b => a - b) (fun _ => rfl) rfl
  · refine eachNat_of_elementwise (fun _ => rfl) rfl fun k => ?_
    rw [intOf_srcA rfl, intOf_srcB rfl, intOf_srcC rfl, wrapTo_mul_add]
    rfl
  · refine eachNat_of_elementwise (fun _ => rfl) rfl fun k => ?_
    rw [saturate_eq (w := 32) rfl, srcA, srcC, signedOf_elem (by decide), signedOf_elem (by decide),
      signedOf_elem (by decide), signedOf_lowTap, signedOf_highTap]
    rfl
  · subst hf
    refine eachNat_of_elementwise (fun _ => rfl) rfl fun k => ?_
    rw [narrowShift_eq ht, intOf_srcA rfl, srcB_eq_toNat]
  · simp only [← not_intFits]
    refine eachNat_of_elementwise (fun _ => rfl) rfl fun k => ?_
    rw [saturate_eq rfl, intOf_srcA rfl]

end Sys2Proof.Machine
end

section
/-! SUPPORT. Rounding of a magnitude to the multiples of a power of two (R98): dyadic numbers as rationals, and what
`roundAt` picks among them in each mode. -/

namespace Sys2Proof.Machine

open Sys2Proof.Claims (cmpRat cmpRoot RoundsTo lies)

/-! ## Dyadic numbers -/

/-- n·2^k. -/
def dyadic (n : Nat) (k : Int) : ℚ := n * 2 ^ k

theorem dyadic_lt_dyadic {a b : Nat} {k : Int} : dyadic a k < dyadic b k ↔ a < b := by
  unfold dyadic
  rw [mul_lt_mul_iff_left₀ (by positivity), Nat.cast_lt]

theorem dyadic_le_dyadic {a b : Nat} {k : Int} : dyadic a k ≤ dyadic b k ↔ a ≤ b := by
  unfold dyadic
  rw [mul_le_mul_iff_left₀ (by positivity), Nat.cast_le]

/-- The same number as a multiple of a smaller power. -/
theorem dyadic_mul_pow (n d : Nat) (k : Int) : dyadic (n * 2 ^ d) k = dyadic n (k + d) := by
  unfold dyadic
  rw [zpow_add₀ two_ne_zero, zpow_natCast]
  push_cast
  ring

theorem dyadic_sub_toNat {n : Nat} {k q : Int} (h : q ≤ k) : dyadic (n * 2 ^ (k - q).toNat) q = dyadic n k := by
  rw [dyadic_mul_pow, Int.toNat_of_nonneg (by omega), add_sub_cancel]

/-- In units of 2^k. -/
theorem dyadic_div (n : Nat) (e k : Int) : dyadic n e / 2 ^ k = dyadic n (e - k) := by
  rw [dyadic, dyadic, zpow_sub₀ two_ne_zero, mul_div_assoc]

theorem dyadic_one_lt {i j : Int} : dyadic 1 i < dyadic 1 j ↔ i < j := by
  simp [dyadic, zpow_lt_zpow_iff_right₀ (one_lt_two : (1 : ℚ) < 2)]

theorem dyadic_one_le {i j : Int} : dyadic 1 i ≤ dyadic 1 j ↔ i ≤ j := by
  rw [← not_lt, dyadic_one_lt, not_lt]

/-- A greater exponent gives no smaller number. -/
theorem dyadic_le_of_le (n : Nat) {i j : Int} (h : i ≤ j) : dyadic n i ≤ dyadic n j :=
  mul_le_mul_of_nonneg_left (zpow_le_zpow_right₀ one_le_two h) (Nat.cast_nonneg n)

theorem dyadic_pow (d : Nat) (k : Int) : dyadic (2 ^ d) k = dyadic 1 (k + d) := by
  rw [← dyadic_mul_pow, one_mul]

/-- Numbers compare as their multiples of a power of two do. -/
theorem compare_dyadic (a b : Nat) (k : Int) : compare (dyadic a k) (dyadic b k) = compare a b := by
  rcases lt_trichotomy a b with h | h | h
  · rw [compare_lt_iff_lt.mpr h, compare_lt_iff_lt.mpr (dyadic_lt_dyadic.mpr h)]
  · rw [h, compare_eq_iff_eq.mpr rfl, compare_eq_iff_eq.mpr rfl]
  · rw [compare_gt_iff_gt.mpr h, compare_gt_iff_gt.mpr (dyadic_lt_dyadic.mpr h)]

theorem lies_iff_lt {a b : Nat} {i j : Int} : lies a i b j ↔ dyadic a i < dyadic b j := by
  rw [← dyadic_sub_toNat (min_le_left i j), ← dyadic_sub_toNat (n := b) (min_le_right i j), dyadic_lt_dyadic]

theorem cmpRat_eq_compare (num den : Nat) (exp : Int) (n : Nat) (k : Int) :
    cmpRat num den exp n k = compare (dyadic (n * den) k) (dyadic num exp) := by
  rw [← dyadic_sub_toNat (min_le_left k exp), ← dyadic_sub_toNat (n := num) (min_le_right k exp), compare_dyadic]
  rfl

theorem cmpRoot_eq_compare (m : Nat) (e : Int) (n : Nat) (k : Int) :
    cmpRoot m e n k = compare (dyadic (n * n) (2 * k)) (dyadic m e) := by
  rw [← dyadic_sub_toNat (min_le_left (2 * k) e), ← dyadic_sub_toNat (n := m) (min_le_right (2 * k) e),
    compare_dyadic]
  rfl

/-! ## Rounding to an integer -/

/-- A mode that gives a magnitude its floor. -/
abbrev RoundsDown (rm : Nat) (neg : Bool) : Prop := rm = 1 ∨ rm = 2 ∧ neg = false ∨ rm = 3 ∧ neg = true

/-- A mode that gives a magnitude its ceiling. -/
abbrev RoundsAway (rm : Nat) (neg : Bool) : Prop := rm = 2 ∧ neg = true ∨ rm = 3 ∧ neg = false

theorem mode_cases {rm : Nat} (h : rm < 4) (neg : Bool) : rm = 0 ∨ RoundsDown rm neg ∨ RoundsAway rm neg := by
  interval_cases rm <;> cases neg <;> decide

/-- n is what x is rounded to among the integers. -/
structure Rounds (rm : Nat) (neg : Bool) (x : ℚ) (n : Nat) : Prop where
  nearest : rm = 0 → x ≤ n + 1 / 2 ∧ n - 1 / 2 ≤ x ∧ (x = n + 1 / 2 ∨ x = n - 1 / 2 → n % 2 = 0)
  down : RoundsDown rm neg → n ≤ x ∧ x < n + 1
  away : RoundsAway rm neg → x ≤ n ∧ n - 1 < x

section
variable {rm : Nat} {neg : Bool} {x : ℚ} {n : Nat}

theorem Rounds.lt_succ (h : Rounds rm neg x n) (hrm : rm < 4) : x < n + 1 := by
  rcases mode_cases hrm neg with h0 | h0 | h0
  · linarith [(h.nearest h0).1]
  · exact (h.down h0).2
  · linarith [(h.away h0).1]

theorem Rounds.pred_lt (h : Rounds rm neg x n) (hrm : rm < 4) : n - 1 < x := by
  rcases mode_cases hrm neg with h0 | h0 | h0
  · linarith [(h.nearest h0).2.1]
  · linarith [(h.down h0).1]
  · exact (h.away h0).2

/-- Rounding does not cross an integer. -/
theorem Rounds.le_of_le (h : Rounds rm neg x n) (hrm : rm < 4) {a : Nat} (ha : a ≤ x) : a ≤ n := by
  have hlt : (a : ℚ) < (n + 1 : Nat) := by
    push_cast
    linarith [h.lt_succ hrm]
  exact Nat.lt_succ_iff.mp (Nat.cast_lt.mp hlt)

theorem Rounds.ge_of_ge (h : Rounds rm neg x n) (hrm : rm < 4) {b : Nat} (hb : x ≤ b) : n ≤ b := by
  have hlt : (n : ℚ) < (b + 1 : Nat) := by
    push_cast
    linarith [h.pred_lt hrm]
  exact Nat.lt_succ_iff.mp (Nat.cast_lt.mp hlt)

theorem Rounds.self (rm : Nat) (neg : Bool) (n : Nat) : Rounds rm neg n n := by
  refine ⟨fun _ => ⟨by linarith, by linarith, ?_⟩, fun _ => ⟨le_rfl, by linarith⟩, fun _ => ⟨le_rfl, by linarith⟩⟩
  rintro (h | h) <;> linarith

/-- What a magnitude is rounded to is no greater than what the mode gives it. -/
theorem Rounds.le_of_rounds {m : Nat} (h : Rounds rm neg x n) (k : Rounds rm neg x m) (hrm : rm < 4) : n ≤ m := by
  by_contra hlt
  have hle : (m : ℚ) + 1 ≤ n := by exact_mod_cast Nat.lt_of_not_le hlt
  rcases mode_cases hrm neg with h0 | h0 | h0
  · obtain ⟨-, h1, h2⟩ := h.nearest h0
    obtain ⟨k1, -, k2⟩ := k.nearest h0
    have hn := h2 (.inr (by linarith))
    have hm := k2 (.inl (by linarith))
    have hsucc : n = m + 1 := by exact_mod_cast (by linarith : (n : ℚ) = m + 1)
    omega
  · linarith [(h.down h0).1, (k.down h0).2]
  · linarith [(h.away h0).2, (k.away h0).1]

theorem Rounds.unique {m : Nat} (h : Rounds rm neg x n) (k : Rounds rm neg x m) (hrm : rm < 4) : n = m :=
  le_antisymm (h.le_of_rounds k hrm) (k.le_of_rounds h hrm)

/-- A magnitude that is rounded to an even integer is rounded to its half in units twice as large. -/
theorem Rounds.half {a : Nat} (h : Rounds rm neg x (2 * a)) : Rounds rm neg (x / 2) a := by
  obtain ⟨h0, h1, h2⟩ := h
  push_cast at h0 h1 h2
  refine ⟨fun k => ?_, fun k => ?_, fun k => ?_⟩
  · obtain ⟨hu, hl, -⟩ := h0 k
    refine ⟨by linarith, by linarith, ?_⟩
    rintro (h | h) <;> linarith
  · obtain ⟨hl, hu⟩ := h1 k
    constructor <;> linarith
  · obtain ⟨hu, hl⟩ := h2 k
    constructor <;> linarith

/-- An integer with a fraction is rounded up where the fraction is above one half, or is one half and the integer odd,
in the nearest mode; never in a mode towards zero; and in the others where there is a fraction. -/
theorem Rounds.add_fraction {r : ℚ} (h0 : 0 ≤ r) (h1 : r < 1) {up : Bool}
    (hup : (rm = 0 → (up = true ↔ 1 / 2 < r ∨ r = 1 / 2 ∧ n % 2 = 1)) ∧ (RoundsDown rm neg → up = false) ∧
      (RoundsAway rm neg → (up = true ↔ r ≠ 0))) :
    Rounds rm neg (n + r) (if up then n + 1 else n) := by
  obtain ⟨hnear, hdown, haway⟩ := hup
  cases up
  · simp only [Bool.false_eq_true, if_false, false_iff, not_or, not_lt, not_and, ne_eq, not_not] at *
    refine ⟨fun k => ?_, fun k => ⟨by linarith, by linarith⟩, fun k => ?_⟩
    · obtain ⟨hle, hodd⟩ := hnear k
      refine ⟨by linarith, by linarith, ?_⟩
      rintro (h | h)
      · have := hodd (by linarith)
        omega
      · linarith
    · rw [haway k]
      constructor <;> linarith
  · simp only [if_true, true_iff, Bool.true_eq_false] at *
    have hcast : ((n + 1 : Nat) : ℚ) = n + 1 := Nat.cast_succ n
    refine ⟨fun k => ?_, fun k => (hdown k).elim, fun k => ?_⟩
    · rcases hnear k with hgt | ⟨heq, hodd⟩
      · refine ⟨by linarith, by linarith, ?_⟩
        rintro (h | h) <;> linarith
      · exact ⟨by linarith, by linarith, fun _ => by omega⟩
    · have hpos : 0 < r := lt_of_le_of_ne h0 (haway k).symm
      constructor <;> linarith

end

/-! ## `roundAt` -/

@[simp] theorem dyadic_zero (n : Nat) : dyadic n 0 = n := by simp [dyadic]

/-- A magnitude in units smaller than its last place is an integer and a fraction. -/
theorem dyadic_neg_eq_add (mant d : Nat) :
    dyadic mant (-d) = (mant / 2 ^ d : Nat) + ((mant % 2 ^ d : Nat) : ℚ) / 2 ^ d := by
  have hdiv : (mant : ℚ) = 2 ^ d * (mant / 2 ^ d : Nat) + (mant % 2 ^ d : Nat) := by
    exact_mod_cast (Nat.div_add_mod mant (2 ^ d)).symm
  rw [dyadic, zpow_neg, zpow_natCast, hdiv]
  field_simp

/-- When `roundsUp` rounds up, in the terms of the fraction that is discarded. -/
theorem roundsUp_spec {rm : Nat} (hrm : rm < 4) (neg : Bool) (n rem h : Nat) (hpos : 0 < h) :
    let r : ℚ := rem / (2 * h : Nat)
    (rm = 0 → (roundsUp rm neg (n % 2 == 1) rem h = true ↔ 1 / 2 < r ∨ r = 1 / 2 ∧ n % 2 = 1)) ∧
      (RoundsDown rm neg → roundsUp rm neg (n % 2 == 1) rem h = false) ∧
      (RoundsAway rm neg → (roundsUp rm neg (n % 2 == 1) rem h = true ↔ r ≠ 0)) := by
  intro r
  have hposQ : (0 : ℚ) < h := by exact_mod_cast hpos
  have hhalf : 1 / 2 < r ↔ h < rem := by
    rw [lt_div_iff₀ (by positivity), ← Nat.cast_lt (α := ℚ)]
    push_cast
    constructor <;> intro <;> linarith
  have heq : r = 1 / 2 ↔ h = rem := by
    rw [div_eq_iff (by positivity), ← Nat.cast_inj (R := ℚ)]
    push_cast
    constructor <;> intro <;> linarith
  have hzero : r = 0 ↔ rem = 0 := by
    rw [div_eq_zero_iff, Nat.cast_eq_zero, Nat.cast_eq_zero]
    omega
  simp only [hhalf, heq, ne_eq, hzero]
  interval_cases rm <;> cases neg <;> simp [roundsUp]

section
variable {rm : Nat} {neg : Bool} {mant : Nat} {exp q : Int}

/-- `roundAt` rounds in its mode, and says whether it is inexact. -/
theorem roundAt_rounds (hrm : rm < 4) : Rounds rm neg (dyadic mant (exp - q)) (roundAt rm neg mant exp q).1 ∧
    ((roundAt rm neg mant exp q).2 = true ↔ dyadic mant (exp - q) ≠ (roundAt rm neg mant exp q).1) := by
  by_cases hq : q ≤ exp
  · have hx : dyadic mant (exp - q) = (mant * 2 ^ (exp - q).toNat : Nat) := by
      rw [← dyadic_zero, dyadic_mul_pow, Int.toNat_of_nonneg (by omega), zero_add]
    rw [roundAt, if_pos hq, hx]
    exact ⟨Rounds.self .., by simp⟩
  · obtain ⟨d, hd⟩ : ∃ d : Nat, q - exp = (d + 1 : Nat) := ⟨(q - exp - 1).toNat, by omega⟩
    have hpow : 2 ^ (d + 1) = 2 * 2 ^ d := pow_succ' 2 d
    have hlt : mant % 2 ^ (d + 1) < 2 ^ (d + 1) := Nat.mod_lt _ (by positivity)
    rw [roundAt, if_neg hq, show exp - q = -((d + 1 : Nat) : Int) by omega, dyadic_neg_eq_add, hd, Int.toNat_natCast]
    dsimp only
    rw [Nat.add_sub_cancel]
    generalize mant / 2 ^ (d + 1) = n
    generalize mant % 2 ^ (d + 1) = rem at hlt
    have hup := roundsUp_spec hrm neg n rem (2 ^ d) (by positivity)
    rw [← hpow] at hup
    push_cast at hup
    have h0 : (0 : ℚ) ≤ rem / 2 ^ (d + 1) := by positivity
    have h1 : (rem : ℚ) / 2 ^ (d + 1) < 1 := by
      rw [div_lt_one (by positivity)]
      exact_mod_cast hlt
    have hround := Rounds.add_fraction (n := n) h0 h1 hup
    refine ⟨hround, ?_⟩
    rw [bne_iff_ne]
    by_cases hrem : rem = 0
    · subst hrem
      simp only [Nat.cast_zero, zero_div, add_zero] at hround ⊢
      rw [hround.unique (Rounds.self rm neg n) hrm]
      simp
    · have hpos : (0 : ℚ) < rem / 2 ^ (d + 1) := by
        have := Nat.pos_of_ne_zero hrem
        positivity
      refine iff_of_true hrem fun heq => ?_
      split_ifs at heq
      · push_cast at heq
        linarith
      · linarith

end

/-! ## Comparisons -/

/-- `cmp` compares numbers to the magnitude v, down to a unit. -/
def Measures (cmp : Nat → Int → Ordering) (v : ℚ) (least : Int) : Prop :=
  ∀ n k, least ≤ k → cmp n k = compare (dyadic n k) v

theorem compare_mul_zpow (a b : ℚ) (k : Int) : compare (a * 2 ^ k) (b * 2 ^ k) = compare a b := by
  have hpos : (0 : ℚ) < 2 ^ k := by positivity
  rcases lt_trichotomy a b with h | h | h
  · rw [compare_lt_iff_lt.mpr h, compare_lt_iff_lt.mpr ((mul_lt_mul_iff_left₀ hpos).mpr h)]
  · rw [h, compare_eq_iff_eq.mpr rfl, compare_eq_iff_eq.mpr rfl]
  · rw [compare_gt_iff_gt.mpr h, compare_gt_iff_gt.mpr ((mul_lt_mul_iff_left₀ hpos).mpr h)]

section
variable {cmp : Nat → Int → Ordering} {v : ℚ} {least k : Int}

/-- In units of 2^k. -/
theorem Measures.compare_units (h : Measures cmp v least) (hk : least ≤ k) (n : Nat) :
    cmp n k = compare (n : ℚ) (v / 2 ^ k) := by
  rw [h n k hk, ← compare_mul_zpow (n : ℚ) _ k, div_mul_cancel₀ v (by positivity)]
  rfl

/-- In half units. -/
theorem Measures.compare_half (h : Measures cmp v least) (hk : least ≤ k - 1) (n : Nat) :
    cmp n (k - 1) = compare ((n : ℚ) / 2) (v / 2 ^ k) := by
  have hunit : (2 : ℚ) ^ k = 2 ^ (k - 1) * 2 := by
    rw [← zpow_add_one₀ two_ne_zero, sub_add_cancel]
  rw [h.compare_units hk, ← compare_mul_zpow _ _ (-1), hunit]
  congr 1
  rw [zpow_neg_one]
  field_simp

/-- What is rounded to an integer is rounded among the multiples of a unit, as comparisons see them. -/
theorem Measures.roundsTo (h : Measures cmp v least) (hk : least ≤ k - 1) {rm : Nat} {neg : Bool} {n : Nat}
    (hr : Rounds rm neg (v / 2 ^ k) n) : RoundsTo rm neg cmp n k := by
  have hunits := h.compare_units (k := k) (by omega)
  have hhalf := h.compare_half hk
  have hup : (((2 * n + 1 : Nat) : ℚ)) / 2 = n + 1 / 2 := by
    push_cast
    ring
  have hdown (hn : n ≠ 0) : ((2 * n - 1 : Nat) : ℚ) / 2 = n - 1 / 2 := by
    rw [Nat.cast_sub (by omega)]
    push_cast
    ring
  have hpred (hn : n ≠ 0) : ((n - 1 : Nat) : ℚ) = n - 1 := by rw [Nat.cast_sub (by omega), Nat.cast_one]
  obtain ⟨h0, h1, h2⟩ := hr
  refine ⟨fun hm => ?_, fun hm => ?_, fun hm => ?_⟩
  · obtain ⟨hle, hge, htie⟩ := h0 hm
    rw [hhalf, hhalf, hup]
    refine ⟨compare_ge_iff_ge.mpr hle, fun hn => ?_, ?_⟩
    · rw [hdown hn]
      exact compare_le_iff_le.mpr hge
    · rintro (heq | ⟨hn, heq⟩)
      · exact htie (.inl (compare_eq_iff_eq.mp heq).symm)
      · rw [hdown hn] at heq
        exact htie (.inr (compare_eq_iff_eq.mp heq).symm)
  · obtain ⟨hle, hlt⟩ := h1 hm
    rw [hunits, hunits, Nat.cast_succ]
    exact ⟨compare_le_iff_le.mpr hle, compare_gt_iff_gt.mpr hlt⟩
  · obtain ⟨hle, hlt⟩ := h2 hm
    rw [hunits, hunits]
    refine ⟨compare_ge_iff_ge.mpr hle, fun hn => ?_⟩
    rw [hpred hn]
    exact compare_lt_iff_lt.mpr hlt

end

end Sys2Proof.Machine
end

section
/-! SUPPORT. The binary formats (R94) and one rounding into them (R98 to R101): which encoding a multiple of a last
place has, and that `fround` gives the value that its mode picks, with its flags. -/

namespace Sys2Proof.Machine

open Sys2Proof.Claims (cmpRat RoundsTo RoundedTo lies)

/-! ## Encodings of finite values -/

section
variable {t : Nat} (h9 : 9 ≤ t) (h14 : t ≤ 14)
include h9 h14

theorem largest_lt_sign : largest t < (fmtOf t).sign := by
  interval_cases t <;> decide

theorem pow_le_largest : 2 ^ (fmtOf t).m ≤ largest t := by
  interval_cases t <;> decide

/-- An encoding up to the largest finite one stands for a finite value. -/
theorem fdecode_of_le_largest {mag : Nat} (h : mag ≤ largest t) (neg : Bool) :
    fdecode t ((if neg then (fmtOf t).sign else 0) + mag) =
      if mag / 2 ^ (fmtOf t).m = 0 then .fin neg (mag % 2 ^ (fmtOf t).m) (1 - ((fmtOf t).bias : Int) - (fmtOf t).m)
      else .fin neg (2 ^ (fmtOf t).m + mag % 2 ^ (fmtOf t).m)
        (((mag / 2 ^ (fmtOf t).m : Nat) : Int) - (fmtOf t).bias - (fmtOf t).m) := by
  have hlt : mag < (fmtOf t).sign := h.trans_lt (largest_lt_sign h9 h14)
  have hpos : 0 < (fmtOf t).sign := by omega
  have hneg : (((if neg then (fmtOf t).sign else 0) + mag) / (fmtOf t).sign % 2 == 1) = neg := by
    cases neg
    · simp [Nat.div_eq_of_lt hlt]
    · simp [Nat.add_div_left _ hpos, Nat.div_eq_of_lt hlt]
  have hmag : ((if neg then (fmtOf t).sign else 0) + mag) % (fmtOf t).sign = mag := by
    cases neg <;> simp [Nat.mod_eq_of_lt hlt]
  simp only [fdecode, hneg, hmag]
  by_cases ht : t = 9
  · have hne : mag ≠ 0x7F := by
      rintro rfl
      rw [largest, if_pos ht] at h
      omega
    rw [if_pos ht, if_neg hne]
  · have hinf : mag < (2 ^ (fmtOf t).e - 1) * 2 ^ (fmtOf t).m := by
      rw [largest, if_neg ht, FFmt.inf] at h
      have := pow_le_largest h9 h14
      rw [largest, if_neg ht, FFmt.inf] at this
      have : 0 < 2 ^ (fmtOf t).m := by positivity
      omega
    rw [if_neg ht, if_neg (Nat.div_lt_of_lt_mul (by rwa [mul_comm])).ne]

end

/-- Numbers of c·P + n, with n from P to 2·P where c is not 0, are in the order of n·2^c. -/
theorem mul_add_lt_iff_mul_pow_lt {P k c r n : Nat} (hr : r < P) (hle : n ≤ 2 * P) (hfull : c ≠ 0 → P ≤ n) :
    (k + 1) * P + r < c * P + n ↔ (P + r) * 2 ^ k < n * 2 ^ c := by
  rcases lt_trichotomy c k with h | rfl | h
  · have hcP : (c + 1) * P ≤ k * P := Nat.mul_le_mul_right _ h
    have hpow : P * 2 ^ (c + 1) ≤ P * 2 ^ k := Nat.mul_le_mul_left _ (Nat.pow_le_pow_right (by decide) h)
    refine iff_of_false (by rw [add_mul] at *; omega) (not_lt.mpr ?_)
    calc n * 2 ^ c ≤ 2 * P * 2 ^ c := Nat.mul_le_mul_right _ hle
      _ = P * 2 ^ (c + 1) := by ring
      _ ≤ P * 2 ^ k := hpow
      _ ≤ (P + r) * 2 ^ k := Nat.mul_le_mul_right _ (Nat.le_add_right ..)
  · rw [Nat.mul_lt_mul_right (by positivity), add_mul]
    omega
  · have hP := hfull (by omega)
    have hkP : (k + 1) * P ≤ c * P := Nat.mul_le_mul_right _ h
    refine iff_of_true (by omega) ?_
    calc (P + r) * 2 ^ k < (2 * P) * 2 ^ k := Nat.mul_lt_mul_of_pos_right (by omega) (by positivity)
      _ = P * 2 ^ (k + 1) := by ring
      _ ≤ P * 2 ^ c := Nat.mul_le_mul_left _ (Nat.pow_le_pow_right (by decide) h)
      _ ≤ n * 2 ^ c := Nat.mul_le_mul_right _ hP

/-- The encoding of n·2^c last places of the least exponent, c being 0 or n of full length. -/
def placed (t c n : Nat) : Nat := c * 2 ^ (fmtOf t).m + n

/-- The exponent of c places above the least one. -/
def lastPlace (t c : Nat) : Int := 1 - ((fmtOf t).bias : Int) - (fmtOf t).m + c

/-- n of full length where c is not the least. -/
structure Fits (t c n : Nat) : Prop where
  le : n ≤ 2 * 2 ^ (fmtOf t).m
  full : c ≠ 0 → 2 ^ (fmtOf t).m ≤ n

section
variable {t : Nat} (h9 : 9 ≤ t) (h14 : t ≤ 14)
include h9 h14

/-- The value of an encoding, in which a carry moves the exponent. -/
theorem fdecode_placed {c n : Nat} (hf : Fits t c n) (h : placed t c n ≤ largest t) (neg : Bool) :
    ∃ M E, fdecode t ((if neg then (fmtOf t).sign else 0) + placed t c n) = .fin neg M E ∧
      (M = n ∧ E = lastPlace t c ∨ n = 2 * M ∧ E = lastPlace t c + 1) := by
  obtain ⟨hle, hfull⟩ := hf
  rw [fdecode_of_le_largest h9 h14 h]
  unfold placed lastPlace
  have hP : 0 < 2 ^ (fmtOf t).m := by positivity
  generalize 2 ^ (fmtOf t).m = P at *
  by_cases h1 : n < P
  · obtain rfl : c = 0 := by
      by_contra hc
      have := hfull hc
      omega
    rw [zero_mul, zero_add, if_pos (Nat.div_eq_of_lt h1), Nat.mod_eq_of_lt h1]
    exact ⟨_, _, rfl, .inl ⟨rfl, by simp⟩⟩
  · by_cases h2 : n < 2 * P
    · have hmag : c * P + n = (n - P) + P * (c + 1) := by
        rw [mul_add, mul_comm P c]
        omega
      have hlt : n - P < P := by omega
      rw [hmag, Nat.add_mul_div_left _ _ hP, Nat.add_mul_mod_self_left, Nat.div_eq_of_lt hlt, Nat.mod_eq_of_lt hlt,
        if_neg (by omega)]
      refine ⟨_, _, rfl, .inl ⟨by omega, by push_cast; ring⟩⟩
    · have hmag : c * P + n = P * (c + 2) := by
        rw [mul_add, mul_comm P c]
        omega
      rw [hmag, Nat.mul_div_cancel_left _ hP, Nat.mul_mod_right, if_neg (by omega)]
      refine ⟨_, _, rfl, .inr ⟨by omega, by push_cast; ring⟩⟩

/-- The encodings are in the order of their values. -/
theorem largest_lt_placed_iff : ∃ ML EL, fdecode t (largest t) = .fin false ML EL ∧
    ∀ {c n : Nat}, Fits t c n → (largest t < placed t c n ↔ dyadic ML EL < dyadic n (lastPlace t c)) := by
  have hP : 0 < 2 ^ (fmtOf t).m := by positivity
  have hL := pow_le_largest h9 h14
  have hdec := fdecode_of_le_largest h9 h14 le_rfl false
  simp only [Bool.false_eq_true, if_false, zero_add] at hdec
  have hne : largest t / 2 ^ (fmtOf t).m ≠ 0 := (Nat.div_pos hL hP).ne'
  rw [if_neg hne] at hdec
  refine ⟨_, _, hdec, ?_⟩
  rintro c n ⟨hle, hfull⟩
  obtain ⟨k, hk⟩ := Nat.exists_eq_succ_of_ne_zero hne
  have hmod : largest t = (k + 1) * 2 ^ (fmtOf t).m + largest t % 2 ^ (fmtOf t).m := by
    rw [← Nat.succ_eq_add_one, ← hk, mul_comm]
    exact (Nat.div_add_mod ..).symm
  have hr := Nat.mod_lt (largest t) hP
  have hEL : ((k.succ : Nat) : Int) - (fmtOf t).bias - (fmtOf t).m = lastPlace t 0 + k := by
    unfold lastPlace
    push_cast
    ring
  have hc : lastPlace t c = lastPlace t 0 + c := by simp [lastPlace]
  rw [hk, hEL, hc, ← dyadic_mul_pow, ← dyadic_mul_pow, dyadic_lt_dyadic, placed,
    ← mul_add_lt_iff_mul_pow_lt hr hle hfull, ← hmod]

end

/-! ## One rounding -/

/-- The exponent of the first place of a magnitude. -/
def topPlace (mant : Nat) (exp : Int) : Int := exp + Nat.log2 mant

/-- The last place of a magnitude where exponents are not bounded. -/
def freePlace (t mant : Nat) (exp : Int) : Int := topPlace mant exp - (fmtOf t).m

/-- How far above the least exponent a magnitude lies, or 0. -/
def aboveLeast (t mant : Nat) (exp : Int) : Nat := (topPlace mant exp - (1 - ((fmtOf t).bias : Int))).toNat

/-- Below the least exponent, and still there when rounded with an unbounded exponent (R99). -/
def tiny (t rm : Nat) (neg : Bool) (mant : Nat) (exp : Int) : Bool :=
  decide (topPlace mant exp < 1 - ((fmtOf t).bias : Int)) &&
    !(decide (topPlace mant exp = 1 - ((fmtOf t).bias : Int) - 1) &&
      (roundAt rm neg mant exp (freePlace t mant exp)).1 == 2 ^ ((fmtOf t).m + 1))

section
variable {t rm mant : Nat} {neg : Bool} {exp : Int}

/-- Between the least exponent and the last place. -/
theorem lastPlace_aboveLeast_cases (t mant : Nat) (exp : Int) :
    1 - ((fmtOf t).bias : Int) ≤ topPlace mant exp ∧
      lastPlace t (aboveLeast t mant exp) = freePlace t mant exp ∨
    topPlace mant exp < 1 - ((fmtOf t).bias : Int) ∧ aboveLeast t mant exp = 0 ∧
      lastPlace t 0 = freePlace t mant exp + (1 - ((fmtOf t).bias : Int) - topPlace mant exp) := by
  unfold lastPlace aboveLeast freePlace
  omega

/-- `fround` in these terms. -/
theorem fround_eq (h : mant ≠ 0) : fround t rm neg mant exp =
    let r := roundAt rm neg mant exp (lastPlace t (aboveLeast t mant exp))
    let s := if neg then (fmtOf t).sign else 0
    let mag := placed t (aboveLeast t mant exp) r.1
    if largest t < mag then (s + overflow t rm neg, flagOF ||| flagNX)
    else (s + mag, flagIf r.2 flagNX ||| flagIf (r.2 && tiny t rm neg mant exp) flagUF) := by
  have hq : (if exp + (Nat.log2 mant : Int) < 1 - ((fmtOf t).bias : Int) then 1 - ((fmtOf t).bias : Int)
      else exp + (Nat.log2 mant : Int)) - (fmtOf t).m = lastPlace t (aboveLeast t mant exp) := by
    unfold lastPlace aboveLeast topPlace
    split <;> omega
  have hc : (lastPlace t (aboveLeast t mant exp) + (fmtOf t).m + (fmtOf t).bias - 1).toNat = aboveLeast t mant exp := by
    unfold lastPlace
    omega
  simp only [fround, if_neg h, hq, hc]
  rfl

/-- A magnitude in units of its last place has m + 1 digits. -/
theorem freePlace_bounds (h : mant ≠ 0) :
    (2 ^ (fmtOf t).m : Nat) ≤ dyadic mant (exp - freePlace t mant exp) ∧
      dyadic mant (exp - freePlace t mant exp) < (2 ^ ((fmtOf t).m + 1) : Nat) := by
  have hlog : exp - freePlace t mant exp = ((fmtOf t).m : Int) - Nat.log2 mant := by
    unfold freePlace topPlace
    omega
  have hlow : (2 ^ Nat.log2 mant : ℚ) ≤ mant := by exact_mod_cast Nat.log2_self_le h
  have hhigh : (mant : ℚ) < 2 ^ (Nat.log2 mant + 1) := by exact_mod_cast Nat.lt_log2_self
  have hpos : (0 : ℚ) < 2 ^ Nat.log2 mant := by positivity
  rw [hlog, dyadic, zpow_sub₀ two_ne_zero, zpow_natCast, zpow_natCast, ← mul_div_assoc]
  push_cast
  rw [le_div_iff₀ hpos, div_lt_iff₀ hpos]
  constructor
  · rw [mul_comm]
    gcongr
  · calc (mant : ℚ) * 2 ^ (fmtOf t).m < 2 ^ (Nat.log2 mant + 1) * 2 ^ (fmtOf t).m := by gcongr
      _ = 2 ^ ((fmtOf t).m + 1) * 2 ^ Nat.log2 mant := by ring

/-- A magnitude rounded with an unbounded exponent, as a multiple of its last place. -/
def freeRounded (t rm : Nat) (neg : Bool) (mant : Nat) (exp : Int) : Nat :=
  (roundAt rm neg mant exp (freePlace t mant exp)).1

/-- A magnitude rounded to a multiple of the last place it has in the format. -/
def rounded (t rm : Nat) (neg : Bool) (mant : Nat) (exp : Int) : Nat :=
  (roundAt rm neg mant exp (lastPlace t (aboveLeast t mant exp))).1

theorem freeRounded_rounds (hrm : rm < 4) :
    Rounds rm neg (dyadic mant (exp - freePlace t mant exp)) (freeRounded t rm neg mant exp) := (roundAt_rounds hrm).1

theorem rounded_rounds (hrm : rm < 4) :
    Rounds rm neg (dyadic mant (exp - lastPlace t (aboveLeast t mant exp))) (rounded t rm neg mant exp) :=
  (roundAt_rounds hrm).1

/-- `roundAt` says whether the result differs from the magnitude. -/
theorem rounded_exact_iff (hrm : rm < 4) :
    dyadic (rounded t rm neg mant exp) (lastPlace t (aboveLeast t mant exp)) = dyadic mant exp ↔
      (roundAt rm neg mant exp (lastPlace t (aboveLeast t mant exp))).2 = false := by
  rw [← Bool.not_eq_true, (roundAt_rounds hrm).2, not_not, ← dyadic_div, div_eq_iff (by positivity), eq_comm]
  rfl

theorem freeRounded_bounds (hrm : rm < 4) (h : mant ≠ 0) :
    2 ^ (fmtOf t).m ≤ freeRounded t rm neg mant exp ∧ freeRounded t rm neg mant exp ≤ 2 ^ ((fmtOf t).m + 1) := by
  obtain ⟨hlow, hhigh⟩ := freePlace_bounds (t := t) (exp := exp) h
  exact ⟨(freeRounded_rounds hrm).le_of_le hrm hlow, (freeRounded_rounds hrm).ge_of_ge hrm hhigh.le⟩

/-- Below the least exponent a magnitude is rounded to no more than the least normal value. -/
theorem rounded_le (hrm : rm < 4) (h : mant ≠ 0) (hlow : topPlace mant exp < 1 - ((fmtOf t).bias : Int)) :
    rounded t rm neg mant exp ≤ 2 ^ (fmtOf t).m := by
  refine (rounded_rounds hrm).ge_of_ge hrm ?_
  obtain ⟨h', -⟩ | ⟨-, hc, hq⟩ := lastPlace_aboveLeast_cases t mant exp
  · omega
  · have hlt := (freePlace_bounds (t := t) (exp := exp) h).2
    have hhalf : dyadic mant (exp - freePlace t mant exp - 1) < (2 ^ (fmtOf t).m : Nat) := by
      rw [← dyadic_div, zpow_one, div_lt_iff₀ two_pos]
      exact_mod_cast hlt
    rw [hc, hq]
    exact (dyadic_le_of_le mant (by omega)).trans hhalf.le

theorem rounded_fits (hrm : rm < 4) (h : mant ≠ 0) : Fits t (aboveLeast t mant exp) (rounded t rm neg mant exp) := by
  obtain ⟨-, hq⟩ | ⟨hlow, hc, -⟩ := lastPlace_aboveLeast_cases t mant exp
  · obtain ⟨hge, hle⟩ := freeRounded_bounds (t := t) (neg := neg) (exp := exp) hrm h
    rw [rounded, hq]
    exact ⟨hle.trans_eq (pow_succ' ..), fun _ => hge⟩
  · have hle := rounded_le (neg := neg) hrm h hlow
    exact ⟨by omega, fun h0 => absurd hc h0⟩

/-- `tiny` compares the magnitude rounded with an unbounded exponent to the least normal value. -/
theorem tiny_iff (hrm : rm < 4) (h : mant ≠ 0) : tiny t rm neg mant exp = true ↔
    dyadic (freeRounded t rm neg mant exp) (freePlace t mant exp) < dyadic 1 (1 - ((fmtOf t).bias : Int)) := by
  obtain ⟨hge, hle⟩ := freeRounded_bounds (t := t) (neg := neg) (exp := exp) hrm h
  have hlow : dyadic (2 ^ (fmtOf t).m) (freePlace t mant exp) = dyadic 1 (topPlace mant exp) := by
    rw [dyadic_pow, freePlace, sub_add_cancel]
  have hhigh : dyadic (2 ^ ((fmtOf t).m + 1)) (freePlace t mant exp) = dyadic 1 (topPlace mant exp + 1) := by
    rw [dyadic_pow, freePlace]
    congr 1
    push_cast
    ring
  have htiny : tiny t rm neg mant exp = true ↔ topPlace mant exp < 1 - ((fmtOf t).bias : Int) ∧
      ¬(topPlace mant exp = 1 - ((fmtOf t).bias : Int) - 1 ∧
        freeRounded t rm neg mant exp = 2 ^ ((fmtOf t).m + 1)) := by
    rw [tiny, Bool.and_eq_true, Bool.not_eq_true', ← Bool.not_eq_true, Bool.and_eq_true, beq_iff_eq,
      decide_eq_true_iff, decide_eq_true_iff]
    rfl
  rw [htiny]
  by_cases hN : freeRounded t rm neg mant exp = 2 ^ ((fmtOf t).m + 1)
  · rw [hN, hhigh, dyadic_one_lt]
    simp only [and_true]
    omega
  · have hlt := dyadic_lt_dyadic (k := freePlace t mant exp).mpr (lt_of_le_of_ne hle hN)
    have hge' := dyadic_le_dyadic (k := freePlace t mant exp).mpr hge
    rw [hhigh] at hlt
    rw [hlow] at hge'
    simp only [hN, and_false, not_false_eq_true, and_true]
    constructor
    · exact fun htop => hlt.trans_le (dyadic_one_le.mpr htop)
    · intro hN
      exact dyadic_one_lt.mp (hge'.trans_lt hN)

/-- A magnitude that is not tiny is rounded as with an unbounded exponent. -/
theorem rounded_eq_of_not_tiny (hrm : rm < 4) (ht : tiny t rm neg mant exp = false) :
    dyadic (rounded t rm neg mant exp) (lastPlace t (aboveLeast t mant exp)) =
      dyadic (freeRounded t rm neg mant exp) (freePlace t mant exp) := by
  obtain ⟨-, hq⟩ | ⟨hlow, hc, hq⟩ := lastPlace_aboveLeast_cases t mant exp
  · rw [rounded, hq, freeRounded]
  · obtain ⟨htop, hN⟩ : topPlace mant exp = 1 - ((fmtOf t).bias : Int) - 1 ∧
        freeRounded t rm neg mant exp = 2 ^ ((fmtOf t).m + 1) := by
      simpa [tiny, hlow, freeRounded] using ht
    have hq' : lastPlace t (aboveLeast t mant exp) = freePlace t mant exp + 1 := by rw [hc, hq, htop]; ring
    have hpow : 2 ^ ((fmtOf t).m + 1) = 2 * 2 ^ (fmtOf t).m := pow_succ' ..
    have hhalf : Rounds rm neg (dyadic mant (exp - (freePlace t mant exp + 1))) (2 ^ (fmtOf t).m) := by
      have hfree := freeRounded_rounds (t := t) (neg := neg) (mant := mant) (exp := exp) hrm
      rw [hN, hpow] at hfree
      rw [← sub_sub, ← dyadic_div, zpow_one]
      exact hfree.half
    have hn : rounded t rm neg mant exp = 2 ^ (fmtOf t).m := by
      refine (rounded_rounds hrm).unique ?_ hrm
      rwa [hq']
    rw [hn, hN, hq', dyadic_pow, dyadic_pow]
    congr 1
    push_cast
    ring

theorem dyadic_pow_lastPlace (t : Nat) :
    dyadic (2 ^ (fmtOf t).m) (lastPlace t 0) = dyadic 1 (1 - ((fmtOf t).bias : Int)) := by
  rw [dyadic_pow]
  congr 1
  simp [lastPlace]

theorem freePlace_le_lastPlace (t mant : Nat) (exp : Int) :
    freePlace t mant exp ≤ lastPlace t (aboveLeast t mant exp) := by
  obtain ⟨-, hq⟩ | ⟨hlow, hc, hq⟩ := lastPlace_aboveLeast_cases t mant exp
  · exact hq.ge
  · rw [hc]
    omega

section
variable (h9 : 9 ≤ t) (h14 : t ≤ 14) (hrm : rm < 4) (h : mant ≠ 0)
include h9 h14 hrm h

/-- The encoding lies above the largest finite one where the magnitude rounded with an unbounded exponent does (R99). -/
theorem largest_lt_placed_rounded_iff : ∃ ML EL, fdecode t (largest t) = .fin false ML EL ∧
    (largest t < placed t (aboveLeast t mant exp) (rounded t rm neg mant exp) ↔
      dyadic ML EL < dyadic (freeRounded t rm neg mant exp) (freePlace t mant exp)) := by
  obtain ⟨ML, EL, hdec, hiff⟩ := largest_lt_placed_iff h9 h14
  refine ⟨ML, EL, hdec, (hiff (rounded_fits hrm h)).trans ?_⟩
  cases ht : tiny t rm neg mant exp
  · rw [rounded_eq_of_not_tiny hrm ht]
  · have hnormal : ¬dyadic ML EL < dyadic (2 ^ (fmtOf t).m) (lastPlace t 0) := by
      rw [← hiff ⟨by omega, fun h0 => absurd rfl h0⟩, placed, zero_mul, zero_add, not_lt]
      exact pow_le_largest h9 h14
    refine iff_of_false (fun hlt => hnormal (hlt.trans_le ?_)) (fun hlt => hnormal (hlt.trans ?_))
    · obtain ⟨htop, -⟩ | ⟨hlow, hc, -⟩ := lastPlace_aboveLeast_cases t mant exp
      · simp [tiny, not_lt.mpr htop] at ht
      · rw [hc]
        exact dyadic_le_dyadic.mpr (rounded_le hrm h hlow)
    · rw [dyadic_pow_lastPlace]
      exact (tiny_iff hrm h).mp ht

/-- What a result that does not overflow stands for. -/
theorem fdecode_rounded (hle : placed t (aboveLeast t mant exp) (rounded t rm neg mant exp) ≤ largest t) :
    ∃ M E, fdecode t ((if neg then (fmtOf t).sign else 0) +
        placed t (aboveLeast t mant exp) (rounded t rm neg mant exp)) = .fin neg M E ∧
      dyadic M E = dyadic (rounded t rm neg mant exp) (lastPlace t (aboveLeast t mant exp)) ∧
      freePlace t mant exp ≤ E ∧ Rounds rm neg (dyadic mant (exp - E)) M := by
  obtain ⟨M, E, hdec, ⟨hM, hE⟩ | ⟨hM, hE⟩⟩ := fdecode_placed h9 h14 (rounded_fits hrm h) hle neg
  all_goals
    have hround := rounded_rounds (t := t) (neg := neg) (mant := mant) (exp := exp) hrm
    have hplace := freePlace_le_lastPlace t mant exp
    refine ⟨M, E, hdec, ?_, by omega, ?_⟩
  · rw [hM, hE]
  · rwa [hM, hE]
  · rw [hM, hE, mul_comm, ← pow_one 2, dyadic_mul_pow]
    rfl
  · rw [hM] at hround
    rw [hE, ← sub_sub, ← dyadic_div, zpow_one]
    exact hround.half

omit h14 h in
/-- The result of an overflow, by its mode and sign (R99, R101). -/
theorem overflow_eq (neg : Bool) : overflow t rm neg =
    if 11 ≤ t ∧ (if rm = 0 then true else if rm = 1 then false else if rm = 2 then neg else !neg) = true then
      (fmtOf t).inf else largest t := by
  by_cases h11 : 11 ≤ t
  · unfold overflow
    rw [if_neg (by omega)]
    interval_cases rm <;> cases neg <;> simp [h11]
  · unfold overflow
    rw [if_pos (by omega), if_neg fun h' => h11 h'.1]

/-- `fround` rounds once, for every comparison that measures the value down to a bit below its last place. -/
theorem fround_roundedTo {cmp : Nat → Int → Ordering}
    (hcmp : Measures cmp (dyadic mant exp) (freePlace t mant exp - 1)) :
    RoundedTo t rm neg cmp (fround t rm neg mant exp) := by
  obtain ⟨ML, EL, hdec, hover⟩ := largest_lt_placed_rounded_iff (neg := neg) (exp := exp) h9 h14 hrm h
  have hfree := freeRounded_rounds (t := t) (neg := neg) (mant := mant) (exp := exp) hrm
  obtain ⟨hlow, hhigh⟩ := freePlace_bounds (t := t) (exp := exp) h
  rw [← dyadic_div] at hfree hlow hhigh
  have hunits := hcmp.compare_units (k := freePlace t mant exp) (by omega)
  refine ⟨freeRounded t rm neg mant exp, freePlace t mant exp, ?_, ?_, hcmp.roundsTo le_rfl hfree, ML, EL, hdec, ?_⟩
  · rw [hunits]
    exact compare_le_iff_le.mpr hlow
  · rw [hunits]
    exact compare_gt_iff_gt.mpr hhigh
  simp only [lies_iff_lt, ← hover, ← tiny_iff hrm h]
  rw [fround_eq h]
  simp only [← rounded.eq_1]
  by_cases hgt : largest t < placed t (aboveLeast t mant exp) (rounded t rm neg mant exp)
  · simp only [hgt, if_true, true_imp_iff, not_true, false_imp_iff, and_true]
    exact ⟨by decide, rfl, congrArg _ (overflow_eq h9 hrm neg)⟩
  · obtain ⟨M, E, hfin, hval, hE, hM⟩ := fdecode_rounded (neg := neg) (exp := exp) h9 h14 hrm h (not_lt.mp hgt)
    simp only [hgt, if_false, false_imp_iff, not_false_eq_true, true_imp_iff, true_and]
    rw [← dyadic_div] at hM
    refine ⟨?_, ?_, M, E, hfin, hcmp.roundsTo (by omega) hM, fun ht => ?_, ?_⟩
    · cases (roundAt rm neg mant exp (lastPlace t (aboveLeast t mant exp))).2 <;>
        cases tiny t rm neg mant exp <;> decide
    · have := largest_lt_sign h9 h14
      split <;> omega
    · rw [hval, rounded_eq_of_not_tiny hrm (by simpa using ht)]
      exact ⟨lt_irrefl _, lt_irrefl _⟩
    · have hexact : cmp M E = .eq ↔ (roundAt rm neg mant exp (lastPlace t (aboveLeast t mant exp))).2 = false := by
        rw [hcmp M E (by omega), compare_eq_iff_eq, hval]
        exact rounded_exact_iff hrm
      simp only [hexact, ne_eq]
      cases (roundAt rm neg mant exp (lastPlace t (aboveLeast t mant exp))).2 <;>
        cases tiny t rm neg mant exp <;> rfl

end

end

/-- Settles O39: the exact value measures itself, and `fround` rounds once. -/
theorem roundingFollowsItsMode : Obligations.RoundingFollowsItsMode := by
  unfold Obligations.RoundingFollowsItsMode
  intro t rm neg mant exp h9 h14 hrm h
  refine fround_roundedTo h9 h14 hrm h fun n k _ => ?_
  rw [cmpRat_eq_compare, mul_one]

end Sys2Proof.Machine
end

section
/-! SUPPORT. Results of finite operands, rounded once (R96 to R102), and the values that no rounding gives: NaNs,
infinities, zeros and division by zero (R94, R96, R97, R100). -/

namespace Sys2Proof.Machine

open Sys2Proof.Claims (cmpRat cmpRoot RoundsTo RoundedTo SumRounded)

/-! ## Values that no rounding gives -/

/-- A flag that a condition decides. -/
theorem flagIf_eq_ite {b : Bool} {p : Prop} [Decidable p] (h : b = true ↔ p) (f : BitVec 8) :
    flagIf b f = if p then f else 0 := by
  simp only [flagIf, h]
  rfl

/-- The sign of a zero that no rounding gives. -/
theorem fround_zero (t rm : Nat) (neg : Bool) (e : Int) :
    fround t rm neg 0 e = (if neg then (fmtOf t).sign else 0, 0) := rfl

/-- A NaN among two operands (R96). -/
theorem results_of_isNaN (t rm : Nat) {a b : FVal} (h : a.isNaN = true ∨ b.isNaN = true) :
    let r := (canonNaN t, if a.snan = true ∨ b.snan = true then 0x01#8 else 0)
    faddV t rm a b = r ∧ fmulV t rm a b = r ∧ fdivV t rm a b = r := by
  have hflag : nanResult t (a.snan || b.snan) = (canonNaN t, if a.snan = true ∨ b.snan = true then 0x01#8 else 0) :=
    congrArg _ (flagIf_eq_ite (by simp) _)
  simp only [← hflag]
  cases a with
  | nan s =>
    cases b <;> cases s <;> exact ⟨rfl, rfl, rfl⟩
  | inf n =>
    cases b with
    | nan s => cases s <;> exact ⟨rfl, rfl, rfl⟩
    | inf m => simp [FVal.isNaN] at h
    | fin m k e => simp [FVal.isNaN] at h
  | fin n m e =>
    cases b with
    | nan s => cases s <;> exact ⟨rfl, rfl, rfl⟩
    | inf m => simp [FVal.isNaN] at h
    | fin m k e => simp [FVal.isNaN] at h

theorem exactAdd_zeros (rm : Nat) (n : Bool) (e k : Int) : exactAdd rm n 0 e n 0 k = (n, 0, min e k) := by
  simp [exactAdd]

theorem exactAdd_opposite (rm : Nat) (n : Bool) {m : Nat} (e : Int) (h : m ≠ 0) :
    exactAdd rm n m e (!n) m e = (rm == 2, 0, e) := by
  cases n <;> simp [exactAdd, h]

/-- Two zeros of the same sign keep it (R97). -/
theorem faddV_zeros (t rm : Nat) (n : Bool) (e k : Int) :
    faddV t rm (.fin n 0 e) (.fin n 0 k) = (if n then (fmtOf t).sign else 0, 0) := by
  simp only [faddV, exactAdd_zeros, fround_zero]

/-- A sum of opposite numbers is −0 in RDN alone (R97). -/
theorem faddV_opposite (t rm : Nat) (n : Bool) (m : Nat) (e : Int) (h : m ≠ 0) :
    faddV t rm (.fin n m e) (.fin (!n) m e) = (if rm = 2 then (fmtOf t).sign else 0, 0) := by
  simp only [faddV, exactAdd_opposite rm n e h, fround_zero, beq_iff_eq]

/-- A NaN among three operands (R96). -/
theorem ffmaV_nan (t rm : Nat) {a b c : FVal} (h : a.isNaN = true ∨ b.isNaN = true ∨ c.isNaN = true) :
    (ffmaV t rm a b c).1 = canonNaN t := by
  have hnan : (a.isNaN || b.isNaN || c.isNaN) = true := by simpa [or_assoc] using h
  have hite (p : Prop) [Decidable p] : (if p then nanResult t true else nanResult t false).1 = canonNaN t := by
    split <;> rfl
  simp only [ffmaV, hnan, if_true, hite]

theorem floatSpecialValues : Claims.FloatSpecialValues := by
  intro t rm a b c invalid
  refine ⟨results_of_isNaN t rm, fun n => ⟨?_, ?_⟩, fun n m k e => ⟨?_, ?_, ?_, ?_, ?_⟩, fun n k e k' e' m hm => ⟨?_, ?_, ?_⟩,
    ?_, ?_, faddV_opposite t rm, faddV_zeros t rm, fun n e => ⟨?_, ?_⟩, fun h => ?_⟩
  · cases n <;> rfl
  · cases n <;> rfl
  · rfl
  · rfl
  · rfl
  · rfl
  · rfl
  · simp only [fdivV, if_true, hm, if_false]
    rfl
  · simp only [fsqrtV, hm, if_false, if_true]
    rfl
  · rfl
  · rfl
  · rfl
  · rfl
  · rfl
  · exact ffmaV_nan t rm h

/-! ## Comparisons -/

theorem measures_cmpRat (m : Nat) (e least : Int) : Measures (cmpRat m 1 e) (dyadic m e) least := by
  intro n k _
  rw [cmpRat_eq_compare, mul_one]

theorem Measures.mono {cmp : Nat → Int → Ordering} {v : ℚ} {i j : Int} (h : Measures cmp v i) (hij : i ≤ j) :
    Measures cmp v j := fun n k hk => h n k (hij.trans hk)

/-- A comparison that an odd last bit stands for the rest of the magnitude in: it measures down to the bit above. -/
theorem measures_of_sticky {cmp : Nat → Int → Ordering} {mant : Nat} {exp : Int}
    (h : ∀ (n j : Nat), cmp n (exp + 1 + j) = compare (2 * (n * 2 ^ j)) mant) :
    Measures cmp (dyadic mant exp) (exp + 1) := by
  intro n k hk
  obtain ⟨j, rfl⟩ : ∃ j : Nat, k = exp + 1 + j := ⟨(k - exp - 1).toNat, by omega⟩
  rw [h, ← compare_dyadic _ _ exp, ← dyadic_mul_pow n j, mul_comm 2, ← pow_one 2, dyadic_mul_pow _ 1 exp, pow_one]
  rfl

/-- The bits that `fround` keeps lie above the last two of a magnitude that is long enough. -/
theorem le_freePlace_sub_one {t mant : Nat} {exp : Int} (h : 2 ^ ((fmtOf t).m + 2) ≤ mant) :
    exp + 1 ≤ freePlace t mant exp - 1 := by
  have hne : mant ≠ 0 := (h.trans_lt' (by positivity)).ne'
  have hlog := (Nat.le_log2 hne).mpr h
  unfold freePlace topPlace
  omega

/-- A quotient and the bit that says whether there is a remainder compare as the exact quotient does. -/
theorem compare_quotient (w a b : Nat) (hb : b ≠ 0) :
    compare (w * b) a = compare (2 * w) (2 * (a / b) + if a % b = 0 then 0 else 1) := by
  have hdiv := Nat.div_add_mod a b
  have hmod := Nat.mod_lt a (Nat.pos_of_ne_zero hb)
  rcases lt_trichotomy w (a / b) with h | h | h
  · have hle : (w + 1) * b ≤ a / b * b := Nat.mul_le_mul_right b h
    rw [add_mul, one_mul, mul_comm (a / b)] at hle
    rw [compare_lt_iff_lt.mpr (by omega), compare_lt_iff_lt.mpr (by split <;> omega)]
  · rw [← h, mul_comm b] at hdiv
    rw [← h]
    split
    · rw [compare_eq_iff_eq.mpr (by omega), compare_eq_iff_eq.mpr (by omega)]
    · rw [compare_lt_iff_lt.mpr (by omega), compare_lt_iff_lt.mpr (by omega)]
  · have hle : (a / b + 1) * b ≤ w * b := Nat.mul_le_mul_right b h
    rw [add_mul, one_mul, mul_comm (a / b)] at hle
    rw [compare_gt_iff_gt.mpr (by omega), compare_gt_iff_gt.mpr (by split <;> omega)]

/-- So do an integer root and that bit. -/
theorem compare_root (w v : Nat) :
    compare (w * w) v = compare (2 * w) (2 * Nat.sqrt v + if Nat.sqrt v * Nat.sqrt v = v then 0 else 1) := by
  have hle := Nat.sqrt_le v
  rcases lt_trichotomy w (Nat.sqrt v) with h | h | h
  · have hww : w * w < Nat.sqrt v * Nat.sqrt v := Nat.mul_self_lt_mul_self h
    rw [compare_lt_iff_lt.mpr (by omega), compare_lt_iff_lt.mpr (by split <;> omega)]
  · rw [h]
    split
    · rw [compare_eq_iff_eq.mpr (by omega), compare_eq_iff_eq.mpr (by omega)]
    · rw [compare_lt_iff_lt.mpr (by omega), compare_lt_iff_lt.mpr (by omega)]
  · have hww : v < w * w := Nat.sqrt_lt.mp h
    rw [compare_gt_iff_gt.mpr (by omega), compare_gt_iff_gt.mpr (by split <;> omega)]

/-! ## Finite operands -/

section
variable {t rm : Nat} (h9 : 9 ≤ t) (h14 : t ≤ 14) (hrm : rm < 4)

include h9 h14 hrm in
/-- A magnitude that may be zero is rounded once. -/
theorem fround_results (neg : Bool) (m : Nat) (e : Int) :
    (m = 0 → fround t rm neg m e = (if neg then (fmtOf t).sign else 0, 0)) ∧
    (m ≠ 0 → RoundedTo t rm neg (cmpRat m 1 e) (fround t rm neg m e)) := by
  refine ⟨?_, fun h => roundingFollowsItsMode t rm neg m e h9 h14 hrm h⟩
  rintro rfl
  exact fround_zero ..

/-- The exact sum, in the terms of the statement. -/
theorem exactAdd_eq (rm : Nat) (an : Bool) (am : Nat) (ae : Int) (bn : Bool) (bm : Nat) (be : Int) :
    let q := min ae be
    let x := (if an then -1 else 1) * ((am : Int) * 2 ^ (ae - q).toNat)
    let y := (if bn then -1 else 1) * ((bm : Int) * 2 ^ (be - q).toNat)
    exactAdd rm an am ae bn bm be = if x + y = 0 then (if an = bn then an else rm == 2, 0, q)
      else (decide (x + y < 0), (x + y).natAbs, q) := by
  have hsign (n : Bool) (z : Int) : (if n then -z else z) = (if n then -1 else 1) * z := by cases n <;> simp
  intro q x y
  have hx : (if an then -((am : Int) * (2 ^ (ae - q).toNat : Nat)) else am * (2 ^ (ae - q).toNat : Nat)) = x := by
    rw [hsign]
    push_cast
    rfl
  have hy : (if bn then -((bm : Int) * (2 ^ (be - q).toNat : Nat)) else bm * (2 ^ (be - q).toNat : Nat)) = y := by
    rw [hsign]
    push_cast
    rfl
  rw [exactAdd]
  simp only [q, hx, hy]
  by_cases hsum : x + y = 0
  · rw [if_pos hsum, if_pos hsum]
    by_cases hn : an = bn
    · have hzero : am = 0 ∧ bm = 0 := by
        subst hn
        have hA : (0 : Int) ≤ (am : Int) * 2 ^ (ae - q).toNat := by positivity
        have hB : (0 : Int) ≤ (bm : Int) * 2 ^ (be - q).toNat := by positivity
        have hsum' : (am : Int) * 2 ^ (ae - q).toNat = 0 ∧ (bm : Int) * 2 ^ (be - q).toNat = 0 := by
          cases an <;> simp only [x, y, Bool.false_eq_true, if_false, if_true] at hsum <;> omega
        simpa using hsum'
      simp [hn, hzero]
    · simp [hn]
  · rw [if_neg hsum, if_neg hsum]

include h9 h14 hrm in
/-- A sum of two products is rounded once (R97, R98). -/
theorem sumRounded_exactAdd (an : Bool) (am : Nat) (ae : Int) (bn : Bool) (bm : Nat) (be : Int) :
    SumRounded t rm an am ae bn bm be
      (let s := exactAdd rm an am ae bn bm be
       fround t rm s.1 s.2.1 s.2.2) := by
  refine ⟨fun h => ?_, fun h => ?_⟩
  · rw [exactAdd_eq, if_pos h]
    dsimp only
    rw [fround_zero]
    by_cases hn : an = bn <;> simp [hn]
  · rw [exactAdd_eq, if_neg h]
    exact roundingFollowsItsMode _ _ _ _ _ h9 h14 hrm (Int.natAbs_ne_zero.mpr h)

include h9 h14 hrm in
/-- A quotient is rounded once, from its integer part and a bit for the remainder (R98). -/
theorem fdivV_rounded (an bn : Bool) (am bm : Nat) (ae be : Int) (hb : bm ≠ 0) :
    let r := fdivV t rm (.fin an am ae) (.fin bn bm be)
    (am = 0 → r = (if an != bn then (fmtOf t).sign else 0, 0)) ∧
      (am ≠ 0 → RoundedTo t rm (an != bn) (cmpRat am bm (ae - be)) r) := by
  intro r
  have hr : r = fround t rm (an != bn) (2 * (am * 2 ^ ((fmtOf t).m + 4 + Nat.log2 bm) / bm) +
      if am * 2 ^ ((fmtOf t).m + 4 + Nat.log2 bm) % bm = 0 then 0 else 1)
      (ae - be - ((fmtOf t).m + 4 + Nat.log2 bm : Nat) - 1) := by
    simp only [r, fdivV, if_neg hb]
  rw [hr]
  generalize hsh : (fmtOf t).m + 4 + Nat.log2 bm = sh
  refine ⟨?_, fun ha => ?_⟩
  · rintro rfl
    simp only [zero_mul, Nat.zero_div, Nat.zero_mod, if_true, mul_zero, add_zero, fround_zero]
  have hlong : 2 ^ ((fmtOf t).m + 2) ≤ am * 2 ^ sh / bm := by
    rw [Nat.le_div_iff_mul_le (Nat.pos_of_ne_zero hb), ← hsh]
    calc 2 ^ ((fmtOf t).m + 2) * bm ≤ 2 ^ ((fmtOf t).m + 2) * 2 ^ (Nat.log2 bm + 1) :=
          Nat.mul_le_mul_left _ Nat.lt_log2_self.le
      _ ≤ 1 * 2 ^ ((fmtOf t).m + 4 + Nat.log2 bm) := by
          rw [← pow_add, one_mul]
          exact Nat.pow_le_pow_right (by decide) (by omega)
      _ ≤ am * 2 ^ ((fmtOf t).m + 4 + Nat.log2 bm) := Nat.mul_le_mul_right _ (Nat.pos_of_ne_zero ha)
  have hpos : 0 < 2 ^ ((fmtOf t).m + 2) := by positivity
  refine fround_roundedTo h9 h14 hrm (by omega)
    ((measures_of_sticky fun n j => ?_).mono (le_freePlace_sub_one (by omega)))
  rw [← compare_quotient _ _ _ hb, cmpRat_eq_compare, ← compare_dyadic _ _ (ae - be - sh), mul_right_comm,
    dyadic_mul_pow, dyadic_mul_pow, sub_add_cancel, sub_add_cancel]

include h9 h14 hrm in
/-- A square root is rounded once, from its integer part and a bit for the remainder (R98). -/
theorem fsqrtV_rounded {m : Nat} (e : Int) (h : m ≠ 0) :
    RoundedTo t rm false (cmpRoot m e) (fsqrtV t rm (.fin false m e)) := by
  simp only [fsqrtV, if_neg h, Bool.false_eq_true, if_false]
  generalize hk : 2 * ((fmtOf t).m + 4) + (if e % 2 = 0 then 0 else 1) = k
  have hlong : 2 ^ ((fmtOf t).m + 2) ≤ Nat.sqrt (m * 2 ^ k) := by
    rw [Nat.le_sqrt, ← pow_add]
    calc 2 ^ ((fmtOf t).m + 2 + ((fmtOf t).m + 2)) ≤ 1 * 2 ^ k := by
          rw [one_mul]
          exact Nat.pow_le_pow_right (by decide) (by omega)
      _ ≤ m * 2 ^ k := Nat.mul_le_mul_right _ (Nat.pos_of_ne_zero h)
  have hpos : 0 < 2 ^ ((fmtOf t).m + 2) := by positivity
  have heven : 2 * ((e - k) / 2) = e - k := by
    split at hk <;> omega
  refine fround_roundedTo h9 h14 hrm (by omega)
    ((measures_of_sticky fun n j => ?_).mono (le_freePlace_sub_one (by omega)))
  rw [← compare_root, cmpRoot_eq_compare, ← compare_dyadic _ _ (e - k), mul_mul_mul_comm, ← pow_add, dyadic_mul_pow,
    dyadic_mul_pow, sub_add_cancel, sub_add_cancel,
    show 2 * ((e - k) / 2 + (j : Int)) = e - k + (j + j : Nat) by push_cast; omega]

end

/-- A rounding to an integer (R102): the integer, and whether it is exact. -/
theorem roundAt_zero_roundsTo {rm : Nat} (hrm : rm < 4) (neg : Bool) (m : Nat) (e : Int) :
    RoundsTo rm neg (cmpRat m 1 e) (roundAt rm neg m e 0).1 0 ∧
      ((roundAt rm neg m e 0).2 = false ↔ cmpRat m 1 e (roundAt rm neg m e 0).1 0 = .eq) := by
  have hmeas : Measures (cmpRat m 1 e) (dyadic m e) (0 - 1) := measures_cmpRat m e _
  obtain ⟨hround, hexact⟩ := roundAt_rounds (neg := neg) (mant := m) (exp := e) (q := 0) hrm
  rw [← dyadic_div] at hround hexact
  refine ⟨hmeas.roundsTo le_rfl hround, ?_⟩
  rw [← Bool.not_eq_true, hexact, not_not, hmeas.compare_units (by decide), compare_eq_iff_eq, eq_comm]

/-- The limits of an integer type as the statement writes them (R91). -/
theorem intMin_eq (u : Nat) : intMin u = if u ≤ 3 then -2 ^ (etWidth u - 1) else 0 := intMin_eq_lowest u

theorem intMax_eq (u : Nat) : intMax u = if u ≤ 3 then 2 ^ (etWidth u - 1) - 1 else 2 ^ etWidth u - 1 :=
  intMax_eq_highest u

theorem wrapTo_eq (w : Nat) (v : Int) : wrapTo w v = (v % 2 ^ w).toNat := by
  rw [wrapTo]
  push_cast
  rfl

/-- A finite value becomes the integer it is rounded to, or the nearest limit with NV (R102). -/
theorem ftoiV_fin {rm : Nat} (hrm : rm < 4) (u : Nat) (n : Bool) (m : Nat) (e : Int) :
    ∃ k, RoundsTo rm n (cmpRat m 1 e) k 0 ∧
      let v : Int := if n then -(k : Int) else k
      ftoiV u rm (.fin n m e) =
        if v < intMin u then (wrapTo (etWidth u) (intMin u), 0x01)
        else if intMax u < v then (wrapTo (etWidth u) (intMax u), 0x01)
        else (wrapTo (etWidth u) v, if cmpRat m 1 e k 0 = .eq then 0 else 0x10) := by
  obtain ⟨hround, hexact⟩ := roundAt_zero_roundsTo hrm n m e
  refine ⟨_, hround, ?_⟩
  have hflag : flagIf (roundAt rm n m e 0).2 flagNX =
      if cmpRat m 1 e (roundAt rm n m e 0).1 0 = .eq then 0 else 0x10 := by
    simp only [← hexact]
    cases (roundAt rm n m e 0).2 <;> rfl
  simp only [← hflag]
  rfl

/-- Each operation hands its exact value to `fround`, and conversions to integers round at the last place 0. -/
theorem floatResultsAreRounded : Claims.FloatResultsAreRounded := by
  intro t rm an bn cn am bm cm ae be ce h9 h14 hrm zero
  refine ⟨sumRounded_exactAdd h9 h14 hrm .., sumRounded_exactAdd h9 h14 hrm (an != bn) (am * bm) (ae + be) cn cm ce,
    fround_results h9 h14 hrm (an != bn) (am * bm) (ae + be), fdivV_rounded h9 h14 hrm an bn am bm ae be,
    fsqrtV_rounded h9 h14 hrm ae, fround_results h9 h14 hrm an am ae, ?_, ?_, fun v => ⟨?_, fun hv => ?_⟩,
    fun u _ => ?_⟩
  · rw [ftofV]
    rfl
  · intro g
    cases g <;> rfl
  · rintro rfl
    rfl
  · exact roundingFollowsItsMode _ _ _ _ _ h9 h14 hrm (Int.natAbs_ne_zero.mpr hv)
  · have hfin := ftoiV_fin hrm u an am ae
    simp only [intMin_eq, intMax_eq, wrapTo_eq] at hfin
    refine ⟨hfin, ?_, fun g => rfl⟩
    simp only [ftoiV, intMin_eq, intMax_eq, wrapTo_eq]
    cases an <;> rfl

end Sys2Proof.Machine
end

section
/-! SUPPORT. The floating vector instructions and conversions, element by element (R113, R226 to R231). -/

namespace Sys2Proof.Machine

open Sys2Proof.Claims (elA elB elC valA valB valC Active EachNat Each EachBit modeOf Compares intVal)

/-! ## Operations on values -/

section
variable {i : Instr} {p : VEntry → Worker → Effect} {e : VEntry} {x : Worker}

/-- An operation on the values of a and b in the instruction's mode. -/
theorem eachNat_of_floatOp {f : FV3} {raises : Bool} {op : Nat → FVal → FVal → Nat × BitVec 8}
    (hp : ∀ pick, performOf pick i = some p) (he : p e x = floatOp f e x raises op) :
    EachNat i e x f.h f.mask (etWidth f.et.toNat) raises fun k =>
      op (modeOf e f.rnd) (valA f x f.et.toNat k) (valB f e x f.et.toNat k) := by
  refine eachNat_of_binaryOp hp (he.trans (floatOp.eq_1 ..)) fun k => ?_
  rw [VEntry.round_eq_modeOf]
  rfl

/-- A fused operation. -/
theorem eachNat_of_fusedOp {f : FV4} {negProduct negC : Bool} (hp : ∀ pick, performOf pick i = some p)
    (he : p e x = fusedOp f e x negProduct negC) :
    EachNat i e x f.v.h f.v.mask (etWidth f.v.et.toNat) true fun k =>
      ffmaV f.v.et.toNat (modeOf e f.v.rnd)
        (if negProduct then (valA f.v x f.v.et.toNat k).negate else valA f.v x f.v.et.toNat k)
        (valB f.v e x f.v.et.toNat k)
        (if negC then (valC f x f.v.et.toNat k).negate else valC f x f.v.et.toNat k) := by
  refine eachNat_of_elementwise hp (he.trans (fusedOp.eq_1 ..)) fun k => ?_
  rw [VEntry.round_eq_modeOf, srcB_eq_toNat]
  rfl

end

/-! ## Sign bits -/

/-- The sign bit becomes 0. -/
theorem mod_pow_eq_clear {w : Nat} (hw : 0 < w) (a : BitVec w) :
    a.toNat % 2 ^ (w - 1) = (a &&& ~~~(BitVec.twoPow w (w - 1))).toNat := by
  refine Nat.eq_of_testBit_eq fun k => ?_
  rw [Nat.testBit_mod_two_pow, BitVec.testBit_toNat, BitVec.testBit_toNat, BitVec.getLsbD_and, BitVec.getLsbD_not,
    BitVec.getLsbD_twoPow]
  by_cases hk : k < w
  · by_cases hk' : k = w - 1
    · simp [hk', hw]
    · have h1 : k < w - 1 := by omega
      have h2 : ¬w - 1 = k := by omega
      simp [hk, h1, h2]
  · simp [BitVec.getLsbD_of_ge a k (by omega)]

/-- The sign bit is inverted. -/
theorem xor_pow_eq_flip {w : Nat} (hw : 0 < w) (a : BitVec w) :
    a.toNat ^^^ 2 ^ (w - 1) = (a ^^^ BitVec.twoPow w (w - 1)).toNat := by
  rw [BitVec.toNat_xor, BitVec.toNat_twoPow_of_lt (by omega)]

/-! ## Comparisons -/

theorem holds_iff_compares (c : FCond) (a b : FVal) : FCond.holds c a b = true ↔ Compares c a b := by
  cases c <;> simp [FCond.holds, Compares]

theorem flagIf_invalid (c : FCond) (a b : FVal) : flagIf (FCond.invalid c a b) flagNV =
    if (if c = .lt ∨ c = .le then a.isNaN || b.isNaN else a.snan || b.snan) = true then 1 else 0 := by
  cases c <;> rfl

/-! ## Conversions -/

theorem lgScale_eq (g : Word) : lgScale g = (g.extractLsb' 0 8).toInt := by
  rw [lgScale, ← signedOf_toNat (by decide), BitVec.extractLsb'_toNat]
  simp

/-- A conversion of VFCVT, element by element (R230). -/
theorem eachNat_vfcvt {e : VEntry} {x : Worker} {f : FV3} {src : BitVec 5} {raises : Bool} {r : Nat → Nat × BitVec 8}
    (hraises : convertRaises src.toNat f.et.toNat = raises)
    (hr : ∀ k, convert src.toNat f.et.toNat (modeOf e f.rnd) (elA f x (etWidth src.toNat) k).toNat
      (e.gb.extractLsb' 0 8).toInt = r k) :
    EachNat (.vfcvt src f) e x f.h f.mask (etWidth f.et.toNat) raises r := by
  refine eachNat_of_elementwise (fun _ => rfl) (hraises ▸ performVfcvt.eq_1 src f e x) fun k => ?_
  rw [VEntry.round_eq_modeOf, lgScale_eq]
  exact hr k

section
variable {u t rm n : Nat} {sc : Int}

theorem convert_of_float (h9 : 9 ≤ u) : convert u t rm n sc =
    if t = 8 then fToLg (fdecode u n) sc else if t ≤ 7 then ftoiV t rm (fdecode u n) else ftofV t rm (fdecode u n) := by
  rw [convert, if_neg (by omega), if_neg (by omega)]

theorem convertRaises_of_float (h11 : 11 ≤ u) : convertRaises u t = true := by
  rw [convertRaises, if_neg (by omega), if_neg (by omega)]

theorem convertRaises_of_narrow (hu : u = 9 ∨ u = 10) : convertRaises u t = !etIsFloat t := by
  rw [convertRaises, if_neg (by omega), if_pos hu]

end

theorem vectorFloatResults : Claims.VectorFloatResults := by
  intro e x
  refine ⟨fun f _ _ => ⟨?_, ?_, ?_, ?_, ?_, ?_, ?_, ?_, ?_, fun c => ?_, ?_⟩, fun f _ _ => ⟨?_, ?_, ?_, ?_⟩,
    fun f src => ⟨fun hu ht => ?_, fun h9 h14 ht => ?_, fun hu h11 h14 => ⟨convertRaises src.toNat f.et.toNat, ?_⟩,
      fun h11 h14 ht => ?_, fun hu h11 h14 => ?_, fun h11 h14 ht => ?_⟩, fun f hf => ?_⟩
  · exact eachNat_of_floatOp (op := fun rm a b => faddV f.et.toNat rm a b) (fun _ => rfl) rfl
  · exact eachNat_of_floatOp (op := fun rm a b => faddV f.et.toNat rm a b.negate) (fun _ => rfl) rfl
  · exact eachNat_of_floatOp (op := fun rm a b => fmulV f.et.toNat rm a b) (fun _ => rfl) rfl
  · exact eachNat_of_floatOp (op := fun rm a b => fdivV f.et.toNat rm a b) (fun _ => rfl) rfl
  · exact eachNat_of_floatOp (op := fun rm a _ => fsqrtV f.et.toNat rm a) (fun _ => rfl) rfl
  · exact eachNat_of_binaryOp (fun _ => rfl) rfl fun _ => rfl
  · exact eachNat_of_binaryOp (fun _ => rfl) rfl fun _ => rfl
  · exact each_of_bitOp (fun _ => rfl) rfl fun _ => mod_pow_eq_clear (etWidth_pos _) _
  · exact each_of_bitOp (fun _ => rfl) rfl fun _ => xor_pow_eq_flip (etWidth_pos _) _
  · refine ⟨_, fun k => holds_iff_compares c _ _, eachBit_of_comparing (fun _ => rfl) rfl fun k => ?_⟩
    simp only [flagIf_invalid, srcB_eq_toNat]
    rfl
  · exact eachNat_of_binaryOp (op := fun a _ => (2 ^ classBit f.et.toNat a, noFlags)) (fun _ => rfl) rfl fun _ => rfl
  · exact eachNat_of_fusedOp (negProduct := false) (negC := false) (fun _ => rfl) rfl
  · exact eachNat_of_fusedOp (negProduct := false) (negC := true) (fun _ => rfl) rfl
  · exact eachNat_of_fusedOp (negProduct := true) (negC := true) (fun _ => rfl) rfl
  · exact eachNat_of_fusedOp (negProduct := true) (negC := false) (fun _ => rfl) rfl
  · have hraises : convertRaises src.toNat f.et.toNat = true := by simp [convertRaises, hu]
    exact eachNat_vfcvt hraises fun k => by rw [convert, if_pos hu]
  · have hraises : convertRaises src.toNat f.et.toNat = true := by
      rw [ht]
      obtain hu | hu : (src.toNat = 9 ∨ src.toNat = 10) ∨ 11 ≤ src.toNat := by omega
      · exact convertRaises_of_narrow hu
      · exact convertRaises_of_float hu
    exact eachNat_vfcvt hraises fun k => by rw [convert_of_float h9, if_pos ht]
  · refine eachNat_vfcvt rfl fun k => ?_
    rw [convert, if_neg (by omega), if_pos hu, intOf_toNat rfl]
  · refine eachNat_vfcvt (convertRaises_of_float h11) fun k => ?_
    rw [convert_of_float (by omega), if_neg (by omega), if_pos ht]
  · refine eachNat_vfcvt ((convertRaises_of_narrow hu).trans ?_) fun k => ?_
    · simp [etIsFloat, h11, h14]
    · rw [convert_of_float (by omega), if_neg (by omega), if_neg (by omega)]
  · refine eachNat_vfcvt (convertRaises_of_float h11) fun k => ?_
    rw [convert_of_float (by omega), if_neg (by omega), if_neg (by omega)]
  · rw [← show etWidth f.et.toNat = 6 by rw [hf]; rfl]
    exact eachNat_of_binaryOp (fun _ => rfl) rfl fun _ => rfl

/-- Settles O38: an instruction applies its operation to the values of each element, each operation rounds its exact value
once, and the values that no rounding gives are those of the operations' other branches. -/
theorem vectorFloatingPoint : Obligations.VectorFloatingPoint := by
  unfold Obligations.VectorFloatingPoint
  exact ⟨vectorFloatResults, floatResultsAreRounded, floatSpecialValues⟩

end Sys2Proof.Machine
end

section
/-! SUPPORT. Reductions and dot products (R111 to R113, R237), the counts of mask bits (R224) and VLGDOT (R232). -/

namespace Sys2Proof.Machine

open Sys2Proof.Claims (elA elB valA valB actives Delivers modeOf intVal asWord vlmaxFor following)

/-! ## Values for a g register -/

/-- What an instruction that gives one value delivers. -/
theorem delivers_of_gd {i : Instr} {p : Nat → VEntry → Worker → Effect} {e : VEntry} {x : Worker} {h : BitVec 7}
    {v : Word} {flags : BitVec 8} (hp : ∀ pick, performOf pick i = some (p pick))
    (he : ∀ pick, p pick e x = { noEffect with gd := some (hReg h, v), flags := flags }) :
    Delivers i e x h v flags := by
  intro pick
  refine ⟨p pick, hp pick, ?_⟩
  rw [he]
  exact ⟨rfl, rfl, rfl, rfl, rfl⟩

/-- An element in a g register (R209). -/
theorem elemWord_toNat {t w : Nat} (hw : etWidth t = w) (v : BitVec w) : elemWord t v.toNat = asWord t v := by
  subst hw
  simp only [elemWord, etSigned, asWord, decide_eq_true_eq]
  split
  · rw [signedOf_toNat (etWidth_pos t)]
    rfl
  · exact BitVec.ofNat_toNat ..

theorem elemWord_of_float {t : Nat} (h : 11 ≤ t) (n : Nat) : elemWord t n = BitVec.ofNat 64 n := by
  rw [elemWord, etSigned, decide_eq_false (by omega)]
  rfl

theorem etIsFloat_of_int {t : Nat} (h : t ≤ 7) : etIsFloat t = false := decide_eq_false (by omega)

theorem etIsFloat_of_float {t : Nat} (h11 : 11 ≤ t) (h14 : t ≤ 14) : etIsFloat t = true := decide_eq_true ⟨h11, h14⟩

/-! ## Reductions -/

section
variable (e : VEntry) (x : Worker) (f : FV4)

/-- The elements a reduction takes, in order. -/
theorem map_srcA_active (g : FV3) (mask : BitVec 3) (w : Nat) :
    (e.active x mask).map (srcA g x w) = ((actives e x mask).map fun i => elA g x w i).map BitVec.toNat := by
  rw [VEntry.active_eq_actives, List.map_map]
  rfl

/-- VREDS delivers what its operation reduces the scalar and the active elements to. -/
theorem performVreds_eq (op : RedsOp) (pick : Nat) : performVreds op f pick e x =
    let r := reduce op f.v.et.toNat (modeOf e f.v.rnd) pick (e.gb.setWidth (etWidth f.v.et.toNat)).toNat
      (((actives e x f.v.mask).map fun i => elA f.v x (etWidth f.v.et.toNat) i).map BitVec.toNat)
    { noEffect with gd := some (hReg f.v.h, elemWord f.v.et.toNat r.1), flags := r.2 } := by
  rw [performVreds]
  simp only [VEntry.round_eq_modeOf, map_srcA_active, BitVec.toNat_setWidth]

theorem delivers_vreds {op : RedsOp} {v : Word} {r : Nat × BitVec 8}
    (hr : ∀ pick, reduce op f.v.et.toNat (modeOf e f.v.rnd) pick (e.gb.setWidth (etWidth f.v.et.toNat)).toNat
      (((actives e x f.v.mask).map fun i => elA f.v x (etWidth f.v.et.toNat) i).map BitVec.toNat) = r)
    (hv : elemWord f.v.et.toNat r.1 = v) : Delivers (.vreds op f) e x f.v.h v r.2 := by
  refine delivers_of_gd (p := performVreds op f) (fun _ => rfl) fun pick => ?_
  rw [performVreds_eq, hr, ← hv]

end

section
variable {t w : Nat}

/-- A fold over exact integers wraps as the fold over the encodings does (R92, R111). -/
theorem wrapTo_foldl_add (hw : etWidth t = w) (l : List (BitVec w)) (a : BitVec w) :
    wrapTo w ((l.map BitVec.toNat).foldl (fun acc v => acc + intOf t v) (intOf t a.toNat)) =
      (l.foldl (fun a v => a + v) a).toNat := by
  rw [wrapTo_eq_toNat, List.foldl_map, intOf_toNat hw,
    ← List.foldl_hom (BitVec.ofInt w) (g₂ := fun a v => a + v) fun z v => ?_, ofInt_intVal]
  rw [intOf_toNat hw, BitVec.ofInt_add, ofInt_intVal]

/-- So does a fold that adds products. -/
theorem wrapTo_foldl_mul_add (t : Nat) (A B : Nat → BitVec w) (l : List Nat) (a : BitVec w) :
    wrapTo w (l.foldl (fun acc i => acc + intVal t (A i) * intVal t (B i)) (intVal t a)) =
      (l.foldl (fun a i => a + A i * B i) a).toNat := by
  rw [wrapTo_eq_toNat, ← List.foldl_hom (BitVec.ofInt w) (g₂ := fun a i => a + A i * B i) fun z i => ?_, ofInt_intVal]
  rw [BitVec.ofInt_add, BitVec.ofInt_mul, ofInt_intVal, ofInt_intVal]

/-- A fold that chooses among the values chooses among the encodings. -/
theorem wrapTo_foldl_choice (hw : etWidth t = w) {g : Int → Int → Int} {G : BitVec w → BitVec w → BitVec w}
    (hg : ∀ a v, g (intVal t a) (intVal t v) = intVal t (G a v)) (l : List (BitVec w)) (a : BitVec w) :
    wrapTo w ((l.map BitVec.toNat).foldl (fun acc v => g acc (intOf t v)) (intOf t a.toNat)) = (l.foldl G a).toNat := by
  rw [List.foldl_map, intOf_toNat hw, List.foldl_hom (intVal t) (g₁ := G) fun a v => ?_, wrapTo_eq_toNat, ofInt_intVal]
  rw [intOf_toNat hw, hg]

/-- A fold of bits. -/
theorem foldl_toNat {g : Nat → Nat → Nat} {G : BitVec w → BitVec w → BitVec w}
    (hg : ∀ a v, g a.toNat v.toNat = (G a v).toNat) (l : List (BitVec w)) (a : BitVec w) :
    (l.map BitVec.toNat).foldl (fun acc v => g acc v) a.toNat = (l.foldl G a).toNat := by
  rw [List.foldl_map]
  exact List.foldl_hom BitVec.toNat fun a v => hg a v

end

section
variable {t : Nat} (rm pick : Nat) (l : List (BitVec (etWidth t))) (a : BitVec (etWidth t))

theorem reduce_sum_of_int (ht : t ≤ 7) {op : RedsOp} (hop : op = .osum ∨ op = .fsum) :
    reduce op t rm pick a.toNat (l.map BitVec.toNat) = ((l.foldl (fun a v => a + v) a).toNat, 0) := by
  rw [← wrapTo_foldl_add rfl]
  obtain rfl | rfl := hop
  · exact if_neg (by rw [etIsFloat_of_int ht]; decide)
  · exact if_neg (by rw [etIsFloat_of_int ht]; decide)

theorem reduce_max_of_int (ht : t ≤ 7) : reduce .max t rm pick a.toNat (l.map BitVec.toNat) =
    ((l.foldl (fun a v => if intVal t a < intVal t v then v else a) a).toNat, 0) := by
  rw [← wrapTo_foldl_choice (g := fun a b => if a < b then b else a) rfl fun a v => (apply_ite (intVal t) ..).symm]
  exact if_neg (by rw [etIsFloat_of_int ht]; decide)

theorem reduce_min_of_int (ht : t ≤ 7) : reduce .min t rm pick a.toNat (l.map BitVec.toNat) =
    ((l.foldl (fun a v => if intVal t v < intVal t a then v else a) a).toNat, 0) := by
  rw [← wrapTo_foldl_choice (g := fun a b => if b < a then b else a) rfl fun a v => (apply_ite (intVal t) ..).symm]
  exact if_neg (by rw [etIsFloat_of_int ht]; decide)

theorem reduce_and : reduce .and t rm pick a.toNat (l.map BitVec.toNat) =
    ((l.foldl (fun a v => a &&& v) a).toNat, 0) := by
  rw [← foldl_toNat fun a v => (BitVec.toNat_and a v).symm]
  rfl

theorem reduce_or : reduce .or t rm pick a.toNat (l.map BitVec.toNat) =
    ((l.foldl (fun a v => a ||| v) a).toNat, 0) := by
  rw [← foldl_toNat fun a v => (BitVec.toNat_or a v).symm]
  rfl

theorem reduce_xor : reduce .xor t rm pick a.toNat (l.map BitVec.toNat) =
    ((l.foldl (fun a v => a ^^^ v) a).toNat, 0) := by
  rw [← foldl_toNat fun a v => (BitVec.toNat_xor a v).symm]
  rfl

end

section
variable {t : Nat} (rm pick init : Nat) (l : List Nat)

theorem reduce_osum_of_float (ht : etIsFloat t = true) : reduce .osum t rm pick init l =
    foldFlags (fun a b => faddV t rm (fdecode t a) (fdecode t b)) init l := if_pos ht

theorem reduce_fsum_of_float (ht : etIsFloat t = true) : reduce .fsum t rm pick init l =
    freeSum (fun a b => faddV t rm (fdecode t a) (fdecode t b)) (Config.freeChoice pick) l.length (init :: l) 0 :=
  if_pos ht

/-- The minimum or maximum of elements folds R113 over them. -/
theorem reduce_extreme_of_float (ht : etIsFloat t = true) {op : RedsOp} {big : Bool}
    (hop : op = .max ∧ big = true ∨ op = .min ∧ big = false) (hl : l ≠ []) :
    reduce op t rm pick init l = foldFlags (fminmax t big) init l := by
  obtain ⟨v, r, rfl⟩ := List.exists_cons_of_ne_nil hl
  obtain ⟨rfl, rfl⟩ | ⟨rfl, rfl⟩ := hop
  · exact if_pos ht
  · exact if_pos ht

/-- That of no element is the scalar, or the canonical NaN. -/
theorem reduce_extreme_nil_of_float (ht : etIsFloat t = true) {op : RedsOp} (hop : op = .max ∨ op = .min)
    (hl : l = []) : reduce op t rm pick init l =
      (if (fdecode t init).isNaN then canonNaN t else init, if (fdecode t init).snan then 0x01 else 0) := by
  have hnil (big : Bool) : floatExtreme t big init [] =
      (if (fdecode t init).isNaN then canonNaN t else init, if (fdecode t init).snan then 0x01 else 0) := by
    rw [floatExtreme]
    cases fdecode t init <;> rfl
  subst hl
  obtain rfl | rfl := hop
  · exact (if_pos ht).trans (hnil true)
  · exact (if_pos ht).trans (hnil false)

end

/-! ## Dot products -/

section
variable (e : VEntry) (x : Worker) (f : FV4)

/-- The integer dot product wraps (R92, R112). -/
theorem delivers_vdot_of_int (ht : f.v.et.toNat ≤ 7) : Delivers (.vdot f) e x f.v.h
    (asWord f.v.et.toNat ((actives e x f.v.mask).foldl
      (fun a i => a + elA f.v x (etWidth f.v.et.toNat) i * elB f.v e x (etWidth f.v.et.toNat) i)
      (e.gc.setWidth (etWidth f.v.et.toNat)))) 0 := by
  refine delivers_of_gd (p := fun _ => performVdot f) (fun _ => rfl) fun _ => ?_
  simp only [performVdot, etIsFloat_of_int ht, Bool.false_eq_true, if_false, intOf_srcA, intOf_srcB,
    VEntry.active_eq_actives, ← BitVec.toNat_setWidth, intOf_toNat, wrapTo_foldl_mul_add, elemWord_toNat]
  rfl

/-- The dot product of floats is one fused step an element (R112). -/
theorem delivers_vdot_of_float (h11 : 11 ≤ f.v.et.toNat) (h14 : f.v.et.toNat ≤ 14) :
    let t := f.v.et.toNat
    let r := (actives e x f.v.mask).foldl (fun (acc : Nat × BitVec 8) i =>
      let s := ffmaV t (modeOf e f.v.rnd) (valA f.v x t i) (valB f.v e x t i) (fdecode t acc.1)
      (s.1, acc.2 ||| s.2)) ((e.gc.setWidth (etWidth t)).toNat, 0)
    Delivers (.vdot f) e x f.v.h (BitVec.ofNat 64 r.1) r.2 := by
  refine delivers_of_gd (p := fun _ => performVdot f) (fun _ => rfl) fun _ => ?_
  simp only [performVdot, etIsFloat_of_float h11 h14, if_true, elemWord_of_float h11, VEntry.round_eq_modeOf,
    srcB_eq_toNat, VEntry.active_eq_actives, BitVec.toNat_setWidth]
  rfl

end

theorem reductionResults : Claims.ReductionResults := by
  intro e x f t w rm act l start sums add
  refine ⟨fun ht => ⟨fun op hop => ?_, ?_, ?_, ?_, ?_, ?_, delivers_vdot_of_int e x f ht⟩,
    fun h11 h14 => ⟨?_, fun pick => ?_, fun op big hop hl => ?_, fun op hop hl => ?_,
      delivers_vdot_of_float e x f h11 h14⟩⟩
  · exact delivers_vreds e x f (fun _ => reduce_sum_of_int _ _ _ _ ht hop) (elemWord_toNat rfl _)
  · exact delivers_vreds e x f (fun _ => reduce_max_of_int _ _ _ _ ht) (elemWord_toNat rfl _)
  · exact delivers_vreds e x f (fun _ => reduce_min_of_int _ _ _ _ ht) (elemWord_toNat rfl _)
  · exact delivers_vreds e x f (fun _ => reduce_and ..) (elemWord_toNat rfl _)
  · exact delivers_vreds e x f (fun _ => reduce_or ..) (elemWord_toNat rfl _)
  · exact delivers_vreds e x f (fun _ => reduce_xor ..) (elemWord_toNat rfl _)
  · exact delivers_vreds e x f (fun _ => reduce_osum_of_float _ _ _ _ (etIsFloat_of_float h11 h14))
      (elemWord_of_float h11 _)
  · have hr := reduce_fsum_of_float rm pick start.toNat (l.map BitVec.toNat) (etIsFloat_of_float h11 h14)
    rw [List.length_map] at hr
    refine ⟨performVreds .fsum f pick, Config.freeChoice pick, rfl, ?_⟩
    rw [← hr, performVreds_eq]
    exact ⟨congrArg (fun v => some (hReg f.v.h, v)) (elemWord_of_float h11 _), rfl⟩
  · have hl' : l.map BitVec.toNat ≠ [] := by simpa using hl
    exact delivers_vreds e x f (fun _ => reduce_extreme_of_float _ _ _ _ (etIsFloat_of_float h11 h14) hop hl')
      (elemWord_of_float h11 _)
  · have hl' : l.map BitVec.toNat = [] := by simpa using hl
    exact delivers_vreds e x f (fun _ => reduce_extreme_nil_of_float _ _ _ _ (etIsFloat_of_float h11 h14) hop hl')
      (elemWord_of_float h11 _)

/-! ## Counts of mask bits, and VLGDOT -/

/-- The set bits from VSTART below VL, in order (R224). -/
theorem Worker.setBits_eq (x : Worker) (k : BitVec 3) : x.setBits k =
    (List.range x.vl.toNat).filter fun i => decide (x.vstart.toNat ≤ i) && (x.m.getD k.toNat 0).getLsbD i := by
  have hfilter (p : Nat → Bool) (l : List Nat) :
      (l.filterMap fun n => if p (x.vstart.toNat + n) then some (x.vstart.toNat + n) else none) =
        (l.map fun n => x.vstart.toNat + n).filter p := by
    rw [← List.filterMap_eq_filter, List.filterMap_map]
    rfl
  refine (hfilter (fun i => (x.mreg k).getLsbD i) _).trans ?_
  rw [map_add_range_eq_filter, List.filter_filter]
  exact List.filter_congr fun i _ => Bool.and_comm ..

/-- VLMAX as the statements write it (R122). -/
theorem vlmaxOf_etWidth (code : BitVec 2) (t : Nat) : vlmaxOf code (etWidth t) = vlmaxFor code t := rfl

theorem exec_mpop_of_ready {f : FV3} {s : State} (hr : (Instr.mpop f).ready s = true) (hw : s.waitsVector = false) :
    exec (.mpop f) s = .next (s.clearStart.put (hReg f.h)
      (BitVec.ofNat 64 (s.core.w.setBits (f.va.extractLsb' 0 3)).length)) :=
  (checked_of_ready hr _).trans (if_neg (by rw [hw]; decide))

theorem exec_mfirst_of_nil {f : FV3} {s : State} (hr : (Instr.mfirst f).ready s = true) (hw : s.waitsVector = false)
    (h : s.core.w.setBits (f.va.extractLsb' 0 3) = []) :
    exec (.mfirst f) s = .next (s.clearStart.put (hReg f.h) (BitVec.allOnes 64)) := by
  refine (checked_of_ready hr _).trans ((if_neg (by rw [hw]; decide)).trans ?_)
  rw [h]

theorem exec_mfirst_of_cons {f : FV3} {s : State} {k : Nat} {rest : List Nat} (hr : (Instr.mfirst f).ready s = true)
    (hw : s.waitsVector = false) (h : s.core.w.setBits (f.va.extractLsb' 0 3) = k :: rest) :
    exec (.mfirst f) s = .next (s.clearStart.put (hReg f.h) (BitVec.ofNat 64 k)) := by
  refine (checked_of_ready hr _).trans ((if_neg (by rw [hw]; decide)).trans ?_)
  rw [h]

theorem exec_vlgdot_of_ready {f : FV3} {s : State} (hr : (Instr.vlgdot f).ready s = true) :
    exec (.vlgdot f) s =
      if s.exceeds [8] then .next (s.raiseFrom 1 8 0)
      else if s.waitsVector then .next s
      else vectorIssue (.vlgdot f) [8] 0 0 (s.g (hReg f.h)) none s :=
  checked_of_ready hr _

/-- The entry of VLGDOT: it takes its scale from the register it writes (R232). -/
def lgdotEntry (f : FV3) (s : State) : VEntry :=
  { s.entryFor (.vlgdot f) s.nextId with gc := s.g (hReg f.h) }

theorem exceeds_lg (s : State) : s.exceeds [8] = decide (vlmaxFor s.core.w.vncode 8 < s.core.w.vl.toNat) := by
  rw [State.exceeds, List.any_cons, List.any_nil, Bool.or_false, vlmaxOf_etWidth]

/-- A sequencer of which an entry of the queue holds the issue does not issue. -/
theorem State.mayIssue_of_stallsIssue {s : State} {w : WKey} {x : Seq} {e : VEntry}
    (hx : s.getSeq (.worker w) = some x) (he : e ∈ x.w.queue) (hs : e.stallsIssue = true) :
    s.mayIssue (.worker w) = false := by
  have hany : x.w.queue.any VEntry.stallsIssue = true := List.any_eq_true.mpr ⟨e, he, hs⟩
  simp [State.mayIssue, hx, hany]

theorem queue_nil_of_not_waitsVector {s : State} (h : s.waitsVector = false) : s.core.w.queue = [] := by
  have hidle : s.vecIdle s.cur = true := by simpa [State.waitsVector] using h
  rw [State.vecIdle, State.seqD_cur, Bool.and_eq_true, List.isEmpty_iff] at hidle
  exact hidle.1

/-- VLGDOT enters an empty queue and holds the issue. -/
theorem vlgdot_issues {f : FV3} {s : State} {w : WKey} (hr : (Instr.vlgdot f).ready s = true) (hw : s.cur = .worker w)
    (hvl : s.core.w.vl.toNat ≤ vlmaxFor s.core.w.vncode 8) (hv : s.waitsVector = false) :
    ∃ t e, exec (.vlgdot f) s = .next t ∧ t.core.w.queue = [e] ∧ e.instr = .vlgdot f ∧ e.gc = s.g (hReg f.h) ∧
      e.vl = s.core.w.vl.toNat ∧ e.vstart = s.core.w.vstart.toNat ∧ e.rm = s.core.w.vrm ∧ t.core.w.vstart = 0 ∧
      t.core.bank = s.core.bank ∧ t.core.pc = following s.core.heads s.core.pc ∧ t.mem = s.mem ∧
      (s.getSeq (.worker w) = some s.core → t.mayIssue (.worker w) = false) := by
  have hexc : s.exceeds [8] = false := by rw [exceeds_lg, decide_eq_false (not_lt.mpr hvl)]
  have hexec : exec (.vlgdot f) s = .next (s.takeId.2.enqueue (lgdotEntry f s)) := by
    rw [exec_vlgdot_of_ready hr, hexc, hv, vectorIssue, hexc]
    rfl
  have hqueue : (s.takeId.2.enqueue (lgdotEntry f s)).core.w.queue = [lgdotEntry f s] := by
    show s.core.w.queue ++ [lgdotEntry f s] = _
    rw [queue_nil_of_not_waitsVector hv, List.nil_append]
  refine ⟨_, lgdotEntry f s, hexec, hqueue, rfl, rfl, rfl, rfl, rfl, rfl, rfl, ?_, rfl, fun _ => ?_⟩
  · rw [← State.nextPc_eq]
    rfl
  · have hmem : lgdotEntry f s ∈ (s.takeId.2.enqueue (lgdotEntry f s)).core.w.queue := by
      rw [hqueue]
      exact List.mem_singleton_self _
    exact State.mayIssue_of_stallsIssue (if_pos hw.symm) hmem rfl

/-- VLGDOT delivers the rounded lg6 sum of the active elements (R107, R232). -/
theorem performVlgdot_eq (f : FV3) (e : VEntry) (y : Worker) : performVlgdot f e y =
    let r := lgSum (modeOf e f.rnd) (e.gc.extractLsb' 0 16).toInt
      ((actives e y f.mask).map fun i => ((elA f y 6 i).toNat, (elB f e y 6 i).toNat))
    { noEffect with gd := some (hReg f.h, BitVec.ofNat 64 r.1), now := true, flags := r.2 } := by
  have hscale : signedOf 16 (e.gc.toNat % 2 ^ 16) = (e.gc.extractLsb' 0 16).toInt := signedOf_lowTap e.gc
  rw [performVlgdot]
  simp only [VEntry.round_eq_modeOf, VEntry.active_eq_actives, srcB_eq_toNat, hscale]
  rfl

theorem maskCountsAndLgDot : Claims.MaskCountsAndLgDot := by
  intro f s x set begun
  have hset : s.core.w.setBits (f.va.extractLsb' 0 3) = set := Worker.setBits_eq ..
  refine ⟨fun hr hw => ?_, fun hr hw => ⟨fun h => ?_, fun k rest h => ?_⟩, fun hr w hw => ⟨fun hvl => ?_,
    fun hvl hv => ?_, fun hvl hv => vlgdot_issues hr hw hvl hv⟩, fun e y pick => ⟨performVlgdot f, rfl, ?_⟩⟩
  · rw [exec_mpop_of_ready hr hw, hset]
    rfl
  · exact exec_mfirst_of_nil hr hw (hset.trans h)
  · exact exec_mfirst_of_cons hr hw (hset.trans h)
  · rw [exec_vlgdot_of_ready hr, exceeds_lg, decide_eq_true hvl]
    rfl
  · rw [exec_vlgdot_of_ready hr, exceeds_lg, decide_eq_false (not_lt.mpr hvl), hv]
    rfl
  · rw [performVlgdot_eq]
    exact ⟨rfl, rfl, rfl, rfl, rfl⟩

/-- Settles O40: each reduction over encodings is the fold over the bit vectors, and the others complete at once or
enter an empty queue. -/
theorem vectorReductions : Obligations.VectorReductions := by
  unfold Obligations.VectorReductions
  exact ⟨reductionResults, maskCountsAndLgDot⟩

end Sys2Proof.Machine
end

section
/-! SUPPORT. Reading and writing the special and system registers (R134 to R136, R168, R427). -/

namespace Sys2Proof.Machine

open Sys2Proof.Claims (Reads Takes chosen setChosen Placed countSum goesTo following)

/-- A register number of up to 12 bits is what the immediate holds. -/
theorem srNum_toNat {f : FIM} {n : Nat} (hf : f.imm.toNat = n) (hn : n < 4096) : f.srNum.toNat = n := by
  rw [FIM.srNum, BitVec.extractLsb'_toNat, Nat.shiftRight_zero, hf, Nat.mod_eq_of_lt hn]

/-! ## SRD -/

/-- SRD of a register other than XF gives what the register reads as. -/
theorem reads_of_readSr {n : Nat} {v : State → Word} (h : ∀ s : State, s.readSr n = v s) (hn : n < 4096 := by decide)
    (hxf : n ≠ 7 := by decide) : Reads n v := by
  intro f s hr hf
  show execSrd f s = _
  rw [execSrd, checked_of_ready hr, srNum_toNat hf hn, ← h s]
  exact if_neg fun hboth => hxf hboth.1

theorem xf_reads (f : FIM) (s : State) (hr : (Instr.srd f).ready s = true) (hf : f.imm.toNat = 0x007) :
    (s.vecIdle s.cur = true → exec (.srd f) s = .next (s.put (hReg f.h) (s.core.bank.xf.setWidth 64))) ∧
    (s.vecIdle s.cur = false → exec (.srd f) s = .next s) := by
  have hexec : exec (.srd f) s =
      if 7 = 7 ∧ s.waitsVector then .next s else .next (s.put (hReg f.h) (s.core.bank.xf.setWidth 64)) := by
    show execSrd f s = _
    rw [execSrd, checked_of_ready hr, srNum_toNat hf (by decide)]
    rfl
  constructor <;> intro hidle <;> simp [hexec, State.waitsVector, hidle]

/-- The four counts are summed die by die. -/
theorem codecCount_eq_countSum (s : State) (pick : Die → Vector Word 32) (n : Nat) :
    s.codecCount pick n = countSum s pick n := by
  simp only [State.codecCount, countSum, List.range_succ, List.range_zero, List.nil_append, List.cons_append,
    List.foldl_cons, List.foldl_nil, Nat.zero_add, Nat.min_def]

theorem readSr_loss (s : State) {n : Nat} (hn : n < 32) : s.readSr (0x100 + n) = countSum s Die.loss n := by
  rw [State.readSr, if_neg (by omega), if_neg (by omega), if_pos (by omega), Nat.add_sub_cancel_left,
    codecCount_eq_countSum]

theorem readSr_clamp (s : State) {n : Nat} (hn : n < 32) : s.readSr (0x120 + n) = countSum s Die.clamp n := by
  rw [State.readSr, if_neg (by omega), if_neg (by omega), if_neg (by omega), if_pos (by omega),
    Nat.add_sub_cancel_left, codecCount_eq_countSum]

theorem readSr_spec (s : State) {n : Nat} (hn : n < 32) : s.readSr (0x140 + n) = countSum s Die.spec n := by
  rw [State.readSr, if_neg (by omega), if_neg (by omega), if_neg (by omega), if_neg (by omega), if_pos (by omega),
    Nat.add_sub_cancel_left, codecCount_eq_countSum]

/-- Register k of range n (R322). -/
theorem readSr_range (s : State) {n k : Nat} (hn : n < 32) (hk : k < 4) : s.readSr (0x800 + k + 4 * n) =
    if k = 0 then (s.range n).base else if k = 1 then (s.range n).len else if k = 2 then (s.range n).store
    else (s.range n).ctl := by
  have hquot : (0x800 + k + 4 * n - 0x800) / 4 = n := by omega
  have hrem : (0x800 + k + 4 * n - 0x800) % 4 = k := by omega
  rw [State.readSr, if_neg (by omega), if_neg (by omega), if_neg (by omega), if_neg (by omega), if_neg (by omega),
    if_pos (by omega), State.readRange, hquot, hrem]

theorem codecAndRangeRegistersRead (n : Nat) (hn : n < 32) :
    Reads (0x100 + n) (fun s => countSum s Die.loss n) ∧
    Reads (0x120 + n) (fun s => countSum s Die.clamp n) ∧ Reads (0x140 + n) (fun s => countSum s Die.spec n) ∧
    Reads (0x800 + 4 * n) (fun s => (s.range n).base) ∧ Reads (0x801 + 4 * n) (fun s => (s.range n).len) ∧
    Reads (0x802 + 4 * n) (fun s => (s.range n).store) ∧ Reads (0x803 + 4 * n) (fun s => (s.range n).ctl) := by
  refine ⟨reads_of_readSr (fun s => readSr_loss s hn) ?_ ?_, reads_of_readSr (fun s => readSr_clamp s hn) ?_ ?_,
    reads_of_readSr (fun s => readSr_spec s hn) ?_ ?_,
    reads_of_readSr (fun s => readSr_range s (k := 0) hn (by decide)) ?_ ?_,
    reads_of_readSr (fun s => readSr_range s (k := 1) hn (by decide)) ?_ ?_,
    reads_of_readSr (fun s => readSr_range s (k := 2) hn (by decide)) ?_ ?_,
    reads_of_readSr (fun s => readSr_range s (k := 3) hn (by decide)) ?_ ?_⟩ <;> omega

theorem perDieRegistersRead (d : Nat) (hd : d < 4) :
    Reads (0x895 + d) (fun s => (chosen s).cqgrant.getD d 0) ∧
    Reads (0x899 + d) (fun s => ((chosen s).cwquota.getD d 0).setWidth 64) ∧
    Reads (0x8A1 + d) (fun s => (chosen s).cdbp.getD d 0) ∧
    Reads (0x8B0 + d) (fun s => (s.regs.accpart.getD d 0).setWidth 64) := by
  interval_cases d <;>
    exact ⟨reads_of_readSr fun _ => rfl, reads_of_readSr fun _ => rfl, reads_of_readSr fun _ => rfl,
      reads_of_readSr fun _ => rfl⟩

theorem queuePrioritiesRead (i : Nat) (hi : i < 16) : Reads (0x8C0 + i) (fun s => s.regs.lqprio.getD i 0) := by
  interval_cases i <;> exact reads_of_readSr fun _ => rfl

theorem enabled_chosen (s : State) :
    s.enabled s.core.cc.ctxsel.toNat = true ↔ s.core.cc.ctxsel = 0 ∨ (chosen s).enable = true := by
  rw [State.enabled, Bool.or_eq_true, beq_iff_eq, chosen, ← BitVec.toNat_inj]
  rfl

theorem specialRegistersRead : Claims.SpecialRegistersRead := by
  refine ⟨?_, ?_, ?_, ?_, ?_, ?_, ?_, ?_, ?_, ?_, ?_, ?_, ?_, ?_, ?_, ?_, ?_, ?_, ?_, ?_, ?_, ?_, ?_, xf_reads⟩ <;>
    exact reads_of_readSr fun _ => rfl

theorem systemRegistersRead : Claims.SystemRegistersRead := by
  have henable : ∀ s : State, s.readSr 0x891 = if s.core.cc.ctxsel = 0 ∨ (chosen s).enable then 1 else 0 := fun s =>
    (if_congr (enabled_chosen s) rfl rfl : (if s.enabled s.core.cc.ctxsel.toNat then (1 : Word) else 0) = _)
  have hkstat : ∀ s : State, s.readSr 0x881 = BitVec.ofNat 64 (4 * s.core.cc.uctx.toNat +
      (if s.core.cc.ink then 2 else 0) + (if s.core.cc.ppriv then 1 else 0)) := fun s => by
    rw [Nat.mul_comm]
    rfl
  refine ⟨codecAndRangeRegistersRead, ?_, reads_of_readSr hkstat, ?_, ?_, reads_of_readSr henable, ?_, ?_, ?_,
    perDieRegistersRead, ?_, ?_, ?_, ?_, ?_, ?_, ?_, ?_, ?_, ?_, queuePrioritiesRead, ?_⟩ <;>
    exact reads_of_readSr fun _ => rfl

/-- Settles O11: SRD of each register gives what the register reads as, and SRD of XF waits for the vector unit. -/
theorem registersRead : Obligations.RegistersRead := by
  unfold Obligations.RegistersRead
  exact ⟨specialRegistersRead, systemRegistersRead⟩

/-! ## SWR -/

theorem onlyBits_zero (v : Word) (w : Nat) : onlyBits v 0 w = true ↔ v.toNat < 2 ^ w := by
  simp [onlyBits, Nat.mod_one]

theorem extractLsb'_zero_eq_zero (v : Word) (k : Nat) : v.extractLsb' 0 k = 0#k ↔ v.toNat % 2 ^ k = 0 := by
  rw [← BitVec.toNat_inj, BitVec.extractLsb'_toNat, Nat.shiftRight_zero, BitVec.toNat_ofNat, Nat.zero_mod]

theorem insideMemory_iff_placed {a n : Nat} (hn : n ≠ 0) : insideMemory a n = true ↔ Placed a n := by
  simp only [insideMemory, insideOne, Placed, hn, Bool.and_eq_true, Bool.or_eq_true, beq_iff_eq, bne_iff_ne, ne_eq,
    decide_eq_true_eq, false_or]
  omega

/-- SWR of a register whose write takes the values that meet p, by the equation of its write. -/
theorem takes_of_writeSr {n : Nat} {ok : State → Word → Prop} {upd : State → Word → State} (p : State → Word → Prop)
    [∀ s v, Decidable (p s v)] (h : ∀ s v, s.writeSr n v = if p s v then some (upd s v) else none)
    (hp : ∀ s v, p s v ↔ ok s v) (hn : n < 4096) (hheads : ∀ s v, (upd s v).core.heads = s.core.heads)
    (hpc : ∀ s v, (upd s v).core.pc = s.core.pc) : Takes n ok upd := by
  intro f s hr hf v
  have hnum : s.writeSr f.srNum.toNat (s.g (hReg f.h)) = if p s v then some (upd s v) else none := by
    rw [srNum_toNat hf hn, h]
  constructor <;> intro hok
  · rw [if_pos ((hp s v).mpr hok)] at hnum
    show execSwr f s = _
    rw [execSwr, checked_of_ready hr]
    simp only [hnum]
    rw [← hheads s v, ← hpc s v, State.advance_eq_goesTo]
  · rw [if_neg fun hh => hok ((hp s v).mp hh)] at hnum
    show execSwr f s = _
    rw [execSwr, checked_of_ready hr]
    simp only [hnum]

theorem map_ite_some {α β : Type} (g : α → β) (p : Prop) [Decidable p] (a : α) :
    (if p then some a else none).map g = if p then some (g a) else none := by
  split <;> rfl

/-- A worker-side register (R134, R136, R253). -/
theorem takes_of_workerSr {n : Nat} {ok : Word → Prop} (upd : Worker → Word → Worker) (p : Word → Prop)
    [∀ v, Decidable (p v)] (hn : n < 0x007 ∨ n = 0x041)
    (h : ∀ (w : Worker) v, w.writeSr n v = if p v then some (upd w v) else none) (hp : ∀ v, p v ↔ ok v) :
    Takes n (fun _ v => ok v) (fun s v => s.modCore fun x => { x with w := upd x.w v }) := by
  refine takes_of_writeSr (fun _ v => p v) (fun s v => ?_) (fun _ v => hp v) (by omega) (fun _ _ => rfl) fun _ _ => rfl
  rw [State.writeSr, if_pos hn, h, map_ite_some]
  rfl

/-- A register of the context that CTXSEL names (R427). -/
theorem takes_of_contextSr {n : Nat} {ok : State → Word → Prop} (upd : Context → Word → Context)
    (p : Context → Word → Prop) [∀ x v, Decidable (p x v)] (hn : 0x892 ≤ n ∧ n ≤ 0x8A5)
    (h : ∀ (x : Context) v, x.writeSr n v = if p x v then some (upd x v) else none)
    (hp : ∀ s v, p (chosen s) v ↔ ok s v) : Takes n ok (fun s v => setChosen s fun x => upd x v) := by
  refine takes_of_writeSr (fun s v => p (chosen s) v) (fun s v => ?_) hp (by omega) (fun _ _ => rfl) fun _ _ => rfl
  rw [State.writeSr, if_neg (by omega), if_neg (by omega), if_neg (by omega), if_neg (by omega), if_neg (by omega),
    if_neg (by omega), if_neg (by omega), if_neg (by omega), if_pos hn]
  exact (congrArg (Option.map _) (h (chosen s) v)).trans (map_ite_some ..)

/-- A register of the module (R427). -/
theorem takes_of_moduleSr {n : Nat} {ok : State → Word → Prop} (upd : ModuleRegs → Word → ModuleRegs)
    (p : ModuleRegs → Word → Prop) [∀ r v, Decidable (p r v)] (hn : 0x8B0 ≤ n ∧ n < 4096)
    (h : ∀ (r : ModuleRegs) v, r.writeSr n v = if p r v then some (upd r v) else none)
    (hp : ∀ s v, p s.regs v ↔ ok s v) : Takes n ok (fun s v => { s with regs := upd s.regs v }) := by
  refine takes_of_writeSr (fun s v => p s.regs v) (fun s v => ?_) hp hn.2 (fun _ _ => rfl) fun _ _ => rfl
  rw [State.writeSr, if_neg (by omega), if_neg (by omega), if_neg (by omega), if_neg (by omega), if_neg (by omega),
    if_neg (by omega), if_neg (by omega), if_neg (by omega), if_neg (by omega), h, map_ite_some]

theorem specialRegistersTakeValues : Claims.SpecialRegistersTakeValues := by
  have hmask : ∀ v : Word, v &&& ~~~0xFF03#64 = 0 ↔ v &&& 0xFFFFFFFFFFFF00FC = 0 := fun v => by
    rw [show ~~~0xFF03#64 = (0xFFFFFFFFFFFF00FC : Word) by decide]
  refine ⟨takes_of_workerSr (fun w v => { w with vl := v.setWidth 15 }) _ (by decide) (fun _ _ => rfl) fun _ => Iff.rfl,
    takes_of_workerSr (fun w v => { w with vmt := v.setWidth 2 }) _ (by decide) (fun _ _ => rfl) fun _ => Iff.rfl,
    takes_of_workerSr (fun w v => { w with vstart := v.setWidth 15 }) _ (by decide) (fun _ _ => rfl) fun v =>
      onlyBits_zero v 15,
    takes_of_workerSr (fun w v => { w with vrm := v.setWidth 2 }) _ (by decide) (fun _ _ => rfl) fun v =>
      onlyBits_zero v 2,
    takes_of_workerSr (fun w v => { w with xsel := v.setWidth 4 }) _ (by decide) (fun _ _ => rfl) fun _ => Iff.rfl,
    takes_of_writeSr _ (fun _ _ => rfl) (fun _ v => onlyBits_zero v 9) (by decide) (fun _ _ => rfl) fun _ _ => rfl,
    takes_of_writeSr (fun _ _ => True) (fun _ _ => rfl) (fun _ _ => Iff.rfl) (by decide) (fun _ _ => rfl) fun _ _ => rfl,
    takes_of_writeSr (fun _ _ => True) (fun _ _ => rfl) (fun _ _ => Iff.rfl) (by decide) (fun _ _ => rfl) fun _ _ => rfl,
    takes_of_writeSr _ (fun _ _ => rfl) (fun _ v => onlyBits_zero v 15) (by decide) (fun _ _ => rfl) fun _ _ => rfl,
    takes_of_workerSr (fun w v => { w with rcount := v.extractLsb' 8 8 }) _ (by decide) (fun _ _ => rfl) hmask,
    takes_of_writeSr (fun _ _ => True) (fun _ _ => rfl) (fun _ _ => Iff.rfl) (by decide) (fun _ _ => rfl) fun _ _ => rfl,
    takes_of_writeSr _ (fun _ _ => rfl) (fun _ v => onlyBits_zero v 11) (by decide) (fun _ _ => rfl) fun _ _ => rfl,
    takes_of_writeSr _ (fun _ _ => rfl) (fun _ v => onlyBits_zero v 9) (by decide) (fun _ _ => rfl) fun _ _ => rfl⟩

theorem perDieRegistersTakeValues (d : Nat) (hd : d < 4) :
    Takes (0x895 + d) (fun _ _ => True)
      (fun s v => setChosen s fun x => { x with cqgrant := x.cqgrant.setIfInBounds d v }) ∧
    Takes (0x899 + d) (fun _ v => v.toNat < 2 ^ 20)
      (fun s v => setChosen s fun x => { x with cwquota := x.cwquota.setIfInBounds d (v.setWidth 20) }) ∧
    Takes (0x8A1 + d) (fun _ _ => True)
      (fun s v => setChosen s fun x => { x with cdbp := x.cdbp.setIfInBounds d v }) ∧
    Takes (0x8B0 + d) (fun _ v => v.toNat ≤ 524288)
      (fun s v => { s with regs := { s.regs with accpart := s.regs.accpart.setIfInBounds d (v.setWidth 20) } }) := by
  interval_cases d <;> exact
    ⟨takes_of_contextSr (fun x v => { x with cqgrant := x.cqgrant.setIfInBounds _ v }) (fun _ _ => True) (by decide)
        (fun _ _ => rfl) fun _ _ => Iff.rfl,
      takes_of_contextSr (fun x v => { x with cwquota := x.cwquota.setIfInBounds _ (v.setWidth 20) }) _ (by decide)
        (fun _ _ => rfl) fun _ v => onlyBits_zero v 20,
      takes_of_contextSr (fun x v => { x with cdbp := x.cdbp.setIfInBounds _ v }) (fun _ _ => True) (by decide)
        (fun _ _ => rfl) fun _ _ => Iff.rfl,
      takes_of_moduleSr (fun r v => { r with accpart := r.accpart.setIfInBounds _ (v.setWidth 20) }) _ (by decide)
        (fun _ _ => rfl) fun _ _ => Iff.rfl⟩

theorem queuePrioritiesTakeValues (i : Nat) (hi : i < 16) :
    Takes (0x8C0 + i) (fun _ v => v &&& 0x8888888888888888 = 0)
      (fun s v => { s with regs := { s.regs with lqprio := s.regs.lqprio.setIfInBounds i v } }) := by
  interval_cases i <;> exact takes_of_moduleSr (fun r v => { r with lqprio := r.lqprio.setIfInBounds _ v }) _ (by decide)
    (fun _ _ => rfl) fun _ _ => Iff.rfl

theorem systemRegistersTakeValues : Claims.SystemRegistersTakeValues := by
  have hpow : ∀ k : Nat, 64 * 2 ^ k ≠ 0 := fun k => by positivity
  have hmask : ∀ v : Word, v &&& ~~~0x7FFF3FFF#64 = 0 ↔ v &&& 0xFFFFFFFF8000C000 = 0 := fun v => by
    rw [show ~~~0x7FFF3FFF#64 = (0xFFFFFFFF8000C000 : Word) by decide]
  have hlow : ∀ (v : Word) {a n : Nat}, n ≠ 0 → ((v.extractLsb' 0 6 = 0#6 && insideMemory a n) = true ↔
      v.toNat % 64 = 0 ∧ Placed a n) := fun v a n hn => by
    rw [Bool.and_eq_true, decide_eq_true_iff, extractLsb'_zero_eq_zero, insideMemory_iff_placed hn]
    rfl
  have hlog : ∀ {lo k hi a n : Nat}, n ≠ 0 → ((decide (lo ≤ k ∧ k ≤ hi) && insideMemory a n) = true ↔
      lo ≤ k ∧ k ≤ hi ∧ Placed a n) := fun hn => by
    rw [Bool.and_eq_true, decide_eq_true_iff, insideMemory_iff_placed hn, and_assoc]
  refine ⟨takes_of_contextSr (fun x v => { x with croot := v }) _ (by decide) (fun _ _ => rfl) fun _ v => ?_,
    takes_of_contextSr (fun x v => { x with cfbase := v }) _ (by decide) (fun _ _ => rfl) fun _ v =>
      extractLsb'_zero_eq_zero v 16,
    takes_of_contextSr (fun x v => { x with cfn := v.setWidth 16 }) _ (by decide) (fun _ _ => rfl) fun _ v =>
      onlyBits_zero v 16,
    perDieRegistersTakeValues,
    takes_of_contextSr (fun x v => { x with csrgrant := v }) _ (by decide) (fun _ _ => rfl) fun _ v => hmask v,
    takes_of_contextSr (fun x v => { x with cflbase := v }) _ (by decide) (fun _ _ => rfl) fun _ v => hlow v (hpow _),
    takes_of_contextSr (fun x v => { x with cfllog := v.setWidth 5 }) _ (by decide) (fun _ _ => rfl) fun _ _ => hlog (hpow _),
    takes_of_contextSr (fun x v => { x with cfllost := v }) (fun _ _ => True) (by decide) (fun _ _ => rfl)
      fun _ _ => Iff.rfl,
    takes_of_contextSr (fun x v => { x with csvec := v }) (fun _ _ => True) (by decide) (fun _ _ => rfl)
      fun _ _ => Iff.rfl,
    takes_of_moduleSr (fun r v => { r with kfqbase := v }) _ (by decide) (fun _ _ => rfl) fun _ v => hlow v (hpow _),
    takes_of_moduleSr (fun r v => { r with kfqlog := v.setWidth 5 }) _ (by decide) (fun _ _ => rfl) fun _ _ => hlog (hpow _),
    takes_of_moduleSr (fun r v => { r with mnqbase := v }) _ (by decide) (fun _ _ => rfl) fun _ v => hlow v (by decide),
    takes_of_moduleSr (fun r v => { r with mctbase := v }) _ (by decide) (fun _ _ => rfl) fun _ v => hlow v (by omega),
    takes_of_moduleSr (fun r v => { r with mthresh := v.setWidth 16 }) _ (by decide) (fun _ _ => rfl) fun _ v =>
      onlyBits_zero v 16,
    queuePrioritiesTakeValues⟩
  rw [Bool.and_eq_true, insideMemory_iff_placed (by decide), ← and_assoc]
  exact and_congr_left' (by simp [onlyBits])

theorem flagsAreReplaced : Claims.FlagsAreReplaced := by
  intro f s hr v
  have hexec : exec (.xfWrite f) s =
      if s.waitsVector then .next s
      else if onlyBits v 0 8 then
        .next (s.modCore fun x => { x with bank := { x.bank with xf := v.setWidth 8 } }).advance
      else .next (s.raise 3 0) := by
    show execXfWrite f s = _
    rw [execXfWrite, checked_of_ready hr]
  refine ⟨fun hidle => ?_, fun hidle hv => ?_, fun hidle hv => ?_⟩
  · simp [hexec, State.waitsVector, hidle]
  · rw [hexec, State.waitsVector, hidle, if_neg (by decide), if_pos ((onlyBits_zero v 8).mpr hv),
      State.advance_eq_goesTo]
    rfl
  · show exec (.xfWrite f) s = _
    rw [hexec, State.waitsVector, hidle, if_neg (by decide), if_neg fun h => absurd ((onlyBits_zero v 8).mp h) (by omega)]

/-- Settles O12: SWR takes exactly the values that the equation of the register's write takes, and XF waits for the
vector unit. -/
theorem registersTakeValues : Obligations.RegistersTakeValues := by
  unfold Obligations.RegistersTakeValues
  exact ⟨specialRegistersTakeValues, systemRegistersTakeValues, flagsAreReplaced⟩

end Sys2Proof.Machine
end

section
/-! SUPPORT. Why the statement on TLBINV fails: a pointer entry whose level no table has (R430, R434). -/

namespace Sys2Proof.Machine

/-- A pointer entry of the page at 0x1000 with level 5. No walk makes one, for a pointer leads to a table of at most level
4, but the statement speaks of every state. -/
def pointerBelowTables : TlbEntry :=
  { holder := 0, ctx := 0, vpn := 1, leaf := 0, leafAt := 0, level := 5, pointer := true }

/-- A control core at K with 1 in g2, where a TLB holds that entry. -/
def stateWithPointer : State :=
  let s := State.reset
  { s with
    core := { s.core with bank := s.core.bank.write 2 1 }
    mem := { s.mem with tlb := [pointerBelowTables] } }

/-- TLBINV.page of the one page at 0 of context 0. -/
def dropFirstPage : FTR :=
  { h := 1, ga := 0, ma := false, gb := 0, mb := false, gc := 2, mc := false, imm := 0 }

/-- The model takes the entry to serve 4096 bytes from 0x1000, which the page at 0 does not meet. -/
theorem exec_tlbinvPage_keeps_pointer : ∃ t, exec (.tlbinvPage dropFirstPage) stateWithPointer = .next t ∧
    t.mem.tlb = [pointerBelowTables] := ⟨_, rfl, rfl⟩

theorem release_stateWithPointer : stateWithPointer.release stateWithPointer.cur 3 = (stateWithPointer, true) := rfl

/-- The statement takes the entry to serve 2 MiB from 0, which the page at 0 meets. -/
theorem not_tlbinvDropsTranslations : ¬Claims.TlbinvDropsTranslations := by
  intro h
  obtain ⟨hdrop, -⟩ := h
  obtain ⟨-, -, hpage, -⟩ := hdrop dropFirstPage stateWithPointer 0 rfl
  obtain ⟨t, _, _, hexec, htlb, -⟩ :=
    hpage (by decide) (Or.inl rfl) stateWithPointer (by decide) release_stateWithPointer
  obtain ⟨t', hexec', hkept⟩ := exec_tlbinvPage_keeps_pointer
  obtain rfl : t = t' := Host.Outcome.next.inj (hexec.symm.trans hexec')
  exact absurd (htlb.symm.trans hkept) (by decide)

/-- Refutes O30: for a TLB entry that is a pointer of level 5, the statement has TLBINV.page drop by 2 MiB where the model
goes by 4096 bytes, and keeps the entry. -/
theorem not_translationsAndContexts : ¬Obligations.TranslationsAndContexts := by
  unfold Obligations.TranslationsAndContexts
  intro h
  exact not_tlbinvDropsTranslations h.1

end Sys2Proof.Machine
end

section
/-! SUPPORT. Vector instructions at issue: what enters the queue, and what an issue leaves unchanged (R114, R115, R140). -/

namespace Sys2Proof.Machine

open Sys2Proof.Claims (queuedForm scalarB operandBreaks emptied emptiedOf following vlmaxFor)

/-! ## What is captured -/

/-- The scalar that an entry captures in ga: the index of VPUT (R209). -/
def capturedGa (i : Instr) (f : FV3) (s : State) : Word :=
  match i with
  | .vput _ => s.g (f.va.extractLsb' 0 5)
  | _ => 0

/-- The scalar that an entry captures in gb (R211). -/
def capturedGb (i : Instr) (f : FV3) (s : State) : Word :=
  match i with
  | .vdot _ => 0
  | _ => scalarB s f

/-- The scalar that an entry captures in gc: the initial value of VDOT (R237). -/
def capturedGc (i : Instr) (s : State) : Word :=
  match i with
  | .vdot d => s.g (d.vc.extractLsb' 0 5)
  | _ => 0

/-- What a vector instruction that touches no memory does once it has passed the checks of every instruction. -/
def issuesQueued (i : Instr) (f : FV3) (types : List Nat) (s : State) : Out :=
  match operandBreaks i s with
  | some c => .next (s.raiseFrom 1 c 0)
  | none => vectorIssue i types (capturedGa i f s) (capturedGb i f s) (capturedGc i s) i.operands.gd s

theorem enqueues_of_queuedForm {i : Instr} {f : FV3} {types : List Nat} (h : queuedForm i = some (f, types)) :
    i.enqueues = true := by
  unfold queuedForm at h
  split at h <;> cases h <;> rfl

/-- A branch that raises a condition is one on the condition that the operand breaks. -/
theorem raise_ite_eq_match (s : State) (p : Prop) [Decidable p] (c : Nat) (o : Out) :
    (if p then .next (s.raiseFrom 1 c 0) else o) =
      match if p then some c else none with
      | some c => .next (s.raiseFrom 1 c 0)
      | none => o := by
  split <;> rfl

theorem execVget_eq (f : FV3) (s : State) :
    execVget f s = checked (.vget f) s (issuesQueued (.vget f) f []) := by
  refine congrArg (checked (.vget f) s) (funext fun u => ?_)
  rw [State.beyond]
  simp only [decide_eq_true_eq]
  exact raise_ite_eq_match u _ 8 _

theorem execVput_eq (f : FV3) (s : State) :
    execVput f s = checked (.vput f) s (issuesQueued (.vput f) f []) := by
  refine congrArg (checked (.vput f) s) (funext fun u => ?_)
  simp only [State.beyond, decide_eq_true_eq]
  exact raise_ite_eq_match u _ 8 _

/-- The fill length of VSLIDEUP is bits 30:16 of its scalar. -/
theorem slideFill_eq (g : Word) : slideFill g = (g.extractLsb' 16 15).toNat := by
  rw [slideFill, BitVec.extractLsb'_toNat, Nat.shiftRight_eq_div_pow]

theorem execVslideup_eq (f : FV4) (s : State) :
    execVslideup f s = checked (.vslideup f) s (issuesQueued (.vslideup f) f.v [f.v.et.toNat]) := by
  refine congrArg (checked (.vslideup f) s) (funext fun u => ?_)
  rw [slideFill_eq]
  exact raise_ite_eq_match u _ 8 _

/-- The field width of VBFX is bits 6:0 of its scalar. -/
theorem fieldWidth_eq (g : Word) : fieldWidth g = (g.extractLsb' 0 7).toNat := by
  rw [fieldWidth, BitVec.extractLsb'_toNat, Nat.shiftRight_zero]

theorem execVbfx_eq (f : FV3) (s : State) :
    execVbfx f s = checked (.vbfx f) s (issuesQueued (.vbfx f) f [f.et.toNat]) := by
  refine congrArg (checked (.vbfx f) s) (funext fun u => ?_)
  simp only [fieldWidth_eq]
  exact raise_ite_eq_match u _ 3 _

/-- Every vector instruction that touches no memory issues in one way: its own checks, then VL against its types. -/
theorem exec_of_queuedForm {i : Instr} {f : FV3} {types : List Nat} (h : queuedForm i = some (f, types)) (s : State) :
    exec i s = checked i s (issuesQueued i f types) := by
  unfold queuedForm at h
  split at h <;> cases h
  case h_1 => exact execVget_eq ..
  case h_2 => exact execVput_eq ..
  case h_40 => exact execVbfx_eq ..
  case h_46 => exact execVslideup_eq ..
  all_goals rfl

/-! ## Entering the queue -/

/-- An instruction meets a full queue and waits (R140). -/
theorem checked_of_queueFull {i : Instr} {s : State} {w : WKey} (hcur : s.cur = .worker w) (hq : i.enqueues = true)
    (hcheck : s.checkFault i = none) (hfull : 32 ≤ s.core.w.queue.length) (e : State → Out) :
    checked i s e = .next s := by
  have hwait : s.issueWaits i = true := by
    simp [State.issueWaits, State.queueFull, hcur, hq, hfull, kindOf]
  have hops : s.operandsWait i = true := by rw [State.operandsWait, hwait, Bool.or_true]
  rw [checked, hcheck]
  exact if_pos hops

theorem exceeds_iff (s : State) (types : List Nat) :
    s.exceeds types = true ↔ ∃ t ∈ types, vlmaxFor s.core.w.vncode t < s.core.w.vl.toNat := by
  simp only [State.exceeds, List.any_eq_true, vlmaxOf_etWidth]
  exact exists_congr fun _ => and_congr_right' decide_eq_true_iff

/-- The entry that an instruction enters the queue with: what every one captures, and its scalars. -/
def State.entryWith (s : State) (i : Instr) (ga gb gc : Word) : VEntry :=
  { s.takeId.2.entryFor i s.nextId with ga := ga, gb := gb, gc := gc }

/-- A g destination of an instruction that is queued is empty from now on (R118). -/
def State.emptyDest (s : State) : Option (BitVec 5) → State
  | some r => s.emptyG r
  | none => s

theorem vectorIssue_of_exceeds {s : State} {types : List Nat} (h : s.exceeds types = true) (i : Instr)
    (ga gb gc : Word) (gd : Option (BitVec 5)) :
    vectorIssue i types ga gb gc gd s = .next (s.raiseFrom 1 8 0) := if_pos h

theorem vectorIssue_eq_enqueue {s : State} {types : List Nat} (h : s.exceeds types = false) (i : Instr)
    (ga gb gc : Word) (gd : Option (BitVec 5)) :
    vectorIssue i types ga gb gc gd s = .next ((s.takeId.2.enqueue (s.entryWith i ga gb gc)).emptyDest gd) := by
  rw [vectorIssue, h]
  cases gd <;> rfl

theorem getD_setIfInBounds {α : Type} {n : Nat} (v : Vector α n) (j k : Nat) (x d : α) :
    (v.setIfInBounds j x).getD k d = if j = k ∧ k < n then x else v.getD k d := by
  by_cases hk : k < n
  · simp only [Vector.getD, Array.getD, Vector.size_toArray, hk, dif_pos, and_true]
    exact Vector.getElem_setIfInBounds hk
  · simp [Vector.getD, Array.getD, hk]

/-- Clearing marks changes nothing else of a register. -/
theorem Worker.unmark_vreg (x : Worker) (l : List Nat) (k : Nat) (p : Option Mark) :
    { (x.unmark l).vreg k with poison := p } = { x.vreg k with poison := p } := by
  induction l generalizing x with
  | nil => rfl
  | cons j rest ih =>
    refine (ih { x with v := x.v.setIfInBounds j { x.v.getD j VReg.reset with poison := none } }).trans ?_
    simp only [Worker.vreg, getD_setIfInBounds]
    split
    next hjk => rw [hjk.1]
    next => rfl

theorem Worker.renew_vreg (x : Worker) (e : VEntry) (k : Nat) :
    { (x.renew e).vreg k with poison := (x.vreg k).poison } = x.vreg k := by
  rw [Worker.renew]
  split
  · rfl
  · exact Worker.unmark_vreg ..

theorem Worker.renew_others (x : Worker) (e : VEntry) :
    (x.renew e).vl = x.vl ∧ (x.renew e).m = x.m ∧ (x.renew e).q = x.q := by
  rw [Worker.renew]
  split <;> exact ⟨rfl, rfl, rfl⟩

theorem enqueue_pc (s : State) (e : VEntry) :
    (s.enqueue e).core.pc = following s.core.heads s.core.pc := State.nextPc_eq s

theorem markEmpty_eq_emptied (s : State) (r : BitVec 5) : s.core.bank.markEmpty r = (emptied s r).core.bank := by
  rw [Bank.markEmpty, emptied]
  split <;> rfl

theorem emptyDest_bank (s : State) (gd : Option (BitVec 5)) : (s.emptyDest gd).core.bank = emptiedOf s gd := by
  cases gd with
  | none => rfl
  | some r => exact markEmpty_eq_emptied s r

theorem emptyDest_others (s : State) (gd : Option (BitVec 5)) : (s.emptyDest gd).core.w = s.core.w ∧
    (s.emptyDest gd).core.pc = s.core.pc ∧ (s.emptyDest gd).mem = s.mem ∧ (s.emptyDest gd).net = s.net := by
  cases gd <;> exact ⟨rfl, rfl, rfl, rfl⟩

/-- Settles O34: each such instruction issues by `issuesQueued`, and what enters the queue is its `entryWith`. -/
theorem vectorInstructionsAreQueued : Obligations.VectorInstructionsAreQueued := by
  unfold Obligations.VectorInstructionsAreQueued
  refine ⟨fun i f types s w hform hcur hcheck hfull => ?_, fun i f types s hform hr => ?_⟩
  · rw [exec_of_queuedForm hform, checked_of_queueFull hcur (enqueues_of_queuedForm hform) hcheck hfull]
  have hexec : exec i s = issuesQueued i f types s := by rw [exec_of_queuedForm hform, checked_of_ready hr]
  intro w
  refine ⟨fun c hc => ?_, fun hc hvl => ?_, fun hc hvl => ?_⟩
  · rw [hexec, issuesQueued, hc]
  · rw [hexec, issuesQueued, hc]
    exact vectorIssue_of_exceeds ((exceeds_iff s types).mpr hvl) ..
  · have hfits : s.exceeds types = false := by
      rw [← Bool.not_eq_true, exceeds_iff]
      exact fun ⟨t, ht, hlt⟩ => absurd (hvl t ht) (not_le.mpr hlt)
    let e := s.entryWith i (capturedGa i f s) (capturedGb i f s) (capturedGc i s)
    obtain ⟨hw, hpc, hmem, hnet⟩ := emptyDest_others (s.takeId.2.enqueue e) i.operands.gd
    obtain ⟨hlen, hmasks, hstreams⟩ := s.core.w.renew_others e
    refine ⟨(s.takeId.2.enqueue e).emptyDest i.operands.gd, e, ?_, ?_, rfl, rfl, rfl, rfl, rfl, rfl, rfl, rfl, rfl, rfl,
      ?_, ?_, ?_, ?_, fun k _ => ?_, emptyDest_bank .., hpc.trans (enqueue_pc ..), hmem, hnet⟩
    · rw [hexec, issuesQueued, hc]
      exact vectorIssue_eq_enqueue hfits ..
    all_goals rw [hw]
    · rfl
    · rfl
    · exact hlen
    · exact hmasks
    · exact hstreams
    · exact s.core.w.renew_vreg e k

end Sys2Proof.Machine
end

section
/-! SUPPORT. What the vector unit puts in place: elements of a register, bits of a mask, and the whole effect of an
instruction on its worker (R124, R127, R130, R137). -/

namespace Sys2Proof.Machine

/-! ## Elements of a register -/

/-- One bit of a register whose bits from lo on are replaced. -/
theorem getLsbD_putAt (v : VBits) (lo w val i : Nat) : (putAt v lo w val).getLsbD i =
    if lo ≤ i ∧ i < lo + w ∧ i < 131072 then val.testBit (i - lo) else v.getLsbD i := by
  simp only [putAt, BitVec.getLsbD_or, BitVec.getLsbD_and, BitVec.getLsbD_not, BitVec.getLsbD_shiftLeft,
    BitVec.getLsbD_setWidth, BitVec.getLsbD_allOnes, BitVec.getLsbD_ofNat]
  by_cases hi : i < 131072
  · by_cases hlo : lo ≤ i
    · by_cases hw : i < lo + w
      · have hsub : i - lo < w := by omega
        have hsub' : i - lo < 131072 := by omega
        simp [hi, hlo, hw, hsub, hsub', not_lt.mpr hlo]
      · have hsub : ¬i - lo < w := by omega
        simp [hi, hlo, hw, hsub]
    · simp [hi, hlo, not_le.mp hlo]
  · simp [hi, BitVec.getLsbD_of_ge v i (not_lt.mp hi)]

/-- The replaced bits read back. -/
theorem extractLsb'_putAt_same (v : VBits) {lo w : Nat} (val : Nat) (h : lo + w ≤ 131072) :
    (putAt v lo w val).extractLsb' lo w = BitVec.ofNat w val := by
  refine BitVec.eq_of_getLsbD_eq fun i hi => ?_
  rw [BitVec.getLsbD_extractLsb', getLsbD_putAt, if_pos ⟨by omega, by omega, by omega⟩, BitVec.getLsbD_ofNat,
    Nat.add_sub_cancel_left]

/-- Bits elsewhere stay. -/
theorem extractLsb'_putAt_of_disjoint (v : VBits) {lo w lo' w' : Nat} (val : Nat)
    (h : lo' + w' ≤ lo ∨ lo + w ≤ lo') : (putAt v lo w val).extractLsb' lo' w' = v.extractLsb' lo' w' := by
  refine BitVec.eq_of_getLsbD_eq fun i hi => ?_
  rw [BitVec.getLsbD_extractLsb', BitVec.getLsbD_extractLsb', getLsbD_putAt, if_neg (by omega)]

theorem putElems_cons (v : VBits) (w : Nat) (p : Nat × Nat) (l : List (Nat × Nat)) :
    putElems v w (p :: l) = putElems (putAt v (w * p.1) w p.2) w l := rfl

/-- Elements that a list does not name stay. -/
theorem putElems_of_not_mem {w j : Nat} {l : List (Nat × Nat)} (v : VBits) (h : ∀ p ∈ l, p.1 ≠ j) :
    (putElems v w l).extractLsb' (w * j) w = v.extractLsb' (w * j) w := by
  induction l generalizing v with
  | nil => rfl
  | cons p l ih =>
    have hp : p.1 + 1 ≤ j ∨ j + 1 ≤ p.1 := Nat.lt_or_gt_of_ne (h p (List.mem_cons_self ..))
    have hfar : w * j + w ≤ w * p.1 ∨ w * p.1 + w ≤ w * j := by
      simpa only [← Nat.mul_succ] using hp.symm.imp (Nat.mul_le_mul_left w) (Nat.mul_le_mul_left w)
    rw [putElems_cons, ih _ fun q hq => h q (List.mem_cons_of_mem _ hq), extractLsb'_putAt_of_disjoint _ _ hfar]

/-- Each element that a list names once holds what the list gives it. -/
theorem putElems_of_mem {w : Nat} {p : Nat × Nat} {l : List (Nat × Nat)} (v : VBits) (hfits : Claims.Fits w l)
    (hp : p ∈ l) : (putElems v w l).extractLsb' (w * p.1) w = BitVec.ofNat w p.2 := by
  induction l generalizing v with
  | nil => cases hp
  | cons r l ih =>
    obtain ⟨hnodup, hin⟩ := hfits
    obtain ⟨hfresh, hnodup'⟩ := List.nodup_cons.mp hnodup
    rw [putElems_cons]
    rcases List.mem_cons.mp hp with rfl | hp
    · rw [putElems_of_not_mem _ fun q hq heq => hfresh (List.mem_map.mpr ⟨q, hq, heq⟩),
        extractLsb'_putAt_same _ _ (hin p (List.mem_cons_self ..))]
    · exact ih _ ⟨hnodup', fun q hq => hin q (List.mem_cons_of_mem _ hq)⟩ hp

/-! ## Bits of a mask -/

theorem putBits_cons (m : MaskBits) (p : Nat × Bool) (l : List (Nat × Bool)) : putBits m (p :: l) =
    putBits (if p.2 then m ||| BitVec.twoPow 21845 p.1 else m &&& ~~~(BitVec.twoPow 21845 p.1)) l := rfl

/-- One bit of a mask of which one bit is replaced. -/
theorem getLsbD_putBit (m : MaskBits) (k j : Nat) (b : Bool) (hj : j < 21845) :
    (if b then m ||| BitVec.twoPow 21845 k else m &&& ~~~(BitVec.twoPow 21845 k)).getLsbD j =
      if k = j then b else m.getLsbD j := by
  by_cases hk : k = j
  · subst hk
    cases b <;> simp [hj]
  · cases b <;> simp [hj, hk, Ne.symm hk]

/-- Bits that a list does not name stay. -/
theorem putBits_of_not_mem {j : Nat} {l : List (Nat × Bool)} (m : MaskBits) (hj : j < 21845) (h : ∀ p ∈ l, p.1 ≠ j) :
    (putBits m l).getLsbD j = m.getLsbD j := by
  induction l generalizing m with
  | nil => rfl
  | cons p l ih =>
    rw [putBits_cons, ih _ fun q hq => h q (List.mem_cons_of_mem _ hq), getLsbD_putBit _ _ _ _ hj,
      if_neg (h p (List.mem_cons_self ..))]

/-- Each bit that a list names once is what the list gives it. -/
theorem putBits_of_mem {p : Nat × Bool} {l : List (Nat × Bool)} (m : MaskBits) (hj : p.1 < 21845)
    (hnodup : (l.map fun b => b.1).Nodup) (hp : p ∈ l) : (putBits m l).getLsbD p.1 = p.2 := by
  induction l generalizing m with
  | nil => cases hp
  | cons r l ih =>
    obtain ⟨hfresh, hnodup'⟩ := List.nodup_cons.mp hnodup
    rw [putBits_cons]
    rcases List.mem_cons.mp hp with rfl | hp
    · rw [putBits_of_not_mem _ hj fun q hq heq => hfresh (List.mem_map.mpr ⟨q, hq, heq⟩), getLsbD_putBit _ _ _ _ hj,
        if_pos rfl]
    · exact ih _ hnodup' hp

/-! ## Changes of one sequencer -/

theorem getSeq_modSeq_of_some {s : State} {q : SeqId} {y : Seq} (h : s.getSeq q = some y) (f : Seq → Seq) :
    (s.modSeq q f).getSeq q = some (f y) := by rw [State.getSeq_modSeq_same, h, Option.map_some]

@[simp] theorem State.modSeq_nextId (s : State) (q : SeqId) (f : Seq → Seq) : (s.modSeq q f).nextId = s.nextId := by
  unfold State.modSeq State.setSeq
  split
  · rfl
  · split <;> rfl

/-- State t has the memory, the launches and the current sequencer of s, and sequencer q is y there. -/
structure OnlySeq (s t : State) (q : SeqId) (y : Seq) : Prop where
  seq : t.getSeq q = some y
  mem : t.mem = s.mem
  launches : t.launches = s.launches
  cur : t.cur = s.cur

theorem OnlySeq.modSeq {s t : State} {q : SeqId} {y : Seq} (h : OnlySeq s t q y) (f : Seq → Seq) :
    OnlySeq s (t.modSeq q f) q (f y) where
  seq := getSeq_modSeq_of_some h.seq f
  mem := (State.modSeq_mem ..).trans h.mem
  launches := (State.modSeq_launches ..).trans h.launches
  cur := (State.modSeq_cur ..).trans h.cur

theorem OnlySeq.seqD {s t : State} {q : SeqId} {y : Seq} (h : OnlySeq s t q y) : t.seqD q = y :=
  State.seqD_of_getSeq h.seq

/-! ## The effect of an instruction -/

/-- A worker with one vector register replaced. -/
def Worker.setVReg (x : Worker) (k : Nat) (r : VReg) : Worker := { x with v := x.v.setIfInBounds k r }

/-- A worker with bits of one mask register replaced. -/
def Worker.setMask (x : Worker) (k : Nat) (l : List (Nat × Bool)) : Worker :=
  { x with m := x.m.setIfInBounds k (putBits (x.m.getD k 0) l) }

/-- The v registers of a worker once instruction `by_` has written its elements. -/
def Worker.takeElems (x : Worker) (by_ : Nat) (o : Operands) (ef : Effect) : Worker :=
  match ef.vd with
  | some (k, w, l) =>
    let r := x.vreg k
    let r1 := if l.isEmpty then r else r.remark by_ ef.whole (bytesFor w ef.upto) (x.sourceMark o)
    x.setVReg k (r1.write w ef.upto l)
  | none => x

/-- The mask registers of a worker once an instruction has written its bits. -/
def Worker.takeBits (x : Worker) (ef : Effect) : Worker :=
  (match ef.md with
    | some (k, l) => x.setMask k l
    | none => x).setMask 7 ef.capture

/-- The bank of a worker once an instruction has raised its flags and written what it writes at once. -/
def Bank.takeEffect (b : Bank) (ef : Effect) : Bank :=
  match ef.gd with
  | some (r, v) => if ef.now then (b.raise ef.flags).write r v else b.raise ef.flags
  | none => b.raise ef.flags

/-- A worker's sequencer once the effect of instruction `by_` is in place. -/
def Seq.takeEffect (y : Seq) (by_ : Nat) (o : Operands) (ef : Effect) : Seq :=
  { y with w := (y.w.takeElems by_ o ef).takeBits ef, bank := y.bank.takeEffect ef }

/-- The network once a scalar result is on its way to its register. -/
def Net.takeResult (n : Net) (ef : Effect) (i : Nat) (q : SeqId) (m : Option Mark) : Net :=
  match ef.gd with
  | some (r, v) =>
    if ef.now then n
    else { n with landings := n.landings ++ [{ id := i, src := q, reg := r, val := v, poison := m, acq := none }] }
  | none => n

/-- The elements of an effect in place. -/
def State.takeElems (s : State) (q : SeqId) (by_ : Nat) (o : Operands) (ef : Effect) : State :=
  match ef.vd with
  | some (k, w, l) =>
    s.modVReg q k fun r =>
      (if l.isEmpty then r else r.remark by_ ef.whole (bytesFor w ef.upto) ((s.seqD q).w.sourceMark o)).write w ef.upto l
  | none => s

/-- The mask bits of an effect in place. -/
def State.takeBits (s : State) (q : SeqId) (ef : Effect) : State :=
  (match ef.md with
    | some (k, l) => s.putMask q k l
    | none => s).putMask q 7 ef.capture

/-- The flags of an effect and its scalar result in place or on its way. -/
def State.takeScalar (s : State) (q : SeqId) (m : Option Mark) (ef : Effect) : State :=
  match ef.gd with
  | some (r, v) =>
    if ef.now then (s.raiseFlags q ef.flags).modSeq q fun x => { x with bank := x.bank.write r v }
    else (s.raiseFlags q ef.flags).land q r v m none
  | none => s.raiseFlags q ef.flags

theorem applyEffect_eq (s : State) (q : SeqId) (by_ : Nat) (o : Operands) (ef : Effect) :
    s.applyEffect q by_ o ef =
      ((s.takeElems q by_ o ef).takeBits q ef).takeScalar q ((s.seqD q).w.sourceMark o) ef := rfl

section
variable {s t : State} {q : SeqId} {y : Seq} (h : OnlySeq s t q y) (by_ : Nat) (o : Operands) (m : Option Mark)
  (ef : Effect)
include h

theorem OnlySeq.takeElems : OnlySeq s (t.takeElems q by_ o ef) q { y with w := y.w.takeElems by_ o ef } := by
  unfold State.takeElems Worker.takeElems
  split
  · rw [h.seqD]
    exact h.modSeq _
  · exact h

theorem OnlySeq.takeBits : OnlySeq s (t.takeBits q ef) q { y with w := y.w.takeBits ef } := by
  unfold State.takeBits Worker.takeBits
  split
  · exact (h.modSeq _).modSeq _
  · exact h.modSeq _

theorem OnlySeq.takeScalar : OnlySeq s (t.takeScalar q m ef) q { y with bank := y.bank.takeEffect ef } := by
  have hflags := h.modSeq fun x => { x with bank := x.bank.raise ef.flags }
  unfold State.takeScalar Bank.takeEffect
  split
  · split
    · exact hflags.modSeq _
    · exact ⟨hflags.seq, hflags.mem, hflags.launches, hflags.cur⟩
  · exact hflags

theorem OnlySeq.applyEffect : OnlySeq s (t.applyEffect q by_ o ef) q (y.takeEffect by_ o ef) :=
  ((h.takeElems by_ o ef).takeBits ef).takeScalar _ ef

end

theorem takeElems_net (s : State) (q : SeqId) (by_ : Nat) (o : Operands) (ef : Effect) :
    (s.takeElems q by_ o ef).net = s.net ∧ (s.takeElems q by_ o ef).nextId = s.nextId := by
  unfold State.takeElems
  split
  · exact ⟨State.modSeq_net .., State.modSeq_nextId ..⟩
  · exact ⟨rfl, rfl⟩

theorem takeBits_net (s : State) (q : SeqId) (ef : Effect) :
    (s.takeBits q ef).net = s.net ∧ (s.takeBits q ef).nextId = s.nextId := by
  unfold State.takeBits
  split <;> simp [State.putMask]

theorem takeScalar_net (s : State) (q : SeqId) (m : Option Mark) (ef : Effect) :
    (s.takeScalar q m ef).net = s.net.takeResult ef s.nextId q m := by
  unfold State.takeScalar Net.takeResult
  split
  · split <;> simp [State.raiseFlags, State.land]
  · exact State.modSeq_net ..

theorem applyEffect_net (s : State) (q : SeqId) (by_ : Nat) (o : Operands) (ef : Effect) :
    (s.applyEffect q by_ o ef).net = s.net.takeResult ef s.nextId q ((s.seqD q).w.sourceMark o) := by
  obtain ⟨hnet, hid⟩ := takeElems_net s q by_ o ef
  obtain ⟨hnet', hid'⟩ := takeBits_net (s.takeElems q by_ o ef) q ef
  rw [applyEffect_eq, takeScalar_net, hnet', hid', hnet, hid]

/-! ## What the effect leaves in the registers -/

theorem Worker.vreg_setVReg (x : Worker) {k j : Nat} (r : VReg) (hk : k < 64) :
    (x.setVReg k r).vreg j = if k = j then r else x.vreg j := by
  rw [Worker.vreg, Worker.setVReg, getD_setIfInBounds]
  by_cases hkj : k = j
  · rw [if_pos ⟨hkj, hkj ▸ hk⟩, if_pos hkj]
  · rw [if_neg fun hh => hkj hh.1, if_neg hkj]
    rfl

theorem Worker.mask_setMask (x : Worker) {k j : Nat} (l : List (Nat × Bool)) (hk : k < 8) :
    (x.setMask k l).m.getD j 0 = if k = j then putBits (x.m.getD k 0) l else x.m.getD j 0 := by
  rw [Worker.setMask, getD_setIfInBounds]
  by_cases hkj : k = j
  · rw [if_pos ⟨hkj, hkj ▸ hk⟩, if_pos hkj]
  · rw [if_neg fun hh => hkj hh.1, if_neg hkj]

theorem Worker.vreg_takeBits (x : Worker) (ef : Effect) (k : Nat) : (x.takeBits ef).vreg k = x.vreg k := by
  unfold Worker.takeBits
  split <;> rfl

/-- An effect that writes no element of a register leaves it. -/
theorem Worker.vreg_takeElems_of_ne (x : Worker) (by_ : Nat) (o : Operands) (ef : Effect) {k : Nat}
    (hvd : ∀ r w l, ef.vd = some (r, w, l) → r < 64) (h : ∀ w l, ef.vd ≠ some (k, w, l)) :
    (x.takeElems by_ o ef).vreg k = x.vreg k := by
  unfold Worker.takeElems
  split
  next r w l heq =>
    have hne : r ≠ k := fun hrk => h w l (hrk ▸ heq)
    rw [Worker.vreg_setVReg _ _ (hvd r w l heq), if_neg hne]
  next => rfl

/-- The bits and the extent of a register that elements were written into. -/
theorem VReg.write_bits (r : VReg) (w upto : Nat) (l : List (Nat × Nat)) :
    (r.write w upto l).bits = putElems r.bits w l ∧
      (r.write w upto l).extent = if l = [] then r.extent else max r.extent (bytesFor w upto) := by
  cases l <;> exact ⟨rfl, rfl⟩

theorem VReg.remark_bits (r : VReg) (by_ : Nat) (whole : Bool) (bytes : Nat) (m : Option Mark) :
    (r.remark by_ whole bytes m).bits = r.bits ∧ (r.remark by_ whole bytes m).extent = r.extent := by
  unfold VReg.remark
  split
  · exact ⟨rfl, rfl⟩
  · split <;> exact ⟨rfl, rfl⟩

/-! ## Blocks that have their granules -/

/-- Blocks that have their granules need nothing. -/
theorem needBlocks_of_backed {s : State} {w : WKey} {x : Worker} {l : List (Nat × Nat)} (hx : (s.seqD (.worker w)).w = x)
    (h : ∀ b ∈ l, (x.vreg b.1).granule.getLsbD b.2 = true) : s.needBlocks w l = .ok s := by
  induction l with
  | nil => rfl
  | cons b l ih =>
    have hone : s.needBlock w b.1 b.2 = .ok s := by
      rw [State.needBlock, hx]
      exact if_pos (h b (List.mem_cons_self ..))
    rw [State.needBlocks, hone]
    exact ih fun c hc => h c (List.mem_cons_of_mem _ hc)

/-- An instruction whose blocks all have their granules has its effect. -/
theorem runEffect_of_backed {s : State} {w : WKey} {x : Worker} {by_ : Nat} {o : Operands}
    {index reads : Worker → List Part} {f : Worker → Effect} (hx : (s.seqD (.worker w)).w = x)
    (h : ∀ b ∈ x.readBlocks (index x) ++ x.readBlocks (reads x) ++ x.blocksWritten (f x),
      (x.vreg b.1).granule.getLsbD b.2 = true) :
    s.runEffect w by_ o index reads f = .ok (s.applyEffect (.worker w) by_ o (f x)) := by
  simp only [List.mem_append, or_imp, forall_and] at h
  obtain ⟨⟨hindex, hreads⟩, hwritten⟩ := h
  simp only [State.runEffect, hx, needBlocks_of_backed hx hindex, needBlocks_of_backed hx hreads,
    needBlocks_of_backed hx hwritten]

/-! ## Execution -/

/-- What an instruction delivers comes from no memory. -/
theorem memoryOf_of_performOf {pick : Nat} {i : Instr} {p : VEntry → Worker → Effect} (h : performOf pick i = some p) :
    memoryOf i = none := by
  unfold performOf at h
  split at h <;> cases h <;> rfl

theorem not_stores_of_performOf {pick : Nat} {e : VEntry} {p : VEntry → Worker → Effect}
    (h : performOf pick e.instr = some p) : e.stores = false := by
  unfold VEntry.stores
  unfold performOf at h
  split at h <;> cases h <;> simp only [*]

/-- The number of the free choice that an instruction makes, and the state without it (R112). -/
def State.freePick (s : State) (i : Instr) : Nat × State :=
  match i with
  | .vreds .. => s.takeFree
  | _ => (0, s)

theorem performOf_freePick {s : State} {i : Instr} {p : VEntry → Worker → Effect} (h : performOf s.fresh i = some p) :
    performOf (s.freePick i).1 i = some p := by
  unfold performOf at h
  split at h <;> cases h <;> rfl

theorem freePick_cases (s : State) (i : Instr) : (s.freePick i).2 = s ∨ (s.freePick i).2 = s.takeFree.2 := by
  unfold State.freePick
  split
  · exact .inr rfl
  · exact .inl rfl

theorem execute_of_performOf {s : State} {w : WKey} {e : VEntry} {p : VEntry → Worker → Effect} {x : Worker}
    (hp : performOf s.fresh e.instr = some p) (hx : (s.seqD (.worker w)).w = x)
    (h : ∀ b ∈ x.readBlocks (e.indexReads x) ++ x.readBlocks (e.reads x) ++ x.blocksWritten (p e x),
      (x.vreg b.1).granule.getLsbD b.2 = true) :
    s.execute w e =
      .done ((s.freePick e.instr).2.applyEffect (.worker w) e.id e.instr.operands (p e x)) none := by
  have hx' : ((s.freePick e.instr).2.seqD (.worker w)).w = x := by
    rcases freePick_cases s e.instr with hpick | hpick <;> rw [hpick] <;> exact hx
  rw [State.execute, memoryOf_of_performOf hp]
  show (match performOf (s.freePick e.instr).1 e.instr with
    | some p =>
      match (s.freePick e.instr).2.runEffect w e.id e.instr.operands e.indexReads e.reads (p e) with
      | .ok s2 => Did.done s2 none
      | .error s2 => .done s2 none
    | none => dispatchMatrix e w s) = _
  rw [performOf_freePick hp]
  dsimp only
  rw [runEffect_of_backed hx' h]

/-! ## The recompute check -/

/-- A worker with one more corrected mismatch (R261). -/
def Worker.countMismatch (x : Worker) : Worker := { x with rcount := if x.rcount = 255 then 255 else x.rcount + 1 }

theorem Worker.rcount_countMismatch (x : Worker) : x.countMismatch.rcount.toNat = min 255 (x.rcount.toNat + 1) := by
  have hlt := x.rcount.isLt
  by_cases h : x.rcount = 255
  · simp [Worker.countMismatch, h]
  · have hne : x.rcount.toNat ≠ 255 := fun hh => h (BitVec.eq_of_toNat_eq hh)
    rw [Worker.countMismatch, if_neg h]
    bv_omega

/-- A sequencer once the check is over, where no granule held an error. -/
def Seq.afterLane (y : Seq) (lane : LaneCheck) (wasChecked : Bool) : Seq :=
  if lane = .once ∧ wasChecked = true then { y with w := y.w.countMismatch } else y

/-- A sequencer once its instruction has run up to an element. -/
def Seq.afterRun (y : Seq) (e left : VEntry) (n : Nat) : Seq :=
  { y with w := { y.w with
    queue := if n < e.till then mapIf y.w.queue (fun x => x.id == e.id) fun _ => left
      else y.w.queue.filter fun x => x.id != e.id } }

section
variable {s t : State} {w : WKey} {y : Seq} (h : OnlySeq s t (.worker w) y)
include h

theorem OnlySeq.afterCheck {lane : LaneCheck} (hlane : lane = .agree ∨ lane = .once) (x : Worker) (e : VEntry)
    (wasChecked : Bool) :
    OnlySeq s (t.afterCheck w x e lane wasChecked) (.worker w) (y.afterLane lane wasChecked) := by
  rcases hlane with rfl | rfl
  · exact h
  · cases wasChecked
    · exact h
    · exact h.modSeq _

theorem OnlySeq.ranTo (e : VEntry) (n : Nat) : ∃ sp,
    OnlySeq s (t.ranTo w e n) (.worker w) (y.afterRun e { e with vstart := n, spans := sp } n) :=
  ⟨_, h.modSeq _⟩

end

theorem afterCheck_net (s : State) (w : WKey) (x : Worker) (e : VEntry) {lane : LaneCheck}
    (hlane : lane = .agree ∨ lane = .once) (wasChecked : Bool) : (s.afterCheck w x e lane wasChecked).net = s.net := by
  rcases hlane with rfl | rfl
  · rfl
  · cases wasChecked
    · rfl
    · exact State.modSeq_net ..

theorem ranTo_net (s : State) (w : WKey) (e : VEntry) (n : Nat) : (s.ranTo w e n).net = s.net := State.modSeq_net ..

/-- A picked instruction that delivers at once does so, whatever the recompute check met but a second mismatch. -/
theorem exec_vectorDispatch_of_performOf {s : State} {w : WKey} {y : Seq} {e : VEntry} {n : Nat}
    {p : VEntry → Worker → Effect} {lane : LaneCheck} (hy : s.getSeq (.worker w) = some y)
    (hpick : s.pickEntry (.worker w) [] y.w.queue = some (e, n)) (hp : performOf s.fresh e.instr = some p)
    (hlane : lane ≠ .twice)
    (hbacked : ∀ b ∈ y.w.readBlocks ({ e with till := n }.indexReads y.w) ++
      y.w.readBlocks ({ e with till := n }.reads y.w) ++ y.w.blocksWritten (p { e with till := n } y.w),
      (y.w.vreg b.1).granule.getLsbD b.2 = true) :
    exec (.vectorDispatch w lane) s = .next ((((s.freePick e.instr).2.applyEffect (.worker w) e.id e.instr.operands
      (p { e with till := n } y.w)).afterCheck w y.w { e with till := n } lane (e.isChecked y.w)).ranTo w e n) := by
  have hseq : s.seqD (.worker w) = y := State.seqD_of_getSeq hy
  show execVectorDispatch w lane s = _
  rw [execVectorDispatch, hseq, hpick]
  dsimp only
  rw [if_neg fun hh => hlane hh.1, not_stores_of_performOf hp]
  have hexec := execute_of_performOf (s := s) (w := w) (e := { e with till := n }) hp (congrArg Seq.w hseq) hbacked
  simp only [Bool.false_eq_true, if_false, if_true, State.runEntry, hseq, hexec]

/-! ## The worker after it -/

/-- What an effect does not concern stays. -/
theorem Worker.takeEffect_others (x : Worker) (by_ : Nat) (o : Operands) (ef : Effect) :
    ((x.takeElems by_ o ef).takeBits ef).queue = x.queue ∧ ((x.takeElems by_ o ef).takeBits ef).rcount = x.rcount ∧
      ((x.takeElems by_ o ef).takeBits ef).pending = x.pending := by
  unfold Worker.takeElems Worker.takeBits
  split <;> split <;> exact ⟨rfl, rfl, rfl⟩

theorem Worker.mask_takeBits_takeElems (x : Worker) (by_ : Nat) (o : Operands) (ef : Effect) :
    ((x.takeElems by_ o ef).takeBits ef).m = (x.takeBits ef).m := by
  unfold Worker.takeElems Worker.takeBits
  split <;> split <;> rfl

theorem Seq.afterLane_others (y : Seq) (lane : LaneCheck) (c : Bool) :
    (y.afterLane lane c).pc = y.pc ∧ (y.afterLane lane c).bank = y.bank ∧ (y.afterLane lane c).w.v = y.w.v ∧
      (y.afterLane lane c).w.m = y.w.m ∧ (y.afterLane lane c).w.queue = y.w.queue ∧
      (y.afterLane lane c).w.rcount.toNat =
        if lane = .once ∧ c = true then min 255 (y.w.rcount.toNat + 1) else y.w.rcount.toNat := by
  unfold Seq.afterLane
  split
  · exact ⟨rfl, rfl, rfl, rfl, rfl, Worker.rcount_countMismatch _⟩
  · exact ⟨rfl, rfl, rfl, rfl, rfl, rfl⟩

/-- The mask that a comparison writes; one into m7 captures nothing (R137). -/
theorem Worker.mask_takeBits_of_md (x : Worker) {ef : Effect} {k : Nat} {l : List (Nat × Bool)}
    (hmd : ef.md = some (k, l)) (hk : k < 8) (hcap : k = 7 → ef.capture = []) :
    (x.takeBits ef).m.getD k 0 = putBits (x.m.getD k 0) l := by
  unfold Worker.takeBits
  rw [hmd]
  dsimp only
  rw [Worker.mask_setMask _ _ (by decide)]
  split
  next h7 =>
    subst h7
    rw [hcap rfl]
    exact (Worker.mask_setMask _ _ (by decide)).trans (if_pos rfl)
  next => exact (Worker.mask_setMask _ _ hk).trans (if_pos rfl)

theorem Worker.mask_takeBits_capture (x : Worker) {ef : Effect} {j : Nat} {b : Bool}
    (hnodup : (ef.capture.map fun c => c.1).Nodup) (hj : j < 21845) (hb : (j, b) ∈ ef.capture) :
    ((x.takeBits ef).m.getD 7 0).getLsbD j = b := by
  unfold Worker.takeBits
  rw [Worker.mask_setMask _ _ (by decide), if_pos rfl]
  exact putBits_of_mem (p := (j, b)) _ hj hnodup hb

theorem Worker.mask_takeBits_of_ne (x : Worker) {ef : Effect} {k : Nat} (hk : k < 7)
    (hmd : ∀ r l, ef.md = some (r, l) → r < 8) (h : ∀ l, ef.md ≠ some (k, l)) :
    (x.takeBits ef).m.getD k 0 = x.m.getD k 0 := by
  unfold Worker.takeBits
  rw [Worker.mask_setMask _ _ (by decide), if_neg (by omega)]
  split
  next r l heq =>
    have hne : r ≠ k := fun hrk => h l (hrk ▸ heq)
    rw [Worker.mask_setMask _ _ (hmd r l heq), if_neg hne]
  next => rfl

theorem Worker.vreg_takeElems_same (x : Worker) (by_ : Nat) (o : Operands) {ef : Effect} {k w : Nat}
    {l : List (Nat × Nat)} (hvd : ef.vd = some (k, w, l)) (hk : k < 64) : (x.takeElems by_ o ef).vreg k =
      (if l.isEmpty then x.vreg k
        else (x.vreg k).remark by_ ef.whole (bytesFor w ef.upto) (x.sourceMark o)).write w ef.upto l := by
  unfold Worker.takeElems
  rw [hvd]
  exact (Worker.vreg_setVReg _ _ hk).trans (if_pos rfl)

/-- The register an effect writes holds the elements, and what it does not name stays. -/
theorem elementsWritten_of_takeElems {s t : State} {q : SeqId} {y : Seq} {by_ : Nat} {o : Operands} {ef : Effect}
    {k w : Nat} {l : List (Nat × Nat)} (hs : s.seqD q = y) (hvd : ef.vd = some (k, w, l)) (hk : k < 64)
    (hfits : Claims.Fits w l) (ht : (t.seqD q).w.vreg k = (y.w.takeElems by_ o ef).vreg k) :
    Claims.ElementsWritten s t q k w ef.upto l := by
  have hreg := ht.trans (y.w.vreg_takeElems_same by_ o hvd hk)
  by_cases hl : l = []
  · subst hl
    have hsame : (t.seqD q).w.vreg k = (s.seqD q).w.vreg k := hreg.trans (by rw [hs]; rfl)
    exact ⟨fun p hp => absurd hp (List.not_mem_nil), fun j _ _ => by rw [hsame], fun h => absurd rfl h,
      fun _ => hsame⟩
  · rw [if_neg (mt List.isEmpty_iff.mp hl), ← hs] at hreg
    obtain ⟨hbits, hext⟩ := ((((s.seqD q).w.vreg k).remark by_ ef.whole (bytesFor w ef.upto)
      ((s.seqD q).w.sourceMark o))).write_bits w ef.upto l
    obtain ⟨hrbits, hrext⟩ := ((s.seqD q).w.vreg k).remark_bits by_ ef.whole (bytesFor w ef.upto)
      ((s.seqD q).w.sourceMark o)
    rw [hrbits] at hbits
    rw [hrext, if_neg hl] at hext
    refine ⟨fun p hp => ?_, fun j hj _ => ?_, fun _ => ?_, fun h => absurd h hl⟩
    · rw [hreg, hbits, putElems_of_mem _ hfits hp, BitVec.toNat_ofNat]
    · rw [hreg, hbits, putElems_of_not_mem _ hj]
    · rw [hreg, hext]
      rfl

/-! ## An error in a granule (R262) -/

/-- The lowest element of a list of parts is what the fold over them finds. -/
theorem foldl_lowest {k : Nat} (l : List Part) (acc : Option Nat) (hle : ∀ p ∈ l, k ≤ p.elem)
    (hacc : ∀ a, acc = some a → k ≤ a) (h : (∃ p ∈ l, p.elem = k) ∨ acc = some k) :
    l.foldl (fun acc p => some (Nat.min p.elem (acc.getD p.elem))) acc = some k := by
  induction l generalizing acc with
  | nil => simpa using h
  | cons p l ih =>
    have hp := hle p (List.mem_cons_self ..)
    have hlow : k ≤ acc.getD p.elem := by
      cases acc with
      | none => exact hp
      | some a => exact hacc a rfl
    refine ih _ (fun q hq => hle q (List.mem_cons_of_mem _ hq)) (fun a ha => ?_) ?_
    · obtain rfl := Option.some.inj ha
      exact Nat.le_min.mpr ⟨hp, hlow⟩
    · rcases h with ⟨q, hq, hqk⟩ | rfl
      · rcases List.mem_cons.mp hq with rfl | hq
        · exact .inr (congrArg some (by rw [hqk] at hlow ⊢; exact Nat.min_eq_left hlow))
        · exact .inl ⟨q, hq, hqk⟩
      · exact .inr (congrArg some (Nat.min_eq_right hp))

theorem uses_eq_some {e : VEntry} {x : Worker} {reg block k : Nat}
    (hk : ∃ p ∈ e.readParts x, (reg, block) ∈ p.blocks ∧ p.elem = k)
    (hle : ∀ p ∈ e.readParts x, (reg, block) ∈ p.blocks → k ≤ p.elem) : e.uses x reg block = some k := by
  obtain ⟨p, hp, hb, hpk⟩ := hk
  refine foldl_lowest _ none (fun q hq => ?_) (fun _ h => nomatch h) (.inl ⟨p, ?_, hpk⟩)
  · obtain ⟨hq, hqb⟩ := List.mem_filter.mp hq
    exact hle q hq (List.contains_iff_mem.mp hqb)
  · exact List.mem_filter.mpr ⟨hp, List.contains_iff_mem.mpr hb⟩

/-- Marking a register leaves the bits of every register. -/
theorem Worker.bits_setVReg_setMark (x : Worker) (k i r : Nat) (m : Mark) :
    ((x.setVReg k ((x.vreg k).setMark i m)).vreg r).bits = (x.vreg r).bits := by
  simp only [Worker.vreg, Worker.setVReg, getD_setIfInBounds]
  split
  next h => rw [← h.1]; rfl
  next => rfl

theorem OnlySeq.foldl_setMark {s t : State} {q : SeqId} {y : Seq} (h : OnlySeq s t q y) (i : Nat) (m : Mark)
    (l : List Nat) : ∃ z, OnlySeq s (l.foldl (fun (acc : State) r => acc.modVReg q r fun v => v.setMark i m) t) q z ∧
      (∀ r, (z.w.vreg r).bits = (y.w.vreg r).bits) ∧ z.w.pending = y.w.pending := by
  induction l generalizing t y with
  | nil => exact ⟨y, h, fun _ => rfl, rfl⟩
  | cons k l ih =>
    obtain ⟨z, hz, hbits, hpend⟩ := ih (h.modSeq fun x =>
      { x with w := { x.w with v := x.w.v.setIfInBounds k ((x.w.vreg k).setMark i m) } })
    exact ⟨z, hz, fun r => (hbits r).trans (y.w.bits_setVReg_setMark k i r m), hpend⟩

theorem OnlySeq.setNet {s t : State} {q : SeqId} {y : Seq} (h : OnlySeq s t q y) (n : Net) :
    OnlySeq s { t with net := n } q y := ⟨h.seq, h.mem, h.launches, h.cur⟩

/-- An error in a granule is noted with the lowest element that used it, and leaves the bits of the registers. -/
theorem OnlySeq.afterCheck_granule {s t : State} {w : WKey} {y : Seq} (h : OnlySeq s t (.worker w) y) {x : Worker}
    {e : VEntry} {reg block k : Nat} (huse : e.uses x reg block = some k) (hpend : y.w.pending = none)
    (wasChecked : Bool) : ∃ z, OnlySeq s (t.afterCheck w x e (.granule reg block) wasChecked) (.worker w) z ∧
      (∀ r, (z.w.vreg r).bits = (y.w.vreg r).bits) ∧
      z.w.pending = some { source := 1, mark := ⟨0, false⟩, elem := k, entry := e.id } := by
  obtain ⟨z, hz, hbits, hzpend⟩ := h.foldl_setMark e.id ⟨0, false⟩ e.writes
  have hnote : (z.w.notePending { source := 1, mark := ⟨0, false⟩, elem := k, entry := e.id }).pending =
      some { source := 1, mark := ⟨0, false⟩, elem := k, entry := e.id } := by
    simp only [Worker.notePending, hzpend, hpend]
  unfold State.afterCheck
  simp only [huse]
  split
  · exact ⟨_, (hz.modSeq _).modSeq _, hbits, hnote⟩
  · split
    · exact ⟨_, (hz.setNet _).modSeq _, hbits, hnote⟩
    · exact ⟨_, hz.modSeq _, hbits, hnote⟩

/-! ## The statements -/

theorem Bank.takeEffect_cases (b : Bank) (ef : Effect) :
    (ef.gd = none ∨ ef.now = false → b.takeEffect ef = { b with xf := b.xf ||| ef.flags }) ∧
    (∀ r v, ef.gd = some (r, v) → ef.now = true →
      b.takeEffect ef = Bank.write { b with xf := b.xf ||| ef.flags } r v) := by
  refine ⟨fun h => ?_, fun r v hgd hnow => ?_⟩
  · unfold Bank.takeEffect
    split
    next hgd =>
      have hnow : ef.now = false := h.resolve_left (by simp [hgd])
      rw [hnow]
      rfl
    next => rfl
  · unfold Bank.takeEffect
    rw [hgd, hnow]
    rfl

theorem Net.takeResult_cases (n : Net) (ef : Effect) (i : Nat) (q : SeqId) (m : Option Mark) :
    (∀ r v, ef.gd = some (r, v) → ef.now = false → n.takeResult ef i q m = { n with landings := n.landings ++
      [{ id := i, src := q, reg := r, val := v, poison := m, acq := none }] }) ∧
    (ef.gd = none ∨ ef.now = true → n.takeResult ef i q m = n) := by
  refine ⟨fun r v hgd hnow => ?_, fun h => ?_⟩
  · unfold Net.takeResult
    rw [hgd, hnow]
    rfl
  · unfold Net.takeResult
    split
    next hgd =>
      have hnow : ef.now = true := h.resolve_left (by simp [hgd])
      rw [hnow]
      rfl
    next => rfl

theorem vectorDispatchRuns : Claims.VectorDispatchRuns := by
  intro s w y e n p lane q o now ef hy hpick hp hlane hbacked hvd hmd hcap
  have hseq : s.seqD q = y := State.seqD_of_getSeq hy
  have hpicked : OnlySeq s (s.freePick e.instr).2 q y ∧ (s.freePick e.instr).2.net = s.net ∧
      (s.freePick e.instr).2.nextId = s.nextId := by
    rcases freePick_cases s e.instr with h | h <;> rw [h] <;> exact ⟨⟨hy, rfl, rfl, rfl⟩, rfl, rfl⟩
  obtain ⟨hstart, hnet, hid⟩ := hpicked
  have heffect := hstart.applyEffect e.id o ef
  have hexec : ∀ lane, lane ≠ .twice → exec (.vectorDispatch w lane) s = _ :=
    fun lane h => exec_vectorDispatch_of_performOf hy hpick hp h hbacked
  have hnot : lane ≠ .twice := by rcases hlane with rfl | rfl <;> decide
  obtain ⟨sp, hrun⟩ := (heffect.afterCheck hlane y.w now (e.isChecked y.w)).ranTo e n
  obtain ⟨hpc, hbank, hv, hm, hqueue, hcount⟩ := (y.takeEffect e.id o ef).afterLane_others lane (e.isChecked y.w)
  obtain ⟨hq', hr', -⟩ := y.w.takeEffect_others e.id o ef
  have hz := hrun.seqD
  have hvreg : ∀ k, (((y.takeEffect e.id o ef).afterLane lane (e.isChecked y.w)).w.vreg k) =
      (y.w.takeElems e.id o ef).vreg k := fun k =>
    (congrArg (fun v => v.getD k VReg.reset) hv).trans (Worker.vreg_takeBits _ ef k)
  have hmask := hm.trans (y.w.mask_takeBits_takeElems e.id o ef)
  have hmdlt : ∀ r l, ef.md = some (r, l) → r < 8 := fun r l h => (hmd r l h).1
  have hnets : (((s.freePick e.instr).2.applyEffect q e.id o ef).afterCheck w y.w now lane (e.isChecked y.w)).net =
      s.net.takeResult ef s.nextId q (y.w.sourceMark o) := by
    rw [afterCheck_net _ _ _ _ hlane, applyEffect_net, hnet, hid, hstart.seqD]
  refine ⟨_, hexec lane hnot, fun hn => ?_, fun hn => ⟨sp, ?_⟩, ?_, hrun.mem, hrun.launches, fun k v l h => ?_,
    fun k hk h => ?_, fun k l h j hj => ?_, fun j b h => ?_, fun k hk h => ?_, fun h => ?_, fun r v hgd hnow => ?_,
    fun r v hgd hnow => ?_, fun h => ?_, ?_, fun reg block k hpend hk hle => ?_⟩
  · rw [hz]
    exact (if_neg (not_lt.mpr hn)).trans (by rw [hqueue]; exact congrArg (List.filter _) hq')
  · rw [hz]
    refine (if_pos hn).trans ?_
    rw [hqueue]
    simp only [mapIf, beq_iff_eq]
    exact congrArg (List.map _) hq'
  · rw [hz]
    exact hpc
  · obtain ⟨hk, -, hfits⟩ := hvd k v l h
    exact elementsWritten_of_takeElems hseq h hk hfits ((congrArg (fun x : Seq => x.w.vreg k) hz).trans (hvreg k))
  · rw [hz]
    exact (hvreg k).trans (y.w.vreg_takeElems_of_ne e.id o ef (fun r v l h => (hvd r v l h).1) fun v l => h v l)
  · obtain ⟨hk, hnodup, hlt, hk7⟩ := hmd k l h
    rw [hz]
    have hbits := (congrArg (fun m => m.getD k 0) hmask).trans (y.w.mask_takeBits_of_md h hk hk7)
    refine ⟨fun b hb => ?_, fun hb => ?_⟩
    · exact (congrArg (fun m : MaskBits => m.getLsbD j) hbits).trans (putBits_of_mem (p := (j, b)) _ hj hnodup hb)
    · exact (congrArg (fun m : MaskBits => m.getLsbD j) hbits).trans
        (putBits_of_not_mem _ hj fun p hp hpj => hb p.2 (hpj ▸ hp))
  · rw [hz]
    exact (congrArg (fun m : Vector MaskBits 8 => (m.getD 7 0).getLsbD j) hmask).trans
      (y.w.mask_takeBits_capture hcap.1 (hcap.2 _ h) h)
  · rw [hz]
    exact (congrArg (fun m => m.getD k 0) hmask).trans (y.w.mask_takeBits_of_ne hk hmdlt h)
  · rw [hz]
    exact hbank.trans ((y.bank.takeEffect_cases ef).1 h)
  · rw [hz]
    exact hbank.trans ((y.bank.takeEffect_cases ef).2 r v hgd hnow)
  · rw [ranTo_net, hnets]
    exact (s.net.takeResult_cases ef _ q _).1 r v hgd hnow
  · rw [ranTo_net, hnets]
    exact (s.net.takeResult_cases ef _ q _).2 h
  · rw [hz]
    refine Eq.trans hcount ?_
    rw [show (y.takeEffect e.id o ef).w.rcount = y.w.rcount from hr']
  · obtain ⟨-, -, hp'⟩ := y.w.takeEffect_others e.id o ef
    obtain ⟨x, hx, hb, hxk⟩ := hk
    obtain ⟨z, hu, hbits, hnote⟩ := heffect.afterCheck_granule
      (uses_eq_some (e := now) ⟨x, hx, hb, hxk⟩ fun p hp hpb => hle p hp hpb) (hp'.trans hpend) (e.isChecked y.w)
    obtain ⟨sp', hu'⟩ := hu.ranTo e n
    refine ⟨_, hexec _ (by simp), hu'.mem, fun r _ => ?_, ?_⟩
    · rw [hu'.seqD, hz]
      exact (hbits r).trans (congrArg VReg.bits ((Worker.vreg_takeBits _ ef r).trans (hvreg r).symm))
    · rw [hu'.seqD]
      exact hnote

open Sys2Proof.Claims (Clash)

/-! ## Which entry runs, and how far -/

/-- Every piece of an entry belongs to one of its elements. -/
theorem elem_lt_till_of_mem_pieces {e : VEntry} {x : Worker} {f : FVM} {p : Piece} (h : p ∈ e.pieces x f) :
    p.elem < e.till := by
  obtain ⟨i, hi, hp⟩ := List.mem_flatMap.mp h
  have hact : i ∈ e.active x f.mask := by
    unfold VEntry.below at hi
    split at hi
    · exact hi
    · exact List.mem_of_mem_filter hi
  have hlt : i < e.till := by
    rw [VEntry.active_eq_actives] at hact
    exact List.mem_range.mp (List.mem_of_mem_filter hact)
  have helem : p.elem = i := by
    unfold computedPieces at hp
    split at hp
    · split at hp <;> rw [List.mem_singleton.mp hp] <;> rfl
    · rw [List.mem_singleton.mp hp]
      rfl
    · obtain ⟨k, -, rfl⟩ := List.mem_map.mp hp
      rfl
  exact helem ▸ hlt

/-- Cutting a piece of six bits at a line's end keeps its element. -/
theorem elem_of_mem_cut {p q : Piece} (h : q ∈ p.cut) : q.elem = p.elem := by
  unfold Piece.cut at h
  split at h
  · rcases List.mem_cons.mp h with rfl | h
    · rfl
    · rw [List.mem_singleton.mp h]
  · rw [List.mem_singleton.mp h]

/-- A store cut at its own end is not cut. -/
theorem lineCut_till (e : VEntry) (x : Worker) (h : e.vstart ≤ e.till) : e.lineCut x e.till = e.till := by
  unfold VEntry.lineCut
  split
  · split
    · rfl
    · have hlt : ∀ p ∈ (e.pieces x ‹FVM›).flatMap Piece.cut, ¬e.till ≤ p.elem := fun p hp => by
        obtain ⟨r, hr, hp⟩ := List.mem_flatMap.mp hp
        rw [elem_of_mem_cut hp]
        exact not_le.mpr (elem_lt_till_of_mem_pieces hr)
      have hnone : ((e.pieces x ‹FVM›).flatMap Piece.cut).filter (fun p => decide (e.till ≤ p.elem)) = [] :=
        List.filter_eq_nil_iff.mpr fun p hp => by simpa using hlt p hp
      obtain ⟨n, hn⟩ : ∃ n, e.till + 1 - e.vstart = n + 1 := ⟨e.till - e.vstart, by omega⟩
      simp [hn, List.range_succ_eq_map, hnone]
  · rfl

/-- Nothing is in the way of the oldest entry where no mask bit is on its way. -/
theorem maskClash_nil {s : State} {q : SeqId} (h : ∀ k, s.maskFlying q k = false) (e : VEntry) :
    s.maskClash q [] e = false := by
  simp [State.maskClash, h]

theorem limit_nil (e : VEntry) (x : Worker) : e.limit x [] [] = e.till := by
  simp [VEntry.limit]

theorem runsTo_of_idle {s : State} {q : SeqId} {e : VEntry} (hfly : s.flying q = [])
    (hmask : ∀ k, s.maskFlying q k = false)
    (htouch : e.touches = true → s.ordering q = false ∧ s.pushMeets q e.spans = false) (hle : e.vstart ≤ e.till) :
    s.runsTo q [] e = some e.till := by
  have htouches : (e.touches && (s.ordering q || s.pushMeets q e.spans)) = false := by
    cases h : e.touches
    · rfl
    · obtain ⟨ho, hp⟩ := htouch h
      simp [ho, hp]
  unfold State.runsTo
  simp only [hfly, maskClash_nil hmask, htouches, List.map_nil, List.flatMap_nil, List.append_nil, List.any_nil,
    Bool.and_false, Bool.or_false, Bool.false_eq_true, if_false, limit_nil, lineCut_till _ _ hle]
  split
  · rw [if_neg]
    simp only [List.any_eq_true, Bool.false_eq_true, and_false, exists_false, or_false]
    omega
  · split <;> simp

theorem meets_iff_clash (p r : Part) : p.meets r = true ↔ Clash p r := by
  simp only [Part.meets, Clash, Bool.and_eq_true, Bool.or_eq_true, beq_iff_eq, decide_eq_true_eq]
  rfl

/-- The least of a bound and the elements of some parts. -/
theorem foldl_min_elem (l : List Part) (a : Nat) :
    (∀ p ∈ l, l.foldl (fun n p => Nat.min n p.elem) a ≤ p.elem) ∧ l.foldl (fun n p => Nat.min n p.elem) a ≤ a ∧
      (l.foldl (fun n p => Nat.min n p.elem) a = a ∨ ∃ p ∈ l, p.elem = l.foldl (fun n p => Nat.min n p.elem) a) := by
  induction l generalizing a with
  | nil => simp
  | cons p l ih =>
    obtain ⟨hall, hle, hfound⟩ := ih (Nat.min a p.elem)
    refine ⟨fun q hq => ?_, hle.trans (Nat.min_le_left ..), ?_⟩
    · rcases List.mem_cons.mp hq with rfl | hq
      · exact hle.trans (Nat.min_le_right ..)
      · exact hall q hq
    · rcases hfound with heq | ⟨q, hq, heq⟩
      · rcases Nat.le_total a p.elem with h | h
        · exact .inl (heq.trans (Nat.min_eq_left h))
        · exact .inr ⟨p, List.mem_cons_self .., (heq.trans (Nat.min_eq_right h)).symm⟩
      · exact .inr ⟨q, List.mem_cons_of_mem _ hq, heq⟩

/-- A part is among those that limit an entry where what is on its way meets it. -/
theorem mem_limiting {e : VEntry} {x : Worker} {written : List Part} {p : Part} :
    p ∈ ((e.readParts x).filter fun p => written.any p.meets) ++
        ((e.writeParts x).filter fun p => written.any p.meets || ([] : List Part).any p.meets) ↔
      p ∈ e.readParts x ++ e.writeParts x ∧ ∃ z ∈ written, Clash p z := by
  simp only [List.mem_append, List.mem_filter, List.any_nil, Bool.or_false, List.any_eq_true, meets_iff_clash]
  exact or_and_right.symm

/-- Where an entry has to wait: at the lowest element that meets what is still to be written. -/
theorem limit_spec (e : VEntry) (x : Worker) (written : List Part) :
    (∀ p ∈ e.readParts x ++ e.writeParts x, (∃ z ∈ written, Clash p z) → e.limit x written [] ≤ p.elem) ∧
      (e.limit x written [] = e.till ∨
        ∃ p ∈ e.readParts x ++ e.writeParts x, p.elem = e.limit x written [] ∧ ∃ z ∈ written, Clash p z) := by
  obtain ⟨hall, -, hfound⟩ := foldl_min_elem (((e.readParts x).filter fun p => written.any p.meets) ++
    ((e.writeParts x).filter fun p => written.any p.meets || ([] : List Part).any p.meets)) e.till
  refine ⟨fun p hp hz => hall p (mem_limiting.mpr ⟨hp, hz⟩), hfound.imp_right fun ⟨p, hp, heq⟩ => ?_⟩
  obtain ⟨hmem, hz⟩ := mem_limiting.mp hp
  exact ⟨p, hmem, heq, hz⟩

theorem runsTo_of_partwise {s : State} {q : SeqId} {e : VEntry} {n : Nat}
    (hpart : e.partwise (s.seqD q).w = true) (hvst : ∀ f, e.instr ≠ .vst f) (h : s.runsTo q [] e = some n) :
    n = e.limit (s.seqD q).w ((s.flying q).map fun p => p.2) [] := by
  have hcut : ∀ m, e.lineCut (s.seqD q).w m = m := fun m => by
    unfold VEntry.lineCut
    split
    next f hf => exact absurd hf (hvst f)
    next => rfl
  unfold State.runsTo at h
  simp only [hpart, hcut, List.flatMap_nil, List.append_nil, if_true] at h
  split at h
  · cases h
  · split at h
    · cases h
    · exact (Option.some.inj h).symm

/-! ## The roll back (R261) -/

theorem dropQueued_of_no_command {s : State} {w : WKey} {e : VEntry} (h : s.cmd? e.cmd = none) :
    s.dropQueued w e = s := by
  rw [State.dropQueued, h]

/-- One entry is rolled back; VACC's window stays as it was (R288). -/
def State.dropEntry (s : State) (w : WKey) (x : VEntry) : State :=
  match x.instr with
  | .vacc _ => s
  | _ => s.dropQueued w x

theorem foldl_dropEntry {s : State} {w : WKey} (l : List VEntry) (h : ∀ x ∈ l, s.cmd? x.cmd = none) :
    l.foldl (fun (acc : State) x => acc.dropEntry w x) s = s := by
  induction l with
  | nil => rfl
  | cons x l ih =>
    have hone : s.dropEntry w x = s := by
      unfold State.dropEntry
      split
      · rfl
      · exact dropQueued_of_no_command (h x (List.mem_cons_self ..))
    rw [List.foldl_cons, hone]
    exact ih fun z hz => h z (List.mem_cons_of_mem _ hz)

/-- The empty bits of a bank once a g destination, if there is one, is full again. -/
def filled (b : BitVec 32) : Option (BitVec 5) → BitVec 32
  | some r => b &&& ~~~(BitVec.twoPow 32 r.toNat)
  | none => b

theorem getLsbD_filled (b : BitVec 32) (gd : Option (BitVec 5)) (r : BitVec 5) :
    (filled b gd).getLsbD r.toNat = (b.getLsbD r.toNat && gd != some r) := by
  cases gd with
  | none => simp [filled]
  | some d =>
    by_cases hd : d = r
    · subst hd
      simp [filled, d.isLt]
    · have hne : d.toNat ≠ r.toNat := fun h => hd (BitVec.eq_of_toNat_eq h)
      simp [filled, hd, hne.symm, r.isLt]

/-- The empty bits of a bank once the g destinations of some entries are full again. -/
def refilled (b : BitVec 32) (l : List VEntry) : BitVec 32 := l.foldl (fun b y => filled b y.instr.operands.gd) b

theorem getLsbD_refilled (b : BitVec 32) (l : List VEntry) (r : BitVec 5) : (refilled b l).getLsbD r.toNat =
    (b.getLsbD r.toNat && l.all fun y => y.instr.operands.gd != some r) := by
  induction l generalizing b with
  | nil => simp [refilled]
  | cons y l ih =>
    refine (ih _).trans ?_
    rw [getLsbD_filled, List.all_cons, Bool.and_assoc]

theorem all_filter_ge (l : List VEntry) (i : Nat) (c : VEntry → Bool) :
    (l.filter fun x => decide (i ≤ x.id)).all c = l.all fun x => decide (x.id < i) || c x := by
  rw [List.all_filter]
  congr 1
  funext x
  by_cases h : i ≤ x.id <;> simp [h, not_lt.mpr, not_le.mp]

/-- The entries that a second mismatch at an entry rolls back. -/
def rolledBack (l : List VEntry) (e : VEntry) : List VEntry := l.filter fun x => decide (e.id ≤ x.id)

/-- The trap RECOMPUTE-MISMATCH at an entry. -/
def mismatchTrap (e : VEntry) : Trap :=
  { source := 1, cond := 30, epc := e.pc, eaddr := 0, eidx := 0, save := e.pc, vstart := some 0 }

theorem rollBack_eq (s : State) (w : WKey) (e : VEntry) :
    s.rollBack w e = (((rolledBack (s.seqD (.worker w)).w.queue e).foldl (fun (acc : State) x => acc.dropEntry w x)
      s).modSeq (.worker w) fun z => { z with
        bank := { z.bank with empty := refilled z.bank.empty (rolledBack (s.seqD (.worker w)).w.queue e) }
        w := { z.w with queue := z.w.queue.filter (fun x => decide (x.id < e.id)), vstart := 0 } }).raiseOn (.worker w)
          (mismatchTrap e) := rfl

theorem rollBack_of_no_commands {s : State} {w : WKey} {y : Seq} {e : VEntry} (hy : s.getSeq (.worker w) = some y)
    (hcmd : ∀ x ∈ y.w.queue, s.cmd? x.cmd = none) :
    s.rollBack w e = (s.modSeq (.worker w) fun z => { z with
      bank := { z.bank with empty := refilled y.bank.empty (rolledBack y.w.queue e) }
      w := { z.w with queue := z.w.queue.filter (fun x => decide (x.id < e.id)), vstart := 0 } }).raiseOn (.worker w)
        (mismatchTrap e) := by
  have hdrop := foldl_dropEntry (s := s) (w := w) (rolledBack y.w.queue e) fun x hx =>
    hcmd x (List.mem_of_mem_filter hx)
  rw [rollBack_eq, State.seqD_of_getSeq hy, hdrop]
  simp only [State.modSeq, hy]

theorem vectorEntriesArePicked : Claims.VectorEntriesArePicked := by
  refine ⟨fun s w y e rest => ?_, fun s w y e n => ?_, fun s w y e n => ?_⟩
  · intro q _ hfly hmask htouch hle
    rw [State.pickEntry, runsTo_of_idle hfly hmask htouch hle]
  · intro q clash hy hpart hvst hrun
    rw [← State.seqD_of_getSeq hy] at hpart ⊢
    have hn := runsTo_of_partwise hpart hvst hrun
    obtain ⟨hall, hfound⟩ := limit_spec e (s.seqD q).w ((s.flying q).map fun p => p.2)
    rw [← hn] at hall hfound
    have hclash : ∀ x, (∃ z ∈ (s.flying q).map (fun p => p.2), Clash x z) ↔ clash x := fun x => by
      simp only [clash, List.mem_map, exists_exists_and_eq_and]
    refine ⟨fun x hx hlt hc => absurd hlt (not_lt.mpr (hall x hx ((hclash x).mpr hc))), fun hlt => ?_⟩
    obtain ⟨x, hmem, heq, hc⟩ := hfound.resolve_left hlt.ne
    exact ⟨x, hmem, heq, (hclash x).mp hc⟩
  · intro q hy hpick hcheck hcmd
    have hseq : s.seqD q = y := State.seqD_of_getSeq hy
    refine ⟨refilled y.bank.empty (rolledBack y.w.queue e), fun r => ?_, ?_⟩
    · rw [getLsbD_refilled, rolledBack, all_filter_ge]
    · show execVectorDispatch w .twice s = _
      rw [execVectorDispatch, hseq, hpick]
      dsimp only
      rw [if_pos ⟨rfl, hcheck⟩, rollBack_of_no_commands hy hcmd]
      rfl

/-- Settles O35: the entry that `pickEntry` picks takes its effect in one worker and leaves the queue or stays with its
rest, and how far it runs is the least element that meets what is on its way. -/
theorem vectorDispatchDelivers : Obligations.VectorDispatchDelivers := by
  unfold Obligations.VectorDispatchDelivers
  exact ⟨vectorDispatchRuns, vectorEntriesArePicked⟩

end Sys2Proof.Machine
end

section
/-! SUPPORT. Vector lengths, stream registers, the walk ahead, and what every scope's acquire leaves (R191 to R196, R243,
R343). -/

namespace Sys2Proof.Machine

open Sys2Proof.Claims (acquired following onward vlmaxFor WaitsFor actives)

/-! ## Acquires and going on -/

/-- An acquire leaves what R343 says, whatever its scope. -/
theorem State.acquire_eq (s : State) (q : SeqId) (scope : Nat) : s.acquire q scope = acquired s q scope := by
  have hacquired : acquired s q scope =
      if 3 ≤ scope then (if 1 ≤ scope then acquired s q 1 else s).dropGuests (s.dieOf q)
      else if 1 ≤ scope then acquired s q 1 else s := by
    by_cases h1 : 1 ≤ scope <;> by_cases h3 : 3 ≤ scope <;> simp [acquired, h1, h3, State.dropGuests, State.modMem]
  rw [hacquired, State.acquire]
  cases h : s.cacheOf q with
  | none => simp [State.acquired_one_of_no_cache h]
  | some o => by_cases h1 : 1 ≤ scope <;> simp [h1, State.dropClean_eq_acquired h]

/-- A state that left the current sequencer as it was goes on from its PC. -/
theorem advance_eq_onward {s u : State} (h : u.core = s.core) : u.advance = onward s u := by
  rw [State.advance_eq_goesTo, h, onward]

/-! ## VSETL, VDECL, QSET and QADV -/

theorem vsetl_gives (f : FIM) (s : State) (hr : (Instr.vsetl f).ready s = true) :
    let m := vlmaxFor s.core.w.vncode (f.imm.extractLsb' 0 4).toNat
    let n := min (s.g f.ga).toNat m
    exec (.vsetl f) s = .next (State.put { s with core := { s.core with w := { s.core.w with
      vlmax := BitVec.ofNat 15 m, vl := BitVec.ofNat 15 n } } } (hReg f.h) (BitVec.ofNat 64 n)) := by
  show execVsetl f s = _
  rw [execVsetl, checked_of_ready hr, vlmaxOf_etWidth]
  rfl

/-- A worker whose v and m registers are those of a VNREG code, all zero (R196). -/
def State.declared (s : State) (code : BitVec 2) : State :=
  s.modCore fun x => { x with w := { x.w with
    vncode := code, v := Vector.replicate 64 VReg.reset, m := Vector.replicate 8 0 } }

theorem exec_vdecl_of_ready {f : FIM} {s : State} {w : WKey} (hr : (Instr.vdecl f).ready s = true)
    (hcur : s.cur = .worker w) (hidle : s.waitsVector = false) :
    exec (.vdecl f) s = .next ((s.declared (f.imm.extractLsb' 0 2)).clearResv w).advance := by
  show execVdecl f s = _
  rw [execVdecl, checked_of_ready hr, hidle]
  simp only [Bool.false_eq_true, if_false, State.modCore_cur, hcur]
  rfl

theorem vdecl_clears (f : FIM) (s : State) (w : WKey) (hr : (Instr.vdecl f).ready s = true)
    (hcur : s.cur = .worker w) (hidle : s.waitsVector = false) :
    ∃ t, exec (.vdecl f) s = .next t ∧ t.core.w.vncode = f.imm.extractLsb' 0 2 ∧
      (∀ k, k < 64 → (t.core.w.vreg k).bits = 0 ∧ (t.core.w.vreg k).extent = 0 ∧ (t.core.w.vreg k).poison = none ∧
        (t.core.w.vreg k).granule = 0) ∧
      (∀ k, k < 8 → t.core.w.m.getD k 0 = 0) ∧ (∀ r ∈ t.mem.resv, r.owner ≠ w) ∧
      (∀ r ∈ s.mem.resv, r.owner ≠ w → r ∈ t.mem.resv) ∧ t.core.bank = s.core.bank ∧ t.core.w.vl = s.core.w.vl ∧
      t.core.w.q = s.core.w.q ∧ t.core.pc = following s.core.heads s.core.pc ∧ t.mem.arrays = s.mem.arrays := by
  refine ⟨_, exec_vdecl_of_ready hr hcur hidle, rfl, fun k hk => ?_, fun k hk => ?_, fun r hr' => ?_,
    fun r hr' hne => ?_, rfl, rfl, rfl, State.nextPc_eq s, rfl⟩
  · have hreset : (Vector.replicate 64 VReg.reset).getD k VReg.reset = VReg.reset := by
      simp [Vector.getD, Array.getD, hk]
    exact ⟨congrArg VReg.bits hreset, congrArg VReg.extent hreset, congrArg VReg.poison hreset,
      congrArg VReg.granule hreset⟩
  · show (Vector.replicate 8 (0 : MaskBits)).getD k 0 = 0
    simp [Vector.getD, Array.getD, hk]
  · have hmem : r ∈ s.mem.resv.filter fun r => r.owner != w := hr'
    simpa using (List.mem_filter.mp hmem).2
  · exact List.mem_filter.mpr ⟨hr', by simpa using hne⟩

/-- An address plus a signed field, cut to 58 bits, is their sum as integers. -/
theorem setWidth_add_signExtend (a : Word) (i : BitVec 16) :
    (a + i.signExtend 64).setWidth 58 = BitVec.ofInt 58 (a.toInt + i.toInt) := by
  have hsum : a + i.signExtend 64 = BitVec.ofInt 64 (a.toInt + i.toInt) := by
    rw [BitVec.ofInt_add, BitVec.ofInt_toInt]
    rfl
  rw [hsum]
  refine BitVec.eq_of_toNat_eq ?_
  simp only [BitVec.toNat_setWidth, BitVec.toNat_ofInt]
  omega

theorem qset_sets (f : FIM) (s : State) (hr : (Instr.qset f).ready s = true) : ∃ t, exec (.qset f) s = .next t ∧
    t.core.w.q = s.core.w.q.setIfInBounds (f.imm.extractLsb' 0 4).toNat {
      set := true, dir := false, boff := f.imm.extractLsb' 4 3, slots := []
      base := BitVec.ofInt 58 ((s.g f.ga).toInt + (f.imm.extractLsb' 8 16).toInt) } ∧
    t.core.bank = s.core.bank ∧ t.core.pc = following s.core.heads s.core.pc := by
  refine ⟨_, checked_of_ready hr _, ?_, rfl, State.nextPc_eq s⟩
  rw [← setWidth_add_signExtend]
  rfl

/-- Where a stream register points once it has moved, in bits modulo 2^61 (R192). -/
theorem Stream.move_position (r : Stream) (n : Int) :
    (8 * (r.move n).base.toNat + (r.move n).boff.toNat : Int) = (8 * r.base.toNat + r.boff.toNat + n) % 2 ^ 61 := by
  simp only [Stream.move, BitVec.toNat_ofInt]
  omega

theorem Stream.move_others (r : Stream) (n : Int) : (r.move n).set = r.set ∧ (r.move n).slots = r.slots ∧
    (r.move n).dir = (if n < 0 then true else if n = 0 then r.dir else false) := by
  refine ⟨rfl, rfl, ?_⟩
  rcases lt_trichotomy n 0 with hn | rfl | hn
  · simp [Stream.move, hn]
  · simp [Stream.move]
  · simp [Stream.move, hn, hn.not_gt, hn.ne']

theorem exec_qadv_of_ready {f : FIM} {s : State} (hr : (Instr.qadv f).ready s = true) :
    exec (.qadv f) s =
      if (s.stream (f.imm.extractLsb' 0 4)).set then
        .next (s.setStream (f.imm.extractLsb' 0 4) ((s.stream (f.imm.extractLsb' 0 4)).move
          (if f.imm.getLsbD 4 then (s.g f.ga).toInt else 8 * (s.g f.ga).toInt))).advance
      else .next (s.raise 22 0) := by
  show execQadv f s = _
  rw [execQadv, checked_of_ready hr]
  cases h : (s.stream (f.imm.extractLsb' 0 4)).set <;> simp [h]

theorem qadv_moves (f : FIM) (s : State) (hr : (Instr.qadv f).ready s = true) :
    let k := (f.imm.extractLsb' 0 4).toNat
    let r := s.core.w.q.getD k Stream.reset
    let n := if f.imm.getLsbD 4 then (s.g f.ga).toInt else 8 * (s.g f.ga).toInt
    (r.set = false → exec (.qadv f) s = .next (s.raise 22 0)) ∧
    (r.set = true → ∃ t r', exec (.qadv f) s = .next t ∧ t.core.w.q = s.core.w.q.setIfInBounds k r' ∧
      r'.set = true ∧ r'.slots = r.slots ∧
      (8 * r'.base.toNat + r'.boff.toNat : Int) = (8 * r.base.toNat + r.boff.toNat + n) % 2 ^ 61 ∧
      r'.dir = (if n < 0 then true else if n = 0 then r.dir else false) ∧
      t.core.bank = s.core.bank ∧ t.core.pc = following s.core.heads s.core.pc) := by
  intro k r n
  have hstream : s.stream (f.imm.extractLsb' 0 4) = r := rfl
  rw [exec_qadv_of_ready hr, hstream]
  refine ⟨fun h => by rw [h]; rfl, fun h => ?_⟩
  obtain ⟨hset, hslots, hdir⟩ := r.move_others n
  rw [if_pos h]
  exact ⟨_, r.move n, rfl, rfl, hset.trans h, hslots, r.move_position n, hdir, rfl, State.nextPc_eq s⟩

/-! ## The walk ahead -/

/-- The bytes of the page at an address, 4096 where no translation says (R193). -/
def State.aheadSize (s : State) (holder c : Nat) (a : Word) : Nat :=
  match s.leafFor holder c a with
  | some l => leafBytes l.val l.level
  | none => 4096

/-- The page ahead is reached page by page, each as large as its translation says. -/
theorem pageAhead_eq {s : State} {holder c n : Nat} {down : Bool} {va : Nat → Word}
    (hstep : ∀ k, k < n → va (k + 1) = BitVec.ofInt 64
      (if down then (((va k).toNat / s.aheadSize holder c (va k) * s.aheadSize holder c (va k) : Nat) : Int) - 1
        else (((va k).toNat / s.aheadSize holder c (va k) * s.aheadSize holder c (va k) : Nat) : Int) +
          s.aheadSize holder c (va k))) :
    s.pageAhead holder c down n (va 0) = (s.leafFor holder c (va n)).map fun l =>
      (BitVec.ofNat 64 ((va n).toNat / leafBytes l.val l.level * leafBytes l.val l.level), l) := by
  induction n generalizing va with
  | zero => rfl
  | succ n ih =>
    have hsize : ((s.leafFor holder c (va 0)).map fun l => leafBytes l.val l.level).getD 4096 =
        s.aheadSize holder c (va 0) := by
      unfold State.aheadSize
      cases s.leafFor holder c (va 0) <;> rfl
    rw [State.pageAhead, hsize, ← hstep 0 (Nat.succ_pos n)]
    exact ih (va := fun k => va (k + 1)) fun k hk => hstep (k + 1) (Nat.succ_lt_succ hk)

/-- A page that a walk ahead has found is kept, unless a user may neither read nor write it, or it is kept already. -/
def State.keptAhead (s : State) (w : WKey) (y : Seq) (q : BitVec 4) (found : Option (Word × Leaf)) : State :=
  match found with
  | none => s
  | some (at_, l) =>
    let r := y.w.q.getD q.toNat Stream.reset
    let kept := (at_, leafBytes l.val l.level)
    if !pteBit l.val 4 || !(pteBit l.val 1 || pteBit l.val 2) || r.slots.contains kept then s
    else s.setSeq (.worker w) { y with w := { y.w with
      q := y.w.q.setIfInBounds q.toNat { r with slots := (kept :: r.slots).take 4 } } }

theorem exec_walkAhead_eq {s : State} {w : WKey} {y : Seq} {q : BitVec 4} {n : Nat} (hy : s.getSeq (.worker w) = some y)
    (hset : (y.w.q.getD q.toNat Stream.reset).set = true) (hvmt : y.w.vmt = 0) (hn : n < 4) :
    exec (.walkAhead w q n) s = .next (s.keptAhead w y q (s.pageAhead (s.dieOf (.worker w)) w.ctx
      (y.w.q.getD q.toNat Stream.reset).dir (n + 1) ((y.w.q.getD q.toNat Stream.reset).base.setWidth 64))) := by
  have hgo : ¬(!(y.w.q.getD q.toNat Stream.reset).set || y.w.vmt != 0 || decide (4 ≤ n)) = true := by
    simp [hset, hvmt, hn]
  show execWalkAhead w q n s = _
  rw [execWalkAhead, State.seqD_of_getSeq hy]
  dsimp only
  rw [if_neg hgo]
  unfold State.keptAhead
  cases s.pageAhead (s.dieOf (.worker w)) w.ctx (y.w.q.getD q.toNat Stream.reset).dir (n + 1)
      ((y.w.q.getD q.toNat Stream.reset).base.setWidth 64) with
  | none => rfl
  | some found =>
    dsimp only
    rw [State.modSeq, hy]
    exact (apply_ite Host.Outcome.next _ _ _).symm

theorem walkAhead_keeps (s : State) (w : WKey) (y : Seq) (q : BitVec 4) (n : Nat) (va : Nat → Word) :
    let r := y.w.q.getD q.toNat Stream.reset
    let leaf (a : Word) : Option Leaf := s.leafFor (s.dieOf (.worker w)) w.ctx a
    let size (a : Word) : Nat := match leaf a with
      | some l => leafBytes l.val l.level
      | none => 4096
    let page (a : Word) : Nat := a.toNat / size a * size a
    s.getSeq (.worker w) = some y → r.set = true → y.w.vmt = 0 → n < 4 → va 0 = r.base.setWidth 64 →
    (∀ k, k ≤ n → va (k + 1) =
      BitVec.ofInt 64 (if r.dir then (page (va k) : Int) - 1 else (page (va k) : Int) + size (va k))) →
    (leaf (va (n + 1)) = none → exec (.walkAhead w q n) s = .next s) ∧
    ∀ l, leaf (va (n + 1)) = some l →
      let kept := (BitVec.ofNat 64 (page (va (n + 1))), size (va (n + 1)))
      (pteBit l.val 4 = false ∨ pteBit l.val 1 = false ∧ pteBit l.val 2 = false →
        exec (.walkAhead w q n) s = .next s) ∧
      (pteBit l.val 4 = true → pteBit l.val 1 = true ∨ pteBit l.val 2 = true → kept ∉ r.slots →
        exec (.walkAhead w q n) s = .next (s.setSeq (.worker w) { y with w := { y.w with
          q := y.w.q.setIfInBounds q.toNat { r with slots := (kept :: r.slots).take 4 } } })) := by
  intro r leaf size page hy hset hvmt hn hva hstep
  have hahead := pageAhead_eq (s := s) (holder := s.dieOf (.worker w)) (c := w.ctx) (n := n + 1) (down := r.dir)
    (va := va) fun k hk => hstep k (Nat.lt_succ_iff.mp hk)
  rw [exec_walkAhead_eq hy hset hvmt hn, ← hva, hahead]
  refine ⟨fun hnone => ?_, fun l hl => ?_⟩
  · rw [show s.leafFor (s.dieOf (.worker w)) w.ctx (va (n + 1)) = none from hnone]
    rfl
  · intro kept
    have hleaf : s.leafFor (s.dieOf (.worker w)) w.ctx (va (n + 1)) = some l := hl
    have hsize : size (va (n + 1)) = leafBytes l.val l.level := by
      simp only [size, hl]
    have hkept : kept = (BitVec.ofNat 64 ((va (n + 1)).toNat / leafBytes l.val l.level * leafBytes l.val l.level),
        leafBytes l.val l.level) := by simp only [kept, page, hsize]
    rw [hleaf, hkept]
    refine ⟨fun h => ?_, fun h4 hrw hnew => ?_⟩
    · refine congrArg Host.Outcome.next (if_pos ?_)
      rcases h with h | ⟨h1, h2⟩
      · simp [h]
      · simp [h1, h2]
    · refine congrArg Host.Outcome.next (if_neg ?_)
      rcases hrw with h | h <;> simp [h4, h] <;> simpa using hnew

/-! ## VFENCE -/

theorem vfence_completes (f : FIM) (s u : State) (hr : (Instr.vfence f).ready s = true) (hidle : s.waitsVector = false)
    (hord : s.ordering s.cur = false) :
    let scope := (f.imm.extractLsb' 2 3).toNat
    (if f.imm.getLsbD 1 then s.release s.cur scope = (u, true) else s = u) →
    (f.imm.getLsbD 0 = false → exec (.vfence f) s = .next (onward s u)) ∧
    (f.imm.getLsbD 0 = true → u.loadsPending s.cur = false →
      exec (.vfence f) s = .next (onward s (acquired u s.cur scope))) := by
  intro scope hrel
  have hquiet : Quiet s u := by
    split at hrel
    · exact quiet_release hrel
    · exact hrel ▸ Quiet.refl s
  have hbegun : (if (fenceOrd f).getLsbD 1 then s.release s.cur (fenceScope f) else (s, true)) = (u, true) := by
    have hbit : (fenceOrd f).getLsbD 1 = f.imm.getLsbD 1 := by simp [fenceOrd]
    rw [hbit]
    split at hrel
    next h => exact (if_pos h).trans hrel
    next h => exact (if_neg h).trans (by rw [hrel])
  have hbit : (fenceOrd f).getLsbD 0 = f.imm.getLsbD 0 := by simp [fenceOrd]
  have hexec : exec (.vfence f) s =
      .next (if (s.fence (fenceOrd f) (fenceScope f)).2 then (s.fence (fenceOrd f) (fenceScope f)).1.advance
        else (s.fence (fenceOrd f) (fenceScope f)).1) := by
    show execVfence f s = _
    rw [execVfence, checked_of_ready hr, hidle, hord]
    rfl
  rw [hexec]
  unfold State.fence
  rw [hbegun, hbit]
  refine ⟨fun h => ?_, fun h hloads => ?_⟩
  · rw [h]
    exact congrArg Host.Outcome.next (advance_eq_onward hquiet.core)
  · rw [h]
    simp only [Bool.not_true, Bool.false_eq_true, if_false, if_true, hquiet.cur, hloads, State.acquire_eq]
    exact congrArg Host.Outcome.next (advance_eq_onward hquiet.core)

theorem lengthsAndStreams : Claims.LengthsAndStreams :=
  ⟨vsetl_gives, vdecl_clears, qset_sets, qadv_moves, walkAhead_keeps, vfence_completes⟩

/-! ## VWAIT's end -/

theorem mem_once {α : Type} [DecidableEq α] {x : α} (l : List α) : x ∈ once l ↔ x ∈ l := by
  have hgen : ∀ acc : List α, x ∈ l.foldl (fun acc x => if acc.contains x then acc else acc ++ [x]) acc ↔
      x ∈ acc ∨ x ∈ l := by
    induction l with
    | nil => simp
    | cons y l ih =>
      intro acc
      rw [List.foldl_cons, ih]
      by_cases hy : y ∈ acc
      · rw [if_pos (List.contains_iff_mem.mpr hy), List.mem_cons]
        constructor
        · exact Or.imp_right .inr
        · rintro (h | rfl | h)
          · exact .inl h
          · exact .inl hy
          · exact .inr h
      · rw [if_neg (mt List.contains_iff_mem.mp hy), List.mem_append, List.mem_singleton, List.mem_cons, or_assoc]
  exact (hgen []).trans (by simp)

/-- What VWAIT writes at its end: the words it has found (R241). -/
def waitEffect (s : State) (f : FVX) (i : Instr) : Effect :=
  { noEffect with
    vd := some ((hVec f.m.h).toNat, etWidth f.m.et.toNat, s.core.w.vwaitDone.map fun d => (d.1, d.2.1.toNat))
    upto := s.core.w.vl.toNat
    whole := f.m.mask == 0 && (s.entryNow i).fromStart }

theorem noEffect_bank (b : Bank) (vd : Option (Nat × Nat × List (Nat × Nat))) (upto : Nat) (whole : Bool) :
    b.takeEffect { noEffect with vd := vd, upto := upto, whole := whole } = b := by
  refine ((b.takeEffect_cases _).1 (.inl rfl)).trans ?_
  have hxf : b.xf ||| 0#8 = b.xf := BitVec.or_zero
  exact congrArg (fun v => { b with xf := v }) hxf

/-- The state once VWAIT's words are in their register. -/
def State.waited (s : State) (w : WKey) (f : FVX) (i : Instr) : State :=
  ((s.applyEffect (.worker w) (s.entryNow i).id noOperands (waitEffect s f i)).modVReg (.worker w) (hVec f.m.h).toNat
    fun r => r).modCore fun x => { x with w := { x.w with vwaitDone := [] } }

section
variable {s : State} {w : WKey} {f : FVX} {i : Instr}
  (hclean : ∀ d ∈ s.core.w.vwaitDone, d.2.2 = none)
  (hbacked : ∀ b ∈ s.core.w.blocksWritten (waitEffect s f i), (s.core.w.vreg b.1).granule.getLsbD b.2 = true)

include hclean hbacked in
/-- A VWAIT none of whose words held an error ends by writing its words, and by its acquire. -/
theorem vwaitEnd_eq (hcur : s.cur = .worker w) : s.vwaitEnd f w i =
    (if f.ord.getLsbD 0 then (s.waited w f i).acquire (.worker w) f.scope.toNat else s.waited w f i).clearStart.advance
    := by
  have hneed : s.needBlocks w (s.core.w.blocksWritten (waitEffect s f i)) = .ok s :=
    needBlocks_of_backed (x := s.core.w) (by rw [← hcur, State.seqD_cur]) hbacked
  have hmarked : (s.core.w.vwaitDone.findSome? fun d => d.2.2.map fun m => (d.1, m)) = none :=
    List.findSome?_eq_none_iff.mpr fun d hd => by rw [hclean d hd]; rfl
  unfold State.vwaitEnd
  extract_lets q width e got marked vd base ef
  rw [show s.needBlocks w (s.core.w.blocksWritten ef) = .ok s from hneed]
  simp only [show marked = none from hmarked]
  rfl

end

/-- Writing a register back as it is changes no register. -/
theorem Worker.vreg_setVReg_self (x : Worker) (k j : Nat) : (x.setVReg k (x.vreg k)).vreg j = x.vreg j := by
  rw [Worker.vreg, Worker.setVReg, getD_setIfInBounds]
  split
  next h => rw [h.1]
  next => rfl

theorem waited_spec {s : State} {w : WKey} (hcur : s.cur = .worker w) (f : FVX) (i : Instr) :
    let t := s.waited w f i
    t.cur = s.cur ∧ t.mem = s.mem ∧ t.core.run = s.core.run ∧ t.core.pc = s.core.pc ∧ t.core.heads = s.core.heads ∧
      t.core.bank = s.core.bank ∧ t.core.w.place = s.core.w.place ∧
      ∀ k, t.core.w.vreg k = (s.core.w.takeElems (s.entryNow i).id noOperands (waitEffect s f i)).vreg k := by
  intro t
  have hstart : OnlySeq s s (.worker w) s.core := ⟨by rw [← hcur, State.getSeq_cur], rfl, rfl, rfl⟩
  have hdone := ((hstart.applyEffect (s.entryNow i).id noOperands (waitEffect s f i)).modSeq fun x =>
    { x with w := x.w.setVReg (hVec f.m.h).toNat (x.w.vreg (hVec f.m.h).toNat) }).modSeq fun x =>
    { x with w := { x.w with vwaitDone := [] } }
  have ht : t = ((s.applyEffect (.worker w) (s.entryNow i).id noOperands (waitEffect s f i)).modVReg (.worker w)
      (hVec f.m.h).toNat fun r => r).modSeq (.worker w) fun x => { x with w := { x.w with vwaitDone := [] } } := by
    refine (State.modSeq_of_cur ?_ _).symm
    rw [State.modVReg, State.modSeq_cur, (hstart.applyEffect _ _ _).cur, hcur]
  have htcur : t.cur = .worker w := ht ▸ hdone.cur.trans hcur
  have hcore := (congrArg (fun u : State => u.seqD (.worker w)) ht).trans hdone.seqD
  rw [← htcur, State.seqD_cur] at hcore
  refine ⟨ht ▸ hdone.cur, ht ▸ hdone.mem, ?_, ?_, ?_, ?_, ?_, fun k => ?_⟩ <;> rw [hcore]
  · rfl
  · rfl
  · rfl
  · exact noEffect_bank ..
  · rfl
  · exact (Worker.vreg_setVReg_self _ _ k).trans (Worker.vreg_takeBits _ _ k)

theorem acquireIf_core (s : State) (q : SeqId) (b : Bool) (scope : Nat) :
    (if b then s.acquire q scope else s).core = s.core := by
  cases b
  · rfl
  · exact (quiet_acquire s q scope).core

/-- What the end of a VWAIT leaves. -/
theorem vwaitEnd_spec {s : State} {w : WKey} {f : FVX} {i : Instr} (hcur : s.cur = .worker w)
    (hclean : ∀ d ∈ s.core.w.vwaitDone, d.2.2 = none)
    (hbacked : ∀ b ∈ s.core.w.blocksWritten (waitEffect s f i), (s.core.w.vreg b.1).granule.getLsbD b.2 = true) :
    let t := s.vwaitEnd f w i
    t.core.run = s.core.run ∧ t.core.pc = following s.core.heads s.core.pc ∧ t.core.w.vstart = 0 ∧
      t.core.bank = s.core.bank ∧
      t.mem = (if f.ord.getLsbD 0 then acquired s (.worker w) f.scope.toNat else s).mem ∧
      ∀ k, t.core.w.vreg k = (s.core.w.takeElems (s.entryNow i).id noOperands (waitEffect s f i)).vreg k := by
  intro t
  have ht : t = _ := vwaitEnd_eq hclean hbacked hcur
  obtain ⟨hwcur, hmem, hrun, hpc, hheads, hbank, hplace, hvreg⟩ := waited_spec hcur f i
  have hcore := acquireIf_core (s.waited w f i) (.worker w) (f.ord.getLsbD 0) f.scope.toNat
  rw [ht]
  refine ⟨(congrArg Seq.run hcore).trans hrun, ?_, rfl, (congrArg Seq.bank hcore).trans hbank, ?_, fun k => ?_⟩
  · have hnext := congrArg (fun y : Seq => following y.heads y.pc) hcore
    refine (State.nextPc_eq _).trans ?_
    rw [← hheads, ← hpc]
    exact hnext
  · show (if f.ord.getLsbD 0 then (s.waited w f i).acquire (.worker w) f.scope.toNat else s.waited w f i).mem = _
    cases f.ord.getLsbD 0
    · exact hmem
    · rw [if_pos rfl, if_pos rfl, State.acquire_eq]
      refine acquired_mem_congr hmem ?_ _
      rw [← hcur, State.seqD_cur, ← hwcur, State.seqD_cur]
      exact hplace
  · exact (congrArg (fun y : Seq => y.w.vreg k) hcore).trans (hvreg k)

/-- A VWAIT that begins to read its words anew. -/
def State.forgetsWords (s : State) : State := s.modCore fun x => { x with w := { x.w with vwaitDone := [] } }

/-- A VWAIT that has found a word that meets its comparison. -/
def State.findsWord (s : State) (k a : Nat) : State :=
  s.modCore fun x => { x with w := { x.w with vwaitDone := x.w.vwaitDone ++ [(k, BitVec.ofNat 64 a, none)] } }

/-- What reading one word without an error leaves. -/
theorem vwaitRead_eq {s v : State} {c : Cond} {f : FVX} {k pa a : Nat}
    (hread : s.readHome pa (etWidth f.m.et.toNat / 8) = (v, a, none)) :
    s.vwaitRead c f (k, pa) =
      if Cond.holds c (etWidth f.m.et.toNat) (BitVec.ofNat (etWidth f.m.et.toNat) a)
          ((s.core.w.vreg f.vb.toNat).bits.extractLsb' (etWidth f.m.et.toNat * k) (etWidth f.m.et.toNat)) then
        v.findsWord k a
      else v := by
  have hquiet : Quiet s v := by
    have h := quiet_readHome s pa (etWidth f.m.et.toNat / 8)
    rwa [hread] at h
  rw [State.vwaitRead, hread]
  simp only [VReg.elem, BitVec.ofNat_toNat, BitVec.setWidth_eq, hquiet.core, Option.map_none, Option.isSome_none,
    Bool.false_or]
  rfl

theorem etWidth_le (t : Nat) : etWidth t ≤ 64 := by
  unfold etWidth
  split <;> decide

theorem quiet_of_readHome {s t : State} {pa n a : Nat} {p : Option Bool} (h : s.readHome pa n = (t, a, p)) :
    Quiet s t := by
  have hq := quiet_readHome s pa n
  rwa [h] at hq

theorem findsWord_core {u v : State} (h : v.core = u.forgetsWords.core) (k a : Nat) : (v.findsWord k a).core =
    { u.core with w := { u.core.w with vwaitDone := [(k, BitVec.ofNat 64 a, none)] } } := by
  show { v.core with w := { v.core.w with vwaitDone := v.core.w.vwaitDone ++ [(k, BitVec.ofNat 64 a, none)] } } = _
  rw [h]
  rfl

/-- The one word that a VWAIT has found is written whole. -/
theorem waitEffect_vd {s : State} {f : FVX} {i : Instr} {k : Nat} {v : Word}
    (hdone : s.core.w.vwaitDone = [(k, v, none)]) :
    (waitEffect s f i).vd = some ((hVec f.m.h).toNat, etWidth f.m.et.toNat, [(k, v.toNat)]) := by
  rw [waitEffect, hdone]
  rfl

theorem vwaitBody_done {c : Cond} {f : FVX} {w : WKey} {places : List (Nat × Nat)} {s t : State}
    (h : (s.vwaitLeft places).foldl (fun acc p => acc.vwaitRead c f p) s = t) (hleft : t.vwaitLeft places = []) :
    vwaitBody c f w places s = .next (t.vwaitEnd f w (.vwait c f)) := by
  subst h
  exact if_pos (List.isEmpty_iff.mpr hleft)

theorem vwaitBody_parks {c : Cond} {f : FVX} {w : WKey} {places : List (Nat × Nat)} {s t : State}
    (h : (s.vwaitLeft places).foldl (fun acc p => acc.vwaitRead c f p) s = t) (hleft : t.vwaitLeft places ≠ []) :
    vwaitBody c f w places s = .next (t.park (.vwait c f places)) := by
  subst h
  exact if_neg (mt List.isEmpty_iff.mp hleft)

/-- The blocks that the end of a VWAIT of one word writes. -/
theorem mem_blocksWritten_of_wait {u v : State} {f : FVX} {i : Instr} {k a : Nat} {b : Nat × Nat}
    (hcore : v.core = u.forgetsWords.core)
    (h : b ∈ (v.findsWord k a).core.w.blocksWritten (waitEffect (v.findsWord k a) f i)) :
    b ∈ (regPart k (hVec f.m.h).toNat (etWidth f.m.et.toNat * k) (etWidth f.m.et.toNat)).blocks ++
      u.core.w.growth (hVec f.m.h).toNat (bytesFor (etWidth f.m.et.toNat) u.core.w.vl.toNat) := by
  have hfound := findsWord_core hcore k a
  have hupto : (waitEffect (v.findsWord k a) f i).upto = u.core.w.vl.toNat := by rw [waitEffect, hfound]
  rw [Worker.blocksWritten, waitEffect_vd (by rw [hfound])] at h
  dsimp only at h
  rw [if_neg (by simp), hupto, hfound, List.flatMap_cons, List.flatMap_nil, List.append_nil] at h
  exact (List.mem_append.mp h).elim (fun h => List.mem_append_left _ ((mem_once _).mp h)) fun h =>
    List.mem_append_right _ h

theorem bits_takeElems (x : Worker) (by_ : Nat) (o : Operands) {ef : Effect} {k w : Nat} {l : List (Nat × Nat)}
    (hvd : ef.vd = some (k, w, l)) (hk : k < 64) :
    ((x.takeElems by_ o ef).vreg k).bits = putElems (x.vreg k).bits w l := by
  rw [x.vreg_takeElems_same by_ o hvd hk, (VReg.write_bits ..).1]
  split
  · rfl
  · rw [(VReg.remark_bits ..).1]

theorem waitsFor_vwaitBody {u : State} {w : WKey} (hcur : u.cur = .worker w) (c : Cond) (f : FVX) (k pa : Nat) :
    WaitsFor c f u w k pa (following u.core.heads u.core.pc) (vwaitBody c f w [(k, pa)] u.forgetsWords) := by
  intro v a hread
  have hq : Quiet u.forgetsWords v := quiet_of_readHome hread
  have hcore : v.core = u.forgetsWords.core := hq.core
  have hstep : u.forgetsWords.vwaitRead c f (k, pa) = _ := vwaitRead_eq hread
  refine ⟨fun hholds hin hbacked => ?_, fun hholds => ?_⟩
  · have hfound := findsWord_core hcore k a
    have hdone : (v.findsWord k a).core.w.vwaitDone = [(k, BitVec.ofNat 64 a, none)] := by rw [hfound]
    have hvd := waitEffect_vd (f := f) (i := .vwait c f) hdone
    have hvcur : v.cur = .worker w := hq.cur.trans hcur
    obtain ⟨hrun, hpc, hvs, -, hmem, hvreg⟩ := vwaitEnd_spec (f := f) (i := .vwait c f)
      (show (v.findsWord k a).cur = .worker w from hvcur) (by rw [hdone]; simp) fun b hb => by
        rw [hfound]
        exact hbacked b (mem_blocksWritten_of_wait hcore hb)
    have hbits := (congrArg VReg.bits (hvreg (hVec f.m.h).toNat)).trans (bits_takeElems _ _ _ hvd (hVec f.m.h).isLt)
    rw [hfound] at hrun hpc hbits
    refine ⟨_, vwaitBody_done (hstep.trans (if_pos hholds)) (by simp [State.vwaitLeft, hdone]), hrun, hpc, hvs, ?_,
      fun j hj _ => ?_, hmem.trans ?_⟩
    · rw [hbits]
      have hfits : Claims.Fits (etWidth f.m.et.toNat) [(k, (BitVec.ofNat 64 a).toNat)] :=
        ⟨by simp, by simpa using hin⟩
      refine (putElems_of_mem _ hfits (List.mem_singleton_self _)).trans ?_
      rw [BitVec.ofNat_toNat]
      exact BitVec.setWidth_ofNat_of_le (etWidth_le _) a
    · rw [hbits]
      exact putElems_of_not_mem _ (by simpa using hj.symm)
    · cases f.ord.getLsbD 0
      · rfl
      · rw [if_pos rfl, if_pos rfl]
        refine acquired_mem_congr (s := v) (t := v.findsWord k a) rfl ?_ _
        rw [← hvcur, State.seqD_cur, show v.cur = (v.findsWord k a).cur from rfl, State.seqD_cur]
        rfl
  · exact ⟨_, vwaitBody_parks (hstep.trans (if_neg (by rw [Bool.not_eq_true]; exact hholds)))
      (by simp [State.vwaitLeft, hcore, State.forgetsWords]), rfl, (congrArg Seq.pc hcore :)⟩

/-! ## VWAIT at issue -/

theorem quiet_of_checkIndexed {s u : State} {w : WKey} {e e' : VEntry} {f : FVM} {reg : Nat} {want : Want} {b : Bool}
    {l : List Piece} (h : s.checkIndexed w e f reg want b = some (u, e', l)) : Quiet s u := by
  unfold State.checkIndexed at h
  extract_lets x all at h
  split at h
  next leaves fault heq =>
    split at h
    · cases h
    · cases h
      exact quiet_markAll ..

/-- With no element there is nothing to check. -/
theorem checkIndexed_of_no_elements {s : State} {w : WKey} {e : VEntry} {f : FVM} {reg : Nat} {want : Want} {b : Bool}
    (h : e.active (s.seqD (.worker w)).w f.mask = []) :
    s.checkIndexed w e f reg want b = some (s, { e with pages := [], fault := none }, []) := by
  simp only [State.checkIndexed, h, List.map_nil]
  rfl

/-- The entry that VWAIT checks its elements with, which enters no queue. -/
def waitEntry (s : State) (c : Cond) (f : FVX) : VEntry := s.memEntry (.vwait c f) 0 f.m.q

/-- What VWAIT reads of the v registers: its indices and the words it compares with. -/
def waitReads (s : State) (c : Cond) (f : FVX) (x : Worker) : List Part :=
  (actives (waitEntry s c f) x f.m.mask).flatMap fun i =>
    elemParts 64 [f.m.idx.toNat] i ++ elemParts (etWidth f.m.et.toNat) [f.vb.toNat] i

theorem exceeds_wait_iff (s : State) (f : FVX) : s.exceeds [f.m.et.toNat, 3] = true ↔
    vlmaxFor s.core.w.vncode f.m.et.toNat < s.core.w.vl.toNat ∨ vlmaxFor s.core.w.vncode 3 < s.core.w.vl.toNat := by
  rw [exceeds_iff]
  simp

theorem openReads_of_backed {s : State} {w : WKey} {x : Worker} {reads : Worker → List Part}
    (hx : (s.seqD (.worker w)).w = x) (h : ∀ b ∈ x.readBlocks (reads x), (x.vreg b.1).granule.getLsbD b.2 = true) :
    s.openReads w (fun _ => []) reads = .ok s := by
  have hindex : s.needBlocks w (x.readBlocks []) = .ok s := rfl
  simp only [State.openReads, hx, hindex, needBlocks_of_backed hx h]

section
variable {c : Cond} {f : FVX} {s : State} {w : WKey} (hr : (Instr.vwait c f).ready s = true)
include hr

theorem exec_vwait_of_unset (hset : (s.stream f.m.q).set = false) :
    exec (.vwait c f) s = .next (s.raiseFrom 1 22 0) := by
  show execVwait c f s = _
  rw [execVwait, checked_of_ready hr, hset]
  rfl

theorem exec_vwait_of_exceeds (hset : (s.stream f.m.q).set = true) (hvl : s.exceeds [f.m.et.toNat, 3] = true) :
    exec (.vwait c f) s = .next (s.raiseFrom 1 8 0) := by
  show execVwait c f s = _
  rw [execVwait, checked_of_ready hr, hset, hvl]
  rfl

/-- A VWAIT whose elements pass their checks reads their words. -/
theorem exec_vwait_of_checked (hcur : s.cur = .worker w) (hset : (s.stream f.m.q).set = true)
    (hvl : s.exceeds [f.m.et.toNat, 3] = false) (hidle : s.waitsVector = false) (hord : s.ordering s.cur = false)
    (hbacked : ∀ b ∈ s.core.w.readBlocks (waitReads s c f s.core.w), (s.core.w.vreg b.1).granule.getLsbD b.2 = true)
    {u : State} {e : VEntry} {l : List Piece}
    (hcheck : s.checkIndexed w (waitEntry s c f) f.m 0 wantWaitm false = some (u, e, l)) (hfault : e.fault = none)
    (hpend : ∀ p ∈ l, u.linePending s.cur (lineOf (e.place p.va).1) = false) :
    exec (.vwait c f) s = vwaitBody c f w (l.map fun p => (p.elem, (e.place p.va).1)) u.forgetsWords := by
  have hopen : s.openReads w (fun _ => []) (waitReads s c f) = .ok s :=
    openReads_of_backed (by rw [← hcur, State.seqD_cur]) hbacked
  have hnone : ((l.map fun p => (p.elem, (e.place p.va).1)).any fun p => u.linePending u.cur (lineOf p.2)) = false := by
    rw [(quiet_of_checkIndexed hcheck).cur]
    simpa using hpend
  have hreads : (fun x : Worker => ((s.entryNow (.vwait c f)).active x f.m.mask).flatMap fun i =>
      elemParts 64 [f.m.idx.toNat] i ++ elemParts (etWidth f.m.et.toNat) [f.vb.toNat] i) = waitReads s c f := by
    funext x
    rw [VEntry.active_eq_actives]
    rfl
  show execVwait c f s = _
  rw [execVwait, checked_of_ready hr, hset, hvl, hidle, hord]
  simp only [Bool.not_true, Bool.false_eq_true, if_false, Bool.or_self]
  split
  next w' hw' =>
    obtain rfl : w' = w := SeqId.worker.inj (hw'.symm.trans hcur)
    simp only [hreads, hopen]
    rw [show s.checkIndexed w' (s.memEntry (.vwait c f) 0 f.m.q) f.m 0 wantWaitm false = some (u, e, l) from hcheck]
    simp only [hfault, hnone, Bool.false_eq_true, if_false]
    rfl
  next hno => exact absurd hcur (hno w)

end

/-- A VWAIT with no element ends at once: it writes nothing, and acquires. -/
theorem vwaitBody_of_no_elements {s : State} {w : WKey} (hcur : s.cur = .worker w) (c : Cond) (f : FVX) :
    ∃ t, vwaitBody c f w [] s.forgetsWords = .next t ∧ t.core.bank = s.core.bank ∧ t.core.run = s.core.run ∧
      t.core.pc = following s.core.heads s.core.pc ∧ t.core.w.vstart = 0 ∧
      t.mem = (if f.ord.getLsbD 0 then acquired s (.worker w) f.scope.toNat else s).mem := by
  have hnone : s.forgetsWords.core.w.blocksWritten (waitEffect s.forgetsWords f (.vwait c f)) = [] := rfl
  obtain ⟨hrun, hpc, hvs, hbank, hmem, -⟩ := vwaitEnd_spec (s := s.forgetsWords) (f := f) (i := .vwait c f) hcur
    (fun d hd => absurd hd List.not_mem_nil) (by rw [hnone]; exact fun b hb => absurd hb List.not_mem_nil)
  refine ⟨_, vwaitBody_done rfl rfl, hbank, hrun, hpc, hvs, hmem.trans ?_⟩
  cases f.ord.getLsbD 0
  · rfl
  · rw [if_pos rfl, if_pos rfl]
    refine acquired_mem_congr (s := s) (t := s.forgetsWords) rfl ?_ _
    rw [← hcur, State.seqD_cur, show s.cur = s.forgetsWords.cur from rfl, State.seqD_cur]
    rfl

theorem exec_vwaitWake_of_parked {s : State} {w : WKey} {y : Seq} {c : Cond} {f : FVX} {places : List (Nat × Nat)}
    (hy : s.getSeq (.worker w) = some y) (hrun : y.run = .parked (.vwait c f places)) :
    exec (.vwaitWake w) s = vwaitBody c f w places (s.wake (.worker w)) := by
  show execVwaitWake w s = _
  rw [execVwaitWake, State.seqD_of_getSeq hy, hrun]

theorem forgetsWords_of_nil {s : State} (h : s.core.w.vwaitDone = []) : s.forgetsWords = s := by
  have hcore : { s.core with w := { s.core.w with vwaitDone := [] } } = s.core := by rw [← h]
  exact congrArg (fun y => { s with core := y }) hcore

theorem vectorWaits : Claims.VectorWaits := by
  refine ⟨fun c f s w hr hcur => ?_, fun c f s w y k pa hy hrun hdone => ?_⟩
  · intro x beyond e
    have hseq : (s.seqD (.worker w)).w = s.core.w := by rw [← hcur, State.seqD_cur]
    refine ⟨exec_vwait_of_unset hr, fun hset hb => exec_vwait_of_exceeds hr hset ((exceeds_wait_iff s f).mpr hb),
      fun hset hb hidle hord hbacked => ?_⟩
    have hvl : s.exceeds [f.m.et.toNat, 3] = false := by
      rw [← Bool.not_eq_true, exceeds_wait_iff]
      exact hb
    refine ⟨fun hnone => ?_, fun u e' p hcheck hfault hpend => ?_⟩
    · have hact : (waitEntry s c f).active (s.seqD (.worker w)).w f.m.mask = [] := by
        rw [hseq, VEntry.active_eq_actives]
        exact hnone
      rw [exec_vwait_of_checked hr hcur hset hvl hidle hord hbacked (checkIndexed_of_no_elements hact) rfl
        fun p hp => absurd hp List.not_mem_nil]
      exact vwaitBody_of_no_elements hcur c f
    · have hq : Quiet s u := quiet_of_checkIndexed hcheck
      rw [exec_vwait_of_checked hr hcur hset hvl hidle hord hbacked hcheck hfault (by simpa using hpend), ← hq.core]
      exact waitsFor_vwaitBody (hq.cur.trans hcur) c f _ _
  · have hcore := State.wake_core hy
    rw [exec_vwaitWake_of_parked hy hrun, ← forgetsWords_of_nil (s := s.wake (.worker w)) (by rw [hcore]; exact hdone)]
    have hwait := waitsFor_vwaitBody (u := s.wake (.worker w)) (State.wake_cur ..) c f k pa
    rw [hcore] at hwait
    rw [forgetsWords_of_nil (s := s.wake (.worker w)) (by rw [hcore]; exact hdone)] at hwait ⊢
    exact hwait

/-- Settles O43: the lengths and stream registers by their equations, a walk ahead page by page, and VWAIT by what
reading its one word leaves. -/
theorem lengthsStreamsAndVectorWaits : Obligations.LengthsStreamsAndVectorWaits := by
  unfold Obligations.LengthsStreamsAndVectorWaits
  exact ⟨lengthsAndStreams, vectorWaits⟩

end Sys2Proof.Machine
end

section
/-! SUPPORT. Scalar accesses at issue: where LD, ST, AMO, CAS and RED send what they do (R118, R162 to R166). -/

namespace Sys2Proof.Machine

open Sys2Proof.Claims (Opens toHome toHomeAfter withMsg emptied onward effective bytesOf InLine NothingStaged ownRelease
  wordBytes following goesTo Raises)

/-! ## Bytes placed in a line -/

theorem getLsbD_bitMask (lo n i : Nat) (hn : n ≤ 512) :
    (bitMask lo n).getLsbD i = decide (lo ≤ i ∧ i < lo + n ∧ i < 512) := by
  simp only [bitMask, BitVec.getLsbD_shiftLeft, BitVec.getLsbD_ushiftRight, BitVec.getLsbD_allOnes]
  rw [Bool.eq_iff_iff]
  simp only [Bool.and_eq_true, Bool.not_eq_true', decide_eq_true_eq, decide_eq_false_iff_not]
  omega

theorem getLsbD_placeAt_value (off n v i : Nat) :
    (placeAt off n v).1.getLsbD i =
      (decide (8 * off ≤ i ∧ i < 8 * off + 8 * n ∧ i < 512) && v.testBit (i - 8 * off)) := by
  simp only [placeAt, BitVec.getLsbD_shiftLeft, BitVec.getLsbD_ofNat, Nat.testBit_mod_two_pow]
  rw [Bool.eq_iff_iff]
  simp only [Bool.and_eq_true, Bool.not_eq_true', decide_eq_true_eq, decide_eq_false_iff_not]
  constructor
  · rintro ⟨⟨hi, hlo⟩, -, hn, hbit⟩
    exact ⟨⟨by omega, by omega, hi⟩, hbit⟩
  · rintro ⟨⟨hlo, hn, hi⟩, hbit⟩
    exact ⟨⟨hi, by omega⟩, by omega, by omega, hbit⟩

/-- A value placed in a line has its bytes there, and no others. -/
theorem inLine_placeAt (pa n : Nat) (hn : n ≤ 64) (v : Word) :
    InLine pa n v (placeAt (pa % 64) n v.toNat).1 (placeAt (pa % 64) n v.toNat).2 := by
  intro k hk
  have hmask : ∀ i, i < 8 → ((placeAt (pa % 64) n v.toNat).2.extractLsb' (8 * k) 8).getLsbD i =
      decide (pa % 64 ≤ k ∧ k < pa % 64 + n) := fun i hi => by
    rw [BitVec.getLsbD_extractLsb', placeAt, getLsbD_bitMask _ _ _ (by omega), Bool.eq_iff_iff]
    simp only [Bool.and_eq_true, decide_eq_true_eq]
    omega
  have hdata : ∀ i, i < 8 → ((placeAt (pa % 64) n v.toNat).1.extractLsb' (8 * k) 8).getLsbD i =
      (decide (pa % 64 ≤ k ∧ k < pa % 64 + n) && v.toNat.testBit (8 * (k - pa % 64) + i)) := fun i hi => by
    rw [BitVec.getLsbD_extractLsb', getLsbD_placeAt_value]
    by_cases hin : pa % 64 ≤ k ∧ k < pa % 64 + n
    · have hsub : 8 * k + i - 8 * (pa % 64) = 8 * (k - pa % 64) + i := by omega
      have hbits : 8 * (pa % 64) ≤ 8 * k + i ∧ 8 * k + i < 8 * (pa % 64) + 8 * n ∧ 8 * k + i < 512 := by omega
      simp [hi, hin, hsub, hbits]
    · have hbits : ¬(8 * (pa % 64) ≤ 8 * k + i ∧ 8 * k + i < 8 * (pa % 64) + 8 * n ∧ 8 * k + i < 512) := by omega
      simp [hin, hbits]
  refine ⟨fun hin => ⟨?_, ?_⟩, fun hout => ⟨?_, ?_⟩⟩ <;> refine BitVec.eq_of_getLsbD_eq fun i hi => ?_
  · rw [hmask i hi, decide_eq_true hin]
    interval_cases i <;> rfl
  · rw [hdata i hi, decide_eq_true hin, BitVec.getLsbD_ofNat, Nat.testBit_div_two_pow, Nat.add_comm i]
    simp [hi]
  · rw [hmask i hi, decide_eq_false hout]
    simp
  · rw [hdata i hi, decide_eq_false hout]
    simp

/-! ## What goes on its way -/

theorem emptyG_eq_emptied (s : State) (r : BitVec 5) : s.emptyG r = emptied s r :=
  congrArg (fun b => { s with core := { s.core with bank := b } }) (markEmpty_eq_emptied s r)

theorem sendOrdered_eq (u : State) (rel : Option (Nat × Nat)) (pa : Nat) (va : Word) (n : Nat) (body : Body) :
    u.sendOrdered rel u.cur pa va n body = withMsg u (toHomeAfter u rel va pa n body) := by
  rw [State.sendOrdered, State.ctxOf, State.seqD_cur]
  rfl

/-- A state whose current sequencer stands where it stood goes on from there. -/
theorem advance_eq_onward_of {s t : State} (hheads : t.core.heads = s.core.heads) (hpc : t.core.pc = s.core.pc) :
    t.advance = onward s t := by
  rw [State.advance_eq_goesTo, hheads, hpc, onward]

theorem sent_advances {s u : State} (hq : Quiet s u) (m : Msg) : (withMsg u m).advance = onward s (withMsg u m) :=
  have hcore : (withMsg u m).core = s.core := hq.core
  advance_eq_onward_of (congrArg Seq.heads hcore) (congrArg Seq.pc hcore)

theorem sent_empty_advances {s u : State} (hq : Quiet s u) (m : Msg) (r : BitVec 5) :
    ((withMsg u m).emptyG r).advance = onward s (emptied (withMsg u m) r) := by
  have hcore : (withMsg u m).core = s.core := hq.core
  have hheads : (emptied (withMsg u m) r).core.heads = (withMsg u m).core.heads := rfl
  have hpc : (emptied (withMsg u m) r).core.pc = (withMsg u m).core.pc := rfl
  rw [emptyG_eq_emptied]
  exact advance_eq_onward_of (by rw [hheads, hcore]) (by rw [hpc, hcore])

/-- A store, an atomic or a reduction that is ready owes no release (R169). -/
theorem relDue_of_ready {i : Instr} {s : State} (hr : i.ready s = true) (hi : i.storesLater = true) :
    s.core.relDue = none := by
  simp only [Instr.ready, Bool.and_eq_true, Bool.not_eq_true', hi, Bool.true_and] at hr
  exact Option.not_isSome_iff_eq_none.mp (by simp [hr.2])

theorem relOf_none {u : State} (h : u.core.relDue = none) : u.relOf u.cur none = none := by
  rw [State.relOf, State.seqD_cur, h]

/-! ## The checks of an access -/

theorem openAccess_of_misaligned {s : State} {want : Want} {va : Word} {n : Nat} (h : va.toNat % n ≠ 0) :
    s.openAccess want va n = .error (.next (s.raise 9 va)) := if_pos h

theorem openAccess_of_opens {s u : State} {want : Want} {va : Word} {n pa : Nat} {kind : PageKind}
    (h : Opens s want va n pa kind u) : s.openAccess want va n = .ok (u, pa, kind) ∧ Quiet s u := by
  obtain ⟨halign, l, k, rest, hcheck, hdevice, hpieces, hord, hqueue, rfl⟩ := h
  refine ⟨?_, quiet_markAll ..⟩
  rw [State.openAccess, if_neg (not_not.mpr halign), hcheck]
  simp only [hdevice, hpieces, hord, hqueue, Bool.or_self, Bool.false_eq_true, if_false]

theorem effective_eq (s : State) (f : FIM) : s.g f.ga + accessOff f = effective s f := by
  rw [effective, BitVec.ofInt_add, BitVec.ofInt_toInt]
  rfl

/-- What a scalar access does with the physical address and the page kind it finds. -/
def afterOpen (s : State) (want : Want) (va : Word) (n : Nat) (k : State → Nat → PageKind → Out) : Out :=
  match s.openAccess want va n with
  | .error o => o
  | .ok (u, pa, kind) => k u pa kind

theorem afterOpen_of_misaligned {s : State} {want : Want} {va : Word} {n : Nat} {k : State → Nat → PageKind → Out}
    (h : va.toNat % n ≠ 0) : afterOpen s want va n k = .next (s.raise 9 va) := by
  simp only [afterOpen, openAccess_of_misaligned h]

theorem afterOpen_of_opens {s u : State} {want : Want} {va : Word} {n pa : Nat} {kind : PageKind}
    {k : State → Nat → PageKind → Out} (h : Opens s want va n pa kind u) : afterOpen s want va n k = k u pa kind := by
  simp only [afterOpen, (openAccess_of_opens h).1]

/-! ## LD and ST -/

/-- What LD does once its address is checked. -/
def sendLoad (f : FIM) (va : Word) (u : State) (pa : Nat) (kind : PageKind) : Out :=
  .next ((u.sendAccess u.cur pa va (bytesOf f)
    (.access .load kind (.g (hReg f.h) (bytesOf f) (f.imm.getLsbD 1)) none)).emptyG (hReg f.h)).advance

theorem exec_ld {f : FIM} {s : State} (hr : (Instr.ld f).ready s = true) :
    exec (.ld f) s = afterOpen s wantLoad (effective s f) (bytesOf f) (sendLoad f (effective s f)) := by
  rw [← effective_eq]
  exact checked_of_ready hr _

theorem loadIsSent : Claims.LoadIsSent := by
  intro f s hr va
  refine ⟨fun h => ?_, fun pa kind u hopen => ?_⟩
  · rw [Raises, exec_ld hr, afterOpen_of_misaligned h]
  · rw [exec_ld hr, afterOpen_of_opens hopen, sendLoad, State.sendAccess, sendOrdered_eq,
      sent_empty_advances (openAccess_of_opens hopen).2]
    rfl

/-- What ST does once its address is checked. -/
def sendStored (f : FIM) (s : State) (va : Word) (u : State) (pa : Nat) (kind : PageKind) : Out :=
  match u.sendStore pa kind va (bytesOf f) (placeAt (pa % 64) (bytesOf f) (s.g (hReg f.h)).toNat).1
      (placeAt (pa % 64) (bytesOf f) (s.g (hReg f.h)).toNat).2 with
  | some t => .next t.advance
  | none => .next s

theorem exec_st {f : FIM} {s : State} (hr : (Instr.st f).ready s = true) :
    exec (.st f) s = afterOpen s wantStore (effective s f) (bytesOf f) (sendStored f s (effective s f)) := by
  rw [← effective_eq]
  exact checked_of_ready hr _

theorem sendStored_of_some {f : FIM} {s u t : State} {va : Word} {pa : Nat} {kind : PageKind}
    (h : u.sendStore pa kind va (bytesOf f) (placeAt (pa % 64) (bytesOf f) (s.g (hReg f.h)).toNat).1
      (placeAt (pa % 64) (bytesOf f) (s.g (hReg f.h)).toNat).2 = some t) :
    sendStored f s va u pa kind = .next t.advance := by
  simp only [sendStored, h]

section
variable {u : State} {pa n : Nat} {kind : PageKind} {va : Word} {d m : LineBits} (hdue : u.core.relDue = none)
include hdue

theorem sendStore_of_worker (hkind : kind = .shared ∨ kind = .inplace) (hw : kindOf u.cur = .vc) :
    u.sendStore pa kind va n d m = some (withMsg u (toHome u va pa n (.staged (.store d m) 0))) := by
  cases hcur : u.cur with
  | worker w =>
    have hsent := sendOrdered_eq u (u.relOf u.cur none) pa va n (.staged (.store d m) 0)
    have hrel := relOf_none hdue
    rw [hrel, hcur] at hsent
    rw [hcur] at hrel
    rcases hkind with rfl | rfl <;> simp only [State.sendStore, hcur, hrel, toHome, hsent]
  | cc _ | mx _ _ | ce _ _ =>
    rw [hcur] at hw
    nomatch hw

theorem sendStore_of_other (hkind : kind = .shared ∨ kind = .inplace) (hw : kindOf u.cur ≠ .vc) :
    u.sendStore pa kind va n d m = some (withMsg u (toHome u va pa n (.access (.store d m) kind .none none))) := by
  have hsent := sendOrdered_eq u (u.relOf u.cur none) pa va n (.access (.store d m) kind .none none)
  rw [relOf_none hdue] at hsent
  have hrel := relOf_none hdue
  cases hcur : u.cur with
  | worker w => exact absurd (by rw [hcur]; rfl) hw
  | cc _ | mx _ _ | ce _ _ =>
    rw [hcur] at hsent hrel
    rcases hkind with rfl | rfl <;> simp only [State.sendStore, hcur, hrel, toHome, hsent]

theorem sendStore_of_cached (hkind : kind = .priv ∨ kind = .readonly) (hline : u.linePending u.cur (lineOf pa) = false) :
    u.sendStore pa kind va n d m =
      some (u.writeCached (u.cacheOf u.cur) (u.pathOf u.cur) (u.dieOf u.cur) (lineOf pa) d m) := by
  rcases hkind with rfl | rfl <;> simp [State.sendStore, hline, hdue]

end

theorem bytesOf_le (f : FIM) : bytesOf f ≤ 64 := by
  have h : (f.imm.extractLsb' 2 2).toNat ≤ 3 := by omega
  exact (Nat.pow_le_pow_right (by decide) h).trans (by decide)

theorem storeGoesWhereItIsHeld : Claims.StoreGoesWhereItIsHeld := by
  intro f s hr va v
  refine ⟨fun h => ?_, fun pa kind u hopen => ?_⟩
  · rw [Raises, exec_st hr, afterOpen_of_misaligned h]
  · have hq := (openAccess_of_opens hopen).2
    have hcur : u.cur = s.cur := hq.cur
    have hdue : u.core.relDue = none := by rw [hq.core]; exact relDue_of_ready hr rfl
    refine ⟨_, _, inLine_placeAt pa (bytesOf f) (bytesOf_le f) v, fun hkind => ⟨fun hw => ?_, fun hw => ?_⟩,
      fun hkind hline => ?_⟩ <;> rw [exec_st hr, afterOpen_of_opens hopen]
    · rw [sendStored_of_some (sendStore_of_worker hdue hkind (hcur ▸ hw)), sent_advances hq]
    · rw [sendStored_of_some (sendStore_of_other hdue hkind (hcur ▸ hw)), sent_advances hq]
    · rw [← hcur] at hline ⊢
      rw [sendStored_of_some (sendStore_of_cached hdue hkind hline),
        advance_eq_onward (hq.trans (quiet_writeCached ..)).core]
      rfl

/-! ## AMO, CAS and RED -/

theorem beforeHome_of_nothingStaged {u : State} {pa : Nat} (h : NothingStaged u pa) :
    u.beforeHome u.cur (lineOf pa) = some u := by
  obtain ⟨hmsgs, hstage⟩ := h
  rw [State.beforeHome, if_neg]
  · cases hc : u.clusterOf u.cur with
    | none => rfl
    | some c => simp only [State.publishLine, hstage c hc]
  · intro hany
    obtain ⟨m, hm, hmsg⟩ := List.any_eq_true.mp hany
    simp only [Bool.and_eq_true, beq_iff_eq] at hmsg
    obtain ⟨⟨hsrc, hline⟩, hbody⟩ := hmsg
    split at hbody
    next op e hop => exact hmsgs m hm hsrc hline op e hop
    next => exact absurd hbody (by decide)

theorem relOf_ordRel {u : State} {f : FTR} (h : u.core.relDue = none) :
    u.relOf u.cur (ordRel f.ord f.scope) = ownRelease u f := by
  have hbit : f.ord.getLsbD 1 = f.imm.getLsbD 1 := by simp [FTR.ord]
  rw [ownRelease, ordRel, hbit]
  cases f.imm.getLsbD 1 with
  | true => simp only [if_true, State.relOf, State.seqD_cur, h]; rfl
  | false => exact relOf_none h

theorem ordAcq_eq (f : FTR) :
    ordAcq f.ord f.scope = if f.imm.getLsbD 0 then some (f.imm.extractLsb' 2 3) else none := by
  have hbit : f.ord.getLsbD 0 = f.imm.getLsbD 0 := by simp [FTR.ord]
  rw [ordAcq, hbit]
  rfl

/-- What AMO and CAS do once their address is checked. -/
def sendAtomic (f : FTR) (op : MemOp) (n : Nat) (sign : Bool) (va : Word) (u : State) (pa : Nat) (kind : PageKind) : Out :=
  match u.beforeHome u.cur (lineOf pa) with
  | none => .next u
  | some t => .next ((t.sendOrdered (t.relOf t.cur (ordRel f.ord f.scope)) t.cur pa va n
      (.access op kind (.g (hReg f.h) n sign) (ordAcq f.ord f.scope))).emptyG (hReg f.h)).advance

theorem atomicAccess_eq (f : FTR) (op : MemOp) (n : Nat) (sign : Bool) (s : State) :
    atomicAccess f op n sign s = afterOpen s wantAtomic (s.g f.ga) n (sendAtomic f op n sign (s.g f.ga)) := rfl

section
variable {i : Instr} {f : FTR} {s : State} {op : MemOp} {n : Nat} {sign : Bool} (hr : i.ready s = true)
  (hstores : i.storesLater = true) (hexec : exec i s = atomicAccess f op n sign s)
include hr hstores hexec

/-- AMO and CAS alike: a misaligned address traps, any other is sent to the home slice. -/
theorem atomicIsSent : ((s.g f.ga).toNat % n ≠ 0 → Raises i s 9 (s.g f.ga)) ∧
    ∀ pa kind u, Opens s wantAtomic (s.g f.ga) n pa kind u → NothingStaged u pa →
      exec i s = .next (onward s (emptied (withMsg u (toHomeAfter u (ownRelease u f) (s.g f.ga) pa n
        (.access op kind (.g (hReg f.h) n sign)
          (if f.imm.getLsbD 0 then some (f.imm.extractLsb' 2 3) else none)))) (hReg f.h))) := by
  rw [atomicAccess_eq] at hexec
  refine ⟨fun h => ?_, fun pa kind u hopen hnone => ?_⟩
  · rw [Raises, hexec, afterOpen_of_misaligned h]
  · have hq := (openAccess_of_opens hopen).2
    have hdue : u.core.relDue = none := by rw [hq.core]; exact relDue_of_ready hr hstores
    rw [hexec, afterOpen_of_opens hopen]
    simp only [sendAtomic, beforeHome_of_nothingStaged hnone]
    rw [relOf_ordRel hdue, ordAcq_eq, sendOrdered_eq, sent_empty_advances hq]

end

/-- What RED does once its address is checked. -/
def sendRed (op : RedOp) (f : FTR) (et : Nat) (s : State) (u : State) (pa : Nat) (kind : PageKind) : Out :=
  if decide (f.scope.toNat ≤ 1) && kindOf u.cur == .vc then
    .next (u.sendOrdered (u.relOf u.cur none) u.cur pa (s.g f.ga) (etWidth et / 8) (.staged (.red op et (s.g f.gb)) 0)).advance
  else
    match u.beforeHome u.cur (lineOf pa) with
    | none => .next u
    | some t => .next (t.sendOrdered (t.relOf t.cur none) t.cur pa (s.g f.ga) (etWidth et / 8)
        (.access (.red op et (s.g f.gb)) kind .none none)).advance

theorem exec_red {op : RedOp} {f : FTR} {s : State} (hr : (Instr.red op f).ready s = true) :
    exec (.red op f) s = afterOpen s wantAtomic (s.g f.ga) (etWidth (f.imm.extractLsb' 5 4).toNat / 8)
      (sendRed op f (f.imm.extractLsb' 5 4).toNat s) :=
  checked_of_ready hr _

theorem atomicsAreSent : Claims.AtomicsAreSent := by
  refine ⟨fun op f s hr => atomicIsSent (op := .amo op (wordBytes f) (s.g f.gb)) (n := wordBytes f) hr rfl
      (checked_of_ready hr _),
    fun f s hr => atomicIsSent (op := .cas (wordBytes f) (s.g f.gb) (s.g f.gc)) (n := wordBytes f) hr rfl
      (checked_of_ready hr _),
    fun op f s hr => ?_⟩
  refine ⟨fun h => ?_, fun pa kind u hopen => ?_⟩
  · rw [Raises, exec_red hr, afterOpen_of_misaligned h]
  · have hq := (openAccess_of_opens hopen).2
    have hcur : u.cur = s.cur := hq.cur
    have hdue : u.core.relDue = none := by rw [hq.core]; exact relDue_of_ready hr rfl
    have hnarrow : (decide (f.scope.toNat ≤ 1) && kindOf u.cur == .vc) = true ↔
        (f.imm.extractLsb' 2 3).toNat ≤ 1 ∧ kindOf s.cur = .vc := by
      rw [Bool.and_eq_true, decide_eq_true_iff, beq_iff_eq, hcur]
      rfl
    refine ⟨fun hn => ?_, fun hn hnone => ?_⟩ <;> rw [exec_red hr, afterOpen_of_opens hopen, sendRed]
    · rw [if_pos (hnarrow.mpr hn), relOf_none hdue, sendOrdered_eq, sent_advances hq]
      rfl
    · rw [if_neg (mt hnarrow.mp hn)]
      simp only [beforeHome_of_nothingStaged hnone]
      rw [relOf_none hdue, sendOrdered_eq, sent_advances hq]
      rfl

/-- Settles O15: each access opens as `Opens` says and is sent as one message, since an instruction that is ready owes
no release. -/
theorem scalarAccessesAreSent : Obligations.ScalarAccessesAreSent :=
  ⟨loadIsSent, storeGoesWhereItIsHeld, atomicsAreSent⟩

end Sys2Proof.Machine
end

section
/-! SUPPORT. The home slices: what an access that arrives reads, writes and sends back, the checks of other holders,
and landings (R118, R121, R164 to R166, R307, R310, R344). -/

namespace Sys2Proof.Machine

open Sys2Proof.Claims (lineData Sound Arrives Lands LineBecomes amoNew extended InLine acquired privateIn)

/-! ## The line at its home -/

theorem lineData_of_homeCopy {s : State} {la : Nat} {l : SliceLine} (h : s.homeCopy la = some l) :
    lineData s la = l.data := by simp only [lineData, h]

theorem sound_of_homeCopy {s : State} {la : Nat} {l : SliceLine} (h : s.homeCopy la = some l) :
    Sound s la ↔ l.poison = false := by simp only [Sound, h]

theorem sound_of_not_held {s : State} {la : Nat} (h : s.homeCopy la = none) :
    Sound s la ↔ (s.fetchLine la).2.1 = none := by simp only [Sound, h]

theorem kind_addr_of_homeCopy {s : State} {la : Nat} {l : SliceLine} (h : s.homeCopy la = some l) :
    l.kind = .home ∧ l.addr = la := by simpa using List.find?_some h

theorem homeCopy_putLine {s : State} {la : Nat} {l : SliceLine} (hkind : l.kind = .home) (haddr : l.addr = la) :
    (s.putLine l).homeCopy la = some l := by simp [State.homeCopy, State.putLine, State.modMem, hkind, haddr]

theorem homeCopy_install {s : State} {la : Nat} {l : SliceLine} (hkind : l.kind = .home) (haddr : l.addr = la) :
    (s.install l).homeCopy la = some l := homeCopy_putLine hkind haddr

/-! ## What a write-back leaves -/

/-- State t has the lines, the ranges and the next number of s. -/
structure SameLines (s t : State) : Prop where
  lines : t.mem.lines = s.mem.lines
  ranges : t.ranges = s.ranges
  nextId : t.nextId = s.nextId

theorem SameLines.refl (s : State) : SameLines s s := ⟨rfl, rfl, rfl⟩

theorem SameLines.trans {s t u : State} (h : SameLines s t) (k : SameLines t u) : SameLines s u :=
  ⟨k.lines.trans h.lines, k.ranges.trans h.ranges, k.nextId.trans h.nextId⟩

theorem SameLines.ite {s t u : State} (c : Prop) [Decidable c] (h : SameLines s t) (k : SameLines s u) :
    SameLines s (if c then t else u) := by
  split
  · exact h
  · exact k

theorem sameLines_encodeTo (s : State) (n d : Nat) (r : RangeReg) (l : SliceLine) (k : Nat) :
    SameLines s (s.encodeTo n d r l k) := by
  have htail (v : State) (n la : Nat) : SameLines v (v.clearTail n la) := SameLines.ite _ ⟨rfl, rfl, rfl⟩ (.refl v)
  have hbits (f : Mem → Mem) (hf : (f s.mem).lines = s.mem.lines) : SameLines s (s.modMem f) := ⟨hf, rfl, rfl⟩
  have hdie (v : State) (f : Die → Die) : SameLines v (v.modDie d f) := ⟨rfl, rfl, rfl⟩
  unfold State.encodeTo
  exact ((hbits _ rfl).trans (htail _ _ _)).trans (hdie _ _)

theorem sameLines_writeBack (s : State) (l : SliceLine) : SameLines s (s.writeBack l) := by
  have hbad (v : State) : SameLines v (v.noteBad l) := ⟨rfl, rfl, rfl⟩
  have hblock (c : Prop) [Decidable c] (v : State) (n d : Nat) (r : RangeReg) (k : Nat) :
      SameLines v (if c then v.encodeTo n d r l k else v) := SameLines.ite _ (sameLines_encodeTo ..) (.refl v)
  unfold State.writeBack
  split
  · exact SameLines.ite _ (((hblock _ s _ _ _ 0).trans (hblock _ _ _ _ _ 1)).trans (hbad _)) ⟨rfl, rfl, rfl⟩
  · exact SameLines.ite _ ⟨rfl, rfl, rfl⟩ ⟨rfl, rfl, rfl⟩

theorem nextId_evict (s : State) (l : SliceLine) : (s.evict l).nextId = s.nextId := by
  have hback : SameLines s (if l.isDirty then s.writeBack l else s) :=
    SameLines.ite _ (sameLines_writeBack s l) (.refl s)
  have hcodec (v : State) : SameLines v (v.codecWrite l) := SameLines.ite _ ⟨rfl, rfl, rfl⟩ (.refl v)
  have hdrop (v : State) : (v.dropLine l).nextId = v.nextId := rfl
  exact (hdrop _).trans (SameLines.ite _ (hback.trans (hcodec _)) hback).nextId

theorem nextId_install (s : State) (l : SliceLine) : (s.install l).nextId = s.nextId := by
  have hput (v : State) : (v.putLine l).nextId = v.nextId := rfl
  simp only [State.install, hput]
  split
  · rfl
  · split
    · exact nextId_evict ..
    · rfl

/-! ## What a clean leaves of a line -/

/-- State t has of the line at la the bytes and the poison that s has, and the ranges and the next number of s. -/
structure KeepsLine (la : Nat) (s t : State) : Prop where
  line : (t.homeCopy la).map (fun l => (l.data, l.poison)) = (s.homeCopy la).map fun l => (l.data, l.poison)
  ranges : t.ranges = s.ranges
  nextId : t.nextId = s.nextId

theorem KeepsLine.refl (la : Nat) (s : State) : KeepsLine la s s := ⟨rfl, rfl, rfl⟩

theorem KeepsLine.trans {la : Nat} {s t u : State} (h : KeepsLine la s t) (k : KeepsLine la t u) : KeepsLine la s u :=
  ⟨k.line.trans h.line, k.ranges.trans h.ranges, k.nextId.trans h.nextId⟩

theorem SameLines.keepsLine {s t : State} (h : SameLines s t) (la : Nat) : KeepsLine la s t :=
  ⟨by rw [State.homeCopy, h.lines]; rfl, h.ranges, h.nextId⟩

theorem uncovered_congr {s t : State} (h : t.ranges = s.ranges) (la : Nat) : t.uncovered la = s.uncovered la := by
  simp only [State.uncovered, State.governing, h]

theorem keepsLine_dropLine {la : Nat} {s : State} {l : SliceLine} (h : l.addr ≠ la) : KeepsLine la s (s.dropLine l) := by
  refine ⟨?_, rfl, rfl⟩
  have hsame : ∀ x : SliceLine, (!x.same l && (x.kind == .home && x.addr == la)) = (x.kind == .home && x.addr == la) := by
    intro x
    by_cases hx : x.addr = la
    · have hne : x.addr ≠ l.addr := fun e => h (e ▸ hx)
      simp [SliceLine.same, hne]
    · simp [hx]
  simp only [State.homeCopy, State.dropLine, State.modMem, List.find?_filter, Bool.decide_and, Bool.decide_eq_true, hsame]

theorem keepsLine_cleaned (la : Nat) (s : State) (l : SliceLine) :
    KeepsLine la s (s.modMem fun m => { m with lines := mapIf m.lines l.same SliceLine.cleaned }) := by
  refine ⟨?_, rfl, rfl⟩
  have hcleaned : ∀ x : SliceLine, (if l.same x then x.cleaned else x).kind = x.kind ∧
      (if l.same x then x.cleaned else x).addr = x.addr ∧ (if l.same x then x.cleaned else x).data = x.data ∧
      (if l.same x then x.cleaned else x).poison = x.poison := fun x => by split <;> exact ⟨rfl, rfl, rfl, rfl⟩
  simp only [State.homeCopy, State.modMem, mapIf, List.find?_map, Option.map_map, Function.comp_def,
    (hcleaned _).1, (hcleaned _).2.1, (hcleaned _).2.2.1, (hcleaned _).2.2.2]

theorem keepsLine_cleanLine {la : Nat} {s : State} (hcov : s.uncovered la = false) (l : SliceLine) :
    KeepsLine la s (s.cleanLine l) := by
  have hback := (sameLines_writeBack s l).keepsLine la
  unfold State.cleanLine
  split
  next hun => exact hback.trans (keepsLine_dropLine fun e => by rw [e, hcov] at hun; cases hun)
  next => exact hback.trans (keepsLine_cleaned ..)

theorem keepsLine_cleanSome {la : Nat} (d sl n : Nat) :
    ∀ {s : State}, s.uncovered la = false → KeepsLine la s (s.cleanSome d sl n) := by
  induction n with
  | zero => exact fun _ => .refl la _
  | succ n ih =>
    intro s hcov
    have hone : KeepsLine la s (s.cleanOldest d sl) := by
      unfold State.cleanOldest
      split
      · exact .refl la s
      · exact keepsLine_cleanLine hcov _
    exact hone.trans (ih ((uncovered_congr hone.ranges la).trans hcov))

/-! ## Reads and writes at the home slice -/

/-- State t is s but for its memory, its codec counters and its posts, and its home slice has the bytes d for the line
at la, without poison. -/
structure HomeHas (la : Nat) (d : LineBits) (s t : State) : Prop where
  line : lineData t la = d
  sound : Sound t la
  quiet : Quiet s t
  net : t.net = s.net
  nextId : t.nextId = s.nextId

theorem HomeHas.refl {la : Nat} {s : State} (h : Sound s la) : HomeHas la (lineData s la) s s :=
  ⟨rfl, h, .refl s, rfl, rfl⟩

theorem HomeHas.after {la : Nat} {d : LineBits} {s t u : State} (k : HomeHas la d t u) (hq : Quiet s t)
    (hnet : t.net = s.net) (hid : t.nextId = s.nextId) : HomeHas la d s u :=
  ⟨k.line, k.sound, hq.trans k.quiet, k.net.trans hnet, k.nextId.trans hid⟩

theorem HomeHas.trans {la : Nat} {d e : LineBits} {s t u : State} (h : HomeHas la d s t) (k : HomeHas la e t u) :
    HomeHas la e s u := ⟨k.line, k.sound, h.quiet.trans k.quiet, k.net.trans h.net, k.nextId.trans h.nextId⟩

theorem HomeHas.of_homeCopy {la : Nat} {s t : State} {l : SliceLine} (h : t.homeCopy la = some l)
    (hp : l.poison = false) (hq : Quiet s t) (ha : Apart s t) (hid : t.nextId = s.nextId) : HomeHas la l.data s t :=
  ⟨lineData_of_homeCopy h, (sound_of_homeCopy h).mpr hp, hq, ha.net, hid⟩

theorem homeHas_putDirty {la : Nat} {s : State} {l : SliceLine} (hkind : l.kind = .home) (haddr : l.addr = la)
    (hp : l.poison = false) (hcov : s.uncovered la = false) : HomeHas la l.data s (s.putDirty l) := by
  have hkeeps : KeepsLine la ((s.putLine l).modMem fun x => { x with dirtied := x.dirtied + 1 }) (s.putDirty l) :=
    keepsLine_cleanSome _ _ _ hcov
  have hput : State.homeCopy ((s.putLine l).modMem fun x => { x with dirtied := x.dirtied + 1 }) la = some l :=
    homeCopy_putLine hkind haddr
  obtain ⟨l', hl', he⟩ := Option.map_eq_some_iff.mp (hkeeps.line.trans (congrArg _ hput))
  obtain ⟨hdata, hpoison⟩ := Prod.mk.inj he
  rw [← hdata]
  exact .of_homeCopy hl' (hpoison.trans hp) (quiet_putDirty ..) (apart_putDirty ..) hkeeps.nextId

/-- What `ensure` finds and leaves for a line without poison. -/
theorem ensure_of_sound {la : Nat} {s : State} (h : Sound s la) :
    ∃ l, (s.ensure la).2 = l ∧ (s.ensure la).1.homeCopy la = some l ∧ l.data = lineData s la ∧ l.poison = false ∧
      (s.ensure la).1.nextId = s.nextId := by
  cases hc : s.homeCopy la with
  | some l =>
    obtain ⟨hkind, haddr⟩ := kind_addr_of_homeCopy hc
    simp only [State.ensure, hc]
    exact ⟨l, rfl, homeCopy_putLine hkind haddr, (lineData_of_homeCopy hc).symm, (sound_of_homeCopy hc).mp h, rfl⟩
  | none =>
    have hclean := (sound_of_not_held hc).mp h
    simp only [State.ensure, hc, hclean, Option.isSome_none, Bool.false_eq_true, if_false]
    refine ⟨_, rfl, ?_, by simp only [lineData, hc], rfl, ?_⟩
    · split
      · exact homeCopy_install rfl rfl
      · exact homeCopy_install rfl rfl
    · split
      · exact nextId_install ..
      · exact nextId_install ..

theorem homeHas_ensure {la : Nat} {s : State} (h : Sound s la) :
    HomeHas la (lineData s la) s (s.ensure la).1 := by
  obtain ⟨l, -, hcopy, hdata, hpoison, hid⟩ := ensure_of_sound h
  rw [← hdata]
  exact .of_homeCopy hcopy hpoison (quiet_ensure ..) (apart_ensure ..) hid

theorem mergeLine_zero (old d : LineBits) : mergeLine old d 0#512 = old := by
  rw [mergeLine, BitVec.not_zero, BitVec.and_allOnes, BitVec.and_zero, BitVec.or_zero]

theorem mergeLine_whole (old d : LineBits) : mergeLine old d (BitVec.allOnes 512) = d := by
  rw [mergeLine, BitVec.not_allOnes, BitVec.and_zero, BitVec.and_allOnes, BitVec.zero_or]

/-- The line that a write of some bits is merged into, with the state in which its slice holds it. -/
def entered (s : State) (la : Nat) (m : LineBits) : State × SliceLine :=
  if m == BitVec.allOnes 512 && (s.homeCopy la).isNone then s.enterWhole la else s.ensure la

theorem entered_of_sound {la : Nat} {s : State} (h : Sound s la) (d m : LineBits) :
    (entered s la m).2.kind = .home ∧ (entered s la m).2.addr = la ∧ (entered s la m).2.poison = false ∧
    mergeLine (entered s la m).2.data d m = mergeLine (lineData s la) d m ∧ Quiet s (entered s la m).1 ∧
    (entered s la m).1.net = s.net ∧ (entered s la m).1.nextId = s.nextId := by
  unfold entered
  split
  next hw =>
    obtain ⟨hm, -⟩ := Bool.and_eq_true_iff.mp hw
    rw [eq_of_beq hm, mergeLine_whole, mergeLine_whole]
    exact ⟨rfl, rfl, rfl, rfl, quiet_enterWhole .., (apart_install ..).net, nextId_install ..⟩
  next =>
    obtain ⟨l, hl, hcopy, hdata, hpoison, hid⟩ := ensure_of_sound h
    obtain ⟨hkind, haddr⟩ := kind_addr_of_homeCopy hcopy
    rw [hl, hdata]
    exact ⟨hkind, haddr, hpoison, rfl, quiet_ensure .., (apart_ensure ..).net, hid⟩

/-- The line after the write. -/
def written (u : State) (l : SliceLine) (d m : LineBits) : SliceLine :=
  { l with
    data := mergeLine l.data d m
    dirty := some (l.dirty.getD u.mem.dirtied)
    poison := l.poison && !(m == BitVec.allOnes 512 && l.window.isNone)
    accum := l.accum && !(m == BitVec.allOnes 512 && l.window.isNone)
    blocks := l.blocks ||| (if m.extractLsb' 0 256 != 0#256 then 1#2 else 0#2) |||
      (if m.extractLsb' 256 256 != 0#256 then 2#2 else 0#2)
    stored := l.stored ||| byteMask m }

theorem homeWrite_eq {s : State} {la : Nat} {d m : LineBits} (hm : m ≠ 0#512) :
    s.homeWrite la d m false = ((entered s la m).1.breakWords (maskWords la m)).putDirty
      (written (entered s la m).1 (entered s la m).2 d m) := by
  rw [State.homeWrite, if_neg fun e => hm e.1]
  simp only [Bool.or_false, Bool.false_and, Bool.false_eq_true, if_false]
  rfl

/-- A write merges its bits into the line and leaves it without poison. -/
theorem homeHas_homeWrite {la : Nat} {s : State} (h : Sound s la) (hcov : s.uncovered la = false) (d m : LineBits) :
    HomeHas la (mergeLine (lineData s la) d m) s (s.homeWrite la d m false) := by
  obtain ⟨hkind, haddr, hpoison, hdata, hquiet, hnet, hid⟩ := entered_of_sound h d m
  by_cases hm : m = 0#512
  · rw [State.homeWrite, if_pos ⟨hm, rfl⟩, hm, mergeLine_zero]
    exact .refl h
  · rw [homeWrite_eq hm, ← hdata]
    have hcov' : State.uncovered ((entered s la m).1.breakWords (maskWords la m)) la = false :=
      (uncovered_congr hquiet.ranges la).trans hcov
    have hput := homeHas_putDirty (l := written (entered s la m).1 (entered s la m).2 d m) hkind haddr
      (by rw [written, hpoison, Bool.false_and]) hcov'
    exact hput.after (hquiet.trans (quiet_breakWords _ (maskWords la m))) hnet hid

/-! ## Numbers in a line -/

theorem lineNum_lt (l : LineBits) (off n : Nat) : lineNum l off n < 2 ^ (8 * n) := BitVec.isLt _

theorem signedOf_eq_bmod {w v : Nat} (hv : v < 2 ^ w) : signedOf w v = Int.bmod v (2 ^ w) := by
  cases w with
  | zero =>
    obtain rfl : v = 0 := by omega
    rfl
  | succ w =>
    have h := signedOf_toNat (Nat.succ_pos w) (BitVec.ofNat (w + 1) v)
    rwa [BitVec.toInt_eq_toNat_bmod, BitVec.toNat_ofNat, Nat.mod_eq_of_lt hv] at h

theorem extendTo_eq_extended {n v : Nat} (sign : Bool) (hv : v < 2 ^ (8 * n)) : extendTo n sign v = extended n sign v := by
  rw [extendTo, extended, signedOf_eq_bmod hv]

theorem bmod_inj {w a b : Nat} (ha : a < 2 ^ w) (hb : b < 2 ^ w) (h : Int.bmod a (2 ^ w) = Int.bmod b (2 ^ w)) : a = b := by
  have hint : (BitVec.ofNat w a).toInt = (BitVec.ofNat w b).toInt := by
    rw [BitVec.toInt_eq_toNat_bmod, BitVec.toInt_eq_toNat_bmod, BitVec.toNat_ofNat, BitVec.toNat_ofNat,
      Nat.mod_eq_of_lt ha, Nat.mod_eq_of_lt hb, h]
  have hnat := congrArg BitVec.toNat (BitVec.toInt_inj.mp hint)
  rwa [BitVec.toNat_ofNat, BitVec.toNat_ofNat, Nat.mod_eq_of_lt ha, Nat.mod_eq_of_lt hb] at hnat

theorem amoApply_eq_amoNew (op : AmoOp) {n old : Nat} (b : Nat) (hold : old < 2 ^ (8 * n)) :
    amoApply op (8 * n) old (b % 2 ^ (8 * n)) = amoNew op n old b := by
  have hb : b % 2 ^ (8 * n) < 2 ^ (8 * n) := Nat.mod_lt _ (Nat.two_pow_pos _)
  cases op <;> simp only [amoApply, amoNew, Nat.mod_eq_of_lt hold, signedOf_eq_bmod hold, signedOf_eq_bmod hb]
  case min => simp only [← not_le, ite_not]
  case max =>
    rcases lt_trichotomy (Int.bmod old (2 ^ (8 * n))) (Int.bmod (b % 2 ^ (8 * n) : Nat) (2 ^ (8 * n))) with h | h | h
    · rw [if_pos h, if_pos h.le]
    · rw [if_neg h.not_lt, if_pos h.le, bmod_inj hold hb h]
    · rw [if_neg h.le.not_gt, if_neg h.not_ge]
  case minn => rw [min_def]; split <;> split <;> omega
  case maxn => rw [max_def]; split <;> split <;> omega

/-! ## Access to a line that has arrived -/

theorem id_of_msg {s : State} {m : Nat} {x : Msg} (h : s.msg? m = some x) : x.id = m := by
  simpa using List.find?_some h

theorem rel_of_atHome {s : State} {x : Msg} (h : s.atHome x = true) : x.rel = none := by
  simp only [State.atHome, Bool.and_eq_true] at h
  obtain ⟨⟨⟨⟨⟨⟨-, hrel⟩, -⟩, -⟩, -⟩, -⟩, -⟩ := h
  exact Option.isNone_iff_eq_none.mp hrel

section
variable {s : State} {m : Nat} {x : Msg} {op : MemOp} {kind : PageKind} {dest : Dest} {acq : Option (BitVec 3)}

/-- Any access but a reduction is taken by HOME_SLICE_ACCESS. -/
theorem exec_homeSliceAccess (hmsg : s.msg? m = some x) (hhome : s.atHome x = true) (htag : x.tag = none)
    (hbody : x.body = .access op kind dest acq) (hop : ∀ o e v, op ≠ .red o e v) :
    exec (.homeSliceAccess m false) s = .next (s.arrive x false) := by
  show execHomeSliceAccess m false s = _
  cases op with
  | red o e v => exact absurd rfl (hop o e v)
  | load | store | amo | cas | link | cond =>
    simp only [execHomeSliceAccess, hmsg, hbody, rel_of_atHome hhome, hhome, htag, Option.isNone_none, Bool.and_self,
      if_true]

theorem exec_reductionUpdate {o : RedOp} {e : Nat} {v : Word} (hmsg : s.msg? m = some x) (hhome : s.atHome x = true)
    (htag : x.tag = none) (hbody : x.body = .access (.red o e v) kind dest acq) :
    exec (.reductionUpdate m false) s = .next (s.arrive x false) := by
  show execReductionUpdate m false s = _
  simp only [execReductionUpdate, hmsg, hbody, rel_of_atHome hhome, hhome, htag, Option.isNone_none, Bool.and_self,
    if_true]

theorem not_cached (hkind : kind = .shared ∨ kind = .inplace) : ¬(kind = .priv ∨ kind = .readonly) := by
  rcases hkind with rfl | rfl <;> simp

/-- With no other holder to check, the access is performed. -/
theorem arrive_of_unheld (hbody : x.body = .access op kind dest acq) (hkind : kind = .shared ∨ kind = .inplace)
    (hcheck : s.toCheck x = []) : s.arrive x false = (s.dropMsg x.id).perform x := by
  have hcheck' : (s.dropMsg x.id).toCheck x = [] := hcheck
  simp only [State.arrive, hbody, not_cached hkind, hcheck', Bool.false_eq_true, if_false]

theorem ownBytes_dropMsg {c la : Nat} (i : Nat) (h : s.ownBytes c la = []) : (s.dropMsg i).ownBytes c la = [] := by
  obtain ⟨hmsgs, hstage⟩ := List.append_eq_nil_iff.mp h
  refine List.append_eq_nil_iff.mpr ⟨?_, hstage⟩
  rw [List.filterMap_eq_nil_iff] at hmsgs ⊢
  exact fun y hy => hmsgs y (List.mem_filter.mp hy).1

/-- Where its cluster has nothing of its own for the line, a party reads the home line. -/
theorem readFor_of_nothing {c : Option Nat} {la : Nat} (hown : ∀ k, c = some k → s.ownBytes k la = [])
    (hsound : Sound s la) (q : SeqId) (off n : Nat) :
    s.readFor c q la off n = ((s.ensure la).1, lineData s la, none) := by
  obtain ⟨l, hl, -, hdata, hpoison, -⟩ := ensure_of_sound hsound
  cases c with
  | none => simp [State.readFor, hl, hdata, hpoison]
  | some k => simp [State.readFor, hown k rfl, hl, hdata, hpoison]

theorem answer_g {reg : BitVec 5} {n : Nat} {sign : Bool} (u : State) (v : Nat) (htag : x.tag = none)
    (hbody : x.body = .access op kind (.g reg n sign) acq) :
    u.answer x v none = u.land x.src reg (extendTo n sign v) none acq := by
  simp only [State.answer, htag, State.deliver, hbody, Msg.mark, Option.map_none]

theorem answer_none (u : State) (v : Nat) (htag : x.tag = none) (hbody : x.body = .access op kind .none acq) :
    u.answer x v none = u := by
  simp only [State.answer, htag, State.deliver, hbody]

end

/-- What a performed access with a result leaves. -/
theorem lands_of_homeHas {s u : State} {x : Msg} {d : LineBits} (h : HomeHas (lineOf x.pa) d (s.dropMsg x.id) u)
    (reg : BitVec 5) (v : Word) (acq : Option (BitVec 3)) :
    Lands s (u.land x.src reg v none acq) x reg v acq ∧ LineBecomes s (u.land x.src reg v none acq) x d := by
  have hnet : u.net = (s.dropMsg x.id).net := h.net
  have hid : u.nextId = s.nextId := h.nextId
  refine ⟨?_, h.line, h.quiet.core, h.quiet.seqs, congrArg (fun n => n.msgs) hnet⟩
  have hland : (u.land x.src reg v none acq).net.landings = u.net.landings ++
      [{ id := u.nextId, src := x.src, reg := reg, val := v, poison := none, acq := acq }] := rfl
  rw [Lands, hland, hnet, hid]
  rfl

/-- What a performed access without a result leaves. -/
theorem lineBecomes_of_homeHas {s u : State} {x : Msg} {d : LineBits} (h : HomeHas (lineOf x.pa) d (s.dropMsg x.id) u) :
    u.net.landings = s.net.landings ∧ LineBecomes s u x d :=
  have hnet : u.net = (s.dropMsg x.id).net := h.net
  ⟨congrArg (fun n => n.landings) hnet, h.line, h.quiet.core, h.quiet.seqs, congrArg (fun n => n.msgs) hnet⟩

theorem homeHas_ensure_homeWrite {la : Nat} {s : State} (h : Sound s la) (hcov : s.uncovered la = false)
    (d m : LineBits) :
    HomeHas la (mergeLine (lineData s la) d m) s ((s.ensure la).1.homeWrite la d m false) := by
  have hensure := homeHas_ensure h
  have hwrite := homeHas_homeWrite hensure.sound ((uncovered_congr hensure.quiet.ranges la).trans hcov) d m
  rw [hensure.line] at hwrite
  exact hensure.trans hwrite

/-! ## Each access -/

theorem placeAt_word (off v : Nat) {n : Nat} (hn : n ≤ 8) :
    placeAt off n (BitVec.ofNat 64 v).toNat = placeAt off n v := by
  have hdvd : 2 ^ (8 * n) ∣ 2 ^ 64 := Nat.pow_dvd_pow 2 (by omega)
  rw [placeAt, placeAt, BitVec.toNat_ofNat, Nat.mod_mod_of_dvd _ hdvd]

/-- The bytes of a word that an access writes within its line. -/
theorem inLine_off (pa : Nat) {n : Nat} (hn : n ≤ 64) (v : Word) :
    InLine (pa % 64) n v (placeAt (pa % 64) n v.toNat).1 (placeAt (pa % 64) n v.toNat).2 := by
  have h := inLine_placeAt (pa % 64) n hn v
  rwa [Nat.mod_mod] at h

section
variable {s : State} {m : Nat} {x : Msg} {op : MemOp} {dest : Dest} {acq : Option (BitVec 3)}

/-- An access that arrives is performed on what its message leaves. -/
theorem performed_of_arrives (h : Arrives s m x op dest acq) (hop : ∀ o e v, op ≠ .red o e v) :
    exec (.homeSliceAccess m false) s = .next ((s.dropMsg x.id).perform x) := by
  obtain ⟨hmsg, hhome, htag, hcheck, ⟨kind, hkind, hbody⟩, -, -, -⟩ := h
  rw [exec_homeSliceAccess hmsg hhome htag hbody hop, arrive_of_unheld hbody hkind hcheck]

theorem sound_of_arrives (h : Arrives s m x op dest acq) : Sound (s.dropMsg x.id) (lineOf x.pa) := by
  obtain ⟨-, -, -, -, -, -, hsound, -⟩ := h
  exact hsound

theorem covered_of_arrives (h : Arrives s m x op dest acq) : (s.dropMsg x.id).uncovered (lineOf x.pa) = false := by
  obtain ⟨-, -, -, -, -, -, -, hcov⟩ := h
  exact hcov

/-- A read-modify-write at the home slice merges what it writes into the line it has read. -/
theorem homeHas_write_of_arrives (h : Arrives s m x op dest acq) (d k : LineBits) :
    HomeHas (lineOf x.pa) (mergeLine (lineData s (lineOf x.pa)) d k) (s.dropMsg x.id)
      (((s.dropMsg x.id).ensure (lineOf x.pa)).1.homeWrite (lineOf x.pa) d k false) :=
  homeHas_ensure_homeWrite (sound_of_arrives h) (covered_of_arrives h) d k

end

section
variable {s : State} {m : Nat} {x : Msg} {reg : BitVec 5} {n : Nat} {sign : Bool} {acq : Option (BitVec 3)}

theorem loadPerforms (h : Arrives s m x .load (.g reg n sign) acq) :
    (s.dropMsg x.id).perform x = State.land ((s.dropMsg x.id).ensure (lineOf x.pa)).1 x.src reg
      (extendTo n sign (lineNum (lineData s (lineOf x.pa)) (x.pa % 64) x.len)) none acq := by
  have hsound := sound_of_arrives h
  obtain ⟨-, -, htag, -, ⟨kind, hkind, hbody⟩, hown, -, -⟩ := h
  simp only [State.perform, hbody, not_cached hkind, if_false,
    readFor_of_nothing (fun c hc => ownBytes_dropMsg x.id (hown c hc)) hsound, answer_g _ _ htag hbody]
  rfl

theorem storePerforms {d k : LineBits} (h : Arrives s m x (.store d k) .none none) :
    (s.dropMsg x.id).perform x = (s.dropMsg x.id).homeWrite (lineOf x.pa) d k false := by
  obtain ⟨-, -, htag, -, ⟨kind, hkind, hbody⟩, -, -, -⟩ := h
  simp only [State.perform, hbody, answer_none _ _ htag hbody]

/-- The number that n bytes of the line of an access are. -/
def oldOf (s : State) (x : Msg) (n : Nat) : Nat := lineNum (lineData s (lineOf x.pa)) (x.pa % 64) n

theorem amoPerforms {op : AmoOp} {b : Word} {k : Nat} (h : Arrives s m x (.amo op k b) (.g reg n sign) acq) :
    (s.dropMsg x.id).perform x = State.land (((s.dropMsg x.id).ensure (lineOf x.pa)).1.homeWrite (lineOf x.pa)
      (placeAt (x.pa % 64) k (amoApply op (8 * k) (oldOf s x k) (b.toNat % 2 ^ (8 * k)))).1
      (placeAt (x.pa % 64) k (amoApply op (8 * k) (oldOf s x k) (b.toNat % 2 ^ (8 * k)))).2 false) x.src reg
      (extendTo n sign (oldOf s x k)) none acq := by
  obtain ⟨l, hl, -, hdata, hpoison, -⟩ := ensure_of_sound (sound_of_arrives h)
  obtain ⟨-, -, htag, -, ⟨kind, hkind, hbody⟩, -, -, -⟩ := h
  simp only [State.perform, hbody, hl, hdata, hpoison, Bool.false_eq_true, if_false, answer_g _ _ htag hbody]
  rfl

theorem casPerforms {a b : Word} {k : Nat} (h : Arrives s m x (.cas k a b) (.g reg n sign) acq) :
    (s.dropMsg x.id).perform x = State.land (if oldOf s x k = a.toNat % 2 ^ (8 * k) then
        ((s.dropMsg x.id).ensure (lineOf x.pa)).1.homeWrite (lineOf x.pa) (placeAt (x.pa % 64) k b.toNat).1
          (placeAt (x.pa % 64) k b.toNat).2 false
      else ((s.dropMsg x.id).ensure (lineOf x.pa)).1) x.src reg (extendTo n sign (oldOf s x k)) none acq := by
  obtain ⟨l, hl, -, hdata, hpoison, -⟩ := ensure_of_sound (sound_of_arrives h)
  obtain ⟨-, -, htag, -, ⟨kind, hkind, hbody⟩, -, -, -⟩ := h
  simp only [State.perform, hbody, hl, hdata, hpoison, Bool.false_eq_true, if_false, answer_g _ _ htag hbody]
  rfl

theorem redPerforms {op : RedOp} {et : Nat} {b : Word} (h : Arrives s m x (.red op et b) .none none) :
    (s.dropMsg x.id).perform x = ((s.dropMsg x.id).ensure (lineOf x.pa)).1.homeWrite (lineOf x.pa)
      (applyRed (lineData s (lineOf x.pa)) { off := x.pa % 64, op := op, et := et, val := b }).1
      (applyRed (lineData s (lineOf x.pa)) { off := x.pa % 64, op := op, et := et, val := b }).2 false := by
  obtain ⟨l, hl, -, hdata, hpoison, -⟩ := ensure_of_sound (sound_of_arrives h)
  obtain ⟨-, -, htag, -, ⟨kind, hkind, hbody⟩, -, -, -⟩ := h
  simp only [State.perform, hbody, hl, hdata, answer_none _ _ htag hbody]
  rfl

end

theorem homeSlicePerformsAccesses : Claims.HomeSlicePerformsAccesses := by
  intro s m x la off ev old
  refine ⟨fun reg sign acq h => ?_, fun d k h => ?_, fun op n b reg sign acq hn h => ?_,
    fun n a b reg sign acq hn h => ?_⟩
  · refine ⟨_, (performed_of_arrives h (by simp)).trans (congrArg _ (loadPerforms h)), ?_⟩
    rw [extendTo_eq_extended sign (lineNum_lt ..)]
    exact lands_of_homeHas (homeHas_ensure (sound_of_arrives h)) reg _ acq
  · refine ⟨_, (performed_of_arrives h (by simp)).trans (congrArg _ (storePerforms h)), ?_⟩
    exact lineBecomes_of_homeHas (homeHas_homeWrite (sound_of_arrives h) (covered_of_arrives h) d k)
  · have hold : oldOf s x n < 2 ^ (8 * n) := lineNum_lt ..
    have hbytes := inLine_off x.pa (n := n) (by omega) (BitVec.ofNat 64 (amoNew op n (oldOf s x n) b.toNat))
    rw [placeAt_word _ _ (by omega)] at hbytes
    refine ⟨_, (placeAt off n (amoNew op n (oldOf s x n) b.toNat)).1,
      (placeAt off n (amoNew op n (oldOf s x n) b.toNat)).2,
      (performed_of_arrives h (by simp)).trans (congrArg _ (amoPerforms h)), ?_⟩
    rw [amoApply_eq_amoNew op _ hold, extendTo_eq_extended sign hold]
    obtain ⟨hlands, hline⟩ := lands_of_homeHas (homeHas_write_of_arrives h _ _) reg (extended n sign (oldOf s x n)) acq
    exact ⟨hlands, hbytes, hline⟩
  · have hold : oldOf s x n < 2 ^ (8 * n) := lineNum_lt ..
    refine ⟨_, (placeAt off n b.toNat).1, (placeAt off n b.toNat).2,
      (performed_of_arrives h (by simp)).trans (congrArg _ (casPerforms h)), ?_⟩
    rw [extendTo_eq_extended sign hold]
    have hbytes := inLine_off x.pa (n := n) (by omega) b
    by_cases heq : oldOf s x n = a.toNat % 2 ^ (8 * n)
    · rw [if_pos heq]
      obtain ⟨hlands, hline⟩ := lands_of_homeHas (homeHas_write_of_arrives h _ _) reg (extended n sign (oldOf s x n)) acq
      exact ⟨hlands, hbytes, (if_pos heq).symm ▸ hline⟩
    · rw [if_neg heq]
      obtain ⟨hlands, hline⟩ := lands_of_homeHas (homeHas_ensure (sound_of_arrives h)) reg
        (extended n sign (oldOf s x n)) acq
      exact ⟨hlands, hbytes, (if_neg heq).symm ▸ hline⟩

/-! ## Reductions -/

/-- The atomic operation that a reduction of integers is (R166). -/
def amoOf (op : RedOp) (signed : Bool) : AmoOp :=
  match op, signed with
  | .add, _ => .add
  | .min, true => .min
  | .min, false => .minn
  | .max, true => .max
  | .max, false => .maxn

theorem redApply_eq_amoApply (op : RedOp) {et : Nat} (het : et = 2 ∨ et = 3 ∨ et = 6 ∨ et = 7) (old x : Nat) :
    redApply op et old x = amoApply (amoOf op (decide (et ≤ 3))) (etWidth et) old x := by
  rcases het with rfl | rfl | rfl | rfl <;> cases op <;>
    simp [redApply, amoApply, amoOf, etIsFloat, intOf, etSigned]

theorem mergeLine_merged (old d m : LineBits) : mergeLine old (mergeLine old d m) m = mergeLine old d m := by
  refine BitVec.eq_of_getLsbD_eq fun i hi => ?_
  simp only [mergeLine, BitVec.getLsbD_or, BitVec.getLsbD_and, BitVec.getLsbD_not, hi, decide_true, Bool.true_and]
  cases m.getLsbD i <;> simp

theorem reductionsApplyOnce : Claims.ReductionsApplyOnce := by
  intro s m x op et b h het n off la old new
  have hwidth : 8 * n = etWidth et := by rcases het with rfl | rfl | rfl | rfl <;> rfl
  have hn : n ≤ 8 := by rcases het with rfl | rfl | rfl | rfl <;> decide
  have hold : old < 2 ^ (8 * n) := lineNum_lt ..
  have hnew : redApply op et old (b.toNat % 2 ^ (8 * n)) = new := by
    rw [redApply_eq_amoApply op het, ← hwidth, amoApply_eq_amoNew _ _ hold]
    rfl
  have hbytes := inLine_off x.pa (n := n) (by omega) (BitVec.ofNat 64 new)
  rw [placeAt_word _ _ hn] at hbytes
  have happly : applyRed (lineData s la) { off := off, op := op, et := et, val := b } =
      (mergeLine (lineData s la) (placeAt off n new).1 (placeAt off n new).2, (placeAt off n new).2) := by
    rw [← hnew]
    rfl
  have hperform := redPerforms h
  rw [happly] at hperform
  obtain ⟨hmsg, hhome, htag, hcheck, ⟨kind, hkind, hbody⟩, -, -, -⟩ := id h
  refine ⟨_, (placeAt off n new).1, (placeAt off n new).2, (exec_reductionUpdate hmsg hhome htag hbody).trans
    (congrArg _ ((arrive_of_unheld hbody hkind hcheck).trans hperform)), hbytes, ?_⟩
  have hwrite := homeHas_write_of_arrives h (mergeLine (lineData s la) (placeAt off n new).1 (placeAt off n new).2)
    (placeAt off n new).2
  rw [mergeLine_merged] at hwrite
  exact (lineBecomes_of_homeHas hwrite).2

/-! ## Other holders -/

/-- A check of a line is sent to one holder for an access. -/
def sendCheck (x : Msg) (acc : State) (c : Nat) : State :=
  acc.send x.src (96 + acc.homeDie (lineOf x.pa)) (lineOf x.pa) 0 64 (.check c x.id) (acc.homeDie (lineOf x.pa)) (c / 16)
    (256 + c)

theorem arrive_of_held {s : State} {x : Msg} {op : MemOp} {kind : PageKind} {dest : Dest} {acq : Option (BitVec 3)}
    (hbody : x.body = .access op kind dest acq) (hkind : kind = .shared ∨ kind = .inplace) (hcheck : s.toCheck x ≠ []) :
    ∃ u, u = (s.toCheck x).foldl (sendCheck x) ((s.dropMsg x.id).dirSplit (lineOf x.pa) 12) ∧
      s.arrive x false = { u with net := { u.net with held := u.net.held ++ [{ msg := x, waiting := s.toCheck x }] } } := by
  obtain ⟨c, cs, hlist⟩ := List.exists_cons_of_ne_nil hcheck
  have hlist' : (s.dropMsg x.id).toCheck x = c :: cs := hlist
  refine ⟨_, rfl, ?_⟩
  rw [hlist]
  simp only [State.arrive, hbody, not_cached hkind, hlist', Bool.false_eq_true, if_false]
  rfl

theorem quiet_sendCheck (x : Msg) (s : State) (c : Nat) : Quiet s (sendCheck x s c) := quiet_send ..

theorem msgs_subset_sendChecks (x : Msg) (l : List Nat) (s : State) :
    ∀ y ∈ s.net.msgs, y ∈ (l.foldl (sendCheck x) s).net.msgs := by
  induction l generalizing s with
  | nil => exact fun y hy => hy
  | cons c l ih => exact fun y hy => ih _ y (List.mem_append_left _ hy)

/-- Each holder is sent its check. -/
theorem sendChecks_sends (x : Msg) {c : Nat} {l : List Nat} (hc : c ∈ l) (s : State) :
    ∃ y ∈ (l.foldl (sendCheck x) s).net.msgs, y.body = .check c x.id ∧ y.pa = lineOf x.pa ∧ y.dest = 256 + c := by
  induction l generalizing s with
  | nil => cases hc
  | cons a l ih =>
    rcases List.mem_cons.mp hc with rfl | hc
    · exact ⟨_, msgs_subset_sendChecks x l _ _ (List.mem_append_right _ (List.mem_singleton_self _)), rfl, rfl, rfl⟩
    · exact ih hc _

theorem otherHoldersAreChecked : Claims.OtherHoldersAreChecked := by
  intro s m x op kind dest acq hmsg hhome htag hbody hkind hop hcheck
  obtain ⟨u, hu, harrive⟩ := arrive_of_held hbody hkind hcheck
  have hq : Quiet (s.dropMsg x.id) u := by
    rw [hu]
    exact (quiet_dirSplit ..).trans (Quiet.fold _ (quiet_sendCheck x) _ _)
  have hheld : u.net.held = s.net.held := congrArg (fun n => n.held) hq.net
  have hlandings : u.net.landings = s.net.landings := congrArg (fun n => n.landings) hq.net
  refine ⟨_, (exec_homeSliceAccess hmsg hhome htag hbody hop).trans (congrArg _ harrive), ?_, hlandings, ?_, hq.core,
    hq.seqs⟩
  · rw [← hheld]
  · intro c hc
    rw [← id_of_msg hmsg, hu]
    exact sendChecks_sends x hc _

/-! ## Landings -/

theorem Bank.writeMark_of_ne_zero (b : Bank) {r : BitVec 5} (h : r ≠ 0) (p : Mark) :
    b.writeMark r p = { b.write r 0 with marks := b.marks.setIfInBounds r.toNat (some p) } := by
  rw [Bank.write_of_ne_zero b h]
  exact if_neg h

theorem Bank.writeMark_zero (b : Bank) (p : Mark) : b.writeMark 0 p = b := if_pos rfl

theorem Bank.isEmpty_writeMark (b : Bank) (r k : BitVec 5) (p : Mark) :
    (b.writeMark r p).isEmpty k = (b.isEmpty k && k != r) := by
  rw [← Bank.isEmpty_write b r k 0]
  by_cases h : r = 0
  · rw [h, Bank.writeMark_zero, Bank.write_zero]
  · rw [Bank.writeMark_of_ne_zero b h]
    rfl

theorem Bank.read_writeMark_ne (b : Bank) {r k : BitVec 5} (h : k ≠ r) (p : Mark) :
    (b.writeMark r p).read k = b.read k := by
  by_cases hr : r = 0
  · rw [hr, Bank.writeMark_zero]
  · rw [← Bank.read_write_ne b h 0, Bank.writeMark_of_ne_zero b hr]
    rfl

theorem Bank.mark_writeMark_same (b : Bank) {r : BitVec 5} (h : r ≠ 0) (p : Mark) : (b.writeMark r p).mark r = some p := by
  rw [Bank.mark_of_ne_zero _ h, Bank.writeMark_of_ne_zero b h]
  exact Vector.getElem_setIfInBounds_self _

theorem Bank.mark_writeMark_ne (b : Bank) {r k : BitVec 5} (h : k ≠ r) (p : Mark) :
    (b.writeMark r p).mark k = b.mark k := by
  by_cases hr : r = 0
  · rw [hr, Bank.writeMark_zero]
  · by_cases hk : k = 0
    · rw [hk, Bank.mark_zero, Bank.mark_zero]
    · have hne : r.toNat ≠ k.toNat := fun e => h (BitVec.eq_of_toNat_eq e.symm)
      rw [Bank.mark_of_ne_zero _ hk, Bank.mark_of_ne_zero _ hk, Bank.writeMark_of_ne_zero b hr]
      exact Vector.getElem_setIfInBounds_ne _ hne

/-- A bank into which a landing has put its value, or the mark of its error. -/
def bankAfter (b : Bank) (l : Landing) : Bank :=
  match l.poison with
  | none => b.write l.reg l.val
  | some p => b.writeMark l.reg p

theorem isEmpty_bankAfter (b : Bank) (l : Landing) (k : BitVec 5) :
    (bankAfter b l).isEmpty k = (b.isEmpty k && k != l.reg) := by
  unfold bankAfter
  split
  · exact Bank.isEmpty_write ..
  · exact Bank.isEmpty_writeMark ..

theorem mark_bankAfter_same (b : Bank) {l : Landing} (h : l.reg ≠ 0) : (bankAfter b l).mark l.reg = l.poison := by
  unfold bankAfter
  split
  next hp => rw [hp, Bank.mark_write, if_pos rfl]
  next p hp => rw [hp, Bank.mark_writeMark_same b h]

theorem read_bankAfter_same (b : Bank) {l : Landing} (h : l.reg ≠ 0) (hp : l.poison = none) :
    (bankAfter b l).read l.reg = l.val := by
  simp only [bankAfter, hp]
  exact Bank.read_write_same b h l.val

theorem bankAfter_other (b : Bank) (l : Landing) {k : BitVec 5} (h : k ≠ l.reg) :
    (bankAfter b l).read k = b.read k ∧ (bankAfter b l).mark k = b.mark k := by
  unfold bankAfter
  split
  · exact ⟨Bank.read_write_ne b h _, by rw [Bank.mark_write, if_neg h]⟩
  · exact ⟨Bank.read_writeMark_ne b h _, Bank.mark_writeMark_ne b h _⟩

/-- An acquire of any sequencer looks at the memory, and at the places of the workers. -/
theorem acquired_mem_of_workers {s t : State} (hm : t.mem = s.mem) (hw : ∀ r, (t.seqD r).w = (s.seqD r).w) (q : SeqId)
    (scope : Nat) : (acquired t q scope).mem = (acquired s q scope).mem := by
  have howner : (t.ownerSeq q).w = (s.ownerSeq q).w := by
    unfold State.ownerSeq
    split
    · exact hw _
    · exact hw _
  have hcache : t.cacheOf q = s.cacheOf q := by simp only [State.cacheOf, howner]
  have hdie : t.dieOf q = s.dieOf q := by simp only [State.dieOf, howner]
  have hpriv (c : CacheLine) : privateIn t q c = privateIn s q c := by rw [privateIn, privateIn, hcache]
  simp only [acquired, hm, hpriv, hdie]

/-- The state in which landing k has left. -/
def withoutLanding (s : State) (k : Nat) : State :=
  { s with net := { s.net with landings := s.net.landings.filter fun x => x.id != k } }

/-- The landing itself, before what it acquires. -/
def landed (s : State) (k : Nat) (l : Landing) : State :=
  (withoutLanding s k).modSeq l.src fun x => { x with bank := bankAfter x.bank l }

/-- The landing with its acquire. -/
def afterLanding (s : State) (k : Nat) (l : Landing) : State :=
  match l.acq with
  | none => landed s k l
  | some sc => acquired (landed s k l) l.src sc.toNat

theorem exec_landing {s : State} {k : Nat} {l : Landing} (h : s.net.landings.find? (fun x => x.id == k) = some l) :
    exec (.landing k) s = .next (afterLanding s k l) := by
  show execLanding k s = _
  unfold afterLanding
  cases hacq : l.acq with
  | none =>
    simp only [execLanding, h, hacq]
    rfl
  | some sc =>
    simp only [execLanding, h, hacq, State.acquire_eq]
    rfl

theorem afterLanding_net (s : State) (k : Nat) (l : Landing) :
    (afterLanding s k l).net = { s.net with landings := s.net.landings.filter fun x => x.id != k } := by
  have hlanded : (landed s k l).net = { s.net with landings := s.net.landings.filter fun x => x.id != k } :=
    State.modSeq_net ..
  unfold afterLanding
  split
  · exact hlanded
  · exact hlanded

theorem afterLanding_seqD (s : State) (k : Nat) (l : Landing) (q : SeqId) :
    (afterLanding s k l).seqD q = (landed s k l).seqD q := by
  unfold afterLanding
  split <;> rfl

section
variable {s : State} {l : Landing} {y : Seq} (hy : s.getSeq l.src = some y)
include hy

theorem landed_seqD (k : Nat) : (landed s k l).seqD l.src = { y with bank := bankAfter y.bank l } := by
  have hsome : (withoutLanding s k).getSeq l.src = some y := hy
  exact State.seqD_of_getSeq (getSeq_modSeq_of_some hsome fun x => { x with bank := bankAfter x.bank l })

theorem landed_workers (k : Nat) (r : SeqId) : ((landed s k l).seqD r).w = (s.seqD r).w := by
  by_cases hr : r = l.src
  · rw [hr, landed_seqD hy, State.seqD_of_getSeq hy]
  · rw [landed, State.seqD_modSeq_ne _ hr]
    rfl

end

theorem landingFillsTheRegister : Claims.LandingFillsTheRegister := by
  intro s k l y hl hy
  have hmem : (landed s k l).mem = s.mem := State.modSeq_mem ..
  have hseq : (afterLanding s k l).seqD l.src = { y with bank := bankAfter y.bank l } :=
    (afterLanding_seqD ..).trans (landed_seqD hy k)
  refine ⟨_, exec_landing hl, afterLanding_net .., ?_⟩
  rw [hseq]
  refine ⟨?_, fun hr => ⟨mark_bankAfter_same _ hr, read_bankAfter_same _ hr⟩, fun r hr => ?_, rfl, ?_⟩
  · rw [isEmpty_bankAfter, bne_self_eq_false, Bool.and_false]
  · obtain ⟨hread, hmark⟩ := bankAfter_other y.bank l hr
    exact ⟨hread, by rw [isEmpty_bankAfter, bne_iff_ne.mpr hr, Bool.and_true], hmark⟩
  · unfold afterLanding
    cases l.acq with
    | none => exact hmem
    | some sc => exact acquired_mem_of_workers hmem (landed_workers hy k) l.src sc.toNat

/-- Settles O18: with no other holder an access is one indivisible action on its line, whatever the slice cleans or
evicts for it. -/
theorem homeSlices : Obligations.HomeSlices :=
  ⟨homeSlicePerformsAccesses, otherHoldersAreChecked, reductionsApplyOnce, landingFillsTheRegister⟩

end Sys2Proof.Machine
end
